-- ==== Sys2Proof/Word.lean ====
section
/-! DEFINITION. Widths of the XT4840's words, and the plain records that commands and state are made of.
Bit layouts and arithmetic over them stand under Machine/. -/

namespace Sys2Proof

/-- A 64-bit register, bank word or token value. -/
abbrev W64 := BitVec 64
/-- One byte. -/
abbrev Byte := BitVec 8
/-- A 48-bit fabric address (R298). -/
abbrev Addr := BitVec 48
/-- A cell number, tile × 4 + slot (R25). -/
abbrev CellId := BitVec 8
/-- A tile number, Y × 8 + X (R25); also the number of the tile's bank. -/
abbrev TileId := BitVec 6
/-- A general register g0 to g15 (R172). -/
abbrev Reg := BitVec 4

/-- The five words of a token by field (Table 04-1, R118). -/
structure Token where
  value     : BitVec 64
  context   : BitVec 14
  iteration : BitVec 16
  port      : BitVec 2
  cell      : BitVec 8
  iaddr     : BitVec 14
  flags     : BitVec 10
  deadline  : BitVec 20
  flow      : BitVec 12
  deriving DecidableEq, Repr

/-- The tag of a token: what steers it (R118, Table 04-5). -/
structure Tag where
  context   : BitVec 14
  iteration : BitVec 16
  cell      : BitVec 8
  iaddr     : BitVec 14
  port      : BitVec 2
  deriving DecidableEq, Repr

/-- The prefixes of one instruction (Table 05-4). `cc` holds COND and REG of the condition byte (Table 05-6). -/
structure Pfx where
  w32  : Bool
  fs32 : Bool
  fd64 : Bool
  rep  : Bool
  sx   : Bool
  tr   : Bool
  cc   : Option (BitVec 3 × BitVec 4)
  deriving DecidableEq, Repr

/-- The instruction carries no prefix. -/
abbrev Pfx.none : Pfx := ⟨false, false, false, false, false, false, Option.none⟩

/-- Where the deadline guard calls (R104): the places that hold absolute deadlines. -/
inductive GuardPlace where
  | queue (c : CellId)
  | mstore (c : CellId)
  | spillPage (page : BitVec 13)
  | router (tile : TileId)
  | inbox
  | deferred (bank : TileId)
  | hostInbound
  | hostStaging
  | shuttleRx
  | shuttleTx
  | rowRx (portB : Bool)
  | rowTx (portB : Bool)
  deriving DecidableEq, Repr

/-- How a PCI Express completion ends a read (Table 11-13). -/
inductive CplStatus where
  /-- Successful Completion. -/
  | ok
  /-- Unsupported Request. -/
  | ur
  /-- Completer Abort. -/
  | ca
  /-- Completion with the poisoned attribute EP. -/
  | ep
  deriving DecidableEq, Repr

/-- What makes a shuttle frame bad (R458 to R463): a frame whose bytes failed on the line (CRC, code
violation, ABORT, length), or one whose bytes arrived whole. -/
inductive ShuttleBad where
  | line
  | whole (bytes : List (BitVec 8))
  deriving DecidableEq, Repr

/-- Which power-good fails (R553), or why. -/
inductive PgFail where
  | late
  | fellIo
  | fellCore
  deriving DecidableEq, Repr

/-- One row port (Table 01-3). -/
inductive RowId where
  | a
  | b
  deriving DecidableEq, Repr

end Sys2Proof
end

