-- ==== Sys2Proof/Syntax.lean ====
section
/-! DEFINITION. The commands of the XT4840: one constructor per row of spec/opcode_table.json, in the table's
order. A strand instruction names the cell whose engine issues it, its prefixes and its operands (R207); an event
names where it takes place and what the outside brings. -/

namespace Sys2Proof

inductive Instr where
  /-- R211. No-operation instruction; it issues in one cycle and has no effect. -/
  | nop (c : CellId) (p : Pfx)
  /-- R169. Ends the strand after outstanding FP operations complete, trapping if an enabled FS flag is set. -/
  | endStrand (c : CellId) (p : Pfx)
  /-- R287. Waits for outstanding FP operations and traps with CAUSE 1 if FS AND TRAPEN is non-zero. -/
  | fbar (c : CellId) (p : Pfx)
  /-- R187. Makes the highest-numbered active loop level inactive. -/
  | lbrk (c : CellId) (p : Pfx)
  /-- R213. Instruction that raises a tableau trigger directly to the collector. -/
  | tableauInstr (c : CellId) (p : Pfx)
  /-- R238. Advances ITER_BASE of the firing's context at its home node. -/
  | retire (c : CellId) (p : Pfx)
  /-- R212. Register-indirect branch to rs[13:0]. -/
  | jr (c : CellId) (p : Pfx) (rs : Reg)
  /-- R212. Branch to a 14-bit immediate address. -/
  | br (c : CellId) (p : Pfx) (target : BitVec 14)
  /-- R185. Activates a zero-overhead loop level with a count from rs and an immediate end address. -/
  | loop (c : CellId) (p : Pfx) (rs : Reg) (e : BitVec 14)
  /-- R185. Activates a zero-overhead loop level with an immediate count and end address. -/
  | loopi (c : CellId) (p : Pfx) (count : BitVec 16) (e : BitVec 14)
  /-- R214. Copies rs to rd. -/
  | mov (c : CellId) (p : Pfx) (rd rs : Reg)
  /-- R216. Adds rs to rd and sets CF to the carry out. -/
  | add (c : CellId) (p : Pfx) (rd rs : Reg)
  /-- R216. Subtracts rs from rd and sets CF to the borrow. -/
  | sub (c : CellId) (p : Pfx) (rd rs : Reg)
  /-- R216. Adds rs and CF to rd and sets CF to the carry out. -/
  | adc (c : CellId) (p : Pfx) (rd rs : Reg)
  /-- R216. Subtracts rs and CF from rd and sets CF to the borrow. -/
  | sbc (c : CellId) (p : Pfx) (rd rs : Reg)
  /-- R214. Bitwise AND of rd and rs. -/
  | andOp (c : CellId) (p : Pfx) (rd rs : Reg)
  /-- R214. Bitwise OR of rd and rs. -/
  | orOp (c : CellId) (p : Pfx) (rd rs : Reg)
  /-- R214. Bitwise XOR of rd and rs. -/
  | xor (c : CellId) (p : Pfx) (rd rs : Reg)
  /-- R214. Writes the complement of rs to rd. -/
  | notOp (c : CellId) (p : Pfx) (rd rs : Reg)
  /-- R214. Writes 0 minus rs to rd and leaves CF unchanged. -/
  | neg (c : CellId) (p : Pfx) (rd rs : Reg)
  /-- R215. Shifts rd left by an amount taken from rs. -/
  | shl (c : CellId) (p : Pfx) (rd rs : Reg)
  /-- R215. Shifts rd right logically by an amount taken from rs. -/
  | shr (c : CellId) (p : Pfx) (rd rs : Reg)
  /-- R215. Shifts rd right arithmetically by an amount taken from rs. -/
  | sar (c : CellId) (p : Pfx) (rd rs : Reg)
  /-- R215. Rotates rd right by an amount taken from rs. -/
  | ror (c : CellId) (p : Pfx) (rd rs : Reg)
  /-- R215. Counts the leading zero bits of rs. -/
  | clz (c : CellId) (p : Pfx) (rd rs : Reg)
  /-- R215. Counts the trailing zero bits of rs. -/
  | ctz (c : CellId) (p : Pfx) (rd rs : Reg)
  /-- R215. Counts the one bits of rs. -/
  | popc (c : CellId) (p : Pfx) (rd rs : Reg)
  /-- R215. Shifts rs left by an immediate amount into rd. -/
  | shli (c : CellId) (p : Pfx) (rd rs : Reg) (imm : BitVec 6)
  /-- R215. Shifts rs right logically by an immediate amount into rd. -/
  | shri (c : CellId) (p : Pfx) (rd rs : Reg) (imm : BitVec 6)
  /-- R215. Shifts rs right arithmetically by an immediate amount into rd. -/
  | sari (c : CellId) (p : Pfx) (rd rs : Reg) (imm : BitVec 6)
  /-- R215. Rotates rs right by an immediate amount into rd. -/
  | rori (c : CellId) (p : Pfx) (rd rs : Reg) (imm : BitVec 6)
  /-- R216. Adds the extended immediate to rs into rd and sets CF. -/
  | addi (c : CellId) (p : Pfx) (rd rs : Reg) (imm : BitVec 32)
  /-- R214. ANDs the extended immediate with rs into rd. -/
  | andi (c : CellId) (p : Pfx) (rd rs : Reg) (imm : BitVec 32)
  /-- R214. ORs the extended immediate with rs into rd. -/
  | ori (c : CellId) (p : Pfx) (rd rs : Reg) (imm : BitVec 32)
  /-- R214. XORs the extended immediate with rs into rd. -/
  | xori (c : CellId) (p : Pfx) (rd rs : Reg) (imm : BitVec 32)
  /-- R214. Loads an extended 32-bit immediate into rd. -/
  | movi32 (c : CellId) (p : Pfx) (rd : Reg) (imm : BitVec 32)
  /-- R214. Loads a 64-bit immediate into rd. -/
  | movi (c : CellId) (p : Pfx) (rd : Reg) (imm : BitVec 64)
  /-- R218. Forms the unsigned 128-bit product of rd and rs for PH:PL. -/
  | mul (c : CellId) (p : Pfx) (rd rs : Reg)
  /-- R218. Forms the signed 128-bit product of rd and rs for PH:PL. -/
  | muls (c : CellId) (p : Pfx) (rd rs : Reg)
  /-- R218. Forms the signed-by-unsigned 128-bit product of rd and rs for PH:PL. -/
  | mulsu (c : CellId) (p : Pfx) (rd rs : Reg)
  /-- R190. The pending product is written to PH:PL at the end of the cycle after the MUL-class instruction issues. -/
  | productWrite (c : CellId)
  /-- R219. Starts an unsigned 36-cycle divide that gives the quotient in PL and the remainder in PH. -/
  | divu (c : CellId) (p : Pfx) (rd rs : Reg)
  /-- R219. Starts a signed truncating 36-cycle divide that gives the quotient in PL and the remainder in PH. -/
  | divs (c : CellId) (p : Pfx) (rd rs : Reg)
  /-- R220. The divider writes PH and PL in its last cycle and releases the stalled strand. -/
  | divideComplete (c : CellId)
  /-- R221. Writes 1 to rd when rd equals rs, and 0 otherwise. -/
  | cmpeq (c : CellId) (p : Pfx) (rd rs : Reg)
  /-- R221. Signed less-than compare of rd and rs. -/
  | cmplt (c : CellId) (p : Pfx) (rd rs : Reg)
  /-- R221. Unsigned less-than compare of rd and rs. -/
  | cmpltu (c : CellId) (p : Pfx) (rd rs : Reg)
  /-- R221. Signed minimum of rd and rs. -/
  | min (c : CellId) (p : Pfx) (rd rs : Reg)
  /-- R221. Signed maximum of rd and rs. -/
  | max (c : CellId) (p : Pfx) (rd rs : Reg)
  /-- R221. Unsigned minimum of rd and rs. -/
  | minu (c : CellId) (p : Pfx) (rd rs : Reg)
  /-- R221. Unsigned maximum of rd and rs. -/
  | maxu (c : CellId) (p : Pfx) (rd rs : Reg)
  /-- R221. Writes rs to rd when rt bit 0 is 1. -/
  | sel (c : CellId) (p : Pfx) (rd rs : Reg) (rt : Reg)
  /-- R222. Extracts a bit field of rs into rd, zero-extended. -/
  | bfx (c : CellId) (p : Pfx) (rd rs : Reg) (lsb widthMinus1 : BitVec 6)
  /-- R222. Inserts the low bits of rs into a bit field of rd. -/
  | bfi (c : CellId) (p : Pfx) (rd rs : Reg) (lsb widthMinus1 : BitVec 6)
  /-- R222. Extracts a bit field of rs into rd, sign-extended. -/
  | bfxs (c : CellId) (p : Pfx) (rd rs : Reg) (lsb widthMinus1 : BitVec 6)
  /-- R223. Reads a special register into rd. -/
  | rdsr (c : CellId) (p : Pfx) (rd : Reg) (idx : BitVec 8)
  /-- R173. Writes rs to a special register; writes to TAG and FEAT registers are ignored. -/
  | wrsr (c : CellId) (p : Pfx) (idx : BitVec 8) (rs : Reg)
  /-- R223. Reads the 48-bit beat counter into rd. -/
  | beat (c : CellId) (p : Pfx) (rd : Reg)
  /-- R226. Issues a 64-bit read whose answer goes as a data token to the tag in rd. -/
  | ld (c : CellId) (p : Pfx) (rd rs : Reg)
  /-- R226. Issues a 32-bit read whose extended answer goes to tag rd. -/
  | ldw (c : CellId) (p : Pfx) (rd rs : Reg)
  /-- R226. Issues a 16-bit read whose extended answer goes to tag rd. -/
  | ldh (c : CellId) (p : Pfx) (rd rs : Reg)
  /-- R226. Issues an 8-bit read whose extended answer goes to tag rd. -/
  | ldb (c : CellId) (p : Pfx) (rd rs : Reg)
  /-- R224. Issues a 64-bit write of rs at the address in rd. -/
  | st (c : CellId) (p : Pfx) (rd rs : Reg)
  /-- R225. Issues a 32-bit write, done as a read-modify-write at the bank. -/
  | stw (c : CellId) (p : Pfx) (rd rs : Reg)
  /-- R225. Issues a 16-bit write, done as a read-modify-write at the bank. -/
  | sth (c : CellId) (p : Pfx) (rd rs : Reg)
  /-- R225. Issues an 8-bit write, done as a read-modify-write at the bank. -/
  | stb (c : CellId) (p : Pfx) (rd rs : Reg)
  /-- R302. Issues an I-structure read whose answer goes to tag rd. -/
  | iload (c : CellId) (p : Pfx) (rd rs : Reg)
  /-- R302. Issues an I-structure write of rs. -/
  | istore (c : CellId) (p : Pfx) (rd rs : Reg)
  /-- R302. Issues a request to set a bank word to EMPTY. -/
  | iclear (c : CellId) (p : Pfx) (rd : Reg)
  /-- R233. Issues 16 indexed I-reads, taking a tally when one is free. -/
  | gather (c : CellId) (p : Pfx) (rd rs : Reg)
  /-- R234. Issues 16 indexed source reads, each followed by an I-write, taking a tally when one is free. -/
  | scatter (c : CellId) (p : Pfx) (rd rs : Reg)
  /-- R231. Copies a 64-bit word; the source bank issues the destination write. -/
  | bmov (c : CellId) (p : Pfx) (rd rs : Reg)
  /-- R236. Requests the next word of a stream port for delivery to tag rd. -/
  | take (c : CellId) (p : Pfx) (rd : Reg) (port : BitVec 8)
  /-- R147. Sends a request on VN1 to place rs in a stream port. -/
  | put (c : CellId) (p : Pfx) (port : BitVec 8) (rs : Reg)
  /-- R175. Emits a data token to the tag in rd with the value in rs. -/
  | send (c : CellId) (p : Pfx) (rd rs : Reg)
  /-- R175. Emits a control token. -/
  | sendc (c : CellId) (p : Pfx) (rd rs : Reg)
  /-- R176. Emits a system token, for example a request to context 0. -/
  | sends (c : CellId) (p : Pfx) (rd rs : Reg)
  /-- R175. Emits a data token with POISON set. -/
  | sendp (c : CellId) (p : Pfx) (rd rs : Reg)
  /-- R239. Requests a flow lock, or answers at the cell itself for flow 0 or FLOWHOME 0b10. -/
  | facq (c : CellId) (p : Pfx) (rd rs : Reg)
  /-- R239. Requests the release of a flow lock. -/
  | frel (c : CellId) (p : Pfx) (rs : Reg)
  /-- R240. Floating-point addition. -/
  | fadd (c : CellId) (p : Pfx) (rd rs : Reg)
  /-- R240. Floating-point subtraction. -/
  | fsub (c : CellId) (p : Pfx) (rd rs : Reg)
  /-- R240. Floating-point multiplication. -/
  | fmul (c : CellId) (p : Pfx) (rd rs : Reg)
  /-- R240. Floating-point division. -/
  | fdiv (c : CellId) (p : Pfx) (rd rs : Reg)
  /-- R243. IEEE minimumNumber. -/
  | fmin (c : CellId) (p : Pfx) (rd rs : Reg)
  /-- R243. IEEE maximumNumber. -/
  | fmax (c : CellId) (p : Pfx) (rd rs : Reg)
  /-- R243. Quiet floating-point equality compare. -/
  | fcmpeq (c : CellId) (p : Pfx) (rd rs : Reg)
  /-- R243. Signalling floating-point less-than compare. -/
  | fcmplt (c : CellId) (p : Pfx) (rd rs : Reg)
  /-- R243. Signalling floating-point less-or-equal compare. -/
  | fcmple (c : CellId) (p : Pfx) (rd rs : Reg)
  /-- R243. Quiet floating-point unordered test. -/
  | fcmpun (c : CellId) (p : Pfx) (rd rs : Reg)
  /-- R276. Conversion between binary32 and binary64. -/
  | fcvtf (c : CellId) (p : Pfx) (rd rs : Reg)
  /-- R244. Float to signed integer, rounded by RMODE. -/
  | fcvti (c : CellId) (p : Pfx) (rd rs : Reg)
  /-- R244. Float to signed integer, rounded toward zero. -/
  | fcvtiz (c : CellId) (p : Pfx) (rd rs : Reg)
  /-- R244. Float to unsigned integer, rounded by RMODE. -/
  | fcvtu (c : CellId) (p : Pfx) (rd rs : Reg)
  /-- R278. Signed integer to float. -/
  | icvtf (c : CellId) (p : Pfx) (rd rs : Reg)
  /-- R278. Unsigned integer to float. -/
  | ucvtf (c : CellId) (p : Pfx) (rd rs : Reg)
  /-- R242. Inverts the sign bit of rs into rd. -/
  | fneg (c : CellId) (p : Pfx) (rd rs : Reg)
  /-- R242. Clears the sign bit of rs into rd. -/
  | fabs (c : CellId) (p : Pfx) (rd rs : Reg)
  /-- R277. Fused rs times rt plus rd, rounded once. -/
  | fma (c : CellId) (p : Pfx) (rd rs : Reg) (rt : Reg)
  /-- R277. Fused rs times rt minus rd, rounded once. -/
  | fms (c : CellId) (p : Pfx) (rd rs : Reg) (rt : Reg)
  /-- R277. Fused rd minus rs times rt, rounded once. -/
  | fnma (c : CellId) (p : Pfx) (rd rs : Reg) (rt : Reg)
  /-- R248. Integer table lookup with linear interpolation and clamping. -/
  | tli (c : CellId) (p : Pfx) (rd rs : Reg) (rt : Reg) (kcode : BitVec 4)
  /-- R249. binary32 table lookup with interpolation rounded once. -/
  | tlif (c : CellId) (p : Pfx) (rd rs : Reg) (rt : Reg) (kcode : BitVec 4)
  /-- R287. In imprecise mode, a floating-point operation completes, writes its result and sets its flags in FS. -/
  | fpComplete (c : CellId) (k : BitVec 5)
  /-- R280. Once the bank has accepted the last record word, the trap token is sent to the handler. -/
  | trapTokenSend (c : CellId)
  /-- R195. A parked strand is read back from its record and enters its cell's token queue; a double-bit error abandons it under R742. -/
  | strandRestore (c : CellId)
  /-- R342. The strand engine selects the eligible firing with the smallest deadline key, and its strand begins. -/
  | strandSelect (c : CellId)
  /-- R127. A token taken from the local port enters the matching store or token queue, or is held, spilled or refused. -/
  | tokenArrival (c : CellId) (net3 : Bool)
  /-- R321. The cell reads a slot at the head of its spill chain into a free token-queue entry. -/
  | spillReturn (c : CellId)
  /-- R741. The lock unit takes a spill-page request and answers it with a grant or a refusal. -/
  | pageRequest (q : BitVec 2)
  /-- R741. A page grant reaches the cell, which then takes the waiting token and writes it. -/
  | pageGrant (c : CellId)
  /-- R741. A freed page is returned to the quadrant's free list. -/
  | pageRelease (q : BitVec 2)
  /-- R302. A bank serves a plain read under the presence transitions. -/
  | bankRead (b : TileId)
  /-- R302. A bank serves a full or partial plain write, answering any deferred readers. -/
  | bankWrite (b : TileId)
  /-- R302. A bank serves an I-read: it answers, defers, or returns RETRY. -/
  | bankIread (b : TileId)
  /-- R302. A bank serves an I-write, with DOUBLE_ISTORE on a FULL word. -/
  | bankIwrite (b : TileId)
  /-- R302. A bank serves a clear request. -/
  | bankIclear (b : TileId)
  /-- R299. A bank serves a spill-slot or strand-record word write or read. -/
  | spillSlotAccess (b : TileId)
  /-- R304. A bank sends one answer per cycle for each entry of a filled word's chain. -/
  | deferredAnswer (b : TileId)
  /-- R305. A cell receives RETRY and re-issues its I-read, giving up after 4095 retries. -/
  | retryReceive (c : CellId)
  /-- R313. An element acknowledgement resolves a tallied element; after the 16th, the tally is freed and any fault is reported. -/
  | elementAck (c : CellId)
  /-- R309. In each 64-cycle window, the scrubber reads and corrects one bank word. -/
  | bankScrub (b : TileId)
  /-- R310. Tile 63's extra port serves a keep-memory read or write. -/
  | keepAccess
  /-- R312. The flash controller serves a flash-window or expansion-ROM read. -/
  | flashWindowRead
  /-- R148. A stream port serves a TAKE request and delivers a word, or UNDERRUN. -/
  | streamTakeRequest (port : BitVec 8)
  /-- R147. A stream port takes a PUT word when it has room. -/
  | streamPutRequest (port : BitVec 8)
  /-- R424. A host-bound token reaches the host face staging. -/
  | tokenToHostSink (net3 : Bool)
  /-- R472. A token for the shuttle partner reaches tile 7's extra port. -/
  | tokenToShuttleSink (net3 : Bool)
  /-- R478. A remote-homed or row-sink token reaches tile 56, or is converted to REMOTE_UNREACHABLE. -/
  | tokenToRowFace (net3 : Bool)
  /-- R131. A token sent to context 5 places its value in FIELD_OUT. -/
  | tokenToFieldSink (net3 : Bool)
  /-- R132. A token for a sink whose face the straps leave unpowered is accepted, discarded and counted. -/
  | sinkDiscard (t : TileId) (net3 : Bool)
  /-- R391. An output port chooses the waiting flit of greatest urgency and moves it on. -/
  | flitForward (t : TileId) (outPort : BitVec 3) (waited : BitVec 5)
  /-- R740. A link-level credit returns to the upstream router. -/
  | creditReturn (t : TileId) (port : BitVec 3) (vn : BitVec 2) (vc : BitVec 1)
  /-- R390. When a slot's 5-bit wait count wraps, the flit's AGE rises. -/
  | ageIncrement (t : TileId) (port : BitVec 3) (vn : BitVec 2) (vc : BitVec 1) (second : Bool)
  /-- R349. The lock unit takes a FACQ and grants at once, refuses, or begins the grant sequence. -/
  | lockAcquireRequest (q : BitVec 2)
  /-- R350. A LOCK notice reaches a tile, which writes its flow mirror. -/
  | lockNotice (t : TileId)
  /-- R350. A tile acknowledges a LOCK notice once no blocked strand is running. -/
  | lockNoticeAck (t : TileId) (q : BitVec 2)
  /-- R350. The lock unit counts a tile acknowledgement and sends the grant after the 64th. -/
  | lockAckReceive (q : BitVec 2)
  /-- R351. The lock unit takes a FREL and sends UNLOCK notices. -/
  | lockReleaseRequest (q : BitVec 2)
  /-- R351. An UNLOCK notice reaches a tile, which deletes the mirror entry. -/
  | unlockNotice (t : TileId)
  /-- R140. A new ITER_BASE reaches a tile, and its held tokens now in the window return. -/
  | iterBaseNotice (t : TileId)
  /-- R98. The beat counter advances, admission of the ended beat's events begins, and per-boundary work runs. -/
  | beatBoundary
  /-- R98. The admission sequencer admits one stamped outside event into its face's router port. -/
  | admitEvent
  /-- R104. The deadline guard marks LATE and rewrites any held deadline below −2^18. -/
  | deadlineGuardVisit (place : GuardPlace)
  /-- R106. An alarm slot falls due and is stamped for admission, or starts a wake. -/
  | alarmDue (slot : BitVec 3)
  /-- R107. A pending alarm is admitted when a word of the ALARM port frees. -/
  | alarmPendingAdmit
  /-- R611. A falling edge on TABLEAU_N arrives as an outside event. -/
  | tableauNAssert
  /-- R613. At a latching boundary the fabric freezes for 64 cycles and the snapshot latches. -/
  | tableauFreeze
  /-- R613. The freeze ends at cycle 64 and an automatic dump may begin. -/
  | tableauFreezeEnd
  /-- R615. The collector hands the last dump byte to the face, which releases the snapshot. -/
  | tableauDumpComplete
  /-- R156. Steward takes an 8-byte image chunk; the header is checked at chunk 0, the final checks at the last byte. -/
  | loadChunk
  /-- R159. A load whose face sends no chunk for 1 s is abandoned with SEQUENCE. -/
  | loadTimeout
  /-- R155. Starts the loaded graph and injects its INIT_TOKENS. -/
  | start
  /-- R144. Answers with the feature words, the beat, the image ID and the state word. -/
  | describe
  /-- R628. Answers with the counter group, sampled at the next boundary. -/
  | counters
  /-- R395. Checks and sets a probe's parameters for the next boundary. -/
  | probeSet
  /-- R399. Answers with the probe's trace records and empties its buffer. -/
  | probeDump
  /-- R619. System request that raises a tableau trigger. -/
  | tableauRequest
  /-- R617. Starts, queues or refuses a dump of the held snapshot to a sink. -/
  | tableauDump
  /-- R420. Reads the ring parameter block and attaches a host ring. -/
  | attachRing
  /-- R420. The ring-parameter read completes or fails, and the ring is attached or refused. -/
  | ringParamsReadDone (status : CplStatus) (data : List (BitVec 8))
  /-- R422. Completes the packet in progress, writes the answer, and detaches the ring. -/
  | detachRing
  /-- R430. Sets an inbound translation entry. -/
  | xlateIn
  /-- R435. Sets an outbound translation entry. -/
  | xlateOut
  /-- R527. Requests that the field outputs leave the safe state. -/
  | fieldRelease
  /-- R527. No OPERATE is reported within 16 frames, and FIELD_RELEASE is answered REFUSED. -/
  | fieldReleaseTimeout
  /-- R564. Answers with the energy word. -/
  | energyQuery
  /-- R565. Requests a descent to STANDBY, HIBERNATE or TENDING. -/
  | sleep
  /-- R105. Sets, replaces or cancels an alarm slot. -/
  | alarmSet
  /-- R284. Returns a parked strand to re-execute or skip its faulting instruction. -/
  | resume
  /-- R143. A request with a reserved or notice-only code is answered UNKNOWN_CODE. -/
  | reservedSystemCode
  /-- R414. A host posted write fills token-record slots in BAR0. -/
  | bar0Write (offset : BitVec 16) (data : List (BitVec 8)) (poisoned : Bool)
  /-- R416. A BAR0 read completes with zeros. -/
  | bar0Read (offset : BitVec 16) (len : Nat)
  /-- R431. A host read through an inbound entry, or an Unsupported Request. -/
  | bar23Read (offset : BitVec 26) (len : Nat)
  /-- R431. A host write through an inbound entry, discarded, or an Unsupported Request. -/
  | bar23Write (offset : BitVec 26) (data : List (BitVec 8)) (poisoned : Bool)
  /-- R49. A write to the expansion ROM window is accepted and discarded. -/
  | expansionRomWrite (offset : BitVec 24) (data : List (BitVec 8))
  /-- R409. A configuration write to a field with no behaviour of its own. -/
  | configWrite (offset : BitVec 12) (data : BitVec 32) (enables : BitVec 4)
  /-- R441. The host clears Bus Master Enable; the face stops requests and discards host-bound data. -/
  | busMasterDisable
  /-- R442. The host sets Bus Master Enable; any open packet is closed TRUNCATED and traffic resumes. -/
  | busMasterEnable
  /-- R438. The function enters D3hot, and HOST_OFF is sent. -/
  | d3hotEntry
  /-- R438. The function returns to D0, keeping its state. -/
  | d0Return
  /-- R444. Resets the host face only and sends HOST_RESET. -/
  | functionLevelReset
  /-- R445. The Function Level Reset completes, and CRS answers end. -/
  | flrComplete
  /-- R444. A Hot Reset resets the host face. -/
  | hotReset
  /-- R444. A link-down event resets the host face. -/
  | hostLinkDown
  /-- R445. PERST_N holds the host face in reset. -/
  | perstNAssert
  /-- R601. Release of PERST_N starts link training, or a wake in STANDBY or HIBERNATE. -/
  | perstNRelease
  /-- R412. Link training ends; configuration requests get CRS until the face is released. -/
  | hostLinkTrained (width : BitVec 4) (gen : BitVec 4)
  /-- R436. A fabric request to host memory becomes a PCIe request once a read tag is free. -/
  | hostRequestIssue
  /-- R437. A completion arrives and is answered or mapped to a failure. -/
  | hostCompletion (tag : BitVec 5) (status : CplStatus) (data : BitVec 64)
  /-- R437. A read without completion times out with HOST_TIMEOUT. -/
  | hostCompletionTimeout (tag : BitVec 5)
  /-- R424. A packet starts once the staging holds data and the ring has room. -/
  | ringPacketStart
  /-- R426. The face writes the terminator, the final length word and the MSI, and advances the produced count. -/
  | ringPacketComplete
  /-- R425. A read of the consumed word completes, and the ring room is re-evaluated. -/
  | consumedWordRead (status : CplStatus) (value : BitVec 64)
  /-- R440. The face requests L1 after 8.192 µs idle. -/
  | aspmL1Entry
  /-- R463. A TOKENS frame is accepted in sequence and its tokens are stamped. -/
  | shuttleTokensFrame (bytes : List (BitVec 8))
  /-- R463. A RAW frame is accepted and its words enter the receive buffer. -/
  | shuttleRawFrame (bytes : List (BitVec 8))
  /-- R465. A LINK frame updates ACK, NAK and CREDIT. -/
  | shuttleLinkFrame (bytes : List (BitVec 8))
  /-- R469. An INIT frame starts the link, or with FRESH resets the counts. -/
  | shuttleInitFrame (bytes : List (BitVec 8))
  /-- R463. A frame failing its CRC, format or sequence is discarded and answered with a NAK. -/
  | shuttleBadFrame (bad : ShuttleBad)
  /-- R464. Held frames are resent after 8192 bit times; after 16 resends the link is lost. -/
  | shuttleReplayTimeout
  /-- R465. A LINK frame is sent when an owed acknowledgement or credit has waited 1024 bit times. -/
  | shuttleLinkFrameDue
  /-- R468. Sixteen K28.5 characters align the receiver, and INIT sending starts. -/
  | shuttleAligned
  /-- R468. An aligned side sends INIT every 256 bit times. -/
  | shuttleInitTimer
  /-- R459. Too many code violations, or silence, lose alignment. -/
  | shuttleAlignmentLost
  /-- R472. At a frame boundary the device sends a LINK, TOKENS, RAW or DUMP frame within credit. -/
  | shuttleFrameSend
  /-- R466. A raw word moves from the receive buffer into SHUTTLE_RAW when it has room. -/
  | shuttleRawMove
  /-- R473. SH_WAKE_N low at two ticks starts a wake. -/
  | shWakeNAssert
  /-- R482. A TOKENS frame for this node passes its FCS; its deadlines are rescaled and its tokens stamped. -/
  | rowTokensFrame (port : RowId) (bytes : List (BitVec 8))
  /-- R491. An ANSWER frame for this node is placed whole in the raw stream. -/
  | rowAnswerFrame (port : RowId) (bytes : List (BitVec 8))
  /-- R497. Each token of an UNDELIVERABLE frame for this node becomes a REMOTE_UNREACHABLE fault token. -/
  | rowUndeliverableFrame (port : RowId) (bytes : List (BitVec 8))
  /-- R491. A SINK frame is placed whole in the raw stream. -/
  | rowSinkFrame (port : RowId) (bytes : List (BitVec 8))
  /-- R484. A LINK frame updates the hop's credits. -/
  | rowLinkFrame (port : RowId) (bytes : List (BitVec 8))
  /-- R494. A HELLO teaches the neighbour's node ID and makes the hop usable. -/
  | rowHelloFrame (port : RowId) (bytes : List (BitVec 8))
  /-- R491. A raw frame is placed in the raw stream, or discarded on overflow. -/
  | rowRawFrame (port : RowId) (bytes : List (BitVec 8))
  /-- R475. A frame with bad FCS, bad length or bad format is discarded and counted. -/
  | rowBadFrame (port : RowId) (bytes : List (BitVec 8))
  /-- R487. An addressed frame for another node is forwarded cut-through to the other port. -/
  | rowForwardFrame (port : RowId) (bytes : List (BitVec 8)) (good : Bool)
  /-- R490. At a frame boundary a port sends a HELLO, LINK, forwarded frame or own frame. -/
  | rowFrameSend (port : RowId)
  /-- R486. A LINK frame falls due on grant advance or on the 500 µs or 10 ms timers. -/
  | rowLinkFrameDue (port : RowId)
  /-- R494. A port sends a HELLO every 1 ms after PHY link-up. -/
  | rowHelloTimer (port : RowId)
  /-- R493. The PHY link is established. -/
  | rowPhyLinkUp (port : RowId)
  /-- R495. A row link goes down on PHY loss or 40 ms without a good frame. -/
  | rowLinkLoss (port : RowId)
  /-- R496. After the 1 s grace, waiting frames are treated under Table 12-8. -/
  | rowGraceExpired (port : RowId)
  /-- R498. Line energy at 4 consecutive ticks starts a wake. -/
  | rowEnergyWake (port : RowId)
  /-- R526. The logic side sends a downlink frame applying up to 4 FIELD_OUT words. -/
  | downlinkFrame
  /-- R528. OUTPUT word updates the commanded pattern C. -/
  | fieldOutputWord
  /-- R530. REPORT word sets the report period and mask. -/
  | fieldReportWord
  /-- R533. NOTIFY word sets the notice tag and mask. -/
  | fieldNotifyWord
  /-- R528. SAFE word sets SAFE_REQ in the applying frame. -/
  | fieldSafeWord
  /-- R531. QUERY word asks for STATUS and STRAP words. -/
  | fieldQueryWord
  /-- R528. NOP word, or a reserved TYPE that is treated as NOP and counted. -/
  | fieldNopWord
  /-- R524. The field die judges a downlink frame, updates GOOD and the silence timer, and may change state. -/
  | fieldDownlinkReceive (good : Bool)
  /-- R511. The field die sends the uplink frame describing a window. -/
  | uplinkFrameSend (levels : BitVec 24) (readback : BitVec 16) (lplusLow thermal : Bool)
  /-- R517. The logic side takes an uplink frame, updates counts and places reports, safety events and notices. -/
  | uplinkFrameReceive (good : Bool)
  /-- R514. 1 ms without a good uplink frame takes the link state down, and a safety event is placed. -/
  | selvedgeLinkDown
  /-- R525. The silence timer expires in OPERATE, and the outputs take the safe pattern. -/
  | silenceTimeout
  /-- R524. A field-die self-check failure enters SAFE with CAUSE internal. -/
  | fieldSelfCheckFail
  /-- R60. L+ rises above the undervoltage threshold, and field strap sampling starts. -/
  | lplusRise
  /-- R60. Field strap sampling completes, and the die enters SAFE. -/
  | fieldStrapSamplingDone (readings : List (List Nat))
  /-- R722. L+ recognised below the falling threshold unpowers the field die. -/
  | lplusFall
  /-- R516. A qualifying rising edge is counted and its first position in the window recorded. -/
  | inputEdge (ch : BitVec 5) (position : BitVec 10)
  /-- R518. Wire break is reported after 16 ms of low current. -/
  | wirebreakSet (ch : BitVec 5)
  /-- R518. Wire break is cleared after 16 ms of normal current. -/
  | wirebreakClear (ch : BitVec 5)
  /-- R520. An output in current limit for about 2 ms latches off. -/
  | outputCurrentLatch (k : BitVec 4)
  /-- R519. An output whose channel temperature reaches its limit latches off. -/
  | outputThermalLatch (k : BitVec 4)
  /-- R548. VBAT rises above the power-on threshold; PD0 powers up and a cold start begins. -/
  | vbatPowerOn
  /-- R548. VBAT falls below the threshold; the device enters OFF. -/
  | vbatPowerOff
  /-- R552. At the first accepted tick, EN_IO rises. -/
  | firstTickEnIo
  /-- R551. PG_IO rises, and EN_CORE is raised at the next tick. -/
  | pgIoRise
  /-- R551. PG_CORE rises; the next power step proceeds. -/
  | pgCoreRise
  /-- R85. 128 good ticks qualify the source; beat 0 or a warm restart follows. -/
  | sourceQualified
  /-- R57. The last logic strap is latched, and the synthesizer starts. -/
  | strapSamplingDone (readings : List (List Nat))
  /-- R588. MCLK locks, CLKOK rises, and PD7, PD9 and the ESENSE conversions start. -/
  | clkokRise
  /-- R95. While MCLK is stopped, each tick advances the beat counter and its sub-beat phase. -/
  | pd0Tick
  /-- R87. No XIN edge for 4 tick periods stops MCLK and the faces. -/
  | clockLost
  /-- R553. A late or falling power-good removes all domains but PD0 and PD10. -/
  | supplyFault (why : PgFail)
  /-- R553. One second after a supply fault, the device begins again. -/
  | supplyFaultRestart
  /-- R551. The 2 ms wait after EN_PHY ends, and PD6 or PD8 powers up. -/
  | phyRailWaitDone
  /-- R588. A quadrant domain powers up at its staggered boundary and clears its banks. -/
  | quadrantPowerUp
  /-- R301. A quadrant finishes clearing its banks and may join the running set. -/
  | bankClearDone (q : BitVec 2)
  /-- R588. PD2 finishes clearing; the host face is released and the boot step begins. -/
  | fabricUp
  /-- R594. A flash read command of the boot image completes, and the next one begins. -/
  | flashReadDone
  /-- R595. CRC, signature and seal checks finish, and the load status is known. -/
  | imageVerifyDone
  /-- R598. STEADY rises, a flash image starts, and credits are granted. -/
  | steadyRise
  /-- R556. An ESENSE conversion every 32 ticks updates the reading and level. -/
  | esenseConversion (millivolts : Nat)
  /-- R561. A new energy level takes effect, and ENERGY_LOW is sent. -/
  | levelChange
  /-- R559. One step of a limit change: a rate step, VID change, or quadrant start or stop. -/
  | limitStep
  /-- R563. The exhaustion grace ends, and the device descends. -/
  | exhaustionGraceEnd
  /-- R566. At D0, STEADY falls, credits hold, cells stop and the rate falls. -/
  | descentBegin
  /-- R566. After the fourth SAFE_REQ frame, PD9 powers down. -/
  | descentPd9PowerDown
  /-- R566. At the next tick, the quadrants and other domains power down and MCLK stops. -/
  | descentDomainsOff
  /-- R566. EN_CORE falls at the next tick. -/
  | descentEnCoreOff
  /-- R566. EN_IO falls, and the target state is entered. -/
  | descentEnIoOff
  /-- R568. WAKE_N low at two ticks qualifies a wake. -/
  | wakeNAssert
  /-- R571. A token for this node at a face in TENDING starts a wake. -/
  | faceTokenWake
  /-- R568. The 16-conversion wake test passes or refuses the wake. -/
  | wakeTestDone
  /-- R568. A refused wake source is tested again 1 s later. -/
  | wakeRetest
  /-- R592. RESET_N removes every domain but PD0 and PD10 and clears the alarms. -/
  | resetNAssert
  /-- R591. RESET_N release begins a warm restart. -/
  | resetNRelease
  /-- R640. TAMPER_N zeroes session values and keep memory and holds the device in reset. -/
  | tamperNAssert
  /-- R640. TAMPER_N found high begins a warm restart. -/
  | tamperNRelease
  /-- R641. A VCORE or MCLK glitch zeroes session values and warm-restarts the device. -/
  | glitchDetect
  /-- R633. JTAG EXTEST drives and observes the boundary-scan balls. -/
  | extest (cells : BitVec 8)
  /-- R630. JTAG SAMPLE/PRELOAD on the boundary-scan register. -/
  | samplePreload (cells : BitVec 8)
  /-- R631. JTAG IDCODE selects the 32-bit identity register. -/
  | idcode
  /-- R630. JTAG BYPASS, also taken for reserved codes. -/
  | bypass (code : BitVec 4)
  /-- R199. A DATA flit with read data reaches the requester that waits for it: a TLI or TLIF table entry at its cell, which then completes the lookup, or a host-window read at tile 0, whose completion then goes to the host. -/
  | dataReturn (t : TileId) (extra : Bool)
  /-- R493. A powered row port whose PHY detects a neighbour training on the line begins training itself. -/
  | neighbourTrainingDetected (port : RowId)
  deriving DecidableEq, Repr

end Sys2Proof
end

