-- ==== Sys2Proof/Config.lean ====
section
/-! DEFINITION. What an implementation fixes and the spec leaves open: constants without a body, so that no proof can
see a value the spec does not state. -/

namespace Sys2Proof.Config

/-- The free values: what the spec leaves open on some path, applied to `State.freeCounter` (log 4). -/
opaque freeValue : Nat → BitVec 64

/-- PCI Express Vendor ID and Device ID of the part (R2: given on the data sheet of the part, not in the spec). -/
opaque vendorId : BitVec 16
/-- See `vendorId`. -/
opaque deviceId : BitVec 16
/-- Silicon revision as marked on the package (Table 05-7). -/
opaque revMajor : BitVec 4
/-- Silicon revision as marked on the package (Table 05-7). -/
opaque revMinor : BitVec 4
/-- The manufacturer identity of the IDCODE register (R631; the spec gives no number). -/
opaque manufacturer : BitVec 11
/-- The hash that indexes a matching store's 256 sets (R127: "a hash of CONTEXT, ITERATION and IADDR"). -/
opaque mstoreHash : BitVec 14 → BitVec 16 → BitVec 14 → BitVec 8
/-- Which byte a fitted flash returns beyond its size (R312: whatever the fitted flash gives). -/
opaque flashBeyond : Nat → BitVec 8

end Sys2Proof.Config
end

