-- ==== Sys2Proof/Machine/State.lean ====
section
/-! DEFINITION. The state of the XT4840 as plain data, the reasons a step can stop, and the state after reset: the
device in OFF, before VBAT rises (R548). Collections with a key are lists of (key, value) pairs in one canonical form:
keys strictly rising, no pair that holds the default value (see `mget` and `mset` in Machine/Ops.lean). -/

namespace Sys2Proof.Machine

/-! ## Why a step stops -/

/-- Commands that cannot take place in the state they meet. -/
inductive Refusal where
  /-- An arm of `exec` that has no meaning yet. -/
  | notModelled (mnemonic : String)
  /-- The bytes at the program address spell another instruction than the one named (R181, Table 06-16). Raised by the
  strand instructions. Safe: the strand executes the instruction its store holds. -/
  | otherInstruction
  /-- The engine named runs no strand, or its strand stands inside another instruction, or its quadrant's cells are not
  clocked, or the fabric is frozen. Raised by the strand instructions and the strand's events. Safe: the event cannot
  take place in that state. -/
  | engineNotReady
  /-- No flit, token, word or request of the kind named waits there. Raised by the events that serve one. Safe: there
  is nothing to serve. -/
  | nothingWaiting
  /-- The event belongs to another phase of a sequence (power, start, link, load, dump). Raised by sequence events.
  Safe: the event cannot take place in that state. -/
  | wrongPhase
  deriving DecidableEq, Repr, Inhabited

/-! ## Strand engines and cells (chapters 4, 5, 8, 9) -/

/-- What the SECDED code of a stored word would show when it is read (R307, R339, R340). A single-bit error names the
faulty one of the word's stored bits: of a bank word, 0 to 63 the data bits, 64 and 65 the presence bits, then the check
bits. -/
inductive Ecc where
  | ok
  | single (bit : BitVec 7)
  | double
  deriving DecidableEq, Repr, Inhabited

/-- A strand's registers (Table 05-2), its program address and the pending product (R190). `pc` has 15 bits so that
the address after the last byte of the instruction store can be told from 0 (R184). -/
structure Regs where
  g    : Vector W64 16
  pl   : W64
  ph   : W64
  cf   : Bool
  fs   : BitVec 5
  dl   : BitVec 20
  fl   : BitVec 12
  ls   : Vector (BitVec 14) 4
  le   : Vector (BitVec 14) 4
  lc   : Vector (BitVec 32) 4
  bs   : Addr
  bd   : Addr
  bc   : BitVec 32
  tag0 : W64
  tag1 : W64
  tag2 : W64
  tag3 : W64
  pc   : BitVec 15
  pend : Option (BitVec 128)
  deriving DecidableEq, Repr, Inhabited

/-- All registers zero (Table 05-1). -/
def Regs.zero : Regs :=
  ⟨Vector.replicate 16 0, 0, 0, false, 0, 0, 0, Vector.replicate 4 0, Vector.replicate 4 0, Vector.replicate 4 0,
   0, 0, 0, 0, 0, 0, 0, 0, none⟩

/-- A floating-point operation in flight in imprecise mode (R287): where its result goes, the result and the flags. -/
structure FpOp where
  rd    : Reg
  value : W64
  flags : BitVec 5
  deriving DecidableEq, Repr, Inhabited

/-- A TLI or TLIF that waits for table entries from fabric memory (R199, R247). An entry is `none` until it
arrives, then `some none` when it could not be served, `some (some v)` otherwise. -/
structure Lookup where
  float   : Bool
  rd      : Reg
  frac    : BitVec 16
  needTwo : Bool
  precise : Bool
  first   : Option (Option (BitVec 32))
  second  : Option (Option (BitVec 32))
  after   : BitVec 15
  deriving DecidableEq, Repr, Inhabited

/-- Where a strand engine stands. -/
inductive Phase where
  /-- It holds no strand. -/
  | idle
  /-- A strand runs or stalls. -/
  | running
  /-- A divide is in progress (R192): its quotient, its remainder, the address after it. -/
  | dividing (q r : W64) (after : BitVec 15)
  /-- A table lookup waits for its entries. -/
  | lookup (l : Lookup)
  /-- A precise trap stopped the strand, which waits for a record page (R193, R194): CAUSE, RAISED, TRAPPED, and
  whether a page request is on its way. -/
  | stopped (cause : Bool) (raised trapped : BitVec 5) (asked : Bool)
  /-- The record is being written to the page (R193): record words the bank has not accepted yet, trap identifier. -/
  | recording (page : BitVec 13) (left : Nat) (trapId : W64)
  deriving DecidableEq, Repr, Inhabited

/-- What the strand is in the middle of: nothing, a REP instruction between two iterations (R189), or a GATHER or
SCATTER with elements still to issue and the tally it took, if any (R313). -/
inductive Mid where
  | free
  | rep
  | elements (issued : Nat) (tally : Option (BitVec 4))
  deriving DecidableEq, Repr, Inhabited

/-- A strand engine (R167). `mode` is the mode word of the firing's context as it stood when the firing began (R136);
`stall` is the stall cause of Table 16-4, 0 when the strand does not stall; `offered` says that the flit of the
instruction at the program address waits at the local port (R177, R392). -/
structure Engine where
  phase    : Phase
  mode     : W64
  offered  : Bool
  regs     : Regs
  deadline : BitVec 20
  flow     : BitVec 12
  fpOut    : List FpOp
  mid      : Mid
  stall    : BitVec 4
  deriving DecidableEq, Repr, Inhabited

/-- An engine that holds no strand. -/
def Engine.idle : Engine := ⟨.idle, 0, false, Regs.zero, 0, 0, [], .free, 0⟩

/-- One operand of a firing: its value and the record a strand reads as TAG1 to TAG3 (Table 05-3). -/
structure Operand where
  value    : W64
  deadline : BitVec 20
  flow     : BitVec 12
  flags    : BitVec 10
  ecc      : Ecc
  deriving DecidableEq, Repr, Inhabited

/-- A restored strand that waits in a token queue (R195): its registers, whether it goes on after its faulting instruction,
and the mode word it took when it was restored (R285). -/
structure Restored where
  regs : Regs
  skip : Bool
  mode : W64
  deriving DecidableEq, Repr, Inhabited

/-- A firing in a token queue (R338). `strand` is `none` for a fresh firing. -/
structure Firing where
  op0      : Option Operand
  op1      : Option Operand
  op2      : Option Operand
  tag      : W64
  deadline : BitVec 20
  flow     : BitVec 12
  seq      : Nat
  ecc      : Ecc
  strand   : Option Restored
  deriving DecidableEq, Repr, Inhabited

/-- An entry of a matching store (R127): the operands that have arrived for one tag. -/
structure MEntry where
  set       : BitVec 8
  context   : BitVec 14
  iteration : BitVec 16
  iaddr     : BitVec 14
  cell      : BitVec 8
  op0       : Option Operand
  op1       : Option Operand
  op2       : Option Operand
  ecc       : Ecc
  deriving DecidableEq, Repr, Inhabited

/-- A written slot of a spill page that has not returned, with the context and iteration of its token (R319, R140),
and whether its read is in flight (R321). -/
structure Slot where
  index     : BitVec 7
  context   : BitVec 14
  iteration : BitVec 16
  reading   : Bool
  deriving DecidableEq, Repr, Inhabited

/-- A page of a chain (R320): how many slots have been written, and which wait to be read. -/
structure ChainPage where
  page    : BitVec 13
  written : Nat
  live    : List Slot
  deriving DecidableEq, Repr, Inhabited

/-- Which page a cell asks for (R741). -/
inductive PageUse where
  | spill
  | hold
  | record
  deriving DecidableEq, Repr, Inhabited

/-- A tally of GATHER or SCATTER (R313): elements resolved, elements failed with the lowest one's code, ACCESS is
0x5 or 0x6, and the base tag. -/
structure Tally where
  scatter  : Bool
  resolved : BitVec 16
  failed   : BitVec 16
  codes    : List (Nat × BitVec 8)
  base     : W64
  tag0     : W64
  deriving DecidableEq, Repr, Inhabited

/-- A parked strand whose RESUME has been taken and which waits to be restored (R195, R284): whether its record has been
asked for, and the record words that have come back, by index, `none` for one that cannot be read (R742). -/
structure Resumed where
  trapId : W64
  skip   : Bool
  asked  : Bool
  words  : List (Nat × Option W64)
  deriving DecidableEq, Repr, Inhabited

/-! ## Flits and what they carry (chapter 10) -/

/-- Where an outside token came from; answers to system requests leave through it (R142). -/
inductive Origin where
  | strand
  | host
  | shuttle
  | row (portB : Bool) (node : BitVec 12)
  deriving DecidableEq, Repr, Inhabited

/-- The element of a GATHER or SCATTER that a request serves (R313, R314). -/
structure Elem where
  cell  : CellId
  tally : Option (BitVec 4)
  j     : BitVec 4
  base  : W64
  deriving DecidableEq, Repr, Inhabited

/-- A read answered by a data token (R226): target tag, DL and FL, log2 of the width, sign extension. -/
structure LoadReq where
  tag  : W64
  dl   : BitVec 20
  fl   : BitVec 12
  size : BitVec 2
  sx   : Bool
  deriving DecidableEq, Repr, Inhabited

/-- For whom a plain read is made (Table 10-3). `tag0` of the request names the issuing firing. -/
inductive ReadFor where
  | load (r : LoadReq)
  | bmov (dst : Addr)
  | scatter (dst : Addr) (e : Elem)
  | table (c : CellId) (second : Bool)
  | host
  deriving DecidableEq, Repr, Inhabited

/-- An I-read (ILOAD, GATHER element) with its retry count (R305). -/
structure IReq where
  addr  : Addr
  tag   : W64
  dl    : BitVec 20
  fl    : BitVec 12
  retry : BitVec 12
  cell  : CellId
  elem  : Option Elem
  tag0  : W64
  deriving DecidableEq, Repr, Inhabited

/-- Who made a write: a strand's store or a BMOV (with TAG0), or the host (R329). -/
inductive WriteFor where
  | store
  | bmov
  | host
  deriving DecidableEq, Repr, Inhabited

/-- The payload of a flit (Table 10-3). Only TOKEN's layout is fixed (R381). A page request names the tag of the token
that needs the page, when its refusal may be reported (R325), and the refusal to be reported brings it back. -/
inductive Msg where
  | token (t : Token)
  | read (a : Addr) (f : ReadFor) (tag0 : W64)
  | write (a : Addr) (mask : BitVec 8) (v : W64) (f : WriteFor) (tag0 : W64)
  | iread (r : IReq)
  | iwrite (a : Addr) (v : W64) (e : Option Elem) (tag0 : W64)
  | iclear (a : Addr) (tag0 : W64)
  | take (port : BitVec 8) (tag : W64) (dl : BitVec 20) (fl : BitVec 12)
  | put (port : BitVec 8) (v : W64)
  | acquire (q : BitVec 2) (context : BitVec 14) (flow : BitVec 12) (tag : W64) (dl : BitVec 20) (fl : BitVec 12)
  | release (q : BitVec 2) (context : BitVec 14) (flow : BitVec 12)
  | slotWrite (a : Addr) (t : Token) (cause : BitVec 8)
  | slotLink (a : Addr) (next : BitVec 13)
  | slotRead (c : CellId) (a : Addr)
  | recordWrite (c : CellId) (a : Addr) (v : W64)
  | recordRead (c : CellId) (a : Addr) (i : Nat)
  | pageRequest (c : CellId) (use : PageUse) (subject : Option W64)
  | pageRelease (page : BitVec 13)
  | slotReturn (c : CellId) (a : Addr) (t : Token) (bad : BitVec 2)
  | recordReturn (c : CellId) (i : Nat) (v : Option W64)
  | retry (r : IReq)
  | ackElement (e : Elem) (code : BitVec 8)
  | ackLock (q : BitVec 2)
  | ackPage (c : CellId) (use : PageUse) (page : Option (BitVec 13)) (report : Option W64)
  | tableData (c : CellId) (second : Bool) (v : Option (BitVec 32))
  | hostData (id : W64) (v : W64) (bad : Bool)
  | lock (q : BitVec 2) (slot : BitVec 6) (flow : BitVec 12) (owner : BitVec 14)
  | unlock (q : BitVec 2) (slot : BitVec 6)
  | retire (context : BitVec 14)
  | iterBase (context : BitVec 14) (base : BitVec 16)
  deriving DecidableEq, Repr, Inhabited

/-- A flit: the header of Table 10-2, the cycles it has waited in the present router beyond its 2 that AGE has counted
(R390, R397), the HOME_NODE that steered a token to tile 56 (R478), the beat of an outside token's admission (R101), and
its message. -/
structure Flit where
  vn     : BitVec 2
  vc     : BitVec 1
  pri    : BitVec 2
  age    : BitVec 6
  dest   : TileId
  extra  : Bool
  src    : TileId
  origin : Origin
  waits  : Nat
  home   : BitVec 12
  admitted : BitVec 48
  msg    : Msg
  deriving DecidableEq, Repr, Inhabited

/-- A flit that a block offers to a local or extra port (R392): the block's number among the port's requesters, and the
context whose PRIORITY gives the flit's PRI when it enters, where R389 says so. -/
structure Offer where
  req  : Nat
  prio : Option (BitVec 14)
  flit : Flit
  deriving DecidableEq, Repr, Inhabited

/-- One cell (R29): its stores, its queue, its chains of spill pages and its counts. -/
structure Cell where
  istore     : List Host.Cell
  istoreEcc  : List (Nat × Ecc)
  engine     : Engine
  queue      : List Firing
  nextSeq    : Nat
  mstore     : List MEntry
  spill      : List ChainPage
  hold       : List ChainPage
  /-- Slot reads in flight, each with a reserved queue entry (R321). -/
  inFlight   : Nat
  /-- Page requests on their way, each with the channel whose token asked (R741); 5 stands for the stopped strand. -/
  asks       : List (PageUse × Nat)
  /-- Pages granted for a chain and not written yet. -/
  granted    : List (PageUse × BitVec 13)
  /-- Slots of the hold chain that a new base has released (R140). -/
  due        : List (BitVec 13 × BitVec 7)
  /-- Iteration bases the cell has read or received since START (R140). -/
  bases      : List (Nat × Option (BitVec 16))
  gen        : BitVec 9
  tallies    : List (Nat × Option Tally)
  /-- Strands to be restored, in the order of their RESUMEs (R195). -/
  resumed    : List Resumed
  /-- VN2 flits taken into the room the cell reserved for them (R384). -/
  room       : List Msg
  /-- Why the token at the head of an output channel is refused: 1 under R355, 2 under R325. Channels are numbered
  2 × (0 for VN0, 1 for VN3) + VC; 4 is a returned token in its room. -/
  refusing   : List (Nat × BitVec 2)
  late       : BitVec 32
  corrected  : BitVec 16
  uncorrect  : BitVec 16
  refusals   : BitVec 32
  untallied  : BitVec 16
  respills   : BitVec 16
  deriving DecidableEq, Repr, Inhabited

/-- A cell as its domain's power-up leaves it. -/
def Cell.clear : Cell :=
  { istore := [], istoreEcc := [], engine := Engine.idle, queue := [], nextSeq := 0, mstore := [], spill := [],
    hold := [], inFlight := 0, asks := [], granted := [], due := [], bases := [], gen := 0, tallies := [],
    resumed := [], room := [], refusing := [], late := 0, corrected := 0, uncorrect := 0,
    refusals := 0, untallied := 0, respills := 0 }

/-! ## Memory (chapter 8) -/

/-- An entry of a bank's deferred list (R303, R304); `late` is the guard's mark (R104), `pri` the PRI of the request
(R389). -/
structure Deferred where
  req  : IReq
  pri  : BitVec 2
  late : Bool
  deriving DecidableEq, Repr, Inhabited

/-- A bank beside its words (R299 to R309): its deferred list in order of arrival, chains being answered (the value
written, R304), its counts, and where its scrubber stands. -/
structure Bank where
  deferred  : List Deferred
  answering : List (Deferred × W64)
  corrected : BitVec 16
  uncorrect : BitVec 16
  retries   : BitVec 32
  high      : BitVec 11
  scrub     : BitVec 16
  deriving DecidableEq, Repr, Inhabited

/-- A bank with nothing deferred and zero counts. -/
def Bank.clear : Bank := ⟨[], [], 0, 0, 0, 0, 0⟩

/-- Bank memory, keep memory and flash. `data` holds the bytes of bank and keep memory (R298); unlisted bytes read 0
(R301, R311). `pres` holds the presence state of bank words by word number; unlisted words are PLAIN (R301). `ecc`
marks words with an error by word number. -/
structure Mem where
  data       : List Host.Cell
  pres       : List (Nat × BitVec 2)
  ecc        : List (Nat × Ecc)
  banks      : List (Nat × Bank)
  keepScrub  : BitVec 13
  keepCorr   : BitVec 16
  keepUncorr : BitVec 16
  /-- Size of the fitted flash in bytes (R312, R717); 0: none fitted. -/
  flashSize  : Nat
  flash      : List Host.Cell
  deriving DecidableEq, Repr, Inhabited

/-! ## Lock units (chapters 8, 9) -/

/-- A held flow lock (R347). -/
structure Lock where
  flow  : BitVec 12
  owner : BitVec 14
  deriving DecidableEq, Repr, Inhabited

/-- What a lock unit has begun and not finished (R349 to R351). -/
inductive LockWork where
  | none
  | granting (slot : BitVec 6) (tag : W64) (dl : BitVec 20) (fl : BitVec 12) (pri : BitVec 2) (acks : Nat)
  | releasing (slot : BitVec 6)
  deriving DecidableEq, Repr, Inhabited

/-- One page of a page directory (R324): its owner, its chain and the order of its grant. -/
structure DirEntry where
  page  : BitVec 13
  owner : CellId
  use   : PageUse
  order : Nat
  deriving DecidableEq, Repr, Inhabited

/-- One quadrant's lock unit (R347, R741). -/
structure LockUnit where
  slots    : List (Nat × Option Lock)
  work     : LockWork
  free     : List (BitVec 13)
  dir      : List DirEntry
  grants   : Nat
  latch    : Bool
  episodes : BitVec 16
  high     : BitVec 16
  refused  : BitVec 16
  deriving DecidableEq, Repr, Inhabited

/-- A lock unit at power-up; it owns no page before an image sets the spill region (R318). -/
def LockUnit.clear : LockUnit := ⟨[], .none, [], [], 0, false, 0, 0, 0⟩

/-- Lock units by quadrant; per tile the flow mirror, keyed by 64 × quadrant + slot (R347), and the acknowledgements
that the tile owes (R350). -/
structure Locks where
  units  : List (Nat × LockUnit)
  mirror : List (Nat × List (Nat × Lock))
  owed   : List (Nat × List (BitVec 2 × Lock))
  deriving DecidableEq, Repr, Inhabited

/-! ## The weave (chapter 10) -/

/-- A probe's parameters (Table 10-5). -/
structure ProbeParams where
  sample : BitVec 8
  vnmask : BitVec 4
  side   : Bool
  port   : BitVec 3
  tile   : TileId
  clear  : Bool
  trace  : Bool
  enable : Bool
  hmask  : BitVec 32
  hval   : BitVec 32
  w2mask : BitVec 32
  w2val  : BitVec 32
  w3mask : BitVec 32
  w3val  : BitVec 32
  w4mask : BitVec 32
  w4val  : BitVec 32
  deriving DecidableEq, Repr, Inhabited

/-- A probe (R395 to R398): parameters, parameters that wait for a boundary, counters, trace buffer, whether records
were dropped since the last kept one, and matching flits since PROBE_SET. -/
structure Probe where
  params  : Option ProbeParams
  next    : Option ProbeParams
  matched : BitVec 48
  waited  : BitVec 48
  dropped : BitVec 16
  trace   : List W64
  drop    : Bool
  seen    : Nat
  deriving DecidableEq, Repr, Inhabited

/-- An idle probe (R404). -/
def Probe.idle : Probe := ⟨none, none, 0, 0, 0, [], false, 0⟩

/-- The weave. `chans` holds the input channels, keyed by ((tile × 6 + port) × 4 + VN) × 2 + VC, each at most 2 flits
(R379). `outs` holds the flits that have left the weave for an endpoint of a local or extra port, keyed by
(tile × 2 + extra) × 4 + VN, in the order of their arrival and at most one of each VC. `owed` counts the credits on their
way back, by input channel (R740). `offers` holds the flits that blocks offer to a port and it has not accepted (R392),
keyed by tile × 2 + extra, oldest first. -/
structure Weave where
  chans  : List (Nat × List Flit)
  outs   : List (Nat × List Flit)
  owed   : List (Nat × Nat)
  offers : List (Nat × List Offer)
  probes : List (Nat × Probe)
  deriving DecidableEq, Repr, Inhabited

/-! ## Straps (chapter 2) -/

/-- The logic strap latches (R59, R75): the code read on each pin, the out-of-window mask in FEAT3's bit order
(bit 0 CFG_BEAT to bit 12 CFG_FLASH), and RSV_CODE. `latched` is false before the first sampling completes. -/
structure Straps where
  latched : Bool
  sec     : BitVec 3
  rate    : BitVec 3
  energy  : BitVec 3
  beat    : BitVec 3
  flash   : BitVec 3
  boot    : BitVec 3
  host    : BitVec 3
  shut    : BitVec 3
  row     : BitVec 3
  node0   : BitVec 3
  node1   : BitVec 3
  node2   : BitVec 3
  node3   : BitVec 3
  oow     : BitVec 13
  rsv     : Bool
  deriving DecidableEq, Repr, Inhabited

/-! ## Power (chapters 14, 15) -/

/-- Where a descent ends (R565). -/
inductive SleepTo where
  | standby
  | hibernate
  | tending
  deriving DecidableEq, Repr, Inhabited

/-- Where the PD0 sequencer stands (Tables 14-6, 14-10, 14-12, 15-1). -/
inductive PowerPhase where
  /-- VBAT is below its threshold (R548). -/
  | off
  /-- Cold start until strap sampling begins (Table 15-1); `faulted` while R553 holds it for 1 s. -/
  | cold (faulted : Bool)
  /-- Logic straps are being sampled (R57); a reset asserted meanwhile waits (R83). -/
  | sampling
  /-- A wake or warm restart raises the rails (Table 14-12, steps 3 and 4). -/
  | rails
  /-- The synthesizer locks (Table 14-12, step 5). -/
  | locking
  /-- MCLK runs with every domain powered or on its way: RUN or FULL, from CLKOK on. -/
  | run
  /-- TENDING. -/
  | tending
  /-- STANDBY. -/
  | standby
  /-- HIBERNATE. -/
  | hibernate
  /-- The wake test of R568 runs, with the state it began in and the cause to be recorded. -/
  | wakeTest (hib : Bool) (cause : BitVec 4)
  /-- A descent has begun at D0 and PD9 is still powered (Table 14-10). -/
  | descent (dest : SleepTo)
  /-- PD9 is down; the other domains go down at the next tick. -/
  | descentOff (dest : SleepTo)
  /-- EN_CORE falls at the next tick. -/
  | descentCore (dest : SleepTo)
  /-- EN_IO falls at the next tick. -/
  | descentIo (dest : SleepTo)
  /-- RESET_N or TAMPER_N holds the device (R592, R640). -/
  | held
  /-- A supply fault, for 1 s (R553). -/
  | faulted
  /-- The clock is lost (R87). -/
  | clockLost
  deriving DecidableEq, Repr, Inhabited

/-- PD0's power state. Rates are coded as in Table 14-8: 0 full, 1 half, 2 quarter. `pd` bit i: PDi is powered.
Wake causes index `wakeLatch` and `refused` (Table 14-11). -/
structure Power where
  phase        : PowerPhase
  pd           : BitVec 12
  enIo         : Bool
  enCore       : Bool
  enPhy        : Bool
  pgIo         : Bool
  pgCore       : Bool
  clkok        : Bool
  steady       : Bool
  vid          : BitVec 5
  rate         : BitVec 2
  running      : BitVec 4
  clearing     : BitVec 4
  cleared      : BitVec 4
  limitQuads   : BitVec 3
  limitRate    : BitVec 2
  qualified    : Bool
  level        : BitVec 3
  newLevel     : Option (BitVec 3)
  reading      : BitVec 12
  conversions  : List Nat
  grace        : Bool
  graceSleep   : Option SleepTo
  exhaustMark  : Bool
  supplyFaults : BitVec 8
  wakeRefusals : BitVec 32
  clockLosses  : BitVec 32
  wakeCause    : BitVec 4
  wakeFrom     : BitVec 2
  keepHeld     : Bool
  keepLoad     : Bool
  sleepReq     : Option SleepTo
  safeSent     : Nat
  wakeLatch    : BitVec 16
  refused      : BitVec 16
  resetN       : Bool
  tamperN      : Bool
  perstN       : Bool
  fabricUp     : Bool
  /-- Fabric up has occurred since the last start; TENDING keeps it (R493, R571). -/
  started      : Bool
  /-- A wake began at the present tick: a further source of that tick may lower its cause (R568). -/
  wakeNew      : Bool
  tampers      : BitVec 32
  glitches     : BitVec 32
  deriving DecidableEq, Repr, Inhabited

/-! ## Timebase and admission (chapter 3) -/

/-- A pending alarm (R107): its due beat, its missed count and the tag its slot held. -/
structure PendingAlarm where
  due    : BitVec 48
  missed : BitVec 8
  tag    : W64
  deriving DecidableEq, Repr, Inhabited

/-- An alarm slot (R105); `armed` is the beat from which its target is watched (R106). -/
structure Alarm where
  set    : Bool
  armed  : BitVec 48
  target : BitVec 48
  period : BitVec 48
  tag    : W64
  pend   : Option PendingAlarm
  deriving DecidableEq, Repr, Inhabited

/-- A slot that is not set and holds no pending alarm. -/
def Alarm.clear : Alarm := ⟨false, 0, 0, 0, 0, none⟩

/-- What an outside event brings (Table 03-6). -/
inductive OutKind where
  /-- A steward notice: system code and value (R145). -/
  | notice (code : BitVec 12) (value : W64)
  /-- A word for FIELD_IN (R530, R531). -/
  | fieldWord (v : W64)
  /-- A field notice (R533): notice tag, serial, value. -/
  | fieldNotice (context : BitVec 14) (cell : BitVec 8) (iaddr : BitVec 14) (serial : BitVec 16) (v : W64)
  /-- A TABLEAU_N trigger (R620); its notice's value once its latching boundary has passed. -/
  | tableau (v : Option W64)
  /-- A token from the shuttle partner (R471). -/
  | shuttle (t : Token)
  /-- A token record of the host (R415). -/
  | host (t : Token)
  /-- A token from a row neighbour: its DEADLINE field holds the offset, `beat` the sender's code (R482). -/
  | row (portB : Bool) (src : BitVec 12) (t : Token) (beat : BitVec 3)
  /-- An alarm (R106). -/
  | alarm (slot : BitVec 3)
  deriving DecidableEq, Repr, Inhabited

/-- A stamped outside event that waits for admission (R97). Arrival order is the order of the list that holds it;
`sub` orders events of one rank and stamp (row A before row B, alarm slot). `late` is the deadline guard's mark. -/
structure OutEvent where
  stamp : BitVec 48
  rank  : Nat
  sub   : Nat
  late  : Bool
  kind  : OutKind
  deriving DecidableEq, Repr, Inhabited

/-- The timebase, admission, alarms, stalemate counter and withholding (chapters 3, 9). `sub` is the sub-beat phase in
full-rate cycles while MCLK is stopped (R95), `preTicks` the ticks since beat 0 until the cold start ends (R587),
`steadyAt` the beat s of R598. `edge`: what the boundary that began the present beat still allows (R88, R90; log 95): bit 0
a limit step, 1 a quadrant's power-up, 2 D0 of a descent, 3 a new level, 4 the rise of STEADY. `alarmSpace`: words of the ALARM port free since that boundary and not taken (R107). `stale` is the stalemate counter, held at 0 while `staleHold` (R363). -/
structure Time where
  beat        : BitVec 48
  begun       : Bool
  sub         : BitVec 17
  preTicks    : Nat
  held        : List OutEvent
  steadyAt    : BitVec 48
  edge        : BitVec 5
  alarmSpace  : Nat
  overruns    : BitVec 32
  alarms      : List (Nat × Alarm)
  stale       : BitVec 16
  staleHold   : Bool
  progress    : Bool
  withholding : Bool
  withholds   : BitVec 32
  deriving DecidableEq, Repr, Inhabited

/-! ## Steward (chapters 4, 15) -/

/-- What the steward keeps of an image (Table 04-11): header fields after their defaults, and the initial tokens. -/
structure Image where
  id        : W64
  limit     : BitVec 15
  staleWin  : BitVec 16
  pages     : Nat
  hook      : W64
  handler   : W64
  tabSink   : BitVec 8
  init      : List Token
  deriving DecidableEq, Repr, Inhabited

/-- A request that awaits its answer: its serial number, its code, where the answer goes (R142), and its number in the
order in which the steward took the requests (R164). -/
structure Req where
  serial : BitVec 16
  code   : BitVec 12
  origin : Origin
  taken  : Nat
  deriving DecidableEq, Repr, Inhabited

/-- A load in progress (R156): the face that holds it (`none`: flash), the bytes received, and its latest request. -/
structure Load where
  face  : Option Origin
  bytes : List Byte
  req   : Option Req
  deriving DecidableEq, Repr, Inhabited

/-- The boot step from flash (R594, R595). -/
inductive Boot where
  | idle
  | reading
  | verifying
  | done
  deriving DecidableEq, Repr, Inhabited

/-- A record that is parked (R284): its trap identifier, and whether one of its words has been written and no word of it
has been loaded since. -/
structure Parked where
  trapId : W64
  dirty  : Bool
  deriving DecidableEq, Repr, Inhabited

/-- An answer that is known: its status and its data words (R143). -/
structure Answer where
  req    : Req
  status : BitVec 8
  data   : List W64
  deriving DecidableEq, Repr, Inhabited

/-- The steward in PD1. `taken` counts the requests taken; `ready` holds the answers that wait for an earlier one to the
same face, by the number of the request (R164). `inbox` holds the system tokens, each with the face it
came from and the beat of its admission (R105, R141). `parked` holds the records parked now (R284). `release` holds the
FIELD_RELEASE requests that wait, with the downlink frames sent since each (R527). -/
structure Steward where
  inbox        : List (Token × Origin × BitVec 48)
  taken        : Nat
  ready        : List (Nat × Answer)
  image        : Option Image
  loadStatus   : BitVec 8
  started      : Bool
  load         : Option Load
  boot         : Boot
  noticeSerial : BitVec 16
  nodeSerial   : BitVec 16
  stale        : Option W64
  sinkDiscards : BitVec 32
  attach       : Option Req
  release      : List (Req × Nat)
  counters     : List (Req × BitVec 8)
  tableau      : List Req
  dumps        : List (Req × BitVec 8)
  detach       : Option Req
  parked       : List Parked
  deriving DecidableEq, Repr, Inhabited

/-! ## Key block and tableau collector (chapter 16) -/

/-- A signer slot (R634): 0 empty, 1 valid, 2 revoked, with its hash. -/
structure SignerSlot where
  state : BitVec 2
  hash  : BitVec 256
  deriving DecidableEq, Repr, Inhabited

/-- The key block. -/
structure Keys where
  slot0    : SignerSlot
  slot1    : SignerSlot
  slot2    : SignerSlot
  device   : Option (BitVec 256)
  session  : BitVec 256
  verified : BitVec 32
  sigFails : BitVec 32
  revoked  : BitVec 32
  seals    : BitVec 32
  rolls    : BitVec 32
  deriving DecidableEq, Repr, Inhabited

/-- A dump in progress (R615): its sink, the bytes handed over, and the request to answer. -/
structure Dump where
  sink : BitVec 8
  pos  : Nat
  req  : Option Req
  deriving DecidableEq, Repr, Inhabited

/-- The tableau collector. `raised` holds the triggers that wait for the next beat boundary, `due` those to be latched
at the present one (Table 16-1). -/
structure Tab where
  raised       : List (BitVec 4)
  due          : List (BitVec 4)
  held         : Option (List Byte)
  dump         : Option Dump
  frozen       : Bool
  ignored      : BitVec 16
  ignoredTotal : BitVec 32
  latched      : BitVec 32
  serial       : BitVec 32
  dumps        : BitVec 32
  discarded    : BitVec 32
  deriving DecidableEq, Repr, Inhabited

/-! ## Stream ports (chapter 4) -/

/-- The stream ports (Table 04-10), oldest word first, and the word last taken of each port (R147). -/
structure Streams where
  fieldIn  : List W64
  fieldOut : List W64
  rowTakeA : List W64
  rowPutA  : List W64
  rowTakeB : List W64
  rowPutB  : List W64
  shTake   : List W64
  shPut    : List W64
  alarm    : List W64
  last     : List (Nat × W64)
  deriving DecidableEq, Repr, Inhabited

/-! ## Host face (chapter 11) -/

/-- What a read tag is held for (R436). -/
inductive TagUse where
  | read (a : Addr) (f : ReadFor) (tag0 : W64) (pri : BitVec 2)
  | iread (r : IReq) (pri : BitVec 2)
  | params
  | consumed
  deriving DecidableEq, Repr, Inhabited

/-- An attached host ring (R420 to R428). -/
structure Ring where
  base     : W64
  log2     : BitVec 5
  msiEn    : BitVec 4
  credit   : W64
  consumAt : W64
  produced : W64
  consumed : W64
  seq      : BitVec 32
  /-- The produced counts at which the packets not yet consumed end (R428). -/
  ends     : List W64
  /-- Room was wanting, and the consumed word is read again at each boundary (R425). -/
  asking   : Bool
  /-- The answer to ATTACH_RING has reached the face, or goes elsewhere: packets may start (R421). -/
  opened   : Bool
  /-- Staged tokens that go before anything else in this ring: those that waited for it (R450). -/
  firsts   : Nat
  deriving DecidableEq, Repr, Inhabited

/-- A packet begun and not completed (R424 to R427): a DUMP or TOKENS packet, its bytes from the length word on, how many
have been written when the face stopped (R441), whether it carries a fault or system token, whether it is the last
of its ring (R422), and whether Bus Master Enable has been cleared since it began, so that it gets no further byte
(R441, R442). -/
structure Packet where
  dump    : Bool
  bytes   : List Byte
  written : Nat
  urgent  : Bool
  last    : Bool
  cut     : Bool
  deriving DecidableEq, Repr, Inhabited

/-- A host read through BAR2/3 that waits for its words (R431, R432): its number, the bytes asked for from an address,
and the words read so far, by place, with their errors. -/
structure HostRead where
  number : Nat
  addr   : Addr
  len    : Nat
  words  : List (Nat × (W64 × Bool))
  deriving DecidableEq, Repr, Inhabited

/-- The host face in PD6. `bar0` holds the bytes written into BAR0's slots since each was last taken (R414). `cfg`
holds the configuration dwords that software has written (R409, R410), by dword number. -/
structure HostFace where
  linkUp    : Bool
  released  : Bool
  flr       : Bool
  width     : BitVec 4
  gen       : BitVec 4
  d3hot     : Bool
  bme       : Bool
  cfg       : List (Nat × BitVec 32)
  bar0      : List (Nat × Option Byte)
  nextSeq   : BitVec 32
  admitted  : BitVec 32
  limit     : BitVec 32
  lastWord  : W64
  bootUsed  : Bool
  ring      : Option Ring
  staging   : List Token
  packet    : Option Packet
  tags      : List (Nat × Option TagUse)
  abandoned : List (BitVec 5)
  reads     : List HostRead
  readNo    : Nat
  inb       : List (Nat × W64)
  outb      : List (Nat × W64)
  msiSent   : BitVec 4
  msiOwed   : BitVec 4
  msiHeld   : BitVec 32
  /-- The condition of the latest LTR message, by row of Table 11-14 from 1 on; 0: none sent (R439). -/
  ltr       : BitVec 3
  /-- An LTR message has been sent since the last beat boundary (R439). -/
  ltrSent   : Bool
  /-- Something has been pending at the face since the last beat boundary (Table 11-14). -/
  busy      : Bool
  misses    : BitVec 32
  discards  : BitVec 32
  partials  : BitVec 32
  strays    : BitVec 32
  timeouts  : BitVec 32
  errors    : BitVec 32
  tmisses   : BitVec 32
  msis      : BitVec 32
  deriving DecidableEq, Repr, Inhabited

/-! ## Shuttle and row ports (chapter 12) -/

/-- A sequenced shuttle frame held for replay (R464): FTYPE, COUNT and payload. -/
structure ShFrame where
  ftype   : Byte
  count   : Byte
  seq     : Byte
  payload : List Byte
  deriving DecidableEq, Repr, Inhabited

/-- The shuttle face in PD7. `again` counts the held frames still to be sent again, `resends` how often the oldest has been
(R464). `limit` is CREDIT as it stood when granting stopped (R466), `recv` the units received since the last FRESH
exchange (R467), `uncounted` how many of the held frames, the last ones, have not been sent since then. `tx` holds the
tokens of the TOKENS frame that is being filled. -/
structure Shuttle where
  aligned : Bool
  up      : Bool
  seen    : Bool
  fresh   : Bool
  exp     : BitVec 8
  next    : BitVec 8
  held    : List ShFrame
  again   : Nat
  naked   : Bool
  oweNak  : Bool
  owed    : Bool
  resends : Nat
  u       : BitVec 16
  recv    : BitVec 16
  sent    : BitVec 16
  uncounted : Nat
  partner : BitVec 16
  credit  : BitVec 16
  limit   : BitVec 16
  raw     : List W64
  tx      : List Token
  turn    : BitVec 2
  counts  : List (Nat × BitVec 32)
  deriving DecidableEq, Repr, Inhabited

/-- What waits to be sent by a row port of its own (R490): a token for a remote context, up to 64 tokens of an answer, with the number still to be collected,
an UNDELIVERABLE frame whole, a token of the port's sink context, dump bytes, or a raw frame whose words are all present
in the put side (R492). -/
inductive RowOwn where
  | token (dst : BitVec 12) (t : Token)
  | answer (dst : BitVec 12) (more : Nat) (ts : List Token)
  | undeliverable (frame : List Byte)
  | sink (t : Token)
  | dump (bytes : List Byte)
  | raw (bytes : List Byte)
  deriving DecidableEq, Repr, Inhabited

/-- One row port in PD8. `heard`: a HELLO has been received; `everUp`: the hop has been usable since power-up (R496).
`lr`, `fr`, `lnext`, `fnext` are the counts of R484 and R485; `n…credit` the neighbour's latest grants, `g…credit` those
the port last sent. `fwd` holds the forwarding buffer that this port sends from: whole frames from destination
address to before the FCS. `answers` holds ANSWER frames that wait for room in the raw stream, as the words to be placed
(R491). `want`: the neighbour's last frame carried WANT. -/
structure RowPort where
  training : Bool
  phyUp    : Bool
  heard    : Bool
  usable   : Bool
  neighbor : Option (BitVec 12)
  everUp   : Bool
  grace    : Bool
  graceOver : Bool
  lr       : BitVec 16
  fr       : BitVec 16
  lnext    : BitVec 16
  fnext    : BitVec 16
  nLcredit : BitVec 16
  nFcredit : BitVec 16
  gLcredit : BitVec 16
  gFcredit : BitVec 16
  helloDue : Bool
  linkDue  : Bool
  fwdTurn  : Bool
  fwd      : List (List Byte)
  own      : List RowOwn
  /-- The own frames whose credits are available, in the order in which they became ready (R490). -/
  ready    : List RowOwn
  answers  : List (List Byte)
  /-- ANSWER and UNDELIVERABLE frames for this node that have arrived before STEADY (R50), as the words of the raw
  stream. -/
  kept     : List (List Byte)
  /-- LCREDIT as it stood when local credits stopped (R484, R491). -/
  limit    : BitVec 16
  want     : Bool
  counts   : List (Nat × BitVec 32)
  deriving DecidableEq, Repr, Inhabited

/-! ## Selvedge (chapter 13) -/

/-- The fields of an uplink frame for one input (Table 13-1). -/
structure UpInput where
  count : BitVec 16
  first : Option (BitVec 10)
  level : Bool
  broke : Bool
  deriving DecidableEq, Repr, Inhabited

/-- A downlink frame (Table 13-1). -/
structure Downlink where
  frame   : BitVec 16
  cmd     : BitVec 16
  safeReq : Bool
  release : Bool
  deriving DecidableEq, Repr, Inhabited

/-- An uplink frame (Table 13-1). -/
structure Uplink where
  echo     : BitVec 16
  inputs   : List UpInput
  read     : BitVec 16
  latched  : BitVec 16
  state    : BitVec 2
  cause    : BitVec 2
  good     : BitVec 6
  on       : BitVec 16
  lplusLow : Bool
  thermal  : Bool
  dlbad    : BitVec 16
  safeWord : BitVec 18
  pairWord : BitVec 9
  types    : BitVec 3
  oow      : BitVec 10
  deriving DecidableEq, Repr, Inhabited

/-- An input as the field die's power-up leaves it. -/
def UpInput.clear : UpInput := ⟨0, none, false, false⟩

/-- What the logic side keeps of one input: the cumulative count and the last frame's count (R517), and EDGE, GAP and
FIRST of its interval (R530). -/
structure SelInput where
  cum   : BitVec 24
  prev  : BitVec 16
  edge  : Bool
  gap   : Bool
  first : BitVec 27
  deriving DecidableEq, Repr, Inhabited

/-- An input of which nothing has been received. -/
def SelInput.clear : SelInput := ⟨0, 0, false, false, 0⟩

/-- The logic side of the selvedge link in PD9. `frame` is the number of the frame being built, in 32 bits (R530);
`applied` counts the FIELD_OUT words applied in it, `safeWord` says that one of them was a SAFE word (R528). `period` and
`mask` are the latest REPORT settings, `winPeriod` and `winMask` those in force for the window of the frame being built;
`wins` holds the windows not reported on yet, with their settings (R530). `safeLeft` and `relLeft` count the frames that
still carry SAFE_REQ at power-up (R526) and RELEASE (R527). `down` is the frame that the field die has not judged yet,
`up` the uplink frame on its way; `last` is the last good one, `lastFrame` the window it described, `goodRun` the run of
good ones. -/
structure Sel where
  linkUp    : Bool
  frame     : BitVec 32
  c         : BitVec 16
  period    : BitVec 4
  mask      : BitVec 24
  winPeriod : BitVec 4
  winMask   : BitVec 24
  wins      : List (BitVec 32 × BitVec 4 × BitVec 24)
  nctx      : BitVec 14
  ncell     : BitVec 8
  niaddr    : BitVec 14
  nmask     : BitVec 24
  applied   : Nat
  safeWord  : Bool
  safeLeft  : Nat
  relLeft   : Nat
  down      : Option Downlink
  up        : Option Uplink
  lastFrame : Option (BitVec 32)
  last      : Option Uplink
  inputs    : List (Nat × SelInput)
  serial    : BitVec 16
  goodRun   : Nat
  query     : Bool
  good      : BitVec 32
  failing   : BitVec 32
  dlbad     : BitVec 32
  overruns  : BitVec 32
  wordErrs  : BitVec 32
  safes     : BitVec 32
  deriving DecidableEq, Repr, Inhabited

/-- States of the field die (Table 13-6). -/
inductive FieldState where
  | unpowered
  | sampling
  | safe
  | operate
  deriving DecidableEq, Repr, Inhabited

/-- The field die, powered from L+ (R509). `last` is FRAME of its last good downlink frame, `answering` the downlink frame
that it has judged and not answered, with what its inputs recorded in that window; `offWin` marks the outputs that have
been off in effect since the present window began, in OPERATE (R520). -/
structure Field where
  state    : FieldState
  cause    : BitVec 2
  good     : BitVec 6
  last     : Option (BitVec 16)
  c        : BitVec 16
  safeWord : BitVec 18
  pairWord : BitVec 9
  types    : BitVec 3
  oow      : BitVec 10
  inputs   : List (Nat × UpInput)
  answering : Option (BitVec 16 × List (Nat × UpInput))
  latched  : BitVec 16
  offWin   : BitVec 16
  dlbad    : BitVec 16
  /-- The latest self-check has failed (R525). -/
  checkBad : Bool
  deriving DecidableEq, Repr, Inhabited

/-! ## JTAG (chapter 16) -/

/-- The test access port (R630 to R632): instruction register and the boundary cells of the eight drive-and-observe
balls. -/
structure Jtag where
  ir    : BitVec 4
  drive : BitVec 8
  deriving DecidableEq, Repr, Inhabited

/-! ## What the block sends -/

/-- What the host face reports on its link (Table 11-13, R431, R433). -/
inductive LinkReport where
  | unsupportedRequest
  | poisoned
  | receivedUr
  | receivedCa
  | completionTimeout
  | unexpectedCompletion
  deriving DecidableEq, Repr, Inhabited

/-- What the block puts on a link or pin (log 3). -/
inductive Out where
  /-- A completion to the host: status, data, poisoned. -/
  | completion (status : CplStatus) (data : List Byte)
  /-- Configuration Request Retry Status. -/
  | retryStatus
  /-- A Memory Read: tag, host address, bytes. -/
  | memRead (tag : BitVec 5) (a : W64) (len : Nat)
  /-- A Memory Write. -/
  | memWrite (a : W64) (data : List Byte)
  /-- An MSI message number. -/
  | msi (n : BitVec 2)
  /-- An LTR message: scale, value, requirement bit. -/
  | ltr (scale : BitVec 3) (value : BitVec 10) (required : Bool)
  /-- The face requests L1. -/
  | l1
  /-- An error that the host face reports as the PCI Express Base Specification requires. -/
  | report (r : LinkReport)
  /-- A read command to the QSPI flash: command byte, dummy clocks, FL_CLK divisor of the full MCLK rate, 3-byte address,
  number of bytes (Table 02-6). -/
  | flashRead (command : Byte) (dummy divisor : Nat) (address : BitVec 24) (len : Nat)
  /-- A shuttle frame, bytes between SOF and EOF. -/
  | shuttle (bytes : List Byte)
  /-- A row frame, destination address to before the FCS; a bad FCS is appended when `good` is false. -/
  | row (portB : Bool) (bytes : List Byte) (good : Bool)
  /-- JTAG data out. -/
  | tdo (bits : BitVec 32)
  deriving DecidableEq, Repr, Inhabited

/-- The whole device. `pending` holds the commands that wait, first in first out; `out` what the block has put on its
links and pins, newest first (log 3); `freeCounter` numbers the free values (log 4). -/
structure State where
  pending     : List Instr
  out         : List Out
  freeCounter : Nat
  straps      : Straps
  pwr         : Power
  time        : Time
  mem         : Mem
  cells       : List (Nat × Cell)
  locks       : Locks
  weave       : Weave
  stw         : Steward
  keys        : Keys
  tab         : Tab
  streams     : Streams
  host        : HostFace
  sh          : Shuttle
  rowA        : RowPort
  rowB        : RowPort
  sel         : Sel
  fd          : Field
  jtag        : Jtag
  deriving DecidableEq, Repr, Inhabited

/-- What an unpredictable outcome may leave behind: a state of which nothing is known (R6; log 31). -/
opaque State.any : Nat → State

/-- Outcomes to which the spec gives no single effect. -/
inductive Fault where
  /-- Raised by every meaning whose condition stands in Table 17-4 with reach R6: the spec calls the outcome
  unpredictable. `rule` is the number of the rule broken, `left` the state that the device goes on from (see `wreck` in
  Machine/Ops.lean): what R7 keeps is as it was, and everything else is free. Safe: nothing is claimed of what R6
  leaves open, and RESET_N, the pins and the field die act on `left` as on any state (R8, R20, R21). -/
  | unpredictable (rule : Nat) (left : State)
  deriving DecidableEq, Repr

/-! ## After reset: OFF (R548) -/

/-- Strap latches before the first sampling: cleared (R59); each code reads 7 until it is latched (log 5). -/
def Straps.clear : Straps := ⟨false, 7, 7, 7, 7, 7, 7, 7, 7, 7, 7, 7, 7, 7, 0, false⟩

/-- PD0 in OFF: enables low (R548), VID at code 10 (Table 14-4), counts zero (R629). Level, reading and limit: log 6;
pin levels: log 7. -/
def Power.off : Power :=
  { phase := .off, pd := 0, enIo := false, enCore := false, enPhy := false, pgIo := false, pgCore := false,
    clkok := false, steady := false, vid := 10, rate := 2, running := 0, clearing := 0, cleared := 0,
    limitQuads := 1, limitRate := 2, qualified := false, level := 2, newLevel := none, reading := 0,
    conversions := [], grace := false, graceSleep := none, exhaustMark := false, supplyFaults := 0,
    wakeRefusals := 0, clockLosses := 0, wakeCause := 0, wakeFrom := 0, keepHeld := false, keepLoad := true,
    sleepReq := none, safeSent := 0, wakeLatch := 0, refused := 0, resetN := true, tamperN := true,
    perstN := true, fabricUp := false, started := false, wakeNew := false, tampers := 0, glitches := 0 }

/-- The timebase before beat 0 (R94, R585). -/
def Time.clear : Time := ⟨0, false, 0, 0, [], 0, 0, 0, 0, [], 0, false, false, false, 0⟩

/-- Memory with nothing listed, no flash fitted (log 8). -/
def Mem.clear : Mem := ⟨[], [], [], [], 0, 0, 0, 0, []⟩

/-- Lock units and mirrors with nothing held. -/
def Locks.clear : Locks := ⟨[], [], []⟩

/-- Routers with no flit, idle probes (R404). -/
def Weave.clear : Weave := ⟨[], [], [], [], []⟩

/-- The steward before any image (R144, R161). -/
def Steward.clear : Steward := ⟨[], 0, [], none, 0, false, none, .idle, 0, 0, none, 0, none, [], [], [], [], none, []⟩

/-- A key block delivered without a provisioning record (R634; log 13). -/
def Keys.blank : Keys := ⟨⟨0, 0⟩, ⟨0, 0⟩, ⟨0, 0⟩, none, 0, 0, 0, 0, 0, 0⟩

/-- No trigger, no snapshot, zero counts. -/
def Tab.clear : Tab := ⟨[], [], none, none, false, 0, 0, 0, 0, 0, 0⟩

/-- Empty stream ports (R147). -/
def Streams.clear : Streams := ⟨[], [], [], [], [], [], [], [], [], []⟩

/-- The host face at PD6 power-up (R444). -/
def HostFace.clear : HostFace :=
  { linkUp := false, released := false, flr := false, width := 0, gen := 0, d3hot := false, bme := false, cfg := [],
    bar0 := [], nextSeq := 0, admitted := 0, limit := 0, lastWord := 0, bootUsed := false, ring := none,
    staging := [], packet := none, tags := [], abandoned := [], reads := [], readNo := 0, inb := [], outb := [], msiSent := 0,
    msiOwed := 0, msiHeld := 0, ltr := 0, ltrSent := false, busy := false, misses := 0, discards := 0, partials := 0, strays := 0,
    timeouts := 0, errors := 0, tmisses := 0, msis := 0 }

/-- The shuttle face at PD7 power-up (R468, R469): FRESH is owed. -/
def Shuttle.clear : Shuttle :=
  { aligned := false, up := false, seen := false, fresh := true, exp := 0, next := 0, held := [], again := 0,
    naked := false, oweNak := false, owed := false, resends := 0, u := 0, recv := 0, sent := 0, uncounted := 0, partner := 0, credit := 0, limit := 0,
    raw := [], tx := [], turn := 0, counts := [] }

/-- A row port at PD8 power-up. -/
def RowPort.clear : RowPort :=
  { training := false, phyUp := false, heard := false, usable := false, neighbor := none, everUp := false,
    grace := false, graceOver := false, lr := 0, fr := 0, lnext := 0, fnext := 0, nLcredit := 0, nFcredit := 0,
    gLcredit := 0, gFcredit := 0, helloDue := false, linkDue := false, fwdTurn := true, fwd := [], own := [], ready := [],
    answers := [], kept := [], limit := 0, want := false, counts := [] }

/-- The logic side of the selvedge link at PD9 power-up (R514, R517, R529, R526). -/
def Sel.clear : Sel :=
  { linkUp := false, frame := 0, c := 0, period := 10, mask := 0, winPeriod := 10, winMask := 0, wins := [], nctx := 0,
    ncell := 0, niaddr := 0, nmask := 0, applied := 0, safeWord := false, safeLeft := 4, relLeft := 0, down := none,
    up := none, lastFrame := none, last := none, inputs := [], serial := 0, goodRun := 0, query := false, good := 0,
    failing := 0, dlbad := 0, overruns := 0, wordErrs := 0, safes := 0 }

/-- The field die without L+ (Table 13-6). -/
def Field.clear : Field :=
  { state := .unpowered, cause := 0, good := 0, last := none, c := 0, safeWord := 0, pairWord := 0, types := 0,
    oow := 0, inputs := [], answering := none, latched := 0, offWin := 0, dlbad := 0, checkBad := false }

/-- The device right after reset: in OFF, before VBAT rises (R548), with no command waiting. -/
def State.reset : State :=
  { pending := [], out := [], freeCounter := 0, straps := Straps.clear, pwr := Power.off, time := Time.clear,
    mem := Mem.clear, cells := [], locks := Locks.clear, weave := Weave.clear, stw := Steward.clear,
    keys := Keys.blank, tab := Tab.clear, streams := Streams.clear, host := HostFace.clear, sh := Shuttle.clear,
    rowA := RowPort.clear, rowB := RowPort.clear, sel := Sel.clear, fd := Field.clear, jtag := ⟨2, 0⟩ }

end Sys2Proof.Machine
end

