-- ==== Sys2Proof/Machine/Ops.lean ====
section
/-! DEFINITION. Named operations over keyed collections, memory, tokens, tags and deadlines. -/

namespace Sys2Proof.Machine

open Sys2Proof

/-! ## Keyed collections in canonical form -/

/-- The value at key `k`; `d` when it is not listed. -/
def mget {α : Type} (d : α) : List (Nat × α) → Nat → α
  | [], _ => d
  | (k', v) :: r, k => if k' = k then v else mget d r k

/-- Put a pair in its place in the order of keys. -/
def minsert {α : Type} (k : Nat) (v : α) : List (Nat × α) → List (Nat × α)
  | [] => [(k, v)]
  | (k', v') :: r => if k < k' then (k, v) :: (k', v') :: r else (k', v') :: minsert k v r

/-- Drop key `k`. -/
def mdrop {α : Type} (k : Nat) (m : List (Nat × α)) : List (Nat × α) := m.filter (fun e => e.1 != k)

/-- Set key `k` to `v`; the default value is not listed. -/
def mset {α : Type} [DecidableEq α] (d : α) (m : List (Nat × α)) (k : Nat) (v : α) : List (Nat × α) :=
  if v = d then mdrop k m else minsert k v (mdrop k m)

/-- Canonical form: keys strictly rising, no pair that holds the default. -/
def mwf {α : Type} [DecidableEq α] (d : α) : List (Nat × α) → Bool
  | [] => true
  | (k, v) :: r => decide (v ≠ d) && r.all (fun e => decide (k < e.1)) && mwf d r

/-! ## Saturating counts (R308, R629) -/

/-- A count raised by `n` that saturates at its maximum. -/
def satAdd {w : Nat} (x : BitVec w) (n : Nat) : BitVec w :=
  if x.toNat + n < 2 ^ w then BitVec.ofNat w (x.toNat + n) else BitVec.allOnes w

/-- A count raised by 1 when `c` holds. -/
def satIf {w : Nat} (c : Bool) (x : BitVec w) : BitVec w := if c then satAdd x 1 else x

/-! ## Tokens and tags (chapter 4) -/

/-- The packed tag of Table 04-5. -/
def packTag (t : Tag) : W64 :=
  t.context ++ t.iteration ++ t.cell ++ t.iaddr ++ t.port ++ (0 : BitVec 10)

/-- The reserved bits of a packed tag are not zero (Table 04-5, R23). -/
def tagReserved (w : W64) : Bool := w.extractLsb' 0 10 != 0

/-- The tag in a packed tag (Table 04-5). -/
def unpackTag (w : W64) : Tag :=
  { context := w.extractLsb' 50 14, iteration := w.extractLsb' 34 16, cell := w.extractLsb' 26 8,
    iaddr := w.extractLsb' 12 14, port := w.extractLsb' 10 2 }

/-- The tag of a token (R118). -/
def tokenTag (t : Token) : Tag := ⟨t.context, t.iteration, t.cell, t.iaddr, t.port⟩

/-- Word W2 of a token (Table 04-1). -/
def tokenW2 (t : Token) : BitVec 32 := t.context ++ t.iteration ++ t.port
/-- Word W3 of a token (Table 04-1). -/
def tokenW3 (t : Token) : BitVec 32 := t.cell ++ t.iaddr ++ t.flags
/-- Word W4 of a token (Table 04-1). -/
def tokenW4 (t : Token) : BitVec 32 := t.deadline ++ t.flow

/-- Bytes of a word, least significant first (R12). -/
def leBytes (n : Nat) (x : Nat) : List Byte :=
  match n with
  | 0 => []
  | k + 1 => BitVec.ofNat 8 x :: leBytes k (x / 256)

/-- The number that bytes spell, least significant first (R12). -/
def leNat : List Byte → Nat
  | [] => 0
  | b :: r => b.toNat + 256 * leNat r

/-- A token's 20 bytes, W0 first (R118). -/
def tokenBytes (t : Token) : List Byte :=
  leBytes 8 t.value.toNat ++ leBytes 4 (tokenW2 t).toNat ++ leBytes 4 (tokenW3 t).toNat ++
    leBytes 4 (tokenW4 t).toNat

/-- The token that five words spell (Table 04-1). -/
def tokenOfWords (v : W64) (w2 w3 w4 : BitVec 32) : Token :=
  { value := v, context := w2.extractLsb' 18 14, iteration := w2.extractLsb' 2 16, port := w2.extractLsb' 0 2,
    cell := w3.extractLsb' 24 8, iaddr := w3.extractLsb' 10 14, flags := w3.extractLsb' 0 10,
    deadline := w4.extractLsb' 12 20, flow := w4.extractLsb' 0 12 }

/-- The token that 20 bytes spell, W0 first (R118). -/
def tokenOfBytes (b : List Byte) : Token :=
  tokenOfWords (BitVec.ofNat 64 (leNat (b.take 8))) (BitVec.ofNat 32 (leNat ((b.drop 8).take 4)))
    (BitVec.ofNat 32 (leNat ((b.drop 12).take 4))) (BitVec.ofNat 32 (leNat ((b.drop 16).take 4)))

/-- The tokens that a payload spells, 20 bytes each. -/
def tokensOfBytes (fuel : Nat) (b : List Byte) : List Token :=
  match fuel with
  | 0 => []
  | k + 1 => if b.length < 20 then [] else tokenOfBytes (b.take 20) :: tokensOfBytes k (b.drop 20)

/-- Flag bits of a token (Table 04-2). -/
def flagPoison : BitVec 10 := 0x001
/-- See `flagPoison`. -/
def flagLate : BitVec 10 := 0x002
/-- See `flagPoison`. -/
def flagUnderrun : BitVec 10 := 0x004
/-- KIND fault in place. -/
def kindFault : BitVec 10 := 0x008
/-- KIND control in place. -/
def kindControl : BitVec 10 := 0x010
/-- KIND system in place. -/
def kindSystem : BitVec 10 := 0x018
/-- See `flagPoison`. -/
def flagSpilled : BitVec 10 := 0x020
/-- See `flagPoison`. -/
def flagRemote : BitVec 10 := 0x040
/-- See `flagPoison`. -/
def flagCorrected : BitVec 10 := 0x080

/-- KIND of a set of flags: 0 data, 1 fault, 2 control, 3 system. -/
def kindOf (f : BitVec 10) : BitVec 2 := f.extractLsb' 3 2

/-- A token to a packed tag (R175). -/
def tokenTo (tag value : W64) (dl : BitVec 20) (fl : BitVec 12) (flags : BitVec 10) : Token :=
  let t := unpackTag tag
  { value := value, context := t.context, iteration := t.iteration, port := t.port, cell := t.cell,
    iaddr := t.iaddr, flags := flags, deadline := dl, flow := fl }

/-! ## Deadlines (R102) -/

/-- δ(a, b) of R102. -/
def delta (a b : BitVec 20) : Int := (a - b).toInt

/-- Bits [19:0] of the beat counter. -/
def now20 (s : State) : BitVec 20 := s.time.beat.setWidth 20

/-! ## Tiles and quadrants (R25, R26) -/

/-- The tile of a cell. -/
def tileOf (c : CellId) : TileId := c.extractLsb' 2 6
/-- The slot of a cell in its tile. -/
def slotOf (c : CellId) : BitVec 2 := c.extractLsb' 0 2
/-- The quadrant of a tile: bit 1 is Y ≥ 4, bit 0 is X ≥ 4 (Table 01-1). -/
def quadOfTile (t : TileId) : BitVec 2 := t.extractLsb' 5 1 ++ t.extractLsb' 2 1
/-- The quadrant of a cell. -/
def quadOf (c : CellId) : BitVec 2 := quadOfTile (tileOf c)
/-- The cell in slot `i` of a tile. -/
def cellOf (t : TileId) (i : BitVec 2) : CellId := t ++ i
/-- The tile of quadrant q's lock unit (Table 09-2). -/
def lockTile (q : BitVec 2) : TileId :=
  if q = 0 then 27 else if q = 1 then 28 else if q = 2 then 35 else 36
/-- The quadrant whose lock unit stands at a tile (Table 09-2). -/
def lockQuad (t : TileId) : Option (BitVec 2) :=
  if t = 27 then some 0 else if t = 28 then some 1 else if t = 35 then some 2 else if t = 36 then some 3 else none

/-- Power domain d is powered (R545). -/
def powered (s : State) (d : Nat) : Bool := s.pwr.pd.getLsbD d
/-- The fabric stands still: a freeze has begun, or begins at the present boundary (R613). -/
def halted (s : State) : Bool := s.tab.frozen || !s.tab.due.isEmpty
/-- The tile's router and bank are powered and clocked: PD2 to PD5 with MCLK running (R28), the fabric not frozen
(R613). -/
def tileUp (s : State) (t : TileId) : Bool :=
  s.pwr.clkok && powered s (2 + (quadOfTile t).toNat) && !halted s
/-- The bank of a tile has finished clearing (R301). -/
def bankUp (s : State) (t : TileId) : Bool :=
  tileUp s t && !s.pwr.clearing.getLsbD (quadOfTile t).toNat
/-- The cell's quadrant runs (R546) and the fabric is not frozen (R613). -/
def cellUp (s : State) (c : CellId) : Bool :=
  tileUp s (tileOf c) && s.pwr.running.getLsbD (quadOf c).toNat

/-! ## State access -/

/-- Cell `c`. -/
def cellAt (s : State) (c : CellId) : Cell := mget Cell.clear s.cells c.toNat
/-- The cells with cell `c` replaced. -/
def cellsSet (m : List (Nat × Cell)) (c : CellId) (x : Cell) : List (Nat × Cell) := mset Cell.clear m c.toNat x
/-- The state with cell `c` replaced. -/
def setCell (s : State) (c : CellId) (x : Cell) : State := { s with cells := cellsSet s.cells c x }
/-- The engine of cell `c`. -/
def engineAt (s : State) (c : CellId) : Engine := (cellAt s c).engine
/-- The state with the engine of cell `c` replaced. -/
def setEngine (s : State) (c : CellId) (e : Engine) : State := setCell s c { cellAt s c with engine := e }
/-- The bank of a tile. -/
def bankAt (m : Mem) (t : TileId) : Bank := mget Bank.clear m.banks t.toNat
/-- Memory with the bank of a tile replaced. -/
def setBank (m : Mem) (t : TileId) (b : Bank) : Mem := { m with banks := mset Bank.clear m.banks t.toNat b }
/-- The lock unit of a quadrant. -/
def unitAt (l : Locks) (q : BitVec 2) : LockUnit := mget LockUnit.clear l.units q.toNat
/-- Locks with the unit of a quadrant replaced. -/
def setUnit (l : Locks) (q : BitVec 2) (u : LockUnit) : Locks :=
  { l with units := mset LockUnit.clear l.units q.toNat u }
/-- A progress event (R360). -/
def markProgress (t : Time) : Time := { t with progress := true }

/-! ## Memory (chapter 8) -/

/-- One byte of bank or keep memory. -/
def readByte (m : Mem) (a : Nat) : Byte := mget 0 m.data a
/-- Memory with one byte written. -/
def writeByte (m : Mem) (a : Nat) (b : Byte) : Mem := { m with data := mset 0 m.data a b }
/-- `n` bytes from an address. -/
def readBytes (m : Mem) (a : Nat) : Nat → List Byte
  | 0 => []
  | n + 1 => readByte m a :: readBytes m (a + 1) n
/-- The data with bytes written from an address on. -/
def putBytes (d : List Host.Cell) (a : Nat) : List Byte → List Host.Cell
  | [] => d
  | b :: r => putBytes (mset 0 d a b) (a + 1) r
/-- Memory with bytes written from an address on. -/
def writeBytes (m : Mem) (a : Nat) (bs : List Byte) : Mem := { m with data := putBytes m.data a bs }
/-- The 64-bit word at an address (little-endian, R12). -/
def readWord (m : Mem) (a : Nat) : W64 := BitVec.ofNat 64 (leNat (readBytes m a 8))
/-- Memory with a 64-bit word written. -/
def writeWord (m : Mem) (a : Nat) (v : W64) : Mem := writeBytes m a (leBytes 8 v.toNat)
/-- Memory with words written from an address on. -/
def writeWords (m : Mem) (a : Nat) : List W64 → Mem
  | [] => m
  | v :: r => writeWords (writeWord m a v) (a + 8) r

/-- The canonical form of every keyed list of memory. -/
def Memory.wf (m : Mem) : Bool := mwf 0 m.data && mwf 3 m.pres && mwf Ecc.ok m.ecc && mwf Bank.clear m.banks

/-- Presence states (Table 08-2). -/
def presEmpty : BitVec 2 := 0
/-- See `presEmpty`. -/
def presFull : BitVec 2 := 1
/-- See `presEmpty`. -/
def presDeferred : BitVec 2 := 2
/-- See `presEmpty`. -/
def presPlain : BitVec 2 := 3

/-- The presence state of the word that holds an address. -/
def presAt (m : Mem) (a : Nat) : BitVec 2 := mget 3 m.pres (a / 8)
/-- Memory with a presence state set. -/
def setPres (m : Mem) (a : Nat) (p : BitVec 2) : Mem := { m with pres := mset 3 m.pres (a / 8) p }
/-- The error mark of the word that holds an address. -/
def eccAt (m : Mem) (a : Nat) : Ecc := mget Ecc.ok m.ecc (a / 8)
/-- Memory with an error mark set. -/
def setEcc (m : Mem) (a : Nat) (e : Ecc) : Mem := { m with ecc := mset Ecc.ok m.ecc (a / 8) e }

/-- A single-bit error. -/
def Ecc.isSingle : Ecc → Bool
  | .single _ => true
  | _ => false

/-- A single-bit error that lies in the low `n` bits of the word. -/
def Ecc.singleBelow (n : Nat) : Ecc → Bool
  | .single b => decide (b.toNat < n)
  | _ => false

/-- The ranges of Table 08-1. -/
inductive Range where
  | bank
  | keep
  | flash
  | host
  | none
  deriving DecidableEq, Repr

/-- The range that holds a fabric address (Table 08-1). -/
def rangeOf (a : Addr) : Range :=
  let n := a.toNat
  if n < 0x2000000 then .bank
  else if 0x10000000 ≤ n && n < 0x10010000 then .keep
  else if 0x20000000 ≤ n && n < 0x21000000 then .flash
  else if 0x800000000000 ≤ n then .host
  else .none

/-- The tile whose bank holds a bank address (R25). -/
def bankOf (a : Addr) : TileId := a.extractLsb' 19 6

/-! ## Context descriptors (Table 04-7) -/

/-- The fabric address of a context's descriptor (R133). -/
def descAddr (c : BitVec 14) : Nat := c.toNat * 64
/-- The mode word of a context; contexts 0 to 15 behave as P0 with every other field zero (R133). -/
def modeWord (m : Mem) (c : BitVec 14) : W64 := if c.toNat < 16 then 0 else readWord m (descAddr c)
/-- PRIORITY of a context. -/
def ctxPriority (m : Mem) (c : BitVec 14) : BitVec 2 := (modeWord m c).extractLsb' 19 2
/-- REMOTE of a context (R38). -/
def ctxRemote (m : Mem) (c : BitVec 14) : Bool := (modeWord m c).getLsbD 21
/-- HOME_NODE of a context. -/
def ctxHome (m : Mem) (c : BitVec 14) : BitVec 12 := (modeWord m c).extractLsb' 22 12
/-- VALID of a context. -/
def ctxValid (m : Mem) (c : BitVec 14) : Bool := (modeWord m c).getLsbD 63
/-- SPILL_OK of a context. -/
def ctxSpillOk (m : Mem) (c : BitVec 14) : Bool := (modeWord m c).getLsbD 14
/-- The iteration window k of a context, WINDOW + 1. -/
def ctxWindow (m : Mem) (c : BitVec 14) : Nat := ((modeWord m c).extractLsb' 8 6).toNat + 1
/-- RMODE in a mode word. -/
def mwRmode (w : W64) : BitVec 2 := w.extractLsb' 6 2
/-- PRECISE in a mode word. -/
def mwPrecise (w : W64) : Bool := w.getLsbD 5
/-- TRAPEN in a mode word. -/
def mwTrapen (w : W64) : BitVec 5 := w.extractLsb' 0 5
/-- FLOWQ in a mode word. -/
def mwFlowq (w : W64) : BitVec 2 := w.extractLsb' 17 2
/-- FLOWHOME in a mode word. -/
def mwFlowhome (w : W64) : BitVec 2 := w.extractLsb' 15 2
/-- DL_OFFSET of a context; 0 for contexts 0 to 15 (R133). -/
def ctxDlOffset (m : Mem) (c : BitVec 14) : BitVec 20 :=
  if c.toNat < 16 then 0 else (readWord m (descAddr c + 8)).extractLsb' 0 20
/-- HANDLER of a context; none (zero) for contexts 0 to 15 (R133). -/
def ctxHandler (m : Mem) (c : BitVec 14) : W64 := if c.toNat < 16 then 0 else readWord m (descAddr c + 16)
/-- FAULT_SERIAL of a context. -/
def ctxSerial (m : Mem) (c : BitVec 14) : BitVec 16 := (readWord m (descAddr c + 24)).extractLsb' 16 16
/-- ITER_BASE of a context. -/
def ctxIterBase (m : Mem) (c : BitVec 14) : BitVec 16 := (readWord m (descAddr c + 24)).extractLsb' 0 16
/-- A reserved field of a context's descriptor is not zero (Table 04-7, R23). -/
def descReserved (m : Mem) (c : BitVec 14) : Bool :=
  (modeWord m c).extractLsb' 34 29 != 0 || (readWord m (descAddr c + 8)).extractLsb' 20 44 != 0 ||
  (readWord m (descAddr c + 24)).extractLsb' 32 32 != 0 ||
  [40, 48, 56].any fun o => readWord m (descAddr c + o) != 0
/-- Memory with FAULT_SERIAL of a context raised by 1 (R137). -/
def bumpSerial (m : Mem) (c : BitVec 14) : Mem :=
  writeBytes m (descAddr c + 26) (leBytes 2 (ctxSerial m c + 1).toNat)
/-- Memory with ITER_BASE of a context raised by 1 (R140). -/
def bumpIterBase (m : Mem) (c : BitVec 14) : Mem :=
  writeBytes m (descAddr c + 24) (leBytes 2 (ctxIterBase m c + 1).toNat)

/-- The context limit: of the image once a graph is started, 16 before (R131, R161). -/
def ctxLimit (s : State) : Nat :=
  if s.stw.started then (match s.stw.image with | some i => i.limit.toNat | none => 16) else 16

/-! ## Free values (log 4) -/

/-- The free value of this step. -/
def freeNow (s : State) : W64 := Config.freeValue s.freeCounter
/-- The state after a free value was drawn. -/
def bumpFree (s : State) : State := { s with freeCounter := s.freeCounter + 1 }

/-- A keyed list in canonical form with the pairs of any list, the later of equal keys kept. -/
def canonical {α : Type} [DecidableEq α] (d : α) (m : List (Nat × α)) : List (Nat × α) :=
  m.foldl (fun acc e => mset d acc e.1 e.2) []

/-- What an unpredictable outcome leaves (R6 to R8, R20, R21, Table 17-4). Kept: the strap latches, the key block, the
field die and the pattern last commanded to it, the pins, what PD0's sequencer has done with the supplies, flash, the
test port, and the commands that wait. Everything else is free, and the device may have sent anything. -/
def wreck (s : State) : State :=
  let a := State.any s.freeCounter
  { a with
    pending := s.pending
    out := a.out ++ s.out
    freeCounter := s.freeCounter + 1
    straps := s.straps
    keys := s.keys
    pwr := { a.pwr with phase := s.pwr.phase, pd := s.pwr.pd, enIo := s.pwr.enIo, enCore := s.pwr.enCore,
                        enPhy := s.pwr.enPhy, pgIo := s.pwr.pgIo, pgCore := s.pwr.pgCore, qualified := s.pwr.qualified,
                        resetN := s.pwr.resetN, tamperN := s.pwr.tamperN, perstN := s.pwr.perstN }
    mem := { a.mem with data := canonical 0 a.mem.data, pres := canonical 3 a.mem.pres, ecc := canonical Ecc.ok a.mem.ecc,
                        banks := canonical Bank.clear a.mem.banks, flashSize := s.mem.flashSize, flash := s.mem.flash }
    sel := { a.sel with c := s.sel.c, down := s.sel.down }
    fd := s.fd
    jtag := s.jtag }

/-- The outcome of an error that the device does not check (R666): rule `n` is broken. -/
def unpredictable (n : Nat) (s : State) : Host.Outcome State Fault Refusal := .fault (.unpredictable n (wreck s))

/-- Some flit in the weave, or on its way into or out of it, is such a one. -/
def Weave.anyFlit (w : Weave) (p : Flit → Bool) : Bool :=
  w.chans.any (fun e => e.2.any p) || w.outs.any (fun e => e.2.any p) || w.offers.any (fun e => e.2.any fun o => p o.flit)

/-- The state with one more thing sent. -/
def emit (s : State) (o : Out) : State := { s with out := o :: s.out }

end Sys2Proof.Machine
end

