-- ==== Sys2Proof/Machine/Flags.lean ====
section
/-! DEFINITION. Flag computations: the carry flag (R216) and the five floating-point flags (Table 07-5). -/

namespace Sys2Proof.Machine

open Sys2Proof

/-- The operand an integer instruction uses: bits [31:0] with W32 (Table 05-4). -/
def narrow (w32 : Bool) (x : W64) : W64 := if w32 then x &&& 0xFFFFFFFF else x

/-- A result as it is written: with W32 its bits [31:0], extended by zeros or, with SX, by copies of bit 31
(Table 05-4). -/
def place (p : Pfx) (x : W64) : W64 :=
  if p.w32 then (if p.sx then (x.setWidth 32 : BitVec 32).signExtend 64 else narrow true x) else x

/-- The sum of two operands and a carry: result and carry out (R216). -/
def addFlags (p : Pfx) (a b : W64) (cin : Bool) : W64 × Bool :=
  let n := (narrow p.w32 a).toNat + (narrow p.w32 b).toNat + cin.toNat
  (place p (BitVec.ofNat 64 n), if p.w32 then decide (2 ^ 32 ≤ n) else decide (2 ^ 64 ≤ n))

/-- The difference of two operands and a borrow: result and borrow out (R216). -/
def subFlags (p : Pfx) (a b : W64) (bin : Bool) : W64 × Bool :=
  let x := (narrow p.w32 a).toNat
  let y := (narrow p.w32 b).toNat + bin.toNat
  (place p (BitVec.ofNat 64 (x + 2 ^ 65 - y)), decide (x < y))

/-- FS bits (Table 05-2). -/
def fInvalid : BitVec 5 := 0x01
/-- See `fInvalid`. -/
def fDivZero : BitVec 5 := 0x02
/-- See `fInvalid`. -/
def fOverflow : BitVec 5 := 0x04
/-- See `fInvalid`. -/
def fUnderflow : BitVec 5 := 0x08
/-- See `fInvalid`. -/
def fInexact : BitVec 5 := 0x10

/-- A flag when a condition holds. -/
def flagIf (c : Bool) (f : BitVec 5) : BitVec 5 := if c then f else 0

end Sys2Proof.Machine
end

