-- ==== Sys2Proof/Machine/Straps.lean ====
section
/-! DEFINITION. What strap codes mean (chapter 2). -/

namespace Sys2Proof.Machine

open Sys2Proof

/-- The acceptance window that holds a reading in ohms (Table 02-1); `none` between two windows. -/
def windowOf (ohms : Nat) : Option (BitVec 3) :=
  if ohms ≤ 500 then some 0
  else if 1840 ≤ ohms && ohms ≤ 2160 then some 1
  else if 3956 ≤ ohms && ohms ≤ 4644 then some 2
  else if 7544 ≤ ohms && ohms ≤ 8856 then some 3
  else if 14720 ≤ ohms && ohms ≤ 17280 then some 4
  else if 30360 ≤ ohms && ohms ≤ 35640 then some 5
  else if 62560 ≤ ohms && ohms ≤ 73440 then some 6
  else if 250000 ≤ ohms then some 7
  else none

/-- The code that four readings give a pin: `none` is out of window (R53). -/
def pinCode (rs : List Nat) : Option (BitVec 3) :=
  match rs with
  | [a, b, c, d] => if windowOf a = windowOf b ∧ windowOf b = windowOf c ∧ windowOf c = windowOf d then windowOf a
                    else none
  | _ => none

/-- Readings of `n` pins, four each (R53). -/
def wfReadings (n : Nat) (rss : List (List Nat)) : Bool := rss.length == n && rss.all (fun r => r.length == 4)

/-- Reserved codes by pin in sampling order (Tables 02-3, 02-4, 02-6, R67). -/
def reservedCode (pin : Nat) (c : BitVec 3) : Bool :=
  match pin with
  | 0 => decide (3 ≤ c.toNat)
  | 2 => c == 7
  | 4 => c == 6
  | 5 => c == 6
  | 6 => decide (6 ≤ c.toNat)
  | 7 => c == 7
  | 8 => decide (6 ≤ c.toNat)
  | _ => false

/-- The bit of FEAT3's OOW mask for the pin at a place in the sampling order (Tables 02-3, 02-8). -/
def oowBit (pin : Nat) : Nat :=
  match pin with
  | 0 => 11 | 1 => 10 | 2 => 9 | 3 => 0 | 4 => 12 | 5 => 1 | 6 => 2 | 7 => 3 | 8 => 4
  | n => n - 4

/-- The out-of-window mask of a list of codes, from a place in the sampling order on. -/
def oowMask (pin : Nat) : List (Option (BitVec 3)) → BitVec 13
  | [] => 0
  | c :: r => (if c.isNone then 1#13 <<< oowBit pin else 0) ||| oowMask (pin + 1) r

/-- Some pin reads a reserved code within its window (R75). -/
def anyReserved (pin : Nat) : List (Option (BitVec 3)) → Bool
  | [] => false
  | c :: r => (match c with | none => false | some x => reservedCode pin x) || anyReserved (pin + 1) r

/-- The code of a pin; 7 out of window (R75). -/
def codeAt (cs : List (Option (BitVec 3))) (pin : Nat) : BitVec 3 := (cs.getD pin none).getD 7

/-- The latches that 13 codes set, in the order of Table 02-3 (R59, R75). -/
def latchStraps (cs : List (Option (BitVec 3))) : Straps :=
  { latched := true, sec := codeAt cs 0, rate := codeAt cs 1, energy := codeAt cs 2, beat := codeAt cs 3,
    flash := codeAt cs 4, boot := codeAt cs 5, host := codeAt cs 6, shut := codeAt cs 7, row := codeAt cs 8,
    node0 := codeAt cs 9, node1 := codeAt cs 10, node2 := codeAt cs 11, node3 := codeAt cs 12,
    oow := oowMask 0 cs, rsv := anyReserved 0 cs }

/-- The security level: 0 open, 1 signed, 2 signed and sealed (Table 02-4). -/
def secLevel (x : Straps) : Nat := if x.sec = 0 then 0 else if x.sec = 1 then 1 else 2
/-- The beat exponent n (Table 02-4). -/
def beatExp (x : Straps) : Nat := 10 + x.beat.toNat
/-- The host face is strapped on (R62). -/
def hostOn (x : Straps) : Bool := x.host != 0 && decide (x.host.toNat ≤ 5)
/-- The shuttle face is strapped on (R63). -/
def shutOn (x : Straps) : Bool := x.shut != 0 && x.shut != 7
/-- Row port A is strapped on (R63). -/
def rowAOn (x : Straps) : Bool := x.row != 0 && decide (x.row.toNat ≤ 5)
/-- Row port B is strapped on (R79). -/
def rowBOn (x : Straps) : Bool := decide (3 ≤ x.row.toNat) && decide (x.row.toNat ≤ 5)
/-- A row port is strapped on. -/
def rowOn (x : Straps) : RowId → Bool
  | .a => rowAOn x
  | .b => rowBOn x
/-- SH_WAKE_N is heeded (R63). -/
def shutWake (x : Straps) : Bool := decide (1 ≤ x.shut.toNat) && decide (x.shut.toNat ≤ 3)
/-- The row ports' energy detectors are powered (R63). -/
def rowWake (x : Straps) : Bool := decide (1 ≤ x.row.toNat) && decide (x.row.toNat ≤ 4)
/-- The flash controller is enabled (R69). -/
def flashOn (x : Straps) : Bool := x.flash != 0
/-- The QSPI read command that CFG_FLASH sets: its command byte, its dummy clocks, and the MCLK divisor of FL_CLK
(Table 02-6). -/
def flashMode (x : Straps) : Byte × Nat × Nat :=
  match x.flash.toNat with
  | 1 => (0xEB, 6, 40)
  | 2 => (0xEB, 6, 20)
  | 3 => (0xEB, 8, 20)
  | 4 => (0xEB, 8, 10)
  | 5 => (0xEB, 10, 10)
  | _ => (0x03, 0, 80)
/-- The node ID (R66). -/
def nodeId (x : Straps) : BitVec 12 := x.node3 ++ x.node2 ++ x.node1 ++ x.node0
/-- The node ID is unassigned (R66). -/
def nodeUnassigned (x : Straps) : Bool := nodeId x == 0xFFF
/-- The energy tier; 0 is unrestricted (R67). -/
def energyTier (x : Straps) : Nat := if x.energy = 7 then 1 else x.energy.toNat
/-- The highest rate of CFG_RATE, coded 0 full, 1 half, 2 quarter (Table 02-5). -/
def strapRate (x : Straps) : BitVec 2 := if x.rate.toNat ≤ 2 then 0 else if x.rate.toNat ≤ 4 then 1 else 2
/-- The most quadrants of CFG_RATE (Table 02-5). -/
def strapQuads (x : Straps) : BitVec 3 :=
  match x.rate.toNat with
  | 0 => 4 | 1 => 2 | 2 => 1 | 3 => 4 | 4 => 2 | 5 => 4 | 6 => 2 | _ => 1

/-- The boot source in effect by its code in Table 02-4, and whether it conflicts with the strapped one (R64, R77,
R78). -/
def bootSource (x : Straps) : BitVec 3 × Bool :=
  match x.boot.toNat with
  | 0 => if flashOn x then (0, false) else (7, true)
  | 1 => if flashOn x then (1, false) else (7, true)
  | 2 => if hostOn x then (2, false) else (7, true)
  | 3 => if shutOn x then (3, false) else (7, true)
  | 4 => if rowAOn x then (4, false) else (7, true)
  | 5 => if hostOn x then (if flashOn x then (5, false) else (2, true))
         else (if flashOn x then (0, true) else (7, true))
  | _ => (7, false)

/-- FEAT0 (Table 05-7). -/
def feat0 : W64 :=
  (0 : BitVec 16) ++ (1 : BitVec 8) ++ Config.revMajor ++ Config.revMinor ++ Config.deviceId ++ Config.vendorId
/-- FEAT1 (Table 05-8). -/
def feat1 : W64 := 0x1FFF
/-- FEAT2 (Table 05-9). -/
def feat2 : W64 := 0x0151CA84D16E8100
/-- FEAT3 (Table 02-8). -/
def feat3 (x : Straps) : W64 :=
  (0 : BitVec 9) ++ BitVec.ofBool x.rsv ++ BitVec.ofBool (nodeUnassigned x) ++ BitVec.ofBool (bootSource x).2 ++
    x.oow ++ x.flash ++ x.sec ++ x.rate ++ x.energy ++ nodeId x ++ x.row ++ x.shut ++ x.host ++ x.boot ++ x.beat

/-- The decoded bits of a field strap pin: 7 − code (R70). -/
def fieldBits (cs : List (Option (BitVec 3))) (pin : Nat) : BitVec 3 := 7 - codeAt cs pin

end Sys2Proof.Machine
end

