-- ==== Sys2Proof/Machine/Operands.lean ====
section
/-! DEFINITION. Operand forms of strand instructions: registers, immediates, special registers, conditions, prefixes
and lengths (chapter 5, Tables 06-1 to 06-16). -/

namespace Sys2Proof.Machine

open Sys2Proof

/-! ## Registers -/

/-- A general register. -/
def getG (r : Regs) (i : Reg) : W64 := r.g[i.toNat]'i.isLt
/-- The registers with a general register written. -/
def setG (r : Regs) (i : Reg) (v : W64) : Regs := { r with g := r.g.set i.toNat v i.isLt }

/-- An immediate of 4 bytes extended to 64 bits (R210). -/
def ext32 (p : Pfx) (imm : BitVec 32) : W64 := if p.sx then imm.signExtend 64 else imm.setWidth 64

/-! ## Special registers (Tables 05-2, 05-3) -/

/-- The index names a reserved special register (Table 05-2). -/
def srReserved (i : BitVec 8) : Bool := i == 0x06 || i == 0x07 || i == 0x17 || decide (0x20 ≤ i.toNat)

/-- A special register, zero-extended (R172); a reserved index does not occur. -/
def readSr (x : Straps) (r : Regs) (i : BitVec 8) : W64 :=
  match i.toNat with
  | 0x00 => r.pl
  | 0x01 => r.ph
  | 0x02 => (BitVec.ofBool r.cf).setWidth 64
  | 0x03 => r.fs.setWidth 64
  | 0x04 => r.dl.setWidth 64
  | 0x05 => r.fl.setWidth 64
  | 0x08 => r.ls[0].setWidth 64
  | 0x09 => r.ls[1].setWidth 64
  | 0x0A => r.ls[2].setWidth 64
  | 0x0B => r.ls[3].setWidth 64
  | 0x0C => r.le[0].setWidth 64
  | 0x0D => r.le[1].setWidth 64
  | 0x0E => r.le[2].setWidth 64
  | 0x0F => r.le[3].setWidth 64
  | 0x10 => r.lc[0].setWidth 64
  | 0x11 => r.lc[1].setWidth 64
  | 0x12 => r.lc[2].setWidth 64
  | 0x13 => r.lc[3].setWidth 64
  | 0x14 => r.bs.setWidth 64
  | 0x15 => r.bd.setWidth 64
  | 0x16 => r.bc.setWidth 64
  | 0x18 => r.tag0
  | 0x19 => r.tag1
  | 0x1A => r.tag2
  | 0x1B => r.tag3
  | 0x1C => feat0
  | 0x1D => feat1
  | 0x1E => feat2
  | 0x1F => feat3 x
  | _ => 0

/-- The registers with a special register written; bits beyond its width and writes to TAG and FEAT registers are
ignored (R172, R173). -/
def writeSr (r : Regs) (i : BitVec 8) (v : W64) : Regs :=
  match i.toNat with
  | 0x00 => { r with pl := v }
  | 0x01 => { r with ph := v }
  | 0x02 => { r with cf := v.getLsbD 0 }
  | 0x03 => { r with fs := v.setWidth 5 }
  | 0x04 => { r with dl := v.setWidth 20 }
  | 0x05 => { r with fl := v.setWidth 12 }
  | 0x08 => { r with ls := r.ls.set 0 (v.setWidth 14) }
  | 0x09 => { r with ls := r.ls.set 1 (v.setWidth 14) }
  | 0x0A => { r with ls := r.ls.set 2 (v.setWidth 14) }
  | 0x0B => { r with ls := r.ls.set 3 (v.setWidth 14) }
  | 0x0C => { r with le := r.le.set 0 (v.setWidth 14) }
  | 0x0D => { r with le := r.le.set 1 (v.setWidth 14) }
  | 0x0E => { r with le := r.le.set 2 (v.setWidth 14) }
  | 0x0F => { r with le := r.le.set 3 (v.setWidth 14) }
  | 0x10 => { r with lc := r.lc.set 0 (v.setWidth 32) }
  | 0x11 => { r with lc := r.lc.set 1 (v.setWidth 32) }
  | 0x12 => { r with lc := r.lc.set 2 (v.setWidth 32) }
  | 0x13 => { r with lc := r.lc.set 3 (v.setWidth 32) }
  | 0x14 => { r with bs := v.setWidth 48 }
  | 0x15 => { r with bd := v.setWidth 48 }
  | 0x16 => { r with bc := v.setWidth 32 }
  | _ => r

/-! ## Encodings: class, prefixes, length -/

/-- What an opcode fixes: the bytes after any prefixes (Table 05-5) and the prefixes it allows besides CC
(Table 06-1). -/
structure Enc where
  bytes : Nat
  w : Bool := false
  f : Bool := false
  r : Bool := false
  x : Bool := false
  t : Bool := false
  deriving DecidableEq, Repr

/-- Class A (Table 05-5). -/
def encA : Enc := { bytes := 1 }
/-- Class B. -/
def encB : Enc := { bytes := 2 }
/-- Class C. -/
def encC : Enc := { bytes := 3 }
/-- Class D. -/
def encD : Enc := { bytes := 4 }
/-- Class E. -/
def encE : Enc := { bytes := 6 }
/-- Class F. -/
def encF : Enc := { bytes := 10 }

/-- How many prefix bytes stand before the opcode (Table 05-4). -/
def prefixCount (p : Pfx) : Nat :=
  p.w32.toNat + p.fs32.toNat + p.fd64.toNat + p.rep.toNat + p.sx.toNat + p.tr.toNat + p.cc.isSome.toNat

/-- The prefixes are legal for the opcode (R180, R208). -/
def prefixLegal (k : Enc) (p : Pfx) : Bool :=
  decide (prefixCount p ≤ 3) && !(p.fs32 && p.fd64) && (!p.w32 || k.w) && (!(p.fs32 || p.fd64) || k.f) &&
    (!p.rep || k.r) && (!p.sx || k.x) && (!p.tr || k.t)

/-- The length of an instruction in bytes, the condition byte included (R181). -/
def insLen (k : Enc) (p : Pfx) : Nat := prefixCount p + p.cc.isSome.toNat + k.bytes

/-! ## The condition byte (Table 05-6) -/

/-- COND and REG are of a defined form: COND is not 0b111, and REG is zero for the CF conditions. -/
def ccLegal (p : Pfx) : Bool :=
  match p.cc with
  | none => true
  | some (cond, reg) => cond != 7 && (!(cond == 4 || cond == 5) || reg == 0)

/-- The condition holds (R183). -/
def ccHolds (p : Pfx) (r : Regs) : Bool :=
  match p.cc with
  | none => true
  | some (cond, reg) =>
    let x := narrow p.w32 (getG r reg)
    let negative := if p.w32 then x.getLsbD 31 else x.getLsbD 63
    match cond.toNat with
    | 0 => x == 0
    | 1 => x != 0
    | 2 => negative
    | 3 => !negative
    | 4 => r.cf
    | 5 => !r.cf
    | _ => x.getLsbD 0

/-- The register that a condition tests (R183). -/
def ccRegs (p : Pfx) : List Reg :=
  match p.cc with
  | some (cond, reg) => if cond = 4 ∨ cond = 5 then [] else [reg]
  | none => []

/-! ## Loops (R185, R186) -/

/-- The highest-numbered active loop level. -/
def topLevel (r : Regs) : Option (Fin 4) :=
  if r.lc[3] ≠ 0 then some 3 else if r.lc[2] ≠ 0 then some 2 else if r.lc[1] ≠ 0 then some 1
  else if r.lc[0] ≠ 0 then some 0 else none

/-- The lowest-numbered inactive loop level. -/
def freeLevel (r : Regs) : Option (Fin 4) :=
  if r.lc[0] = 0 then some 0 else if r.lc[1] = 0 then some 1 else if r.lc[2] = 0 then some 2
  else if r.lc[3] = 0 then some 3 else none

/-- The registers with a loop count written. -/
def setLc (r : Regs) (j : Fin 4) (c : BitVec 32) : Regs := { r with lc := r.lc.set j c }

/-- The loop check of R186 on next address `a`; each level closes at most once, so that four repeats suffice. -/
def loopCheck : Nat → Regs → BitVec 15 → Regs
  | 0, r, a => { r with pc := a }
  | k + 1, r, a =>
    match topLevel r with
    | none => { r with pc := a }
    | some j =>
      if a ≠ r.le[j].setWidth 15 then { r with pc := a }
      else if r.ls[j].setWidth 15 = a then loopCheck k (setLc r j 0) a
      else if 1 < r.lc[j].toNat then { setLc r j (r.lc[j] - 1) with pc := r.ls[j].setWidth 15 }
      else loopCheck k (setLc r j 0) a

/-! ## The product register (R190, R191) -/

/-- The pending product reaches PH:PL at the end of a cycle. -/
def commitProduct (r : Regs) : Regs :=
  match r.pend with
  | none => r
  | some p => { r with pl := p.setWidth 64, ph := (p.extractLsb' 64 64), pend := none }

/-- The registers after an instruction: the pending product is written at the end of its cycle, a product of its own
becomes pending, and the loop check is made on the next address (R186, R190). -/
def retire (r : Regs) (own : Option (BitVec 128)) (next : BitVec 15) : Regs :=
  loopCheck 5 { commitProduct r with pend := own } next

end Sys2Proof.Machine
end

