-- ==== Sys2Proof/Machine/Encoding.lean ====
section
/-! DEFINITION. How the bytes of an instruction store spell a strand's instructions (R179 to R183, R207, R208, R251):
the opcode map, the decoder, and the encoder. -/

namespace Sys2Proof.Machine

open Sys2Proof

/-! ## Classes with the prefixes an opcode allows (Table 05-5, the Prefixes columns of chapter 6) -/

/-- Class B with W32 and SX. -/
def encBWS : Enc := { encB with w := true, x := true }
/-- Class B with W32. -/
def encBW : Enc := { encB with w := true }
/-- Class B with SX. -/
def encBX : Enc := { encB with x := true }
/-- Class B with REP. -/
def encBR : Enc := { encB with r := true }
/-- Class B with FS32 and FD64. -/
def encBF : Enc := { encB with f := true }
/-- Class B with FS32, FD64 and TR. -/
def encBFT : Enc := { encB with f := true, t := true }
/-- Class B with FS32, FD64, TR and W32. -/
def encBFTW : Enc := { encBFT with w := true }
/-- Class B with FS32, FD64, TR, W32 and SX. -/
def encBFTWS : Enc := { encBFT with w := true, x := true }
/-- Class C with W32 and SX. -/
def encCWS : Enc := { encC with w := true, x := true }
/-- Class C with FS32, FD64 and TR. -/
def encCFT : Enc := { encC with f := true, t := true }
/-- Class C with TR. -/
def encCT : Enc := { encC with t := true }
/-- Class E with W32 and SX. -/
def encEWS : Enc := { encE with w := true, x := true }
/-- Class E with SX. -/
def encEX : Enc := { encE with x := true }

/-! ## The opcode map (Table 06-16) -/

/-- One assigned opcode: its class and prefixes; whether its operand byte names a destination register in bits [7:4] and
a source register in bits [3:0]; the bits of its immediate that are used, without and with W32; and the instruction of a
cell, prefixes, the two registers and the immediate (R182, R207). -/
structure OpRow where
  op    : Byte
  enc   : Enc
  useD  : Bool
  useS  : Bool
  used  : W64
  usedW : W64
  make  : CellId → Pfx → Reg → Reg → W64 → Instr

/-- Class A (Tables 06-2 and 06-12). -/
def rowsControl : List OpRow :=
  [⟨0x00, encA, false, false, 0x0, 0x0, fun c p _ _ _ => .nop c p⟩,
   ⟨0x01, encA, false, false, 0x0, 0x0, fun c p _ _ _ => .endStrand c p⟩,
   ⟨0x02, encA, false, false, 0x0, 0x0, fun c p _ _ _ => .fbar c p⟩,
   ⟨0x03, encA, false, false, 0x0, 0x0, fun c p _ _ _ => .lbrk c p⟩,
   ⟨0x04, encA, false, false, 0x0, 0x0, fun c p _ _ _ => .tableauInstr c p⟩,
   ⟨0x05, encA, false, false, 0x0, 0x0, fun c p _ _ _ => .retire c p⟩]

/-- Register forms of integer instructions (Tables 06-3, 06-5 and 06-7). -/
def rowsInteger : List OpRow :=
  [⟨0x10, encBWS, true, true, 0x0, 0x0, fun c p d s _ => .mov c p d s⟩,
   ⟨0x11, encBWS, true, true, 0x0, 0x0, fun c p d s _ => .add c p d s⟩,
   ⟨0x12, encBWS, true, true, 0x0, 0x0, fun c p d s _ => .sub c p d s⟩,
   ⟨0x13, encBWS, true, true, 0x0, 0x0, fun c p d s _ => .adc c p d s⟩,
   ⟨0x14, encBWS, true, true, 0x0, 0x0, fun c p d s _ => .sbc c p d s⟩,
   ⟨0x15, encBWS, true, true, 0x0, 0x0, fun c p d s _ => .andOp c p d s⟩,
   ⟨0x16, encBWS, true, true, 0x0, 0x0, fun c p d s _ => .orOp c p d s⟩,
   ⟨0x17, encBWS, true, true, 0x0, 0x0, fun c p d s _ => .xor c p d s⟩,
   ⟨0x18, encBWS, true, true, 0x0, 0x0, fun c p d s _ => .notOp c p d s⟩,
   ⟨0x19, encBWS, true, true, 0x0, 0x0, fun c p d s _ => .neg c p d s⟩,
   ⟨0x1A, encBWS, true, true, 0x0, 0x0, fun c p d s _ => .shl c p d s⟩,
   ⟨0x1B, encBWS, true, true, 0x0, 0x0, fun c p d s _ => .shr c p d s⟩,
   ⟨0x1C, encBWS, true, true, 0x0, 0x0, fun c p d s _ => .sar c p d s⟩,
   ⟨0x1D, encBWS, true, true, 0x0, 0x0, fun c p d s _ => .ror c p d s⟩,
   ⟨0x1E, encBW, true, true, 0x0, 0x0, fun c p d s _ => .clz c p d s⟩,
   ⟨0x1F, encBW, true, true, 0x0, 0x0, fun c p d s _ => .ctz c p d s⟩,
   ⟨0x20, encBW, true, true, 0x0, 0x0, fun c p d s _ => .popc c p d s⟩,
   ⟨0x21, encBW, true, true, 0x0, 0x0, fun c p d s _ => .cmpeq c p d s⟩,
   ⟨0x22, encBW, true, true, 0x0, 0x0, fun c p d s _ => .cmplt c p d s⟩,
   ⟨0x23, encBW, true, true, 0x0, 0x0, fun c p d s _ => .cmpltu c p d s⟩,
   ⟨0x24, encBWS, true, true, 0x0, 0x0, fun c p d s _ => .min c p d s⟩,
   ⟨0x25, encBWS, true, true, 0x0, 0x0, fun c p d s _ => .max c p d s⟩,
   ⟨0x26, encBWS, true, true, 0x0, 0x0, fun c p d s _ => .minu c p d s⟩,
   ⟨0x27, encBWS, true, true, 0x0, 0x0, fun c p d s _ => .maxu c p d s⟩,
   ⟨0x30, encBW, true, true, 0x0, 0x0, fun c p d s _ => .mul c p d s⟩,
   ⟨0x31, encBW, true, true, 0x0, 0x0, fun c p d s _ => .muls c p d s⟩,
   ⟨0x32, encBW, true, true, 0x0, 0x0, fun c p d s _ => .mulsu c p d s⟩,
   ⟨0x33, encBWS, true, true, 0x0, 0x0, fun c p d s _ => .divu c p d s⟩,
   ⟨0x34, encBWS, true, true, 0x0, 0x0, fun c p d s _ => .divs c p d s⟩]

/-- Memory, token, flow and branch instructions of class B (Tables 06-9, 06-12, 06-2, 06-8). -/
def rowsMemory : List OpRow :=
  [⟨0x40, encB, true, true, 0x0, 0x0, fun c p d s _ => .ld c p d s⟩,
   ⟨0x41, encBX, true, true, 0x0, 0x0, fun c p d s _ => .ldw c p d s⟩,
   ⟨0x42, encBX, true, true, 0x0, 0x0, fun c p d s _ => .ldh c p d s⟩,
   ⟨0x43, encBX, true, true, 0x0, 0x0, fun c p d s _ => .ldb c p d s⟩,
   ⟨0x44, encBR, true, true, 0x0, 0x0, fun c p d s _ => .st c p d s⟩,
   ⟨0x45, encBR, true, true, 0x0, 0x0, fun c p d s _ => .stw c p d s⟩,
   ⟨0x46, encBR, true, true, 0x0, 0x0, fun c p d s _ => .sth c p d s⟩,
   ⟨0x47, encBR, true, true, 0x0, 0x0, fun c p d s _ => .stb c p d s⟩,
   ⟨0x48, encB, true, true, 0x0, 0x0, fun c p d s _ => .iload c p d s⟩,
   ⟨0x49, encBR, true, true, 0x0, 0x0, fun c p d s _ => .istore c p d s⟩,
   ⟨0x4A, encBR, true, false, 0x0, 0x0, fun c p d _ _ => .iclear c p d⟩,
   ⟨0x4B, encB, true, true, 0x0, 0x0, fun c p d s _ => .gather c p d s⟩,
   ⟨0x4C, encB, true, true, 0x0, 0x0, fun c p d s _ => .scatter c p d s⟩,
   ⟨0x4D, encBR, true, true, 0x0, 0x0, fun c p d s _ => .bmov c p d s⟩,
   ⟨0x50, encB, true, true, 0x0, 0x0, fun c p d s _ => .send c p d s⟩,
   ⟨0x51, encB, true, true, 0x0, 0x0, fun c p d s _ => .sendc c p d s⟩,
   ⟨0x52, encB, true, true, 0x0, 0x0, fun c p d s _ => .sends c p d s⟩,
   ⟨0x53, encB, true, true, 0x0, 0x0, fun c p d s _ => .sendp c p d s⟩,
   ⟨0x54, encB, true, true, 0x0, 0x0, fun c p d s _ => .facq c p d s⟩,
   ⟨0x55, encB, false, true, 0x0, 0x0, fun c p _ s _ => .frel c p s⟩,
   ⟨0x56, encB, false, true, 0x0, 0x0, fun c p _ s _ => .jr c p s⟩,
   ⟨0x57, encB, true, false, 0x0, 0x0, fun c p d _ _ => .beat c p d⟩]

/-- Floating-point instructions of class B (Table 06-13). -/
def rowsFloat : List OpRow :=
  [⟨0x60, encBFT, true, true, 0x0, 0x0, fun c p d s _ => .fadd c p d s⟩,
   ⟨0x61, encBFT, true, true, 0x0, 0x0, fun c p d s _ => .fsub c p d s⟩,
   ⟨0x62, encBFT, true, true, 0x0, 0x0, fun c p d s _ => .fmul c p d s⟩,
   ⟨0x63, encBFT, true, true, 0x0, 0x0, fun c p d s _ => .fdiv c p d s⟩,
   ⟨0x64, encBFT, true, true, 0x0, 0x0, fun c p d s _ => .fmin c p d s⟩,
   ⟨0x65, encBFT, true, true, 0x0, 0x0, fun c p d s _ => .fmax c p d s⟩,
   ⟨0x66, encBFT, true, true, 0x0, 0x0, fun c p d s _ => .fcmpeq c p d s⟩,
   ⟨0x67, encBFT, true, true, 0x0, 0x0, fun c p d s _ => .fcmplt c p d s⟩,
   ⟨0x68, encBFT, true, true, 0x0, 0x0, fun c p d s _ => .fcmple c p d s⟩,
   ⟨0x69, encBFT, true, true, 0x0, 0x0, fun c p d s _ => .fcmpun c p d s⟩,
   ⟨0x6A, encBFT, true, true, 0x0, 0x0, fun c p d s _ => .fcvtf c p d s⟩,
   ⟨0x6B, encBFTWS, true, true, 0x0, 0x0, fun c p d s _ => .fcvti c p d s⟩,
   ⟨0x6C, encBFTWS, true, true, 0x0, 0x0, fun c p d s _ => .fcvtiz c p d s⟩,
   ⟨0x6D, encBFTWS, true, true, 0x0, 0x0, fun c p d s _ => .fcvtu c p d s⟩,
   ⟨0x6E, encBFTW, true, true, 0x0, 0x0, fun c p d s _ => .icvtf c p d s⟩,
   ⟨0x6F, encBFTW, true, true, 0x0, 0x0, fun c p d s _ => .ucvtf c p d s⟩,
   ⟨0x70, encBF, true, true, 0x0, 0x0, fun c p d s _ => .fneg c p d s⟩,
   ⟨0x71, encBF, true, true, 0x0, 0x0, fun c p d s _ => .fabs c p d s⟩]

/-- Class C (Tables 06-4, 06-8, 06-13, 06-7, 06-14, 06-11). -/
def rowsShort : List OpRow :=
  [⟨0x80, encCWS, true, true, 0x3F, 0x1F, fun c p d s m => .shli c p d s (m.setWidth 6)⟩,
   ⟨0x81, encCWS, true, true, 0x3F, 0x1F, fun c p d s m => .shri c p d s (m.setWidth 6)⟩,
   ⟨0x82, encCWS, true, true, 0x3F, 0x1F, fun c p d s m => .sari c p d s (m.setWidth 6)⟩,
   ⟨0x83, encCWS, true, true, 0x3F, 0x1F, fun c p d s m => .rori c p d s (m.setWidth 6)⟩,
   ⟨0x84, encC, true, false, 0xFF, 0xFF, fun c p d _ m => .rdsr c p d (m.setWidth 8)⟩,
   ⟨0x85, encC, false, true, 0xFF, 0xFF, fun c p _ s m => .wrsr c p (m.setWidth 8) s⟩,
   ⟨0x86, encCFT, true, true, 0xF, 0xF, fun c p d s m => .fma c p d s (m.setWidth 4)⟩,
   ⟨0x87, encCFT, true, true, 0xF, 0xF, fun c p d s m => .fms c p d s (m.setWidth 4)⟩,
   ⟨0x88, encCFT, true, true, 0xF, 0xF, fun c p d s m => .fnma c p d s (m.setWidth 4)⟩,
   ⟨0x89, encC, true, true, 0xF, 0xF, fun c p d s m => .sel c p d s (m.setWidth 4)⟩,
   ⟨0x8A, encC, true, true, 0xFF, 0xFF, fun c p d s m => .tli c p d s (m.setWidth 4) (m.extractLsb' 4 4)⟩,
   ⟨0x8B, encCT, true, true, 0xFF, 0xFF, fun c p d s m => .tlif c p d s (m.setWidth 4) (m.extractLsb' 4 4)⟩,
   ⟨0x8C, encC, true, false, 0xFF, 0xFF, fun c p d _ m => .take c p d (m.setWidth 8)⟩,
   ⟨0x8D, encC, false, true, 0xFF, 0xFF, fun c p _ s m => .put c p (m.setWidth 8) s⟩]

/-- Classes D to F (Tables 06-2, 06-7, 06-4). -/
def rowsLong : List OpRow :=
  [⟨0xA0, encD, false, false, 0x3FFF, 0x3FFF, fun c p _ _ m => .br c p (m.setWidth 14)⟩,
   ⟨0xA1, encD, false, true, 0x3FFF, 0x3FFF, fun c p _ s m => .loop c p s (m.setWidth 14)⟩,
   ⟨0xA2, encD, true, true, 0x3F3F, 0x3F3F, fun c p d s m => .bfx c p d s (m.setWidth 6) (m.extractLsb' 8 6)⟩,
   ⟨0xA3, encD, true, true, 0x3F3F, 0x3F3F, fun c p d s m => .bfi c p d s (m.setWidth 6) (m.extractLsb' 8 6)⟩,
   ⟨0xA4, encD, true, true, 0x3F3F, 0x3F3F, fun c p d s m => .bfxs c p d s (m.setWidth 6) (m.extractLsb' 8 6)⟩,
   ⟨0xC0, encEWS, true, true, 0xFFFFFFFF, 0xFFFFFFFF, fun c p d s m => .addi c p d s (m.setWidth 32)⟩,
   ⟨0xC1, encEWS, true, true, 0xFFFFFFFF, 0xFFFFFFFF, fun c p d s m => .andi c p d s (m.setWidth 32)⟩,
   ⟨0xC2, encEWS, true, true, 0xFFFFFFFF, 0xFFFFFFFF, fun c p d s m => .ori c p d s (m.setWidth 32)⟩,
   ⟨0xC3, encEWS, true, true, 0xFFFFFFFF, 0xFFFFFFFF, fun c p d s m => .xori c p d s (m.setWidth 32)⟩,
   ⟨0xC4, encEX, true, false, 0xFFFFFFFF, 0xFFFFFFFF, fun c p d _ m => .movi32 c p d (m.setWidth 32)⟩,
   ⟨0xC5, encE, false, false, 0xFFFF3FFF, 0xFFFF3FFF, fun c p _ _ m => .loopi c p (m.extractLsb' 16 16) (m.setWidth 14)⟩,
   ⟨0xE0, encF, true, false, 0xFFFFFFFFFFFFFFFF, 0xFFFFFFFFFFFFFFFF, fun c p d _ m => .movi c p d m⟩]

/-- The opcodes that are assigned (Table 06-16); every other one is reserved (R181). -/
def opRows : List OpRow :=
  rowsControl ++ rowsInteger ++ rowsMemory ++ rowsFloat ++ rowsShort ++ rowsLong

/-- The row of an opcode byte; none when it is reserved (R181). -/
def rowOf (op : Byte) : Option OpRow := opRows.find? (fun r => r.op == op)

/-! ## Decoding -/

/-- What a fetch finds: a reserved encoding, with the rule it breaks; or an instruction, with the rule broken by an unused
field of it that is not zero. -/
inductive What where
  | reserved (rule : Nat)
  | ins (i : Instr) (slack : Option Nat)
  deriving DecidableEq, Repr

/-- A fetch: what it found, and how many bytes it read. -/
structure Fetch where
  what : What
  len  : Nat
  deriving DecidableEq, Repr

/-- The prefixes with those of one more prefix byte; none for a prefix that is there already (R180, Table 05-4). -/
def addPrefix (p : Pfx) (b : Byte) : Option Pfx :=
  if b = 0xF0 then (if p.w32 then none else some { p with w32 := true })
  else if b = 0xF1 then (if p.fs32 then none else some { p with fs32 := true })
  else if b = 0xF2 then (if p.fd64 then none else some { p with fd64 := true })
  else if b = 0xF3 then (if p.rep then none else some { p with rep := true })
  else if b = 0xF5 then (if p.sx then none else some { p with sx := true })
  else if b = 0xF6 then (if p.tr then none else some { p with tr := true })
  else none

/-- The condition of a condition byte (Table 05-6); none for bit 7 set, COND 0b111, or REG not zero under a condition on
CF. -/
def conditionOf (b : Byte) : Option (BitVec 3 × BitVec 4) :=
  let cond : BitVec 3 := b.extractLsb' 4 3
  let reg : BitVec 4 := b.setWidth 4
  if b.getLsbD 7 || cond == 7 || ((cond == 4 || cond == 5) && reg != 0) then none else some (cond, reg)

/-- The prefixes before an opcode byte, how many bytes they take, and the bytes from the opcode byte on; or the rule that
they break and the bytes read (R179, R180, R183). `k` more prefixes are allowed. -/
def readPrefixes : Nat → Pfx → Nat → List Byte → Except Fetch (Pfx × Nat × List Byte)
  | _, _, n, [] => .error ⟨.reserved 184, n⟩
  | k, p, n, b :: r =>
    if b.toNat < 0xF0 then .ok (p, n, b :: r)
    else match k with
    | 0 => .error ⟨.reserved 180, n + 1⟩
    | k + 1 =>
      if 0xF7 ≤ b.toNat then .error ⟨.reserved 179, n + 1⟩
      else if b = 0xF4 then
        if p.cc.isSome then .error ⟨.reserved 180, n + 1⟩
        else match r with
          | [] => .error ⟨.reserved 184, n + 1⟩
          | x :: r' => (match conditionOf x with
            | none => .error ⟨.reserved 183, n + 2⟩
            | some cc => readPrefixes k { p with cc := some cc } (n + 2) r')
      else match addPrefix p b with
        | none => .error ⟨.reserved 180, n + 1⟩
        | some p' => readPrefixes k p' (n + 1) r

/-- The rule broken by an unused field that is not zero: bits [3:0] of a class F operand byte (R182), any other field of
the operand byte or the immediate (R207, R215). -/
def slackOf (row : OpRow) (p : Pfx) (d s : Reg) (imm : W64) : Option Nat :=
  if row.enc.bytes = 1 then none
  else if !row.useS && s != 0 then some (if row.enc.bytes = 10 then 182 else 207)
  else if (!row.useD && d != 0) || imm &&& ~~~(if p.w32 then row.usedW else row.used) != 0 then some 207
  else none

/-- The instruction of cell `c` that bytes spell (R179 to R183, R207, R251). -/
def decodeIns (c : CellId) (bs : List Byte) : Fetch :=
  match readPrefixes 3 Pfx.none 0 bs with
  | .error f => f
  | .ok (p, n, rest) =>
    let op := rest.headD 0
    match rowOf op with
    | none => ⟨.reserved 181, n + 1⟩
    | some row =>
      let len := n + row.enc.bytes
      let o : Byte := if row.enc.bytes = 1 then 0 else (rest.drop 1).headD 0
      let d : Reg := o.extractLsb' 4 4
      let s : Reg := o.setWidth 4
      let imm : W64 := BitVec.ofNat 64 (leNat ((rest.drop 2).take (row.enc.bytes - 2)))
      if !prefixLegal row.enc p then ⟨.reserved 180, n + 1⟩
      else ⟨.ins (row.make c p d s imm) (slackOf row p d s imm), len⟩

/-- What the strand of cell `c` fetches at a program address; the longest instruction has 12 bytes (R181). -/
def fetchOf (x : Cell) (c : CellId) (pc : BitVec 15) : Fetch :=
  decodeIns c ((List.range 12).map fun k => mget 0 x.istore (pc.toNat + k))

/-! ## Encoding -/

/-- The fields of an instruction: its cell, prefixes, opcode, registers and immediate. -/
structure Fields where
  cell : CellId
  pfx  : Pfx
  op   : Byte
  d    : Reg
  s    : Reg
  imm  : W64
  deriving DecidableEq, Repr

/-- The fields of a strand's instruction (the Opcode and Syntax columns of chapter 6); none for a command that is no
instruction. -/
def fieldsOf : Instr → Option Fields
  | .nop c p => some ⟨c, p, 0x00, 0, 0, 0⟩
  | .endStrand c p => some ⟨c, p, 0x01, 0, 0, 0⟩
  | .fbar c p => some ⟨c, p, 0x02, 0, 0, 0⟩
  | .lbrk c p => some ⟨c, p, 0x03, 0, 0, 0⟩
  | .tableauInstr c p => some ⟨c, p, 0x04, 0, 0, 0⟩
  | .retire c p => some ⟨c, p, 0x05, 0, 0, 0⟩
  | .mov c p rd rs => some ⟨c, p, 0x10, rd, rs, 0⟩
  | .add c p rd rs => some ⟨c, p, 0x11, rd, rs, 0⟩
  | .sub c p rd rs => some ⟨c, p, 0x12, rd, rs, 0⟩
  | .adc c p rd rs => some ⟨c, p, 0x13, rd, rs, 0⟩
  | .sbc c p rd rs => some ⟨c, p, 0x14, rd, rs, 0⟩
  | .andOp c p rd rs => some ⟨c, p, 0x15, rd, rs, 0⟩
  | .orOp c p rd rs => some ⟨c, p, 0x16, rd, rs, 0⟩
  | .xor c p rd rs => some ⟨c, p, 0x17, rd, rs, 0⟩
  | .notOp c p rd rs => some ⟨c, p, 0x18, rd, rs, 0⟩
  | .neg c p rd rs => some ⟨c, p, 0x19, rd, rs, 0⟩
  | .shl c p rd rs => some ⟨c, p, 0x1A, rd, rs, 0⟩
  | .shr c p rd rs => some ⟨c, p, 0x1B, rd, rs, 0⟩
  | .sar c p rd rs => some ⟨c, p, 0x1C, rd, rs, 0⟩
  | .ror c p rd rs => some ⟨c, p, 0x1D, rd, rs, 0⟩
  | .clz c p rd rs => some ⟨c, p, 0x1E, rd, rs, 0⟩
  | .ctz c p rd rs => some ⟨c, p, 0x1F, rd, rs, 0⟩
  | .popc c p rd rs => some ⟨c, p, 0x20, rd, rs, 0⟩
  | .cmpeq c p rd rs => some ⟨c, p, 0x21, rd, rs, 0⟩
  | .cmplt c p rd rs => some ⟨c, p, 0x22, rd, rs, 0⟩
  | .cmpltu c p rd rs => some ⟨c, p, 0x23, rd, rs, 0⟩
  | .min c p rd rs => some ⟨c, p, 0x24, rd, rs, 0⟩
  | .max c p rd rs => some ⟨c, p, 0x25, rd, rs, 0⟩
  | .minu c p rd rs => some ⟨c, p, 0x26, rd, rs, 0⟩
  | .maxu c p rd rs => some ⟨c, p, 0x27, rd, rs, 0⟩
  | .mul c p rd rs => some ⟨c, p, 0x30, rd, rs, 0⟩
  | .muls c p rd rs => some ⟨c, p, 0x31, rd, rs, 0⟩
  | .mulsu c p rd rs => some ⟨c, p, 0x32, rd, rs, 0⟩
  | .divu c p rd rs => some ⟨c, p, 0x33, rd, rs, 0⟩
  | .divs c p rd rs => some ⟨c, p, 0x34, rd, rs, 0⟩
  | .ld c p rd rs => some ⟨c, p, 0x40, rd, rs, 0⟩
  | .ldw c p rd rs => some ⟨c, p, 0x41, rd, rs, 0⟩
  | .ldh c p rd rs => some ⟨c, p, 0x42, rd, rs, 0⟩
  | .ldb c p rd rs => some ⟨c, p, 0x43, rd, rs, 0⟩
  | .st c p rd rs => some ⟨c, p, 0x44, rd, rs, 0⟩
  | .stw c p rd rs => some ⟨c, p, 0x45, rd, rs, 0⟩
  | .sth c p rd rs => some ⟨c, p, 0x46, rd, rs, 0⟩
  | .stb c p rd rs => some ⟨c, p, 0x47, rd, rs, 0⟩
  | .iload c p rd rs => some ⟨c, p, 0x48, rd, rs, 0⟩
  | .istore c p rd rs => some ⟨c, p, 0x49, rd, rs, 0⟩
  | .iclear c p rd => some ⟨c, p, 0x4A, rd, 0, 0⟩
  | .gather c p rd rs => some ⟨c, p, 0x4B, rd, rs, 0⟩
  | .scatter c p rd rs => some ⟨c, p, 0x4C, rd, rs, 0⟩
  | .bmov c p rd rs => some ⟨c, p, 0x4D, rd, rs, 0⟩
  | .send c p rd rs => some ⟨c, p, 0x50, rd, rs, 0⟩
  | .sendc c p rd rs => some ⟨c, p, 0x51, rd, rs, 0⟩
  | .sends c p rd rs => some ⟨c, p, 0x52, rd, rs, 0⟩
  | .sendp c p rd rs => some ⟨c, p, 0x53, rd, rs, 0⟩
  | .facq c p rd rs => some ⟨c, p, 0x54, rd, rs, 0⟩
  | .frel c p rs => some ⟨c, p, 0x55, 0, rs, 0⟩
  | .jr c p rs => some ⟨c, p, 0x56, 0, rs, 0⟩
  | .beat c p rd => some ⟨c, p, 0x57, rd, 0, 0⟩
  | .fadd c p rd rs => some ⟨c, p, 0x60, rd, rs, 0⟩
  | .fsub c p rd rs => some ⟨c, p, 0x61, rd, rs, 0⟩
  | .fmul c p rd rs => some ⟨c, p, 0x62, rd, rs, 0⟩
  | .fdiv c p rd rs => some ⟨c, p, 0x63, rd, rs, 0⟩
  | .fmin c p rd rs => some ⟨c, p, 0x64, rd, rs, 0⟩
  | .fmax c p rd rs => some ⟨c, p, 0x65, rd, rs, 0⟩
  | .fcmpeq c p rd rs => some ⟨c, p, 0x66, rd, rs, 0⟩
  | .fcmplt c p rd rs => some ⟨c, p, 0x67, rd, rs, 0⟩
  | .fcmple c p rd rs => some ⟨c, p, 0x68, rd, rs, 0⟩
  | .fcmpun c p rd rs => some ⟨c, p, 0x69, rd, rs, 0⟩
  | .fcvtf c p rd rs => some ⟨c, p, 0x6A, rd, rs, 0⟩
  | .fcvti c p rd rs => some ⟨c, p, 0x6B, rd, rs, 0⟩
  | .fcvtiz c p rd rs => some ⟨c, p, 0x6C, rd, rs, 0⟩
  | .fcvtu c p rd rs => some ⟨c, p, 0x6D, rd, rs, 0⟩
  | .icvtf c p rd rs => some ⟨c, p, 0x6E, rd, rs, 0⟩
  | .ucvtf c p rd rs => some ⟨c, p, 0x6F, rd, rs, 0⟩
  | .fneg c p rd rs => some ⟨c, p, 0x70, rd, rs, 0⟩
  | .fabs c p rd rs => some ⟨c, p, 0x71, rd, rs, 0⟩
  | .shli c p rd rs n => some ⟨c, p, 0x80, rd, rs, n.setWidth 64⟩
  | .shri c p rd rs n => some ⟨c, p, 0x81, rd, rs, n.setWidth 64⟩
  | .sari c p rd rs n => some ⟨c, p, 0x82, rd, rs, n.setWidth 64⟩
  | .rori c p rd rs n => some ⟨c, p, 0x83, rd, rs, n.setWidth 64⟩
  | .rdsr c p rd n => some ⟨c, p, 0x84, rd, 0, n.setWidth 64⟩
  | .wrsr c p n rs => some ⟨c, p, 0x85, 0, rs, n.setWidth 64⟩
  | .fma c p rd rs rt => some ⟨c, p, 0x86, rd, rs, rt.setWidth 64⟩
  | .fms c p rd rs rt => some ⟨c, p, 0x87, rd, rs, rt.setWidth 64⟩
  | .fnma c p rd rs rt => some ⟨c, p, 0x88, rd, rs, rt.setWidth 64⟩
  | .sel c p rd rs rt => some ⟨c, p, 0x89, rd, rs, rt.setWidth 64⟩
  | .tli c p rd rs rt k => some ⟨c, p, 0x8A, rd, rs, (k ++ rt : BitVec 8).setWidth 64⟩
  | .tlif c p rd rs rt k => some ⟨c, p, 0x8B, rd, rs, (k ++ rt : BitVec 8).setWidth 64⟩
  | .take c p rd n => some ⟨c, p, 0x8C, rd, 0, n.setWidth 64⟩
  | .put c p n rs => some ⟨c, p, 0x8D, 0, rs, n.setWidth 64⟩
  | .br c p a => some ⟨c, p, 0xA0, 0, 0, a.setWidth 64⟩
  | .loop c p rs a => some ⟨c, p, 0xA1, 0, rs, a.setWidth 64⟩
  | .bfx c p rd rs l w => some ⟨c, p, 0xA2, rd, rs, (w ++ (0 : BitVec 2) ++ l : BitVec 14).setWidth 64⟩
  | .bfi c p rd rs l w => some ⟨c, p, 0xA3, rd, rs, (w ++ (0 : BitVec 2) ++ l : BitVec 14).setWidth 64⟩
  | .bfxs c p rd rs l w => some ⟨c, p, 0xA4, rd, rs, (w ++ (0 : BitVec 2) ++ l : BitVec 14).setWidth 64⟩
  | .addi c p rd rs n => some ⟨c, p, 0xC0, rd, rs, n.setWidth 64⟩
  | .andi c p rd rs n => some ⟨c, p, 0xC1, rd, rs, n.setWidth 64⟩
  | .ori c p rd rs n => some ⟨c, p, 0xC2, rd, rs, n.setWidth 64⟩
  | .xori c p rd rs n => some ⟨c, p, 0xC3, rd, rs, n.setWidth 64⟩
  | .movi32 c p rd n => some ⟨c, p, 0xC4, rd, 0, n.setWidth 64⟩
  | .loopi c p n a => some ⟨c, p, 0xC5, 0, 0, (n ++ (0 : BitVec 2) ++ a : BitVec 32).setWidth 64⟩
  | .movi c p rd n => some ⟨c, p, 0xE0, rd, 0, n⟩
  | _ => none

/-- The bytes of the prefixes, W32 first and CC last (Tables 05-4 and 05-6). -/
def prefixBytes (p : Pfx) : List Byte :=
  (if p.w32 then [0xF0] else []) ++ (if p.fs32 then [0xF1] else []) ++ (if p.fd64 then [0xF2] else []) ++
  (if p.rep then [0xF3] else []) ++ (if p.sx then [0xF5] else []) ++ (if p.tr then [0xF6] else []) ++
  (match p.cc with
   | some (cond, reg) => [0xF4, (0 : BitVec 1) ++ cond ++ reg]
   | none => [])

/-- The bytes that spell an instruction: one order of its prefixes, unused fields zero; none for a command that is no
instruction. -/
def encodeIns (i : Instr) : Option (List Byte) :=
  (fieldsOf i).bind fun f => (rowOf f.op).map fun row =>
    prefixBytes f.pfx ++ [f.op] ++ (if row.enc.bytes = 1 then [] else [f.d ++ f.s]) ++
      leBytes (row.enc.bytes - 2) f.imm.toNat

/-- An instruction's cell, its prefixes, and what its opcode fixes (Tables 05-5 and 06-1). -/
def strandForm (i : Instr) : Option (CellId × Pfx × Enc) :=
  (fieldsOf i).bind fun f => (rowOf f.op).map fun row => (f.cell, f.pfx, row.enc)

/-- An instruction that bytes can spell: its prefixes are legal, its condition is defined, and with W32 it sets no bit of a
shift amount that is unused (R180, R183, R215). -/
def encodable (i : Instr) : Bool :=
  match fieldsOf i with
  | none => false
  | some f => match rowOf f.op with
    | none => false
    | some row => prefixLegal row.enc f.pfx && ccLegal f.pfx && slackOf row f.pfx f.d f.s f.imm == none

end Sys2Proof.Machine
end

