-- ==== Sys2Proof/Machine/Fabric.lean ====
section
/-! DEFINITION. How flits are made, steered and offered to the weave (chapter 10), how probes see them, and how a fault
report is made (chapter 17). -/

namespace Sys2Proof.Machine

open Sys2Proof

/-! ## Flits -/

/-- TYPE and VN of a message (Table 10-3, R383). -/
def msgType : Msg → BitVec 4
  | .token _ => 0x0
  | .read _ _ _ => 0x1
  | .write _ _ _ _ _ => 0x2
  | .iread _ => 0x3
  | .iwrite _ _ _ _ => 0x4
  | .iclear _ _ => 0x5
  | .take _ _ _ _ => 0x6
  | .put _ _ => 0x6
  | .acquire _ _ _ _ _ _ => 0x7
  | .release _ _ _ => 0x7
  | .slotWrite _ _ _ => 0x8
  | .slotLink _ _ => 0x8
  | .slotRead _ _ => 0x8
  | .recordWrite _ _ _ => 0x8
  | .recordRead _ _ _ => 0x8
  | .pageRequest _ _ _ => 0x8
  | .pageRelease _ => 0x8
  | .slotReturn _ _ _ _ => 0x9
  | .recordReturn _ _ _ => 0x9
  | .retry _ => 0xA
  | .ackElement _ _ => 0xB
  | .ackLock _ => 0xB
  | .ackPage _ _ _ _ => 0xB
  | .tableData _ _ _ => 0xC
  | .hostData _ _ _ => 0xC
  | .lock _ _ _ _ => 0xD
  | .unlock _ _ => 0xD
  | .retire _ => 0xD
  | .iterBase _ _ => 0xD

/-- The virtual network of a message (R383). -/
def msgVn (m : Msg) : BitVec 2 :=
  match m with
  | .token t => if kindOf t.flags = 1 ∨ kindOf t.flags = 3 then 3 else 0
  | m => let ty := msgType m
         if ty = 0xD then 3 else if 9 ≤ ty.toNat then 2 else 1

/-- The device reads a descriptor for tokens of this context: not of contexts 0 to 15 (R133), nor of those without a
descriptor (R135). -/
def hasDescriptor (s : State) (c : BitVec 14) : Bool := decide (16 ≤ c.toNat) && decide (c.toNat < ctxLimit s)

/-- A word of a context's descriptor cannot be read (Table 08-4). -/
def descBad (m : Mem) (c : BitVec 14) (word : Nat) : Bool := eccAt m (descAddr c + 8 * word) == .double

/-- Where a token goes (Table 10-4): tile, and whether its extra port. A context at or above the limit has no
descriptor, and its tokens go to their cell (R135). A token of KIND fault is a report, which never leaves through a row
link (R661); a token whose descriptor cannot be read goes to its cell, which converts it (log 16). -/
def tokenDest (s : State) (t : Token) : TileId × Bool :=
  let remote := hasDescriptor s t.context && ctxRemote s.mem t.context && !descBad s.mem t.context 0
  if t.context = 0 ∨ t.context = 5 then (63, true)
  else if t.context = 1 then (0, true)
  else if t.context = 2 then (7, true)
  else if (t.context = 3 ∨ t.context = 4 ∨ remote) ∧ kindOf t.flags ≠ 1 then (56, true)
  else (tileOf t.cell, false)

/-- Where a request to a fabric address goes (Table 10-4). -/
def addrDest (a : Addr) : TileId × Bool :=
  match rangeOf a with
  | .bank => (bankOf a, false)
  | .host => (0, true)
  | _ => (63, true)

/-- Where a stream-port request goes (Table 10-4). -/
def portDest (p : BitVec 8) : TileId × Bool :=
  if p = 2 ∨ p = 3 then (56, true) else if p = 4 then (7, true) else (63, true)

/-- The lock home quadrant of a flow under a context's mode word (R347). -/
def lockHome (mw : W64) (f : BitVec 12) : BitVec 2 :=
  if mwFlowhome mw = 1 then mwFlowq mw else f.setWidth 2

/-- Where a message goes (Table 10-4); notices that go to each tile in turn are given their tile by their maker. -/
def msgDest (s : State) : Msg → TileId × Bool
  | .token t => tokenDest s t
  | .read a _ _ => addrDest a
  | .write a _ _ _ _ => addrDest a
  | .iread r => addrDest r.addr
  | .iwrite a _ _ _ => addrDest a
  | .iclear a _ => addrDest a
  | .take p _ _ _ => portDest p
  | .put p _ => portDest p
  | .acquire q _ _ _ _ _ => (lockTile q, false)
  | .release q _ _ => (lockTile q, false)
  | .slotWrite a _ _ => (bankOf a, false)
  | .slotLink a _ => (bankOf a, false)
  | .slotRead _ a => (bankOf a, false)
  | .recordWrite _ a _ => (bankOf a, false)
  | .recordRead _ a _ => (bankOf a, false)
  | .pageRequest c _ _ => (lockTile (quadOf c), false)
  | .pageRelease p => (lockTile (quadOfTile (p.extractLsb' 7 6)), false)
  | .slotReturn c _ _ _ => (tileOf c, false)
  | .recordReturn c _ _ => (tileOf c, false)
  | .retry r => (tileOf r.cell, false)
  | .ackElement e _ => (tileOf e.cell, false)
  | .ackLock q => (lockTile q, false)
  | .ackPage c _ _ _ => (tileOf c, false)
  | .tableData c _ _ => (tileOf c, false)
  | .hostData _ _ _ => (0, true)
  | .lock _ _ _ _ => (0, false)
  | .unlock _ _ => (0, false)
  | .retire _ => (63, true)
  | .iterBase _ _ => (0, false)

/-- A message that goes to each tile in turn, whose flit its maker steers (Table 10-4). -/
def isNotice : Msg → Bool
  | .lock _ _ _ _ => true
  | .unlock _ _ => true
  | .iterBase _ _ => true
  | _ => false

/-- A token of an answer on its way to the face of its request: the steward steers it (R142). -/
def isAnswer (f : Flit) : Bool := f.src == 63 && f.origin != .strand

/-- A flit steered from its message (R382); the home node of a token to a remote context goes with it (R478). -/
def steer (s : State) (f : Flit) : Flit :=
  if isNotice f.msg || isAnswer f then f
  else { f with dest := (msgDest s f.msg).1, extra := (msgDest s f.msg).2,
                home := (match f.msg with | .token t => ctxHome s.mem t.context | _ => 0) }

/-- A flit made at tile `src` (R380 to R383, R387, R389, R390); VN2 and VN3 flits take P3. -/
def mkFlit (s : State) (src : TileId) (pri : BitVec 2) (o : Origin) (x : Msg) : Flit :=
  steer s { vn := msgVn x, vc := 0, pri := if 2 ≤ (msgVn x).toNat then 3 else pri, age := 0, dest := src, extra := false,
            src := src, origin := o, waits := 0, home := 0, admitted := 0, msg := x }

/-- A notice to one tile (Table 10-4). -/
def mkNotice (src dest : TileId) (x : Msg) : Flit :=
  { vn := 3, vc := 0, pri := 3, age := 0, dest := dest, extra := false, src := src, origin := .strand, waits := 0,
    home := 0, admitted := 0, msg := x }

/-- The flit header (Table 10-2). -/
def flitHeader (f : Flit) : BitVec 32 :=
  f.vn ++ f.vc ++ f.pri ++ f.age ++ f.dest ++ (0 : BitVec 1) ++ BitVec.ofBool f.extra ++ f.src ++ msgType f.msg ++
    (0 : BitVec 3)

/-! ## Channels -/

/-- The key of an input channel (R391). -/
def chanKey (t : TileId) (port : Nat) (vn : BitVec 2) (vc : BitVec 1) : Nat :=
  ((t.toNat * 6 + port) * 4 + vn.toNat) * 2 + vc.toNat
/-- The key of the flits that have reached the endpoints of a local or extra port on one network. -/
def outKey (t : TileId) (extra : Bool) (vn : BitVec 2) : Nat := (t.toNat * 2 + extra.toNat) * 4 + vn.toNat
/-- The key of a local or extra port's offers. -/
def offerKey (t : TileId) (extra : Bool) : Nat := t.toNat * 2 + extra.toNat
/-- The number of a local or extra port (Table 10-1). -/
def portNum (extra : Bool) : Nat := if extra then 5 else 4

/-- An input channel's flits. -/
def chanAt (w : Weave) (k : Nat) : List Flit := mget [] w.chans k
/-- A channel has a free slot whose credit is back (R740). -/
def chanRoom (w : Weave) (k : Nat) : Bool := decide ((chanAt w k).length + mget 0 w.owed k < 2)
/-- The flits that have reached a port's endpoints on one network, in the order of their arrival. -/
def outAt (w : Weave) (k : Nat) : List Flit := mget [] w.outs k
/-- The weave with those flits replaced. -/
def setOut (w : Weave) (k : Nat) (fs : List Flit) : Weave := { w with outs := mset [] w.outs k fs }
/-- The offers at a port. -/
def offersAt (w : Weave) (k : Nat) : List Offer := mget [] w.offers k
/-- The weave with a port's offers replaced. -/
def setOffers (w : Weave) (k : Nat) (os : List Offer) : Weave := { w with offers := mset [] w.offers k os }

/-! ## Probes (R396 to R398) -/

/-- A probe's watched side, port and tile see this flit. -/
def probeMatches (p : ProbeParams) (tile : TileId) (port : Nat) (side : Bool) (f : Flit) : Bool :=
  p.enable && p.tile == tile && p.port.toNat == port && p.side == side && p.vnmask.getLsbD f.vn.toNat &&
  (flitHeader f &&& p.hmask) == (p.hval &&& p.hmask) &&
  (match f.msg with
   | .token t => (tokenW2 t &&& p.w2mask) == (p.w2val &&& p.w2mask) &&
                 (tokenW3 t &&& p.w3mask) == (p.w3val &&& p.w3mask) &&
                 (tokenW4 t &&& p.w4mask) == (p.w4val &&& p.w4mask)
   | _ => p.w2mask == 0 && p.w3mask == 0 && p.w4mask == 0)

/-- A trace record (Table 10-7). -/
def traceRecord (beat : BitVec 48) (f : Flit) (drop : Bool) : W64 :=
  let cp : BitVec 16 := match f.msg with | .token t => t.context ++ t.port | _ => 0
  (beat.setWidth 20 : BitVec 20) ++ f.vn ++ f.vc ++ f.age ++ f.pri ++ msgType f.msg ++ f.src ++ f.dest ++ cp ++
    BitVec.ofBool drop

/-- A probe after a flit has crossed (R397, R398). `waited`: the cycles the flit waited in the router. -/
def probeSee (beat : BitVec 48) (tile : TileId) (port : Nat) (side : Bool) (f : Flit) (waited : Nat) (p : Probe) :
    Probe :=
  match p.params with
  | none => p
  | some q =>
    if probeMatches q tile port side f then
      let due := q.trace && p.seen % (q.sample.toNat + 1) == 0
      let full := decide (8 ≤ p.trace.length)
      { p with
        matched := satAdd p.matched 1
        waited := if side then satAdd p.waited waited else p.waited
        seen := p.seen + 1
        trace := if due && !full then p.trace ++ [traceRecord beat f p.drop] else p.trace
        dropped := satIf (due && full) p.dropped
        drop := if due then full else p.drop }
    else p

/-- Every probe after a flit has crossed one side of one port (R405). -/
def probesSee (w : Weave) (beat : BitVec 48) (tile : TileId) (port : Nat) (side : Bool) (f : Flit) (waited : Nat) :
    List (Nat × Probe) :=
  w.probes.map (fun e => (e.1, probeSee beat tile port side f waited e.2))

/-! ## Reads that find errors (R307, R308) -/

/-- A place that serves requests: the bank of a tile, keep memory, or another block at an extra port. -/
inductive Place where
  | bank (t : TileId)
  | keep
  | extra (t : TileId)
  deriving DecidableEq, Repr

/-- A place's tile. -/
def Place.tile : Place → TileId
  | .bank t => t
  | .keep => 63
  | .extra t => t

/-- Memory with a corrected error counted at a place (R308, R310). -/
def countCorrected (m : Mem) : Place → Mem
  | .bank t => setBank m t { bankAt m t with corrected := satAdd (bankAt m t).corrected 1 }
  | .keep => { m with keepCorr := satAdd m.keepCorr 1 }
  | .extra _ => m

/-- Memory with a double-bit error counted at a place (R308, R310). -/
def countDouble (m : Mem) : Place → Mem
  | .bank t => setBank m t { bankAt m t with uncorrect := satAdd (bankAt m t).uncorrect 1 }
  | .keep => { m with keepUncorr := satAdd m.keepUncorr 1 }
  | .extra _ => m

/-- Memory after a word has been read: a single-bit error corrected and counted, a double-bit error counted
(Table 08-4). -/
def checkWord (m : Mem) (pl : Place) (a : Addr) : Mem :=
  match eccAt m a.toNat with
  | .ok => m
  | .single _ => countCorrected (setEcc m a.toNat .ok) pl
  | .double => countDouble m pl

/-- The tile whose bank holds a context's descriptor (R659). -/
def descTile (c : BitVec 14) : TileId := bankOf (BitVec.ofNat 48 (descAddr c))

/-- Memory after the device has read a word of a context's descriptor: a plain read of its bank (R308). Of contexts 0
to 15 no descriptor is read (R133). -/
def readDescriptor (m : Mem) (c : BitVec 14) (word : Nat) : Mem :=
  if c.toNat < 16 then m else checkWord m (.bank (descTile c)) (BitVec.ofNat 48 (descAddr c + 8 * word))

/-! ## Entering the weave (R136, R382, R389, R392) -/

/-- A flit enters an input channel; the probes on the port's entering side see it. -/
def enter (w : Weave) (beat : BitVec 48) (t : TileId) (port : Nat) (f : Flit) : Weave :=
  { w with
    chans := mset [] w.chans (chanKey t port f.vn f.vc) (chanAt w (chanKey t port f.vn f.vc) ++ [f])
    probes := probesSee w beat t port false f 0 }

/-- A RETRY that a running cell of the tile re-issues as soon as VN1 accepts it (R384). One that has been refused 4095
times before is given up instead (R305). -/
def isReissue (s : State) : Msg → Bool
  | .retry r => cellUp s r.cell && r.retry != 4095
  | _ => false

/-- A re-issue waits for a tile's local port, and goes before every other VN1 flit of the tile (R384). -/
def reissueWaits (s : State) (t : TileId) : Bool :=
  (outAt s.weave (outKey t false 2)).any (fun f => isReissue s f.msg) ||
  ([0, 1, 2, 3] : List (BitVec 2)).any fun i => (cellAt s (cellOf t i)).room.any (isReissue s)

/-- A local or extra port can accept a flit of this network now. -/
def canEnter (s : State) (t : TileId) (extra : Bool) (vn : BitVec 2) : Bool :=
  chanRoom s.weave (chanKey t (portNum extra) vn 0) && !(vn == 1 && !extra && reissueWaits s t)

/-- The PRI that an offered flit takes as it enters (R389). A PRIORITY that cannot be read is free. -/
def offerPri (s : State) (o : Offer) : BitVec 2 :=
  match o.prio with
  | some c =>
    if 2 ≤ o.flit.vn.toNat then 3
    else if hasDescriptor s c && descBad s.mem c 0 then (freeNow s).setWidth 2
    else ctxPriority s.mem c
  | none => o.flit.pri

/-- An offered flit as it would enter now: DEST, HOME_NODE and PRIORITY are those of the moment (R136, R382, R389). -/
def settled (s : State) (o : Offer) : Flit := { steer s o.flit with pri := offerPri s o }

/-- The contexts whose mode words the device reads to steer an offered flit and to give it its PRI. -/
def offerContexts (s : State) (o : Offer) : List (BitVec 14) :=
  ((match o.prio with | some c => if 2 ≤ o.flit.vn.toNat then [] else [c] | none => []) ++
    (match o.flit.msg with | .token t => [t.context] | _ => [])).filter (hasDescriptor s)

/-- A flit offered at a local or extra port enters the weave. -/
def offerEnters (s : State) (t : TileId) (extra : Bool) (o : Offer) : State :=
  { s with
    weave := enter s.weave s.time.beat t (portNum extra) (settled s o)
    mem := (offerContexts s o).foldl (fun m c => readDescriptor m c 0) s.mem
    freeCounter := s.freeCounter + 1 }

/-- Urgency U of R391. -/
def urgency (f : Flit) : Nat := 64 * f.pri.toNat + f.age.toNat

/-- How an offer ranks at its port, greater first (R392): urgency, then the port turn order. A strand's own flit carries
its cell's number plus 16. -/
def offerRank (s : State) (t : TileId) (o : Offer) : Nat :=
  let n := if (lockQuad t).isSome then 7 else 6
  urgency (settled s o) * 8 + (7 - (o.req % 16 + n * 64 - (s.time.beat.toNat + t.toNat) % n) % n)

/-- The best of a list under a rank; the first of equals. -/
def bestBy {α : Type} (rank : α → Nat) : List α → Option α
  | [] => none
  | x :: r => match bestBy rank r with
    | none => some x
    | some y => if rank x < rank y then some y else some x

/-- The offers whose turn it may be: each requester's flits of one network go in order, and a bank's flits all do
(R299). -/
def inTurn (extra : Bool) : List (Nat × BitVec 2) → List Offer → List Offer
  | _, [] => []
  | seen, o :: r =>
    let bank := o.req == 4 && !extra
    let behind := if bank then seen.any (fun x => x.1 == 4) else seen.contains (o.req, o.flit.vn)
    if behind then inTurn extra seen r else o :: inTurn extra ((o.req, o.flit.vn) :: seen) r

/-- A port accepts the offers that it can, each time the best of those whose turn it is (R392). -/
def drainPort (t : TileId) (extra : Bool) : Nat → State → State
  | 0, s => s
  | n + 1, s =>
    let os := offersAt s.weave (offerKey t extra)
    match bestBy (offerRank s t) ((inTurn extra [] os).filter fun o => canEnter s t extra o.flit.vn) with
    | none => s
    | some o => drainPort t extra n (offerEnters { s with weave := setOffers s.weave (offerKey t extra) (os.erase o) } t extra o)

/-- A port accepts what it can of everything offered; without power its router accepts nothing (R571). -/
def drain (s : State) (t : TileId) (extra : Bool) : State :=
  if powered s (2 + (quadOfTile t).toNat) then drainPort t extra (offersAt s.weave (offerKey t extra)).length s else s

/-- A block offers a flit to a local or extra port, which accepts it at once where it can (R392). -/
def produce (s : State) (t : TileId) (extra : Bool) (o : Offer) : State :=
  drain { s with weave := setOffers s.weave (offerKey t extra) (offersAt s.weave (offerKey t extra) ++ [o]) } t extra

/-- Flits that one block offers in order. -/
def produceAll (s : State) (t : TileId) (extra : Bool) (os : List Offer) : State :=
  os.foldl (fun s o => produce s t extra o) s

/-- No flit of this network waits at a port, and it accepts one now. -/
def portRoom (s : State) (t : TileId) (extra : Bool) (vn : BitVec 2) : Bool :=
  canEnter s t extra vn && (offersAt s.weave (offerKey t extra)).all (fun o => o.flit.vn != vn)

/-- One flit that a block at a tile's local port produces. -/
def produceLocal (s : State) (t : TileId) (req : Nat) (f : Flit) : State := produce s t false ⟨req, none, f⟩

/-- One flit that the block at a tile's extra port produces. -/
def produceExtra (s : State) (t : TileId) (f : Flit) : State := produce s t true ⟨0, none, f⟩

/-! ## Fault reports (R655 to R664) -/

/-- The context of a packed tag. -/
def tagContext (w : W64) : BitVec 14 := w.extractLsb' 50 14

/-- The fault word (Table 17-1). -/
def faultWord (code : BitVec 8) (access : BitVec 4) (info : BitVec 48) : W64 :=
  info ++ (0 : BitVec 4) ++ access ++ code

/-- The default handler, or the graph hook when it is none (R137). -/
def defaultHandler (s : State) : W64 :=
  match s.stw.image with
  | none => 0
  | some i => if i.handler = 0 then i.hook else i.handler

/-- The tag a context-route report goes to (R137). -/
def handlerFor (s : State) (c : BitVec 14) : W64 :=
  if ctxHandler s.mem c = 0 then defaultHandler s else ctxHandler s.mem c

/-- A token of KIND fault to a handler (R655): PORT 3, FLOW 0. -/
def faultToken (tag value : W64) (serial : BitVec 16) (dl : BitVec 20) : Token :=
  let t := unpackTag tag
  { value := value, context := t.context, iteration := serial, port := 3, cell := t.cell, iaddr := t.iaddr,
    flags := kindFault, deadline := dl, flow := 0 }

/-- A fault token as its maker offers it. -/
def faultOffer (s : State) (src : TileId) (req : Nat) (t : Token) : Offer := ⟨req, none, mkFlit s src 3 .strand (.token t)⟩

/-- The pair of flits of a report (R655). -/
def reportPair (s : State) (src : TileId) (req : Nat) (tag word subject : W64) (serial : BitVec 16) (dl : BitVec 20) :
    List Offer :=
  [faultOffer s src req (faultToken tag word serial dl),
   faultOffer s src req (faultToken tag (subject &&& ~~~(0x3FF : W64)) serial dl)]

/-- A handler's context lies below the context limit (R664). -/
def tagInLimit (s : State) (tag : W64) : Bool := decide ((unpackTag tag).context.toNat < ctxLimit s)

/-- DL_OFFSET of a context, as the device reads it (R308), with the state after the read. One that cannot be read is
free (log 16). -/
def readDlOffset (s : State) (c : BitVec 14) : State × BitVec 20 :=
  let s1 := { s with mem := readDescriptor s.mem c 1 }
  if decide (16 ≤ c.toNat) && descBad s.mem c 1 then (bumpFree s1, (freeNow s).setWidth 20) else (s1, ctxDlOffset s.mem c)

/-- A report by the node route (R660): at tile 63, with the node fault serial. Before START none is made (R663). -/
def nodeReport (s : State) (code : BitVec 8) (access : BitVec 4) (info : BitVec 48) (subject : W64) : State :=
  let tag := defaultHandler s
  if s.stw.started && tagInLimit s tag then
    let x := readDlOffset s (tagContext tag)
    produceAll { x.1 with stw := { s.stw with nodeSerial := s.stw.nodeSerial + 1 } } 63 true
      (reportPair s 63 0 tag (faultWord code access info) subject s.stw.nodeSerial (now20 s + x.2))
  else s

/-- A report takes the context route: the descriptor is local and readable, and its handler lies below the limit
(R660, R664). -/
def contextRoute (s : State) (c : BitVec 14) : Bool :=
  decide (16 ≤ c.toNat) && !ctxRemote s.mem c && ([0, 1, 2, 3].all fun i => !descBad s.mem c i) &&
    tagInLimit s (handlerFor s c)

/-- The state after a context's mode word, DL_OFFSET, HANDLER and FAULT_SERIAL have been read for a report (R308). -/
def readForReport (s : State) (c : BitVec 14) : State :=
  { s with mem := [0, 1, 2, 3].foldl (fun m i => readDescriptor m c i) s.mem }

/-- A report for a context (R659): on the context route where it has one, else on the node route. -/
def contextReport (s : State) (c : BitVec 14) (code : BitVec 8) (access : BitVec 4) (info : BitVec 48)
    (subject : W64) : State :=
  if !s.stw.started then s
  else
    let s1 := readForReport s c
    if contextRoute s c then
      produceAll { s1 with mem := bumpSerial s1.mem c } (descTile c) false
        (reportPair s (descTile c) 4 (handlerFor s c) (faultWord code access info) subject (ctxSerial s.mem c)
          (now20 s + ctxDlOffset s.mem c))
    else nodeReport s1 code access info subject

/-- A report for the issuing firing of a request (R659): its context and its TAG0 as subject. -/
def firingReport (s : State) (tag0 : W64) (code : BitVec 8) (access : BitVec 4) (info : BitVec 48) : State :=
  contextReport s (tagContext tag0) code access info tag0

/-- Fault codes (Table 17-3). -/
def fTranslation : BitVec 8 := 0x01
/-- See `fTranslation`. -/
def fEcc : BitVec 8 := 0x02
/-- See `fTranslation`. -/
def fDouble : BitVec 8 := 0x03
/-- See `fTranslation`. -/
def fHostOff : BitVec 8 := 0x04
/-- See `fTranslation`. -/
def fHostError : BitVec 8 := 0x05
/-- See `fTranslation`. -/
def fHostTimeout : BitVec 8 := 0x06
/-- See `fTranslation`. -/
def fFpTrap : BitVec 8 := 0x07
/-- See `fTranslation`. -/
def fFlowLock : BitVec 8 := 0x08
/-- See `fTranslation`. -/
def fSpill : BitVec 8 := 0x09
/-- See `fTranslation`. -/
def fRowDown : BitVec 8 := 0x0B
/-- See `fTranslation`. -/
def fRemote : BitVec 8 := 0x0C
/-- See `fTranslation`. -/
def fFieldSafe : BitVec 8 := 0x0D
/-- See `fTranslation`. -/
def fFieldCrc : BitVec 8 := 0x0E
/-- See `fTranslation`. -/
def fLimit : BitVec 8 := 0x10
/-- See `fTranslation`. -/
def fRetry : BitVec 8 := 0x11

/-! ## Notices of the steward -/

/-- A token of KIND system or control to the graph hook (R145, R142), entered at tile 63 with a deadline by R101, and the
state after its DL_OFFSET has been read. -/
def hookToken (s : State) (flags : BitVec 10) (serial : BitVec 16) (flow : BitVec 12) (value : W64) : State × Token :=
  let tag := match s.stw.image with | some i => i.hook | none => 0
  let t := unpackTag tag
  let x := readDlOffset s t.context
  (x.1, { value := value, context := t.context, iteration := serial, port := 3, cell := t.cell, iaddr := t.iaddr,
          flags := flags, deadline := now20 s + x.2, flow := flow })

/-- A token enters the weave at tile 63's extra port from the steward: a data or control token at the PRIORITY of its
context (R389). -/
def stewardSend (s : State) (t : Token) : State :=
  produce s 63 true ⟨0, some t.context, mkFlit s 63 0 .strand (.token t)⟩

end Sys2Proof.Machine
end

