-- ==== Sys2Proof/Machine/Strand.lean ====
section
/-! DEFINITION. How a strand engine issues an instruction: the checks that come first, and what every instruction does
at its end (chapter 5). -/

namespace Sys2Proof.Machine

open Sys2Proof

/-! ## Fetch (R340) -/

/-- The instruction-store words that `len` bytes from `pc` span. -/
def fetchWords (pc : BitVec 15) (len : Nat) : List Nat :=
  (List.range ((pc.toNat + len - 1) / 8 - pc.toNat / 8 + 1)).map (· + pc.toNat / 8)

/-- One of the instruction-store words holds a double-bit error. -/
def istoreDouble (x : Cell) (ws : List Nat) : Bool := ws.any (fun w => mget Ecc.ok x.istoreEcc w == .double)

/-- A cell after single-bit errors in these words have been corrected, written back and counted (R340). -/
def istoreCorrect (x : Cell) : List Nat → Cell
  | [] => x
  | w :: ws =>
    istoreCorrect
      (if (mget Ecc.ok x.istoreEcc w).isSingle then
        { x with istoreEcc := mset Ecc.ok x.istoreEcc w .ok, corrected := satAdd x.corrected 1 } else x) ws

/-- The state after a fetch has corrected what it could. -/
def fetched (s : State) (c : CellId) (len : Nat) : State :=
  setCell s c (istoreCorrect (cellAt s c) (fetchWords (engineAt s c).regs.pc len))

/-! ## Ends of instructions -/

/-- The engine's strand with registers `r`, at no instruction's middle and not stalled. -/
def Engine.at (e : Engine) (r : Regs) : Engine := { e with regs := r, mid := .free, offered := false, stall := 0 }

/-- The instruction completes: registers `r`, a product of its own, the next address (R184, R186, R190). -/
def complete (s : State) (c : CellId) (r : Regs) (own : Option (BitVec 128)) (next : BitVec 15) : State :=
  setEngine s c ((engineAt s c).at (retire r own next))

/-- The strand stalls for a cycle: the product pending is written, and the cause is shown (R190, Table 16-4). -/
def stalled (s : State) (c : CellId) (cause : BitVec 4) : State :=
  setEngine s c { engineAt s c with regs := commitProduct (engineAt s c).regs, stall := cause }

/-- The strand ends: its engine holds none, and END is a progress event (R169, R360). -/
def endStrandState (s : State) (c : CellId) : State :=
  { setEngine s c Engine.idle with time := markProgress s.time }

/-- How many of these words hold a double-bit error. -/
def doubleCount (x : Cell) (ws : List Nat) : Nat := (ws.filter (fun w => mget Ecc.ok x.istoreEcc w == .double)).length

/-- A cell after it has read words of its instruction store: single-bit errors corrected and written back, double-bit
errors counted (R340). -/
def istoreRead (x : Cell) (ws : List Nat) : Cell :=
  let y := istoreCorrect x ws
  { y with uncorrect := satAdd y.uncorrect (doubleCount x ws) }

/-- A double-bit error in a fetched word ends the strand (R340); the report names the instruction's first byte. -/
def fetchFailed (s : State) (c : CellId) (ws : List Nat) : State :=
  let x := cellAt s c
  endStrandState
    (firingReport (setCell s c (istoreRead x ws)) x.engine.regs.tag0 fEcc 0xE
      ((0 : BitVec 24) ++ c ++ (0 : BitVec 2) ++ (x.engine.regs.pc.setWidth 14 : BitVec 14))) c

/-! ## Before an instruction issues -/

/-- What stands before an instruction's own effect. -/
inductive Before where
  | refuse (r : Refusal)
  | illegal (rule : Nat)
  | instead (s : State)
  | go
  deriving DecidableEq, Repr

/-- A result that an outstanding floating-point operation still owes to one of these registers (Table 05-10). -/
def fpHazard (e : Engine) (rs : List Reg) : Bool := e.fpOut.any (fun o => rs.contains o.rd)

/-- The engine stands where this instruction can issue: its strand runs, and it is in the middle of no other
instruction than one this command can continue. -/
def canContinue (e : Engine) (k : Enc) (p : Pfx) (sends many : Bool) : Bool :=
  (match e.mid with
   | .free => true
   | .rep => k.r && p.rep
   | .elements _ _ => many) && (!e.offered || sends)

/-- What the strand of cell `c` fetches at its program address. -/
def fetchAt (s : State) (c : CellId) : Fetch := fetchOf (cellAt s c) c (engineAt s c).regs.pc

/-- The checks before instruction `i` of cell `c`, whose prefixes are `p` and whose opcode fixes `k` (R179 to R184, R340,
Table 05-10). The bytes at the program address are fetched and decoded: a double-bit error ends the strand, a reserved
encoding is unpredictable, and the instruction they spell is the one that executes. One whose condition fails stalls on
nothing but the register that its condition tests, and has no effect (R183). `uses` names the general registers it reads
or writes; `bad` is the rule that its operands break when it executes; `sends` and `many` say that it may be continued
while its flit is offered, or between elements. -/
def before (s : State) (i : Instr) (c : CellId) (p : Pfx) (k : Enc) (bad : Option Nat) (uses : List Reg)
    (sends many : Bool) : Before :=
  let e := engineAt s c
  let f := fetchAt s c
  let ws := fetchWords e.regs.pc f.len
  let fresh := e.mid == .free && !e.offered
  if !cellUp s c || e.phase != .running || !canContinue e k p sends many then .refuse .engineNotReady
  else if 0x4000 < e.regs.pc.toNat + f.len then .illegal 184
  else if fresh && istoreDouble (cellAt s c) ws then .instead (fetchFailed s c ws)
  else match f.what with
  | .reserved n => .illegal n
  | .ins j slack =>
    if j ≠ i then .refuse .otherInstruction
    else if fresh && fpHazard e (ccRegs p) then .instead (stalled (fetched s c f.len) c 6)
    else if fresh && !ccHolds p e.regs then
      .instead (complete (fetched s c f.len) c e.regs none (e.regs.pc + BitVec.ofNat 15 f.len))
    else if fresh && fpHazard e uses then .instead (stalled (fetched s c f.len) c 6)
    else match slack.or bad with
    | some n => .illegal n
    | none => .go

/-- An instruction: the checks, then its own effect on the fetched state. -/
def issue (s : State) (i : Instr) (c : CellId) (p : Pfx) (k : Enc) (bad : Option Nat) (uses : List Reg)
    (sends many : Bool) (effect : State → State) : Host.Outcome State Fault Refusal :=
  match before s i c p k bad uses sends many with
  | .refuse r => .refused r
  | .illegal n => unpredictable n s
  | .instead t => .next t
  | .go => .next (effect (fetched s c (insLen k p)))

/-- The address of the byte after the instruction. -/
def nextAddr (r : Regs) (k : Enc) (p : Pfx) : BitVec 15 := r.pc + BitVec.ofNat 15 (insLen k p)

/-! ## Instructions that act on registers alone -/

/-- An instruction that maps registers to registers. -/
def regIns (s : State) (i : Instr) (c : CellId) (p : Pfx) (k : Enc) (bad : Option Nat) (uses : List Reg)
    (f : Regs → Regs) : Host.Outcome State Fault Refusal :=
  issue s i c p k bad uses false false fun s =>
    let r := (engineAt s c).regs
    complete s c (f r) none (nextAddr r k p)

/-! ## Instructions that emit a flit -/

/-- The number of a strand's own flits among the requesters of its local port (R392). -/
def strandReq (c : CellId) : Nat := (slotOf c).toNat + 16

/-- The strand's flit still waits at the local port. -/
def stillOffered (s : State) (c : CellId) : Bool :=
  (offersAt s.weave (offerKey (tileOf c) false)).any (fun o => o.req == strandReq c)

/-- A message of the strand at cell `c` as it offers it: its PRI is the PRIORITY of the firing's context (R389). -/
def strandOffer (s : State) (c : CellId) (m : Msg) : Offer :=
  ⟨strandReq c, some (tagContext (engineAt s c).regs.tag0), mkFlit s (tileOf c) 0 .strand m⟩

/-- One flit of an instruction: when the port has accepted it, `fin`; else the strand stalls with its flit offered
(R177, Table 05-10). -/
def emitThen (s : State) (c : CellId) (cause : BitVec 4) (m : Msg) (fin : State → State) : State :=
  let s1 := if (engineAt s c).offered then s else produce s (tileOf c) false (strandOffer s c m)
  if stillOffered s1 c then stalled (setEngine s1 c { engineAt s1 c with offered := true }) c cause
  else fin (setEngine s1 c { engineAt s1 c with offered := false })

/-- An instruction that emits one flit and changes no register. -/
def sendIns (s : State) (i : Instr) (c : CellId) (p : Pfx) (k : Enc) (bad : Option Nat) (uses : List Reg)
    (cause : BitVec 4) (msg : State → Regs → Msg) : Host.Outcome State Fault Refusal :=
  issue s i c p k bad uses true false fun s =>
    let r := (engineAt s c).regs
    emitThen s c cause (msg s r) (fun t => complete t c (engineAt t c).regs none (nextAddr r k p))

/-- A repeatable instruction that emits one flit each iteration (R188, R189): `msg` is given the source and the
destination address. Without REP it runs once. -/
def repIns (s : State) (i : Instr) (c : CellId) (p : Pfx) (k : Enc) (uses : List Reg) (cause : BitVec 4) (size : Nat)
    (bad : Option Nat) (src dst : Regs → Addr) (msg : State → Regs → Addr → Addr → Msg) :
    Host.Outcome State Fault Refusal :=
  issue s i c p k bad uses true false fun s =>
    let r := (engineAt s c).regs
    if !p.rep then
      emitThen s c cause (msg s r (src r) (dst r))
        (fun t => complete t c (engineAt t c).regs none (nextAddr r k p))
    else if r.bc = 0 then complete s c r none (nextAddr r k p)
    else
      emitThen s c cause (msg s r r.bs r.bd) fun t =>
        let r := (engineAt t c).regs
        let r1 := { r with bs := r.bs + BitVec.ofNat 48 size, bd := r.bd + BitVec.ofNat 48 size, bc := r.bc - 1 }
        if r1.bc = 0 then complete t c r1 none (nextAddr r k p)
        else setEngine t c { engineAt t c with regs := commitProduct r1, mid := .rep, stall := 0 }

/-! ## Floating-point issue (R279, R287) and traps -/

/-- The registers with a result and flags written. -/
def fpWrite (r : Regs) (rd : Reg) (v : W64) (flags : BitVec 5) : Regs := { setG r rd v with fs := r.fs ||| flags }

/-- A flit that cell `c` issues on its own (R389). -/
def cellFlit (s : State) (c : CellId) (m : Msg) : Flit := mkFlit s (tileOf c) 3 .strand m

/-- Cell `c` produces a flit of its own at its local port. -/
def cellSend (s : State) (c : CellId) (m : Msg) : State :=
  produceLocal s (tileOf c) (slotOf c).toNat (cellFlit s c m)

/-- The cell asks its lock unit for a page (R741), for the token at a channel with the tag `subject`. -/
def askPage (s : State) (c : CellId) (u : PageUse) (ch : Nat) (subject : Option W64) : State :=
  let x := cellAt s c
  cellSend (setCell s c { x with asks := x.asks ++ [(u, ch)] }) c (.pageRequest c u subject)

/-- A precise trap stops the strand before the instruction takes effect, and a record page is asked for (R193, R279).
CAUSE is 1 at FBAR and END (R287). -/
def trapStop (s : State) (c : CellId) (cause : Bool) (raised trapped : BitVec 5) : State :=
  askPage (setEngine s c { engineAt s c with phase := .stopped cause raised trapped true, stall := 0 }) c .record 5 none

/-- A floating-point operation with its result and flags (R279, R287, R295): precise, it traps or completes at once;
imprecise, it stays in flight. -/
def fpResult (s : State) (c : CellId) (p : Pfx) (k : Enc) (rd : Reg) (v : W64) (flags : BitVec 5) : State :=
  let e := engineAt s c
  if mwPrecise e.mode || p.tr then
    if flags &&& mwTrapen e.mode ≠ 0 then trapStop s c false flags (flags &&& mwTrapen e.mode)
    else complete s c (fpWrite e.regs rd v flags) none (nextAddr e.regs k p)
  else
    let t := complete s c e.regs none (nextAddr e.regs k p)
    setEngine t c { engineAt t c with fpOut := e.fpOut ++ [⟨rd, v, flags⟩] }

/-- FBAR's and END's test of FS (R287): trap, or `fin`. -/
def fsTest (s : State) (c : CellId) (fin : State → State) : State :=
  let e := engineAt s c
  if e.fpOut ≠ [] then stalled s c 7
  else if e.regs.fs &&& mwTrapen e.mode ≠ 0 then trapStop s c true e.regs.fs (e.regs.fs &&& mwTrapen e.mode)
  else fin s

/-- A tableau trigger reaches the collector and waits for its latching boundary (R611). -/
def raiseTrigger (t : Tab) (bit : BitVec 4) : Tab := { t with raised := t.raised ++ [bit] }

end Sys2Proof.Machine
end

