-- ==== Sys2Proof/Machine/Cell.lean ====
section
/-! DEFINITION. How a cell takes tokens (R127, R139, R354), keeps its spill and hold chains (R319 to R325), selects
firings (R342) and parks and restores strands (R193 to R195). -/

namespace Sys2Proof.Machine

open Sys2Proof

/-! ## Firings (R129, R130) -/

/-- A token as an operand. -/
def operandOf (t : Token) : Operand := ⟨t.value, t.deadline, t.flow, t.flags, .ok⟩

/-- The operands present, in port order. -/
def presentOps (a b d : Option Operand) : List Operand := a.toList ++ b.toList ++ d.toList

/-- The earliest deadline of a list of operands; the lower port supplies it when two are equally early (R129). -/
def earliest (now : BitVec 20) : List Operand → BitVec 20
  | [] => 0
  | [o] => o.deadline
  | o :: r => if delta o.deadline now ≤ delta (earliest now r) now then o.deadline else earliest now r

/-- KIND system. -/
def isSystem (o : Operand) : Bool := kindOf o.flags == 3

/-- The flow of a firing: none when an operand has KIND system (R129). -/
def flowOf (os : List Operand) : BitVec 12 :=
  if os.any isSystem then 0 else ((os.map (·.flow)).find? (· != 0)).getD 0

/-- Two operands carry different non-zero flows (R129). -/
def flowClash (os : List Operand) : Bool :=
  let fl := ((os.filter (fun o => !isSystem o)).map (·.flow)).filter (· != 0)
  fl.any (fun x => x != fl.headD 0)

/-- A firing of operands with a tag (R129, R338). -/
def mkFiring (now : BitVec 20) (a b d : Option Operand) (tag : W64) (seq : Nat) : Firing :=
  { op0 := a, op1 := b, op2 := d, tag := tag, deadline := earliest now (presentOps a b d),
    flow := flowOf (presentOps a b d), seq := seq, ecc := .ok, strand := none }

/-- A cell with one more firing in its token queue. -/
def enqueue (x : Cell) (f : Firing) : Cell :=
  { x with queue := x.queue ++ [{ f with seq := x.nextSeq }], nextSeq := x.nextSeq + 1 }

/-- Free token-queue entries that a token may take: entries reserved for slot reads in flight (R321) and for strands
that wait to be restored (R195) are not. A returned token has its own reserved entry. -/
def queueRoom (x : Cell) (returned : Bool) : Bool :=
  decide (x.queue.length + (x.inFlight - returned.toNat) + x.resumed.length < 16)

/-! ## The matching store (R127, R128, R340) -/

/-- The set that a tag hashes to. -/
def setOf (t : Token) : BitVec 8 := Config.mstoreHash t.context t.iteration t.iaddr

/-- An entry is of a token's tag. -/
def sameTag (e : MEntry) (t : Token) : Bool :=
  e.context == t.context && e.iteration == t.iteration && e.iaddr == t.iaddr && e.set == setOf t

/-- An operand as it is read: its own error corrected or turned into POISON, and CORRECTED set for an error in a word
of the whole entry (R339, R340). -/
def readOperand (whole : Ecc) (o : Operand) : Operand :=
  let o1 := if whole.isSingle then { o with flags := o.flags ||| flagCorrected } else o
  match o.ecc with
  | .ok => o1
  | .single _ => { o1 with flags := o1.flags ||| flagCorrected, ecc := .ok }
  | .double => { o1 with value := 0x02, flags := o1.flags ||| flagPoison, ecc := .ok }

/-- The errors of an entry read: of the whole, and of its operands. -/
def entryErrors (whole : Ecc) (a b d : Option Operand) : List Ecc :=
  whole :: (presentOps a b d).map (·.ecc)

/-- A cell after the errors of an entry have been counted (R339). -/
def countErrors (x : Cell) (es : List Ecc) : Cell :=
  { x with corrected := satAdd x.corrected (es.filter Ecc.isSingle).length
           uncorrect := satAdd x.uncorrect (es.filter (· == .double)).length }

/-- An entry as it is read, its errors corrected or turned into POISON (R340). -/
def cleanEntry (e : MEntry) : MEntry :=
  { e with op0 := e.op0.map (readOperand e.ecc), op1 := e.op1.map (readOperand e.ecc),
           op2 := e.op2.map (readOperand e.ecc), ecc := .ok }

/-- A cell that has read the entry of a token's tag: what could be corrected is written back, and its errors are counted
(R340). An entry whose tag, deadline or flow cannot be trusted stays for `takeToken` to free. -/
def readEntry (x : Cell) (t : Token) : Cell :=
  match x.mstore.find? (fun e => sameTag e t) with
  | none => x
  | some e =>
    if e.ecc = .double then x
    else countErrors { x with mstore := x.mstore.map fun y => if y = e then cleanEntry e else y }
      (entryErrors e.ecc e.op0 e.op1 e.op2)

/-- The operand of a port. -/
def portOp (e : MEntry) (p : BitVec 2) : Option Operand :=
  if p = 0 then e.op0 else if p = 1 then e.op1 else e.op2

/-- An entry with a token stored as the operand of its port. -/
def storeOp (e : MEntry) (t : Token) : MEntry :=
  if t.port = 0 then { e with op0 := some (operandOf t) }
  else if t.port = 1 then { e with op1 := some (operandOf t) }
  else { e with op2 := some (operandOf t) }

/-- Every port of the arity holds an operand: arity 1 dyadic, 2 triadic (R124, R127). -/
def entryFull (arity : BitVec 2) (e : MEntry) : Bool :=
  e.op0.isSome && e.op1.isSome && (arity != 2 || e.op2.isSome)

/-- An empty entry for a token's tag. -/
def emptyEntry (t : Token) : MEntry :=
  ⟨setOf t, t.context, t.iteration, t.iaddr, t.cell, none, none, none, .ok⟩

/-- The tag of a firing with its port: 3 for a monadic node, else 0 (Table 05-3). -/
def firingTag (t : Token) (port : BitVec 2) : W64 := packTag { tokenTag t with port := port }

/-! ## What becomes of a token at its cell -/

/-- What becomes of a token that reaches its cell. -/
inductive Fate where
  /-- Its context lies at or above the limit (R135). -/
  | limit
  /-- The mode word of its context's descriptor cannot be read (Table 17-3; log 16). -/
  | descriptor
  /-- The node header cannot be read (R340). -/
  | header
  /-- The matching-store entry of its tag cannot be trusted; the entry's operands are reported and the token starts
  anew (R340). -/
  | entry (e : MEntry)
  /-- An error that the spec leaves unpredictable. -/
  | illegal (rule : Nat)
  /-- The cell takes it. -/
  | keep (x : Cell)
  /-- It goes to a chain, with its CAUSE (Table 08-5). -/
  | spill (cause : BitVec 8)
  /-- It is refused and waits (R355). -/
  | refuse
  deriving DecidableEq, Repr

/-- The node header of a token (R124). -/
def nodeHeader (x : Cell) (t : Token) : Byte := mget 0 x.istore t.iaddr.toNat

/-- The iteration base a cell uses for a context: the one received, else the descriptor's (R140). -/
def iterBaseAt (s : State) (x : Cell) (ctx : BitVec 14) : BitVec 16 :=
  match mget (none : Option (BitVec 16)) x.bases ctx.toNat with
  | some b => b
  | none => ctxIterBase s.mem ctx

/-- The token lies beyond its context's iteration window (R139). -/
def beyondWindow (s : State) (x : Cell) (t : Token) : Bool :=
  let d := (t.iteration - iterBaseAt s x t.context).toNat
  decide (ctxWindow s.mem t.context ≤ d) && decide (d < 2 ^ 15)

/-- A cell that has read a context's ITER_BASE (R140). -/
def readBase (s : State) (x : Cell) (ctx : BitVec 14) : Cell :=
  { x with bases := mset none x.bases ctx.toNat (some (iterBaseAt s x ctx)) }

/-- Spill or refuse (Table 09-4): fault and system tokens, returned tokens and tokens of a context with SPILL_OK are
spilled. -/
def spillOrRefuse (s : State) (t : Token) (returned : Bool) (cause : BitVec 8) : Fate :=
  if returned then .spill 3
  else if kindOf t.flags = 1 ∨ kindOf t.flags = 3 ∨ ctxSpillOk s.mem t.context then .spill cause
  else .refuse

/-- The returned tokens in a cell's room that want a way of a token's set: they take it before an arriving token does
(R321). -/
def returnedRivals (x : Cell) (t : Token) : Nat :=
  (x.room.filter fun m => match m with
    | .slotReturn _ _ u bad =>
      bad != 2 && setOf u == setOf t && (nodeHeader x u).setWidth 2 != (0 : BitVec 2) && tokenTag u != tokenTag t &&
        !x.mstore.any (fun e => sameTag e u)
    | _ => false).length

/-- A token for a dyadic or triadic node (R127, R128, R321, R322, R340). -/
def matchFate (s : State) (x : Cell) (t : Token) (arity : BitVec 2) (returned : Bool) : Fate :=
  match x.mstore.find? (fun e => sameTag e t) with
  | none =>
    if (x.mstore.filter (fun e => e.set == setOf t)).length + (if returned then 0 else returnedRivals x t) < 8 then
      .keep { x with mstore := x.mstore ++ [storeOp (emptyEntry t) t] }
    else spillOrRefuse s t returned 1
  | some e =>
    if e.ecc = .double then .entry e
    else if (portOp e t.port).isSome then .illegal 128
    else
      let e1 := storeOp e t
      if entryFull arity e1 then
        if flowClash (presentOps e1.op0 e1.op1 e1.op2) then .illegal 129
        else if queueRoom x returned then
          .keep (enqueue { x with mstore := x.mstore.erase e }
            (mkFiring (now20 s) e1.op0 e1.op1 e1.op2 (firingTag t 0) 0))
        else spillOrRefuse s t returned 0
      else .keep { x with mstore := x.mstore.map (fun y => if y = e then e1 else y) }

/-- The cell after it has read a token's node header: a single-bit error there corrected (R340), and ITER_BASE of a
gated node's context read (R140). -/
def prepCell (s : State) (x : Cell) (t : Token) : Cell :=
  if ctxLimit s ≤ t.context.toNat then x
  else
    let x1 := istoreCorrect x [t.iaddr.toNat / 8]
    if (nodeHeader x1 t).getLsbD 2 then readBase s x1 t.context else x1

/-- Memory after a cell has read what a token's arrival needs of its context's descriptor: the mode word, and ITER_BASE
for a gated node when the cell does not know the base (R140, R308). -/
def prepMem (s : State) (x : Cell) (t : Token) : Mem :=
  if ctxLimit s ≤ t.context.toNat then s.mem
  else
    let m := readDescriptor s.mem t.context 0
    if (nodeHeader x t).getLsbD 2 && (mget (none : Option (BitVec 16)) x.bases t.context.toNat).isNone
    then readDescriptor m t.context 3 else m

/-- What becomes of a token at cell `c` before the matching store is looked at (R23, R127, R135, R139, R340,
Table 09-4); `none` for one that goes on to be matched. -/
def fateBefore (s : State) (c : CellId) (t : Token) (returned : Bool) : Option Fate :=
  let x := cellAt s c
  if ctxLimit s ≤ t.context.toNat then some .limit
  else if t.context.toNat < 16 then some (.illegal 131)
  else if descBad s.mem t.context 0 then some .descriptor
  else if !ctxValid s.mem t.context then some (.illegal 135)
  else if descReserved s.mem t.context then some (.illegal 23)
  else if istoreDouble x [t.iaddr.toNat / 8] then some .header
  else
    let h := nodeHeader x t
    let arity := h.setWidth 2
    if h.extractLsb' 3 5 ≠ 0 then some (.illegal 124)
    else if arity = 3 then some (.illegal 124)
    else if (arity = 0 ∧ t.port ≠ 3) ∨ (arity = 1 ∧ 2 ≤ t.port.toNat) ∨ (arity = 2 ∧ t.port = 3) then some (.illegal 125)
    else if h.getLsbD 2 && beyondWindow s x t then some (.spill 2)
    else if arity = 0 then
      some (if queueRoom x returned then
        .keep (enqueue x (mkFiring (now20 s) (some (operandOf t)) none none (firingTag t 3) 0))
      else spillOrRefuse s t returned 0)
    else none

/-- What becomes of a token at cell `c`. -/
def fateOf (s : State) (c : CellId) (t : Token) (returned : Bool) : Fate :=
  match fateBefore s c t returned with
  | some f => f
  | none => matchFate s (cellAt s c) t ((nodeHeader (cellAt s c) t).setWidth 2) returned

/-! ## Chains of spill pages (R319, R320, R324) -/

/-- The chain of a use. -/
def chainOf (x : Cell) : PageUse → List ChainPage
  | .hold => x.hold
  | _ => x.spill

/-- A cell with a chain replaced. -/
def setChain (x : Cell) (u : PageUse) (ps : List ChainPage) : Cell :=
  match u with
  | .hold => { x with hold := ps }
  | _ => { x with spill := ps }

/-- The chain of a CAUSE (R320). -/
def useOf (cause : BitVec 8) : PageUse := if cause = 2 then .hold else .spill

/-- The fabric address of a page (R281). -/
def pageAddr (p : BitVec 13) : Addr := p.setWidth 48 <<< 12
/-- The fabric address of a slot. -/
def slotAddr (p : BitVec 13) (i : BitVec 7) : Addr := pageAddr p + i.setWidth 48 <<< 5

/-- Where the next token of a chain goes: the cell with the slot taken, and the messages to the bank; `none` when a
page must be granted first (R320, R741). A page that joins the chain makes the page before it no longer the open one: it
is linked, or freed when all of its slots have returned (Table 08-6). -/
def takeSlot (x : Cell) (u : PageUse) (t : Token) (cause : BitVec 8) : Option (Cell × List Msg) :=
  let t1 := { t with flags := t.flags ||| flagSpilled }
  let slot := fun (i : Nat) => (⟨BitVec.ofNat 7 i, t.context, t.iteration, false⟩ : Slot)
  let fresh : Option (Cell × List Msg) :=
    (x.granted.find? (fun g => g.1 == u)).map fun g =>
      let kept := (chainOf x u).filter (fun q => !q.live.isEmpty)
      let gone := (chainOf x u).filter (fun q => q.live.isEmpty)
      (setChain { x with granted := x.granted.erase g } u (kept ++ [⟨g.2, 1, [slot 0]⟩]),
       (((chainOf x u).getLast?.toList.filter (fun q => !q.live.isEmpty)).map fun q =>
           Msg.slotLink (slotAddr q.page 0) g.2) ++
         [.slotWrite (slotAddr g.2 0) t1 cause] ++ gone.map fun q => .pageRelease q.page)
  match (chainOf x u).getLast? with
  | some q =>
    if q.written < 128 then
      some (setChain x u ((chainOf x u).dropLast ++ [{ q with written := q.written + 1, live := q.live ++ [slot q.written] }]),
            [.slotWrite (slotAddr q.page (BitVec.ofNat 7 q.written)) t1 cause])
    else fresh
  | none => fresh

/-- A chain after one of its slots has returned, and the pages it frees (R320, R321). -/
def dropSlot (ps : List ChainPage) (page : BitVec 13) (i : BitVec 7) : List ChainPage × List (BitVec 13) :=
  let ps1 := ps.map fun q => if q.page = page then { q with live := q.live.filter (fun y => y.index != i) } else q
  if ps1.all (fun q => q.live.isEmpty) then ([], ps1.map (·.page))
  else
    let gone := fun (q : ChainPage) => q.live.isEmpty && some q.page != ps1.getLast?.map (·.page)
    (ps1.filter (fun q => !gone q), (ps1.filter gone).map (·.page))

/-! ## Taking a token -/

/-- The subject of a refusal's report: none for a fault or detail token (R325, R665). -/
def refusalSubject (t : Token) : Option W64 := if kindOf t.flags = 1 then none else some (packTag (tokenTag t))

/-- What taking a token leads to. -/
inductive Taking where
  /-- The token is taken; the state with everything that follows. -/
  | taken (s : State)
  /-- The token waits where it is; the state with what waiting leads to. -/
  | waits (s : State)
  | illegal (rule : Nat)
  deriving DecidableEq, Repr

/-- The cell marks why the token at a channel is refused; a first refusal under R355 is counted (R355). -/
def markRefused (x : Cell) (ch : Nat) (why : BitVec 2) : Cell :=
  { x with refusing := mset 0 x.refusing ch why
           refusals := satIf (why == 1 && mget 0 x.refusing ch == 0) x.refusals }

/-- The report of a word that cannot be trusted, with its tableau trigger (R323, R339, Table 16-1). -/
def fatalReport (s : State) (access : BitVec 4) (info : BitVec 48) : State :=
  { nodeReport s fEcc access info 0 with tab := raiseTrigger s.tab 4 }

/-- One report for each operand of a matching-store entry (R340). Table 16-1 names no trigger for it. -/
def entryReports (s : State) (c : CellId) : List Operand → State
  | [] => s
  | _ :: r => entryReports (nodeReport s fEcc 0xA (c.setWidth 48) 0) c r

/-- A flit of the cell itself still waits at its local port: the cell takes no token to a page meanwhile (R41). -/
def cellBusy (s : State) (c : CellId) : Bool :=
  (offersAt s.weave (offerKey (tileOf c) false)).any (fun o => o.req == (slotOf c).toNat)

/-- The cell takes, spills or refuses a token at a channel (R127, R354, R355). `again` says that a page may be asked
for although the token has been refused (R325: at a beat boundary). -/
def takeOnce (s : State) (c : CellId) (t : Token) (ch : Nat) (again : Bool) (f : Fate) : Taking :=
  let x := cellAt s c
  let returned := ch == 4
  let done := fun (x1 : Cell) => { x1 with refusing := mset 0 x1.refusing ch 0 }
  match f with
  | .limit =>
    .taken (nodeReport (setCell s c (done x)) fLimit 0xB
      ((BitVec.ofNat 32 (ctxLimit s)) ++ (0 : BitVec 2) ++ t.context) (packTag (tokenTag t)))
  | .descriptor =>
    .taken (nodeReport (setCell s c (done x)) fEcc 0xF (BitVec.ofNat 48 (descAddr t.context)) (packTag (tokenTag t)))
  | .header =>
    .taken (contextReport (setCell s c (done { x with uncorrect := satAdd x.uncorrect 1 })) t.context fEcc 0xE
      ((0 : BitVec 24) ++ c ++ (0 : BitVec 2) ++ t.iaddr) (packTag (tokenTag t)))
  | .entry _ => .waits s
  | .illegal n => .illegal n
  | .keep x1 => .taken { setCell s c (done x1) with time := markProgress s.time }
  | .spill cause =>
    if cellBusy s c then .waits s
    else match takeSlot x (useOf cause) t cause with
    | some (x1, ms) =>
      let x2 := done { x1 with respills := satIf (cause == 3) x1.respills }
      .taken { ms.foldl (fun s m => cellSend s c m) (setCell s c x2) with
                 time := if returned then s.time else markProgress s.time }
    | none =>
      if x.asks.any (·.1 == useOf cause) || (mget 0 x.refusing ch == 2 && !again) then .waits s
      else .waits (askPage s c (useOf cause) ch (refusalSubject t))
  | .refuse => .waits (setCell s c (markRefused x ch 1))

/-- The cell takes, spills or refuses a token. The entry of its tag is read first; one that cannot be trusted is freed
and reported, and the token starts a new one (R340). -/
def takeToken (s : State) (c : CellId) (t : Token) (ch : Nat) (again : Bool) : Taking :=
  let s1 := { setCell s c (prepCell s (cellAt s c) t) with mem := prepMem s (cellAt s c) t }
  let s2 := if (fateBefore s1 c t (ch == 4)).isNone then setCell s1 c (readEntry (cellAt s1 c) t) else s1
  match fateOf s2 c t (ch == 4) with
  | .entry e =>
    let x := cellAt s2 c
    let s3 := entryReports (setCell s2 c
      (countErrors { x with mstore := x.mstore.erase e } (entryErrors e.ecc e.op0 e.op1 e.op2))) c
      (presentOps e.op0 e.op1 e.op2)
    takeOnce s3 c t ch again (fateOf s3 c t (ch == 4))
  | f => takeOnce s2 c t ch again f

/-! ## Channels toward a cell (R384, R403) -/

/-- The virtual network of a token channel: 0 and 1 are VN0, 2 and 3 VN3. -/
def chVn (ch : Nat) : BitVec 2 := if ch < 2 then 0 else 3
/-- The virtual channel of a token channel. -/
def chVc (ch : Nat) : BitVec 1 := BitVec.ofNat 1 ch

/-- The state with a flit taken that had reached a port's endpoints. -/
def taken (s : State) (t : TileId) (extra : Bool) (f : Flit) : State :=
  let k := outKey t extra f.vn
  { s with weave := setOut s.weave k ((outAt s.weave k).erase f) }

/-- The flit at a token channel of a tile's local port. -/
def channelFlit (s : State) (c : CellId) (ch : Nat) : Option Flit :=
  (outAt s.weave (outKey (tileOf c) false (chVn ch))).find? (fun f => f.vc == chVc ch)

/-- A slot return in a cell's room. -/
def isSlotReturn : Msg → Bool
  | .slotReturn _ _ _ _ => true
  | _ => false

/-- The page and slot of a slot's address. -/
def slotOfAddr (a : Addr) : BitVec 13 × BitVec 7 := (a.extractLsb' 12 13, a.extractLsb' 5 7)

/-- A cell after a slot has been read back: the slot leaves its chain, and pages that empty are released (R320, R321). -/
def slotBack (s : State) (c : CellId) (a : Addr) : State :=
  let x := cellAt s c
  let p := slotOfAddr a
  let sp := dropSlot x.spill p.1 p.2
  let ho := dropSlot x.hold p.1 p.2
  let inSpill := x.spill.any (fun q => q.page == p.1)
  let x1 := { x with spill := if inSpill then sp.1 else x.spill, hold := if inSpill then x.hold else ho.1 }
  (if inSpill then sp.2 else ho.2).foldl (fun s p => cellSend s c (.pageRelease p)) (setCell s c x1)

/-- A cell whose returned slot has gone to its place: it leaves the room, and its reservation ends (R321). -/
def roomDone (s : State) (c : CellId) (m : Msg) : State :=
  setCell s c { cellAt s c with inFlight := (cellAt s c).inFlight - 1, room := (cellAt s c).room.erase m }

/-- A returned token as the cell reads it: POISON and ECC_UNCORRECTABLE for an error in its value (R323). -/
def returnedToken (t : Token) (bad : BitVec 2) : Token :=
  if bad = 1 then { t with value := 0x02, flags := t.flags ||| flagPoison } else t

/-- A cell takes note of the returned slot that stands first in its room: its slot is free from then on, also while the
token waits (R321). A returned slot so noted carries 3. -/
def noteReturn (s : State) (c : CellId) : State :=
  match (cellAt s c).room.find? isSlotReturn with
  | some (.slotReturn d a t bad) =>
    if bad = 2 ∨ bad = 3 then s
    else slotBack (setCell s c { cellAt s c with
      room := (cellAt s c).room.replace (.slotReturn d a t bad) (.slotReturn d a (returnedToken t bad) 3) }) c a
  | _ => s

/-- The token for cell `c` at the head of a channel. -/
def headToken (s : State) (c : CellId) (ch : Nat) : Option Token :=
  if ch = 4 then
    match (cellAt s c).room.find? isSlotReturn with
    | some (.slotReturn _ _ t bad) => if bad = 2 then none else some (returnedToken t bad)
    | _ => none
  else
    match channelFlit s c ch with
    | some f => (match f.msg with | .token t => if t.cell = c then some t else none | _ => none)
    | none => none

/-- A state after the token at a channel has been taken. -/
def popChannel (s : State) (c : CellId) (ch : Nat) : State :=
  if ch = 4 then
    match (cellAt s c).room.find? isSlotReturn with
    | some m => roomDone s c m
    | none => s
  else
    match channelFlit s c ch with
    | some f => taken s (tileOf c) false f
    | none => s

/-- The token at a channel is taken, or waits. -/
def takeChannel (s : State) (c : CellId) (ch : Nat) (again : Bool) : Option Taking :=
  let s := if ch = 4 then noteReturn s c else s
  match headToken s c ch with
  | none => none
  | some t =>
    some (match takeToken s c t ch again with
      | .taken u => .taken (popChannel u c ch)
      | r => r)

/-- The first of two tries that takes its token; else the second's wait after the first's. -/
def takeFirst (s : State) (c : CellId) (again : Bool) : List Nat → Option Taking
  | [] => none
  | ch :: r =>
    match takeChannel s c ch again with
    | none => takeFirst s c again r
    | some (.waits u) =>
      (match takeFirst u c again r with
       | none => some (.waits u)
       | some v => some v)
    | some v => some v

/-- The outcome of taking at state `s`. -/
def takingOutcome (s : State) : Option Taking → Host.Outcome State Fault Refusal
  | none => .refused .nothingWaiting
  | some (.taken t) => .next t
  | some (.waits t) => .next t
  | some (.illegal n) => unpredictable n s

/-- The token channels of one network at a cell's port, that of the oldest token first. -/
def arrivalChannels (s : State) (c : CellId) (net3 : Bool) : List Nat :=
  (outAt s.weave (outKey (tileOf c) false (if net3 then 3 else 0))).map fun f => f.vc.toNat + (if net3 then 2 else 0)

/-- A token taken from the local port (R127): from VN3 or from VN0. -/
def execTokenArrival (c : CellId) (net3 : Bool) (s : State) : Host.Outcome State Fault Refusal :=
  if cellUp s c then takingOutcome s (takeFirst s c false (arrivalChannels s c net3))
  else .refused .engineNotReady

/-! ## Spill returns (R321, R323, R140) -/

/-- The next slot that a cell may read: a held one whose base has come, else the head of the spill chain. -/
def nextSlot (x : Cell) : Option (BitVec 13 × BitVec 7) :=
  match x.due with
  | d :: _ => some d
  | [] => (x.spill.flatMap fun q => (q.live.filter (fun y => !y.reading)).map fun y => (q.page, y.index)).head?

/-- A chain with a slot's read begun. -/
def markReading (ps : List ChainPage) (d : BitVec 13 × BitVec 7) : List ChainPage :=
  ps.map fun q => if q.page = d.1 then
    { q with live := q.live.map fun y => if y.index = d.2 then { y with reading := true } else y } else q

/-- The cell reads the next slot into a reserved queue entry, when it has one to read and room (R321). -/
def readSlotNext (s : State) (c : CellId) : State :=
  let x := cellAt s c
  match nextSlot x with
  | none => s
  | some d =>
    if queueRoom x false then
      cellSend (setCell s c { x with due := x.due.erase d, spill := markReading x.spill d,
                                     hold := markReading x.hold d, inFlight := x.inFlight + 1 }) c
        (.slotRead c (slotAddr d.1 d.2))
    else s

/-- The cell takes a returned token, or reads the next slot; while a returned token waits, it reads on (R321, R323). -/
def execSpillReturn (c : CellId) (s : State) : Host.Outcome State Fault Refusal :=
  let x := cellAt s c
  if !cellUp s c then .refused .engineNotReady
  else match x.room.find? isSlotReturn with
  | some (.slotReturn c' a t bad) =>
    if bad = 2 then .next (roomDone (slotBack (fatalReport s 0x9 a) c a) c (.slotReturn c' a t bad))
    else match takeChannel s c 4 false with
      | some (.waits u) => .next (readSlotNext u c)
      | r => takingOutcome s r
  | _ => if (nextSlot x).isNone then .refused .nothingWaiting else .next (readSlotNext s c)

/-! ## Selection (R341 to R345, R348) -/

/-- A firing of context `ctx` with mode word `mw` on flow `fl` is blocked by a mirror entry (R348). -/
def lockBlocks (mw : W64) (ctx : BitVec 14) (fl : BitVec 12) (e : Nat × Lock) : Bool :=
  fl != 0 && e.2.flow == fl && e.2.owner != ctx && mwFlowhome mw != 2 && (lockHome mw fl).toNat == e.1 / 64

/-- The flow mirror of a tile (R347). -/
def mirrorAt (l : Locks) (t : TileId) : List (Nat × Lock) := mget [] l.mirror t.toNat

/-- A firing is lock-blocked at cell `c` (R348). -/
def firingBlocked (s : State) (c : CellId) (f : Firing) : Bool :=
  (mirrorAt s.locks (tileOf c)).any (lockBlocks (modeWord s.mem (tagContext f.tag)) (tagContext f.tag) f.flow)

/-- The key of a firing (R342). -/
def firingKey (now : BitVec 20) (f : Firing) : Int := delta f.deadline now

/-- `a` is served before `b` (R342). -/
def servedBefore (now : BitVec 20) (a b : Firing) : Bool :=
  decide (firingKey now a < firingKey now b) || (firingKey now a == firingKey now b && decide (a.seq < b.seq))

/-- The firing served first among a list. -/
def firstServed (now : BitVec 20) : List Firing → Option Firing
  | [] => none
  | f :: r => match firstServed now r with
    | none => some f
    | some g => if servedBefore now g f then some g else some f

/-- The firing that the engine of cell `c` selects (R342, R343). -/
def selected (s : State) (c : CellId) : Option Firing :=
  firstServed (now20 s) ((cellAt s c).queue.filter (fun f => !firingBlocked s c f))

/-- A TAG1 to TAG3 record (Table 05-3), with LATE when the strand begins late (R345). -/
def operandRecord (late : Bool) : Option Operand → W64
  | none => 0
  | some o => (0 : BitVec 21) ++ (1 : BitVec 1) ++ o.deadline ++ o.flow ++
      (if late then o.flags ||| flagLate else o.flags)

/-- The registers of a fresh strand (Table 05-1). -/
def entryRegs (f : Firing) (late : Bool) : Regs :=
  let v := fun (o : Option Operand) => match o with | some x => x.value | none => 0
  { Regs.zero with
    g := ((Regs.zero.g.set 0 (v f.op0)).set 1 (v f.op1)).set 2 (v f.op2)
    dl := f.deadline, fl := f.flow, tag0 := f.tag, tag1 := operandRecord late f.op0, tag2 := operandRecord late f.op1,
    tag3 := operandRecord late f.op2, pc := (f.tag.extractLsb' 12 14).setWidth 15 + 1 }

/-- A TAG record as an operand of a restored strand's queue entry (R338); the strand's values are in its registers. -/
def recordOperand (w : W64) : Option Operand :=
  if w.getLsbD 42 then some ⟨0, w.extractLsb' 22 20, w.extractLsb' 10 12, w.setWidth 10, .ok⟩ else none

/-- A firing as it is read from the queue, its errors corrected or turned into POISON (R339). -/
def readFiring (f : Firing) : Firing :=
  { f with op0 := f.op0.map (readOperand f.ecc), op1 := f.op1.map (readOperand f.ecc),
           op2 := f.op2.map (readOperand f.ecc), ecc := .ok }

/-- The registers of a restored strand that begins: TAG1 to TAG3 are its entry's records. -/
def restoredRegs (f : Firing) (r : Regs) (late : Bool) : Regs :=
  { r with tag1 := operandRecord late f.op0, tag2 := operandRecord late f.op1, tag3 := operandRecord late f.op2 }

/-- The bytes at an address spell END. -/
def isEnd : What → Bool
  | .ins (.endStrand _ _) _ => true
  | _ => false

/-- The engine of a strand that begins (R168, R195, R345). A restored strand keeps the mode word of its restoration
(R285); one whose faulting instruction is skipped goes on after it under the loop check; skipping END ends it (R286). -/
def beginEngine (x : Cell) (c : CellId) (mode : W64) (f : Firing) (late : Bool) : Engine :=
  let e := { Engine.idle with phase := .running, mode := mode, deadline := f.deadline, flow := f.flow }
  match f.strand with
  | none => { e with regs := entryRegs f late }
  | some y =>
    let r := restoredRegs f y.regs late
    let at' := fetchOf x c r.pc
    if !y.skip then { e with mode := y.mode, regs := r }
    else if isEnd at'.what then Engine.idle
    else { e with mode := y.mode, regs := loopCheck 5 r (r.pc + BitVec.ofNat 15 at'.len) }

/-- A fresh strand reads its context's mode word as it begins (R136, R308). A restored one took it when it was restored
(R285). -/
def readsMode (f : Firing) : Bool := f.strand.isNone && decide (16 ≤ (tagContext f.tag).toNat)

/-- The mode word that a fresh strand begins with. One that cannot be read is free (log 16). -/
def beginMode (s : State) (f : Firing) : W64 :=
  if readsMode f && descBad s.mem (tagContext f.tag) 0 then freeNow s else modeWord s.mem (tagContext f.tag)

/-- A firing that the engine has selected, its errors corrected, begins (R345). -/
def beginStrand (s : State) (c : CellId) (x : Cell) (f : Firing) : State :=
  let late := decide (firingKey (now20 s) f < 0)
  let ctx := tagContext f.tag
  let x1 := { x with late := satIf late x.late, engine := beginEngine x c (beginMode s f) f late }
  let s1 := { setCell s c x1 with time := markProgress s.time, freeCounter := s.freeCounter + 1 }
  if readsMode f then
    let s2 := { s1 with mem := readDescriptor s.mem ctx 0 }
    if descBad s.mem ctx 0 then nodeReport s2 fEcc 0xF (BitVec.ofNat 48 (descAddr ctx)) 0 else s2
  else s1

/-- The engine selects a firing and its strand begins (R341 to R345); an entry that cannot be trusted is reported
instead (R339); a mode word that cannot be read is reported too (Table 17-3). -/
def execStrandSelect (c : CellId) (s : State) : Host.Outcome State Fault Refusal :=
  let x := cellAt s c
  if !cellUp s c || x.engine.phase != .idle then .refused .engineNotReady
  else match selected s c with
  | none => .refused .nothingWaiting
  | some f =>
    let x1 := countErrors { x with queue := x.queue.erase f } (entryErrors f.ecc f.op0 f.op1 f.op2)
    .next (if f.ecc = .double then fatalReport (setCell s c x1) 0xA (c.setWidth 48) else beginStrand s c x1 (readFiring f))

end Sys2Proof.Machine
end

