-- ==== Sys2Proof/Machine/Pages.lean ====
section
/-! DEFINITION. Spill-page grants (R741, R325), parking and restoring strands (R193 to R195, R742), and completions of
floating-point operations (R287). -/

namespace Sys2Proof.Machine

open Sys2Proof

/-! ## Flits at the endpoints of a port -/

/-- The oldest flit of a network at a port that one of its endpoints serves, when it is of the kind wanted: an endpoint
serves its flits in the order of their arrival (R148, R299, R349, R741). -/
def takeHead (w : Weave) (t : TileId) (extra : Bool) (vn : BitVec 2) (serves kind : Flit → Bool) : Option Flit :=
  match (outAt w (outKey t extra vn)).find? serves with
  | some f => if kind f then some f else none
  | none => none

/-! ## The lock unit's page traffic (R741) -/

/-- A page request. -/
def isPageRequest (f : Flit) : Bool := match f.msg with | .pageRequest _ _ _ => true | _ => false
/-- A page release. -/
def isPageRelease (f : Flit) : Bool := match f.msg with | .pageRelease _ => true | _ => false
/-- The page traffic of a lock unit. -/
def isPageFlit (f : Flit) : Bool := isPageRequest f || isPageRelease f

/-- The lock unit of quadrant q sends a flit at its tile's local port. -/
def unitSend (s : State) (q : BitVec 2) (pri : BitVec 2) (m : Msg) : State :=
  produceLocal s (lockTile q) 6 (mkFlit s (lockTile q) pri .strand m)

/-- A page granted by a lock unit: which of its free pages is left open (log 14). -/
def grantPage (u : LockUnit) (free : W64) (c : CellId) (use : PageUse) : LockUnit × Option (BitVec 13) :=
  match u.free[free.toNat % u.free.length]? with
  | none => (u, none)
  | some p =>
    let dir := u.dir ++ [⟨p, c, use, u.grants⟩]
    ({ u with free := u.free.erase p, dir := dir, grants := u.grants + 1,
              high := if u.high.toNat < dir.length then BitVec.ofNat 16 dir.length else u.high }, some p)

/-- What a lock unit does with a page request (R325, R741). -/
def pageRequest (s : State) (q : BitVec 2) (m : Msg) : State :=
  match m with
  | .pageRequest c use subject =>
    let u := unitAt s.locks q
    let g := grantPage u (freeNow s) c use
    let report := g.2.isNone && subject.isSome && !u.latch
    unitSend { bumpFree s with locks := setUnit s.locks q { g.1 with latch := u.latch || report }
                               tab := if report then raiseTrigger s.tab 4 else s.tab } q 3
      (.ackPage c use g.2 (if report then subject else none))
  | _ => s

/-- What a lock unit does with a page that comes back (R325, R741). -/
def pageRelease (s : State) (q : BitVec 2) (m : Msg) : State :=
  match m with
  | .pageRelease p =>
    let u := unitAt s.locks q
    { s with
      locks := setUnit s.locks q
        { u with free := u.free ++ [p], dir := u.dir.filter (fun d => d.page != p), latch := false }
      time := markProgress s.time }
  | _ => s

/-- The lock unit takes a page request and answers it with a grant or a refusal (R325, R741). -/
def execPageRequest (q : BitVec 2) (s : State) : Host.Outcome State Fault Refusal :=
  if !tileUp s (lockTile q) then .next s
  else match takeHead s.weave (lockTile q) false 1 isPageFlit isPageRequest with
  | none => .refused .nothingWaiting
  | some f => .next (pageRequest (taken s (lockTile q) false f) q f.msg)

/-- The lock unit takes a page back (R741); a report of exhaustion may be made again (R325). -/
def execPageRelease (q : BitVec 2) (s : State) : Host.Outcome State Fault Refusal :=
  if !tileUp s (lockTile q) then .next s
  else match takeHead s.weave (lockTile q) false 1 isPageFlit isPageRelease with
  | none => .refused .nothingWaiting
  | some f => .next (pageRelease (taken s (lockTile q) false f) q f.msg)

/-! ## Strand records (Table 07-9) -/

/-- Registers with every outstanding floating-point operation complete (R197, R287). -/
def flushFp (r : Regs) : List FpOp → Regs
  | [] => r
  | o :: os => flushFp (fpWrite r o.rd o.value o.flags) os

/-- An engine whose outstanding operations have completed. -/
def flushEngine (e : Engine) : Engine := { e with regs := flushFp e.regs e.fpOut, fpOut := [] }

/-- A trap identifier (Table 07-8). -/
def trapIdOf (gen : BitVec 9) (page : BitVec 13) (pc : BitVec 15) (c : CellId) (cause : Bool)
    (raised trapped : BitVec 5) : W64 :=
  gen ++ page ++ (pc.setWidth 14 : BitVec 14) ++ c ++ (0 : BitVec 1) ++ BitVec.ofBool cause ++ raised ++ trapped ++ fFpTrap

/-- The state word of a record. -/
def recordState (r : Regs) : W64 := (r.pc.setWidth 14 : BitVec 14).setWidth 64 ||| (if r.pend.isSome then 0x4000 else 0)

/-- The 46 words of a strand record (Table 07-9). -/
def recordWords (e : Engine) (trapId : W64) : List W64 :=
  let r := e.regs
  let pend := r.pend.getD 0
  r.g.toList ++
  [r.pl, r.ph, (BitVec.ofBool r.cf).setWidth 64, r.fs.setWidth 64, r.dl.setWidth 64, r.fl.setWidth 64] ++
  r.ls.toList.map (·.setWidth 64) ++ r.le.toList.map (·.setWidth 64) ++ r.lc.toList.map (·.setWidth 64) ++
  [r.bs.setWidth 64, r.bd.setWidth 64, r.bc.setWidth 64, r.tag0, r.tag1, r.tag2, r.tag3, recordState r,
   pend.setWidth 64, pend.extractLsb' 64 64, trapId,
   (e.flow ++ e.deadline : BitVec 32).setWidth 64]

/-- The registers that a record's words restore (Table 07-9, R283). -/
def recordRegs (w : Nat → W64) : Regs :=
  { g := Vector.ofFn (fun (i : Fin 16) => w i.val)
    pl := w 16, ph := w 17, cf := (w 18).getLsbD 0, fs := (w 19).setWidth 5, dl := (w 20).setWidth 20,
    fl := (w 21).setWidth 12
    ls := Vector.ofFn (fun (i : Fin 4) => (w (22 + i.val)).setWidth 14)
    le := Vector.ofFn (fun (i : Fin 4) => (w (26 + i.val)).setWidth 14)
    lc := Vector.ofFn (fun (i : Fin 4) => (w (30 + i.val)).setWidth 32)
    bs := (w 34).setWidth 48, bd := (w 35).setWidth 48, bc := (w 36).setWidth 32
    tag0 := w 37, tag1 := w 38, tag2 := w 39, tag3 := w 40
    pc := ((w 41).setWidth 14 : BitVec 14).setWidth 15
    pend := if (w 41).getLsbD 14 then some (w 43 ++ w 42) else none }

/-! ## Page grants at the cell (R741, R193, R194, R325) -/

/-- A page answer in a cell's room. -/
def isAckPage : Msg → Bool
  | .ackPage _ _ _ _ => true
  | _ => false

/-- A granted record page: the park count rises, and the record's words are offered to the bank (R193, R281, R282). -/
def beginRecord (s : State) (c : CellId) (page : BitVec 13) : State :=
  let x := cellAt s c
  match x.engine.phase with
  | .stopped cause raised trapped _ =>
    let e := flushEngine x.engine
    let id := trapIdOf (x.gen + 1) page e.regs.pc c cause raised trapped
    let ws := recordWords e id
    let s1 := setCell s c { x with gen := x.gen + 1, engine := { e with phase := .recording page ws.length id } }
    (ws.zipIdx).foldl (fun s w => cellSend s c (.recordWrite c (pageAddr page + BitVec.ofNat 48 (8 * w.2)) w.1)) s1
  | _ => s

/-- The channels whose token needs a page of a use (Table 09-4). -/
def needsPage (s : State) (c : CellId) (u : PageUse) (ch : Nat) : Bool :=
  match headToken s c ch with
  | none => false
  | some t => match fateOf s c t (ch == 4) with
    | .spill cause => useOf cause == u
    | _ => false

/-- A refused page: the tokens that need it are refused, each for its first time in an episode, and the first refusal
that found the latch clear is reported (R325). -/
def pageRefused (s : State) (c : CellId) (u : PageUse) (report : Option W64) : State :=
  let x := cellAt s c
  let chs := [0, 1, 2, 3, 4].filter (needsPage s c u)
  let fresh := chs.filter (fun ch => mget 0 x.refusing ch != 2)
  let q := quadOf c
  let un := unitAt s.locks q
  let s1 := { setCell s c { x with refusing := chs.foldl (fun m ch => mset 0 m ch 2) x.refusing } with
                locks := setUnit s.locks q { un with episodes := satAdd un.episodes fresh.length } }
  match report with
  | none => s1
  | some tag => contextReport s1 (tagContext tag) fSpill 0x9
      ((0 : BitVec 32) ++ c ++ (0 : BitVec 6) ++ q) tag

/-- The channels that a granted page serves, that of the token that asked first (R741). -/
def grantOrder (x : Cell) (u : PageUse) : List Nat :=
  let asker := (x.asks.filter (·.1 == u)).map (·.2)
  asker ++ [4, 0, 1, 2, 3].filter (fun ch => !asker.contains ch)

/-- A page answer reaches the cell: a granted page lets the waiting token be taken and written, or a stopped strand be
recorded; a refusal leaves them waiting (R194, R325, R741). -/
def execPageGrant (c : CellId) (s : State) : Host.Outcome State Fault Refusal :=
  let x := cellAt s c
  if !cellUp s c then .refused .engineNotReady
  else match x.room.find? isAckPage with
  | some (.ackPage c' use page report) =>
    let s1 := setCell s c { x with room := x.room.erase (.ackPage c' use page report)
                                   asks := x.asks.filter (fun a => a.1 != use) }
    (match use, page with
     | .record, some p => .next (beginRecord s1 c p)
     | .record, none =>
       (match x.engine.phase with
        | .stopped cause raised trapped _ =>
          .next (setEngine s1 c { engineAt s1 c with phase := .stopped cause raised trapped false })
        | _ => .next s1)
     | u, some p =>
       let s2 := setCell s1 c { cellAt s1 c with granted := x.granted ++ [(u, p)] }
       (match takeFirst s2 c true ((grantOrder x u).filter (needsPage s2 c u)) with
        | none => .next s2
        | r => takingOutcome s r)
     | u, none => .next (pageRefused s1 c u report))
  | _ => .refused .nothingWaiting

/-! ## The trap token and restoration -/

/-- The trap token (R280): it goes where R137, or R664, sends a report; none is sent where that lies beyond the limit,
or before START (R663). -/
def trapToken (s : State) (c : CellId) (ctx : BitVec 14) (trapId : W64) : State :=
  let s1 := { s with stw := { s.stw with parked := s.stw.parked ++ [⟨trapId, false⟩] } }
  let send := fun (s : State) (tag : W64) (serial : BitVec 16) (dl : BitVec 20) =>
    produce s (tileOf c) false (faultOffer s (tileOf c) (slotOf c).toNat (faultToken tag trapId serial (now20 s + dl)))
  if !s.stw.started then s1
  else
    let s2 := readForReport s1 ctx
    if contextRoute s ctx then
      send { s2 with mem := bumpSerial s2.mem ctx } (handlerFor s ctx) (ctxSerial s.mem ctx) (ctxDlOffset s.mem ctx)
    else if tagInLimit s (defaultHandler s) then
      let dl := if descBad s.mem ctx 1 then (freeNow s).setWidth 20 else ctxDlOffset s.mem ctx
      send { bumpFree s2 with stw := { s2.stw with nodeSerial := s2.stw.nodeSerial + 1 } } (defaultHandler s)
        s.stw.nodeSerial dl
    else s2

/-- Once the bank has accepted the last record word, the trap token is sent and the engine is free (R193, R280). -/
def execTrapTokenSend (c : CellId) (s : State) : Host.Outcome State Fault Refusal :=
  let e := engineAt s c
  if !cellUp s c then .refused .engineNotReady
  else match e.phase with
  | .recording _ left trapId =>
    if left = 0 then
      let s1 := trapToken s c (tagContext e.regs.tag0) trapId
      .next { setEngine s1 c Engine.idle with time := markProgress s1.time }
    else .next s
  | _ => .refused .engineNotReady

/-- The page of a trap identifier. -/
def trapPage (id : W64) : BitVec 13 := id.extractLsb' 42 13

/-- The words of a strand record. -/
def recordLength : Nat := 46

/-- The words of a record that has come back: by index, as they were read. -/
def resumedWord (r : Resumed) (i : Nat) : W64 := (mget none r.words i).getD 0

/-- The words of a record that cannot be used, by index (R742). -/
def badWords (r : Resumed) : List Nat := (r.words.filter (fun e => e.2.isNone)).map (·.1)

/-- The report of a record that cannot be used (R742): on the context route of the record's TAG0, or on the node route
when the TAG0 word or the firing word is the faulty one. -/
def recordReport (s : State) (r : Resumed) (bad : List Nat) : State :=
  let at' := fun (i : Nat) => pageAddr (trapPage r.trapId) + BitVec.ofNat 48 (8 * i)
  if bad.contains 37 then nodeReport s fEcc 0x9 (at' 37) 0
  else if bad.contains 45 then nodeReport s fEcc 0x9 (at' 45) 0
  else contextReport s (tagContext (resumedWord r 37)) fEcc 0x9 (at' (bad.headD 0)) (resumedWord r 37)

/-- A restored strand as an entry of the token queue: it takes its mode word now (R195, R285). -/
def restoredFiring (s : State) (r : Resumed) : Firing :=
  let regs := recordRegs (resumedWord r)
  let fw := resumedWord r 45
  let ctx := tagContext regs.tag0
  { op0 := recordOperand regs.tag1, op1 := recordOperand regs.tag2, op2 := recordOperand regs.tag3, tag := regs.tag0,
    deadline := fw.setWidth 20, flow := fw.extractLsb' 20 12, seq := 0, ecc := .ok,
    strand := some ⟨regs, r.skip, if decide (16 ≤ ctx.toNat) && descBad s.mem ctx 0 then freeNow s else modeWord s.mem ctx⟩ }

/-- A record has come back whole: its strand enters the token queue, or is abandoned when a word cannot be used; the page
is released (R195, R285, R742). -/
def restore (s : State) (c : CellId) (r : Resumed) : State :=
  let ctx := tagContext (resumedWord r 37)
  let s1 :=
    if badWords r = [] then
      let t := setCell s c (enqueue (cellAt s c) (restoredFiring s r))
      let s2 := { t with mem := readDescriptor s.mem ctx 0, freeCounter := s.freeCounter + 1 }
      if decide (16 ≤ ctx.toNat) && descBad s.mem ctx 0 then nodeReport s2 fEcc 0xF (BitVec.ofNat 48 (descAddr ctx)) 0 else s2
    else recordReport s r (badWords r)
  { cellSend s1 c (.pageRelease (trapPage r.trapId)) with time := markProgress s1.time }

/-- The cell asks the bank for the words of a record, each its own request (R299, Table 10-3). -/
def askRecord (s : State) (c : CellId) (r : Resumed) : State :=
  (List.range recordLength).foldl
    (fun s i => cellSend s c (.recordRead c (pageAddr (trapPage r.trapId) + BitVec.ofNat 48 (8 * i)) i)) s

/-- A record word that has come back, in a cell's room. -/
def isRecordReturn : Msg → Bool
  | .recordReturn _ _ _ => true
  | _ => false

/-- The record words in a cell's room, with those read before. -/
def gatherWords (x : Cell) (r : Resumed) : Resumed :=
  let put := fun (ws : List (Nat × Option W64)) (m : Msg) =>
    match m with | .recordReturn _ i v => minsert i v (mdrop i ws) | _ => ws
  { r with words := (x.room.filter isRecordReturn).foldl put r.words }

/-- A parked strand whose RESUME has been taken: the words of its record are asked for, and once they have all come back
and the token queue has an entry, it is restored or abandoned (R195, R742). -/
def execStrandRestore (c : CellId) (s : State) : Host.Outcome State Fault Refusal :=
  let x := cellAt s c
  if !cellUp s c then .refused .engineNotReady
  else match x.resumed with
  | [] => .refused .nothingWaiting
  | r :: rest =>
    if !r.asked then .next (askRecord (setCell s c { x with resumed := { r with asked := true } :: rest }) c r)
    else
      let r1 := gatherWords x r
      let x1 := { x with room := x.room.filter (fun m => !isRecordReturn m) }
      if r1.words.length < recordLength ∨ (badWords r1 = [] ∧ 16 ≤ x.queue.length + x.inFlight) then
        .next (setCell s c { x1 with resumed := r1 :: rest })
      else .next (restore (setCell s c { x1 with resumed := rest }) c r1)

/-- A floating-point operation in flight completes (R287). -/
def execFpComplete (c : CellId) (k : BitVec 5) (s : State) : Host.Outcome State Fault Refusal :=
  let e := engineAt s c
  if !cellUp s c then .refused .engineNotReady
  else match e.fpOut[k.toNat]? with
  | none => .refused .nothingWaiting
  | some o =>
    .next (setEngine s c { e with regs := fpWrite e.regs o.rd o.value o.flags, fpOut := e.fpOut.eraseIdx k.toNat })

end Sys2Proof.Machine
end

