-- ==== Sys2Proof/Machine/Bank.lean ====
section
/-! DEFINITION. How banks and keep memory serve requests (Tables 08-3 and 08-4), and how cells resolve gather and scatter
elements and retries (R305, R313). -/

namespace Sys2Proof.Machine

open Sys2Proof

/-! ## Places that serve memory -/

/-- A place's flit enters at its tile's local port as requester 4 (the bank) or at its extra port. -/
def placeSend (s : State) (pl : Place) (pri : BitVec 2) (m : Msg) : State :=
  let f := mkFlit s pl.tile pri .strand m
  match pl with
  | .bank t => produceLocal s t 4 f
  | _ => produceExtra s pl.tile f

/-- The word that holds an address shows a double-bit error. -/
def wordBad (m : Mem) (a : Addr) : Bool := eccAt m a.toNat == .double

/-- The data of the word that holds an address. -/
def wordAt (m : Mem) (a : Addr) : W64 := readWord m (a.toNat / 8 * 8)

/-- Memory with the word that holds an address written. -/
def putWord (m : Mem) (a : Addr) (v : W64) : Mem := writeWord m (a.toNat / 8 * 8) v

/-- The bits that a byte mask selects. -/
def maskBits (mask : BitVec 8) : W64 :=
  BitVec.ofNat 64 (leNat ((List.range 8).map fun i => if mask.getLsbD i then 0xFF else 0))

/-- A word with the bytes of a mask replaced. -/
def mergeWord (old v : W64) (mask : BitVec 8) : W64 := (old &&& ~~~ maskBits mask) ||| (v &&& maskBits mask)

/-- The value of a read of 2^n bytes from its word, extended (R225, R226). -/
def loadValue (w : W64) (a : Addr) (size : BitVec 2) (sx : Bool) : W64 :=
  let x := w >>> (8 * (a.toNat % 8))
  match size.toNat with
  | 0 => if sx then (x.setWidth 8).signExtend 64 else (x.setWidth 8).setWidth 64
  | 1 => if sx then (x.setWidth 16).signExtend 64 else (x.setWidth 16).setWidth 64
  | 2 => if sx then (x.setWidth 32).signExtend 64 else (x.setWidth 32).setWidth 64
  | _ => x

/-! ## Elements (R313 to R316, R658) -/

/-- The INFO of an element report: its mask (R658). -/
def maskInfo (mask : BitVec 16) : BitVec 48 := mask ++ (0 : BitVec 32)

/-- An element is resolved at a place, with its fault code or 0: an acknowledgement when it holds a tally, else its own
report when it failed (R313, R314). -/
def resolveElement (s : State) (pl : Place) (e : Elem) (scatter : Bool) (tag0 : W64) (code : BitVec 8) : State :=
  match e.tally with
  | some _ => placeSend s pl 3 (.ackElement e code)
  | none =>
    if code = 0 then s
    else firingReport' s tag0 code (if scatter then 0x6 else 0x5) (maskInfo (1#16 <<< e.j.toNat)) e.base
where
  /-- A report for the issuing firing with a subject of its own. -/
  firingReport' (s : State) (tag0 : W64) (code : BitVec 8) (access : BitVec 4) (info : BitVec 48) (subject : W64) :
      State :=
    contextReport s (tagContext tag0) code access info subject

/-- An acknowledged element in its cell's tally; after the sixteenth the tally is freed and a failure is reported
(R313, R658). -/
def ackTally (s : State) (c : CellId) (e : Elem) (code : BitVec 8) : State :=
  let x := cellAt s c
  match e.tally with
  | none => s
  | some i =>
    match mget none x.tallies i.toNat with
    | none => s
    | some tl =>
      let bit := 1#16 <<< e.j.toNat
      let tl1 := { tl with resolved := tl.resolved ||| bit,
                           failed := if code = 0 then tl.failed else tl.failed ||| bit,
                           codes := if code = 0 then tl.codes else mset 0 tl.codes e.j.toNat code }
      if tl1.resolved = 0xFFFF then
        let s1 := setCell s c { x with tallies := mset none x.tallies i.toNat none }
        (match tl1.codes with
         | [] => s1
         | (_, low) :: _ =>
           contextReport s1 (tagContext tl1.tag0) low (if tl1.scatter then 0x6 else 0x5) (maskInfo tl1.failed) tl1.base)
      else setCell s c { x with tallies := mset none x.tallies i.toNat (some tl1) }

/-- An element acknowledgement in a cell's room. -/
def isAckElement : Msg → Bool
  | .ackElement _ _ => true
  | _ => false

/-- A cell takes an element acknowledgement (R313). -/
def execElementAck (c : CellId) (s : State) : Host.Outcome State Fault Refusal :=
  let x := cellAt s c
  if !cellUp s c then .refused .engineNotReady
  else match x.room.find? isAckElement with
  | some (.ackElement e code) =>
    .next (ackTally (setCell s c { x with room := x.room.erase (.ackElement e code) }) c e code)
  | _ => .refused .nothingWaiting

/-! ## Answers -/

/-- The data token that answers a load (R226), or its POISON form (R229). -/
def answerToken (tag : W64) (dl : BitVec 20) (fl : BitVec 12) (r : Except (BitVec 8) W64) (late : Bool) : Token :=
  match r with
  | .ok v => tokenTo tag v dl fl (if late then flagLate else 0)
  | .error code => tokenTo tag (code.setWidth 64) dl fl (if late then flagPoison ||| flagLate else flagPoison)

/-- ACCESS of a failed read (Table 17-2). -/
def readAccess : ReadFor → BitVec 4
  | .load _ => 0x1
  | .bmov _ => 0x8
  | .scatter _ _ => 0x6
  | .table _ _ => 0x7
  | .host => 0x1

/-- ACCESS of a failed write (Table 17-2). -/
def writeAccess (f : WriteFor) (mask : BitVec 8) : BitVec 4 :=
  match f with
  | .bmov => 0x8
  | _ => if mask = 0xFF then 0x2 else 0x3

/-- A place answers a read: with a value, or with the code of its failure (R226, R229, R231, R250, R316, R329). `info`
is the address that a report names. The write that the source's bank issues for a BMOV or a SCATTER keeps the PRI of its
request (DESIGN CHOICE, log 99). -/
def answerRead (s : State) (pl : Place) (pri : BitVec 2) (a : Addr) (f : ReadFor) (tag0 : W64) (info : Addr)
    (r : Except (BitVec 8) W64) : State :=
  match f, r with
  | .load l, .ok w => placeSend s pl pri (.token (answerToken l.tag l.dl l.fl (.ok (loadValue w a l.size l.sx)) false))
  | .load l, .error code =>
    firingReport (placeSend s pl pri (.token (answerToken l.tag l.dl l.fl (.error code) false))) tag0 code 0x1 info
  | .bmov dst, .ok w => placeSend s pl pri (.write dst 0xFF w .bmov tag0)
  | .bmov _, .error code => firingReport s tag0 code 0x8 info
  | .scatter dst e, .ok w => placeSend s pl pri (.iwrite dst w (some e) tag0)
  | .scatter _ e, .error code => resolveElement s pl e true tag0 code
  | .table c second, .ok w => placeSend s pl 3 (.tableData c second (some ((loadValue w a 2 false).setWidth 32)))
  | .table c second, .error code => firingReport (placeSend s pl 3 (.tableData c second none)) tag0 code 0x7 info
  | .host, .ok w => placeSend s pl 3 (.hostData tag0 w false)
  | .host, .error _ => placeSend s pl 3 (.hostData tag0 0 true)

/-- A place answers an I-read: the data token, and for an element its acknowledgement (R226, R229, R315). -/
def answerIread (s : State) (pl : Place) (pri : BitVec 2) (q : IReq) (r : Except (BitVec 8) W64) : State :=
  let s1 := placeSend s pl pri (.token (answerToken q.tag q.dl q.fl r false))
  match q.elem, r with
  | some e, .ok _ => resolveElement s1 pl e false q.tag0 0
  | some e, .error code => resolveElement s1 pl e false q.tag0 code
  | none, .ok _ => s1
  | none, .error code => firingReport s1 q.tag0 code 0x1 q.addr

/-! ## Bank service -/

/-- A request that a bank serves. -/
def isBankRequest (f : Flit) : Bool :=
  match f.msg with
  | .read _ _ _ => true
  | .write _ _ _ _ _ => true
  | .iread _ => true
  | .iwrite _ _ _ _ => true
  | .iclear _ _ => true
  | .slotWrite _ _ _ => true
  | .slotLink _ _ => true
  | .slotRead _ _ => true
  | .recordWrite _ _ _ => true
  | .recordRead _ _ _ => true
  | _ => false

/-- A flit of the bank waits at its local port: the bank accepts no request (R299). -/
def bankStuck (s : State) (b : TileId) : Bool := (offersAt s.weave (offerKey b false)).any (fun o => o.req == 4)

/-- A request that makes the bank send nothing. Only such a one is accepted while a chain is being answered, since a
request's first flit may wait behind no other flit of the bank (R299, R336). -/
def quietRequest (s : State) (f : Flit) : Bool :=
  match f.msg with
  | .write a mask _ _ _ => presAt s.mem a.toNat != presDeferred && (mask == 0xFF || !wordBad s.mem a)
  | .iwrite a _ e _ =>
    e.isNone && !wordBad s.mem a && (presAt s.mem a.toNat == presEmpty || presAt s.mem a.toNat == presPlain)
  | .iclear a _ => !wordBad s.mem a
  | .slotWrite _ _ _ => true
  | .slotLink _ _ => true
  | .recordWrite _ _ _ => true
  | _ => false

/-- The bank accepts a request now (R299). -/
def bankAccepts (s : State) (b : TileId) (f : Flit) : Bool :=
  !bankStuck s b && ((bankAt s.mem b).answering.isEmpty || quietRequest s f)

/-- A bank serves the oldest request at its port when it is of the kind named (R299, R328). -/
def serveBank (s : State) (b : TileId) (kind : Flit → Bool) (serve : State → Flit → Host.Outcome State Fault Refusal) :
    Host.Outcome State Fault Refusal :=
  if !bankUp s b then .next s
  else match takeHead s.weave b false 1 isBankRequest kind with
  | none => .refused .nothingWaiting
  | some f => if bankAccepts s b f then serve (taken s b false f) f else .next s

/-- The directory entry of the page that holds an address, if it is not FREE (R324, R337). -/
def pageUseAt (l : Locks) (a : Addr) : Option DirEntry :=
  (unitAt l (quadOfTile (bankOf a))).dir.find? (fun d => d.page == a.extractLsb' 12 13)

/-- The record in the page that holds an address is parked (R284). -/
def parkedAt (s : State) (a : Addr) : Bool := s.stw.parked.any (fun r => trapPage r.trapId == a.extractLsb' 12 13)

/-- A write to a spill page that is not FREE is unpredictable (R337), except an ST to the first 0xB0 bytes of the record of
a parked strand (R283). -/
def pageWriteBad (s : State) (a : Addr) (st : Bool) : Option Nat :=
  match pageUseAt s.locks a with
  | none => none
  | some d =>
    if d.use ≠ .record then some 337
    else if st && decide (a.toNat % 4096 < 0xB0) && parkedAt s a then none else some 283

/-- The state after a word of a parked record has been stored to, or loaded (R284). -/
def noteRecord (s : State) (a : Addr) (stored : Bool) : State :=
  let note := fun (r : Parked) => if trapPage r.trapId = a.extractLsb' 12 13 then { r with dirty := stored } else r
  { s with stw := { s.stw with parked := s.stw.parked.map note } }

/-- The graph context whose FAULT_SERIAL or ITER_BASE a write touches while a graph is started (R136). -/
def serialWrite (s : State) (a : Addr) (mask : BitVec 8) : Option (BitVec 14) :=
  let c := a.toNat / 64
  if s.stw.started && decide (16 ≤ c) && decide (c < ctxLimit s) && a.toNat / 8 % 8 == 3 && (mask &&& 0x0F) != 0
  then some (BitVec.ofNat 14 c) else none

/-- FAULT_SERIAL, ITER_BASE and the cells' bases of a context after a write that R136 forbids: free, and nothing beyond
them (Table 17-4). -/
def disturbSerial (s : State) (a : Addr) (mask : BitVec 8) : State :=
  match serialWrite s a mask with
  | none => s
  | some c =>
    let base := fun (k : Nat) => (Config.freeValue (s.freeCounter + 1 + k)).setWidth 16
    { s with
      mem := writeBytes s.mem (descAddr c + 24) (leBytes 4 (freeNow s).toNat)
      cells := s.cells.map fun e =>
        (e.1, if (mget none e.2.bases c.toNat).isNone then e.2
              else { e.2 with bases := mset none e.2.bases c.toNat (some (base e.1)) })
      freeCounter := s.freeCounter + 257 }

/-- A chain's readers to be answered with a value, oldest first (R304). -/
def beginAnswers (b : Bank) (a : Addr) (v : W64) : Bank :=
  { b with deferred := b.deferred.filter (fun d => d.req.addr != a)
           answering := b.answering ++ (b.deferred.filter (fun d => d.req.addr == a)).map (·, v) }

/-- Answers of a word's chain that are still to be sent carry the value of a full plain write that overtakes them
(R336). -/
def overtake (b : Bank) (a : Addr) (v : W64) : Bank :=
  { b with answering := b.answering.map fun x => if x.1.req.addr == a then (x.1, v) else x }

/-- A READ. -/
def isRead (f : Flit) : Bool := match f.msg with | .read _ _ _ => true | _ => false
/-- A WRITE. -/
def isWrite (f : Flit) : Bool := match f.msg with | .write _ _ _ _ _ => true | _ => false
/-- An IREAD. -/
def isIread (f : Flit) : Bool := match f.msg with | .iread _ => true | _ => false
/-- An IWRITE. -/
def isIwrite (f : Flit) : Bool := match f.msg with | .iwrite _ _ _ _ => true | _ => false
/-- An ICLEAR. -/
def isIclear (f : Flit) : Bool := match f.msg with | .iclear _ _ => true | _ => false
/-- A request for a slot or a record word. -/
def isSlot (f : Flit) : Bool :=
  match f.msg with
  | .slotWrite _ _ _ => true
  | .slotLink _ _ => true
  | .slotRead _ _ => true
  | .recordWrite _ _ _ => true
  | .recordRead _ _ _ => true
  | _ => false

/-- The address of a word (INFO of Table 17-3). -/
def wordAddr (a : Addr) : Addr := alignTo8 a
where
  /-- The address with its low 3 bits zero. -/
  alignTo8 (a : Addr) : Addr := (a >>> 3) <<< 3

/-- A plain read at a bank (Table 08-3): EMPTY and DEFERRED words answer 0. -/
def bankRead (s : State) (b : TileId) (f : Flit) : State :=
  match f.msg with
  | .read a rf tag0 =>
    let p := presAt s.mem a.toNat
    answerRead { s with mem := checkWord s.mem (.bank b) a } (.bank b) f.pri a rf tag0 (wordAddr a)
      (if wordBad s.mem a then .error fEcc
       else .ok (if p = presEmpty ∨ p = presDeferred then 0 else wordAt s.mem a))
  | _ => s

/-- BANK_READ: a bank serves a plain read under the presence transitions (R302). -/
def execBankRead (b : TileId) (s : State) : Host.Outcome State Fault Refusal :=
  serveBank s b isRead fun s f =>
    match f.msg with
    | .read a (.load _) _ => .next (noteRecord (bankRead s b f) a false)
    | _ => .next (bankRead s b f)

/-- A plain write at a bank (Tables 08-3 and 08-4, R336). -/
def bankWrite (s : State) (b : TileId) (f : Flit) : State :=
  match f.msg with
  | .write a mask v wf tag0 =>
    let full := mask == 0xFF
    let bad := wordBad s.mem a
    let bk := bankAt s.mem b
    let waiting := bk.deferred.any (fun d => d.req.addr == wordAddr a)
    let p := if bad then (if waiting then presDeferred else presPlain) else presAt s.mem a.toNat
    if bad && !full then
      let s1 := { s with mem := countDouble s.mem (.bank b) }
      match wf with
      | .host => s1
      | _ => firingReport s1 tag0 fEcc (writeAccess wf mask) (wordAddr a)
    else
      let m1 := if full then s.mem else checkWord s.mem (.bank b) a
      let old := if p = presEmpty ∨ p = presDeferred then 0 else wordAt s.mem a
      let w := mergeWord old v mask
      let m2 := setEcc (setPres (putWord m1 a w) a.toNat presPlain) a.toNat .ok
      let k := if full then overtake (bankAt m2 b) (wordAddr a) w else bankAt m2 b
      { s with mem := setBank m2 b (if p = presDeferred then beginAnswers k (wordAddr a) w else k) }
  | _ => s

/-- BANK_WRITE: a bank serves a full or partial plain write, answering any deferred readers (R302). -/
def execBankWrite (b : TileId) (s : State) : Host.Outcome State Fault Refusal :=
  serveBank s b isWrite fun s f =>
    match f.msg with
    | .write a mask _ wf _ =>
      (match pageWriteBad s a (mask == 0xFF && wf == .store) with
       | some n => unpredictable n s
       | none => .next (disturbSerial (noteRecord (bankWrite s b f) a true) a mask))
    | _ => .refused .nothingWaiting

/-- An I-read at a bank: answered, deferred, or returned for retry (Table 08-3, R304, R305). -/
def bankIread (s : State) (b : TileId) (f : Flit) : State :=
  match f.msg with
  | .iread q =>
    let p := presAt s.mem q.addr.toNat
    let bk := bankAt s.mem b
    let s1 := { s with mem := checkWord s.mem (.bank b) q.addr }
    if wordBad s.mem q.addr then answerIread s1 (.bank b) f.pri q (.error fEcc)
    else if p = presFull ∨ p = presPlain then answerIread s1 (.bank b) f.pri q (.ok (wordAt s.mem q.addr))
    else if bk.deferred.length + bk.answering.length < 1024 then
      let bk1 := bankAt s1.mem b
      let n := bk.deferred.length + bk.answering.length + 1
      let bk2 := { bk1 with deferred := bk1.deferred ++ [⟨q, f.pri, false⟩],
                            high := if bk1.high.toNat < n then BitVec.ofNat 11 n else bk1.high }
      let s2 := { s1 with mem := setPres (setBank s1.mem b bk2) q.addr.toNat presDeferred }
      match q.elem with
      | some e => resolveElement s2 (.bank b) e false q.tag0 0
      | none => s2
    else
      let bk1 := bankAt s1.mem b
      placeSend { s1 with mem := setBank s1.mem b { bk1 with retries := satAdd bk1.retries 1 } } (.bank b) 3 (.retry q)
  | _ => s

/-- BANK_IREAD: a bank serves an I-read: it answers, defers, or returns RETRY (R302). -/
def execBankIread (b : TileId) (s : State) : Host.Outcome State Fault Refusal :=
  serveBank s b isIread fun s f => .next (bankIread s b f)

/-- An I-write at a bank (Tables 08-3 and 08-4, R303, R316). -/
def bankIwrite (s : State) (b : TileId) (f : Flit) : State :=
  match f.msg with
  | .iwrite a v e tag0 =>
    let p := presAt s.mem a.toNat
    let s1 := { s with mem := checkWord s.mem (.bank b) a }
    let fail := fun (code : BitVec 8) =>
      match e with
      | some e => resolveElement s1 (.bank b) e true tag0 code
      | none => firingReport s1 tag0 code 0x4 (wordAddr a)
    if wordBad s.mem a then fail fEcc
    else if p = presFull then fail fDouble
    else
      let m2 := setPres (putWord s1.mem a v) a.toNat (if p = presPlain then presPlain else presFull)
      let s2 := { s1 with mem := if p = presDeferred then setBank m2 b (beginAnswers (bankAt m2 b) (wordAddr a) v) else m2 }
      match e with
      | some e => resolveElement s2 (.bank b) e true tag0 0
      | none => s2
  | _ => s

/-- BANK_IWRITE: a bank serves an I-write, with DOUBLE_ISTORE on a FULL word (R302). -/
def execBankIwrite (b : TileId) (s : State) : Host.Outcome State Fault Refusal :=
  serveBank s b isIwrite fun s f =>
    match f.msg with
    | .iwrite a _ _ _ =>
      (match pageWriteBad s a false with
       | some n => unpredictable n s
       | none => .next (disturbSerial (bankIwrite s b f) a 0xFF))
    | _ => .refused .nothingWaiting

/-- A clear at a bank (Tables 08-3 and 08-4). -/
def bankIclear (s : State) (b : TileId) (f : Flit) : State :=
  match f.msg with
  | .iclear a tag0 =>
    let p := presAt s.mem a.toNat
    let s1 := { s with mem := checkWord s.mem (.bank b) a }
    if wordBad s.mem a then firingReport s1 tag0 fEcc 0x4 (wordAddr a)
    else if p = presFull ∨ p = presPlain then
      { s1 with mem := setPres (putWord s1.mem a 0) a.toNat presEmpty }
    else s1
  | _ => s

/-- BANK_ICLEAR: a bank serves a clear request (R302). -/
def execBankIclear (b : TileId) (s : State) : Host.Outcome State Fault Refusal :=
  serveBank s b isIclear fun s f =>
    match f.msg with
    | .iclear a _ =>
      (match pageWriteBad s a false with
       | some n => unpredictable n s
       | none => .next (disturbSerial (bankIclear s b f) a 0xFF))
    | _ => .refused .nothingWaiting

/-! ## Spill slots and record words (Tables 08-5 and 07-9) -/

/-- The 32 bytes of a slot as a token is written to it (Table 08-5). -/
def slotBytes (t : Token) (cause : BitVec 8) (beat : BitVec 48) : List Byte :=
  tokenBytes t ++ [cause, 0, 0, 0] ++ leBytes 4 (beat.toNat % 2 ^ 32) ++ [0, 0, 0, 0]

/-- Memory with whole words written as PLAIN words with valid check bits. -/
def writePlain (m : Mem) (a : Nat) (bs : List Byte) : Mem :=
  (List.range (bs.length / 8)).foldl (fun m i => setEcc (setPres m (a + 8 * i) presPlain) (a + 8 * i) .ok)
    (writeBytes m a bs)

/-- Memory after the four words of a slot have been read (R308). -/
def readSlot (m : Mem) (b : TileId) (a : Addr) : Mem :=
  (List.range 4).foldl (fun m i => checkWord m (.bank b) (a + BitVec.ofNat 48 (8 * i))) m

/-- A bank serves a spill-slot or record-word request (R299, R319, R323, R324). -/
def bankSlot (s : State) (b : TileId) (f : Flit) : State :=
  match f.msg with
  | .slotWrite a t cause => { s with mem := writePlain s.mem a.toNat (slotBytes t cause s.time.beat) }
  | .slotLink a next =>
    { s with mem := writeBytes s.mem (a.toNat + 0x1C) (leBytes 4 (next.toNat + 2 ^ 31)) }
  | .slotRead c a =>
    let e := fun (i : Nat) => eccAt s.mem (a.toNat + 8 * i)
    let bad : BitVec 2 := if e 1 = .double ∨ e 2 = .double then 2 else if e 0 = .double then 1 else 0
    let fixed := (e 0).singleBelow 64 || (e 1).singleBelow 64 || (e 2).singleBelow 32
    let t := tokenOfBytes (readBytes s.mem a.toNat 20)
    let t1 := if fixed then { t with flags := t.flags ||| flagCorrected } else t
    placeSend { s with mem := readSlot s.mem b a } (.bank b) 3 (.slotReturn c a t1 bad)
  | .recordRead c a i =>
    placeSend { s with mem := checkWord s.mem (.bank b) a } (.bank b) 3
      (.recordReturn c i (if wordBad s.mem a then none else some (wordAt s.mem a)))
  | .recordWrite c a v =>
    let s1 := { s with mem := writePlain s.mem a.toNat (leBytes 8 v.toNat) }
    let e := engineAt s1 c
    match e.phase with
    | .recording page left id => setEngine s1 c { e with phase := .recording page (left - 1) id }
    | _ => s1
  | _ => s

/-- SPILL_SLOT_ACCESS: a bank serves a spill-slot or strand-record word write or read (R299). -/
def execSpillSlotAccess (b : TileId) (s : State) : Host.Outcome State Fault Refusal :=
  serveBank s b isSlot fun s f => .next (bankSlot s b f)

/-- One answer of a filled word's chain (R304). -/
def execDeferredAnswer (b : TileId) (s : State) : Host.Outcome State Fault Refusal :=
  if !bankUp s b then .next s
  else match (bankAt s.mem b).answering with
  | [] => .refused .nothingWaiting
  | (d, v) :: rest =>
    if !bankStuck s b && portRoom s b false 0 then
      let s1 := placeSend { s with mem := setBank s.mem b { bankAt s.mem b with answering := rest } } (.bank b) d.pri
        (.token (answerToken d.req.tag d.req.dl d.req.fl (.ok v) d.late))
      .next { s1 with time := markProgress s.time }
    else .next s

/-- The scrubber reads one word, in ascending order (R309). -/
def execBankScrub (b : TileId) (s : State) : Host.Outcome State Fault Refusal :=
  if !bankUp s b then .next s
  else
    let k := bankAt s.mem b
    let a : Addr := BitVec.ofNat 48 (b.toNat * 0x80000 + k.scrub.toNat * 8)
    .next { s with mem := checkWord (setBank s.mem b { k with scrub := k.scrub + 1 }) (.bank b) a }

/-! ## Retries (R305) -/

/-- A retry in a cell's room. -/
def isRetry : Msg → Bool
  | .retry _ => true
  | _ => false

/-- A cell gives up an I-read: its tag gets a POISON answer, and the failure is reported, by the tally for an element
(R305, R315). -/
def giveUp (s : State) (c : CellId) (r : IReq) : State :=
  let s1 := produce s (tileOf c) false ⟨(slotOf c).toNat, some (tagContext r.tag0),
    mkFlit s (tileOf c) 0 .strand (.token (answerToken r.tag r.dl r.fl (.error fRetry) false))⟩
  match r.elem with
  | none => firingReport s1 r.tag0 fRetry 0x1 r.addr
  | some e =>
    match e.tally with
    | some _ => ackTally s1 c e fRetry
    | none => contextReport s1 (tagContext r.tag0) fRetry 0x5 (maskInfo (1#16 <<< e.j.toNat)) e.base

/-- A retry of a cell at its tile's port. -/
def isRetryOf (c : CellId) (f : Flit) : Bool := match f.msg with | .retry r => r.cell == c | _ => false

/-- A retry that waits for its cell, with the state after it has been taken: from the cell's room (R384) or from the
port. -/
def waitingRetry (s : State) (c : CellId) : Option (IReq × State) :=
  let x := cellAt s c
  match x.room.find? isRetry with
  | some (.retry r) => some (r, setCell s c { x with room := x.room.erase (.retry r) })
  | _ =>
    match takeHead s.weave (tileOf c) false 2 (isRetryOf c) (isRetryOf c) with
    | none => none
    | some f => match f.msg with
      | .retry r => some (r, taken s (tileOf c) false f)
      | _ => none

/-- A cell re-issues an I-read that came back, ahead of every other VN1 flit of its tile, or gives it up after 4095
retries (R305, R384); what waited behind it at the port then goes on. -/
def execRetryReceive (c : CellId) (s : State) : Host.Outcome State Fault Refusal :=
  if !cellUp s c then .refused .engineNotReady
  else match waitingRetry s c with
  | none => .refused .nothingWaiting
  | some (r, s1) =>
    let t := tileOf c
    if r.retry = 4095 then .next (drain (giveUp s1 c r) t false)
    else if chanRoom s.weave (chanKey t 4 1 0) then
      .next (drain (offerEnters s1 t false
        ⟨(slotOf c).toNat, some (tagContext r.tag0), mkFlit s1 t 0 .strand (.iread { r with retry := r.retry + 1 })⟩) t false)
    else .next s

end Sys2Proof.Machine
end

