-- ==== Sys2Proof/Machine/Memory.lean ====
section
/-! DEFINITION. Memory, gather, scatter and stream-port instructions of a strand (Tables 06-9 to 06-11). -/

namespace Sys2Proof.Machine

open Sys2Proof

/-! ## Addresses -/

/-- The fabric address in a register (R224). -/
def addrOf (x : W64) : Addr := x.setWidth 48
/-- An address aligned to 2^n bytes (R225). -/
def alignTo (n : Nat) (a : Addr) : Addr := (a >>> n) <<< n
/-- An access outside the map of Table 08-1 is unpredictable (R298). -/
def mapBad (a : Addr) : Option Nat := if rangeOf a = .none then some 298 else none
/-- The byte mask of an access of 2^n bytes at an address, in its 64-bit word. -/
def byteMask (n : Nat) (a : Addr) : BitVec 8 :=
  (BitVec.ofNat 8 (2 ^ (2 ^ n) - 1)) <<< (a.toNat % 8)
/-- A value of an access moved to its place in the 64-bit word. -/
def byteShift (a : Addr) (v : W64) : W64 := v <<< (8 * (a.toNat % 8))

/-- The registers of the strand at cell `c`. -/
def regsAt (s : State) (c : CellId) : Regs := (engineAt s c).regs

/-- A packed tag in a register with a reserved bit set (Table 04-5, R23). -/
def tagBad (r : Regs) (rd : Reg) : Option Nat := if tagReserved (getG r rd) then some 23 else none

/-! ## Loads -/

/-- A plain load of 2^n bytes (R224 to R226). -/
def loadIns (s : State) (i : Instr) (c : CellId) (p : Pfx) (k : Enc) (rd rs : Reg) (n : Nat) :
    Host.Outcome State Fault Refusal :=
  sendIns s i c p k ((tagBad (regsAt s c) rd).or (mapBad (addrOf (getG (regsAt s c) rs)))) [rd, rs] 2 fun _ r =>
    .read (alignTo n (addrOf (getG r rs))) (.load ⟨getG r rd, r.dl, r.fl, BitVec.ofNat 2 n, p.sx⟩) r.tag0

/-- LD: issues a 64-bit read whose answer goes as a data token to the tag in rd (R226). -/
def execLd (c : CellId) (p : Pfx) (rd rs : Reg) (s : State) : Host.Outcome State Fault Refusal :=
  loadIns s (.ld c p rd rs) c p encB rd rs 3

/-- LDW: issues a 32-bit read whose extended answer goes to tag rd (R226). -/
def execLdw (c : CellId) (p : Pfx) (rd rs : Reg) (s : State) : Host.Outcome State Fault Refusal :=
  loadIns s (.ldw c p rd rs) c p encBX rd rs 2

/-- LDH: issues a 16-bit read whose extended answer goes to tag rd (R226). -/
def execLdh (c : CellId) (p : Pfx) (rd rs : Reg) (s : State) : Host.Outcome State Fault Refusal :=
  loadIns s (.ldh c p rd rs) c p encBX rd rs 1

/-- LDB: issues an 8-bit read whose extended answer goes to tag rd (R226). -/
def execLdb (c : CellId) (p : Pfx) (rd rs : Reg) (s : State) : Host.Outcome State Fault Refusal :=
  loadIns s (.ldb c p rd rs) c p encBX rd rs 0

/-- ILOAD: issues an I-structure read whose answer goes to tag rd (R302). -/
def execIload (c : CellId) (p : Pfx) (rd rs : Reg) (s : State) : Host.Outcome State Fault Refusal :=
  sendIns s (.iload c p rd rs) c p encB ((tagBad (regsAt s c) rd).or (mapBad (addrOf (getG (regsAt s c) rs)))) [rd, rs] 2 fun _ r =>
    .iread ⟨alignTo 3 (addrOf (getG r rs)), getG r rd, r.dl, r.fl, 0, c, none, r.tag0⟩

/-! ## Stores -/

/-- The destination address of a store: rd, or BD under REP with iterations left (R188, R230). -/
def dstOf (p : Pfx) (r : Regs) (rd : Reg) : Addr := if p.rep then r.bd else addrOf (getG r rd)
/-- A store that would reach an address outside the map (R298); none for a REP without iterations. -/
def storeBad (p : Pfx) (r : Regs) (rd : Reg) : Option Nat :=
  if p.rep && r.bc == 0 then none else mapBad (dstOf p r rd)

/-- The registers that a store reads: under REP, BD takes the place of its address register (R188, R199). -/
def storeUses (p : Pfx) (rd rs : Reg) : List Reg := if p.rep then [rs] else [rd, rs]

/-- A plain store of 2^n bytes (R224, R225, R230). -/
def storeIns (s : State) (i : Instr) (c : CellId) (p : Pfx) (rd rs : Reg) (n : Nat) : Host.Outcome State Fault Refusal :=
  repIns s i c p encBR (storeUses p rd rs) 2 (2 ^ n) (storeBad p (regsAt s c) rd) (fun r => r.bs)
    (fun r => addrOf (getG r rd)) fun _ r _ dst =>
      .write (alignTo n dst) (byteMask n (alignTo n dst)) (byteShift (alignTo n dst) (getG r rs)) .store r.tag0

/-- ST: issues a 64-bit write of rs at the address in rd (R224). -/
def execSt (c : CellId) (p : Pfx) (rd rs : Reg) (s : State) : Host.Outcome State Fault Refusal :=
  storeIns s (.st c p rd rs) c p rd rs 3

/-- STW: issues a 32-bit write, done as a read-modify-write at the bank (R225). -/
def execStw (c : CellId) (p : Pfx) (rd rs : Reg) (s : State) : Host.Outcome State Fault Refusal :=
  storeIns s (.stw c p rd rs) c p rd rs 2

/-- STH: issues a 16-bit write, done as a read-modify-write at the bank (R225). -/
def execSth (c : CellId) (p : Pfx) (rd rs : Reg) (s : State) : Host.Outcome State Fault Refusal :=
  storeIns s (.sth c p rd rs) c p rd rs 1

/-- STB: issues an 8-bit write, done as a read-modify-write at the bank (R225). -/
def execStb (c : CellId) (p : Pfx) (rd rs : Reg) (s : State) : Host.Outcome State Fault Refusal :=
  storeIns s (.stb c p rd rs) c p rd rs 0

/-- ISTORE: issues an I-structure write of rs (R302). -/
def execIstore (c : CellId) (p : Pfx) (rd rs : Reg) (s : State) : Host.Outcome State Fault Refusal :=
  repIns s (.istore c p rd rs) c p encBR (storeUses p rd rs) 2 8 (storeBad p (regsAt s c) rd) (fun r => r.bs) (fun r => addrOf (getG r rd))
    fun _ r _ dst => .iwrite (alignTo 3 dst) (getG r rs) none r.tag0

/-- ICLEAR: issues a request to set a bank word to EMPTY (R302). -/
def execIclear (c : CellId) (p : Pfx) (rd : Reg) (s : State) : Host.Outcome State Fault Refusal :=
  repIns s (.iclear c p rd) c p encBR (if p.rep then [] else [rd]) 2 8 (storeBad p (regsAt s c) rd) (fun r => r.bs) (fun r => addrOf (getG r rd))
    fun _ r _ dst => .iclear (alignTo 3 dst) r.tag0

/-- BMOV reads at its source address and writes at its destination (R231). -/
def execBmov (c : CellId) (p : Pfx) (rd rs : Reg) (s : State) : Host.Outcome State Fault Refusal :=
  let r0 := regsAt s c
  repIns s (.bmov c p rd rs) c p encBR (if p.rep then [] else [rd, rs]) 2 8
    ((storeBad p r0 rd).or (if p.rep && r0.bc == 0 then none else mapBad (if p.rep then r0.bs else addrOf (getG r0 rs))))
    (fun r => addrOf (getG r rs)) (fun r => addrOf (getG r rd))
    fun _ r src dst => .read (alignTo 3 src) (.bmov (alignTo 3 dst)) r.tag0

/-! ## Gather and scatter (R232 to R234, R313, R314) -/

/-- Index j of g4 to g7 (Table 06-10). -/
def indexAt (r : Regs) (j : Nat) : BitVec 16 :=
  (getG r (BitVec.ofNat 4 (4 + j / 4))).extractLsb' (16 * (j % 4)) 16

/-- A packed tag with its ITERATION raised by j (R233). -/
def tagPlus (w : W64) (j : Nat) : W64 :=
  (w &&& ~~~ ((0xFFFF : W64) <<< 34)) |||
    (((w.extractLsb' 34 16 + BitVec.ofNat 16 j : BitVec 16).setWidth 64 : W64) <<< 34)

/-- A free tally of a cell, the lowest-numbered (R313). -/
def freeTally (x : Cell) : Option (BitVec 4) :=
  ((List.range 16).find? (fun i => mget none x.tallies i == (none : Option Tally))).map (BitVec.ofNat 4)

/-- The address that element j of an indexed access reaches. -/
def elementAddr (base : Addr) (r : Regs) (j : Nat) : Addr :=
  alignTo 3 (base + BitVec.ofNat 48 (8 * (indexAt r j).toNat))

/-- A cell that begins a GATHER or SCATTER: it takes a tally when one is free, else counts one untallied (R313,
R314). -/
def beginElements (x : Cell) (scatter : Bool) (base tag0 : W64) : Cell :=
  let tl := freeTally x
  let x1 := match tl with
    | some i => { x with tallies := mset none x.tallies i.toNat (some ⟨scatter, 0, 0, [], base, tag0⟩) }
    | none => { x with untallied := satAdd x.untallied 1 }
  { x1 with engine := { x.engine with mid := .elements 0 tl } }

/-- Issue elements in order while the local port accepts them; one more is offered and the strand stalls (R233,
Table 05-10). -/
def issueElements (c : CellId) (mk : State → Regs → Nat → Option (BitVec 4) → Msg) (fin : State → State) :
    Nat → State → State
  | 0, s => fin s
  | k + 1, s =>
    let e := engineAt s c
    match e.mid with
    | .elements j tl =>
      if 16 ≤ j then fin s
      else
        emitThen s c 3 (mk s e.regs j tl) fun t =>
          issueElements c mk fin k (setEngine t c { engineAt t c with mid := .elements (j + 1) tl })
    | _ => fin s

/-- A GATHER or SCATTER, from wherever it stands. -/
def elementsIns (s : State) (i : Instr) (c : CellId) (p : Pfx) (rd rs : Reg) (scatter : Bool) (bad : Option Nat)
    (base : Regs → W64) (mk : State → Regs → Nat → Option (BitVec 4) → Msg) : Host.Outcome State Fault Refusal :=
  issue s i c p encB bad [rd, rs, 4, 5, 6, 7] true true fun s =>
    let e := engineAt s c
    let fin := fun t => complete t c (engineAt t c).regs none (nextAddr e.regs encB p)
    match e.mid with
    | .elements _ _ => issueElements c mk fin 17 s
    | _ => issueElements c mk fin 17 (setCell s c (beginElements (cellAt s c) scatter (base e.regs) e.regs.tag0))

/-- Some element of an indexed access lies outside the map (R298). -/
def elementsBad (f : Nat → Addr) : Option Nat := if (List.range 16).any (fun j => rangeOf (f j) == .none) then some 298 else none

/-- GATHER: issues 16 indexed I-reads, taking a tally when one is free (R233). -/
def execGather (c : CellId) (p : Pfx) (rd rs : Reg) (s : State) : Host.Outcome State Fault Refusal :=
  let r0 := regsAt s c
  elementsIns s (.gather c p rd rs) c p rd rs false
    ((tagBad r0 rd).or (elementsBad (elementAddr (addrOf (getG r0 rs)) r0))) (fun r => getG r rd)
    fun _ r j tl =>
      .iread ⟨elementAddr (addrOf (getG r rs)) r j, tagPlus (getG r rd) j, r.dl, r.fl, 0, c,
        some ⟨c, tl, BitVec.ofNat 4 j, getG r rd⟩, r.tag0⟩

/-- The source of element j of a SCATTER (R234). -/
def scatterSrc (r : Regs) (rs : Reg) (j : Nat) : Addr := alignTo 3 (addrOf (getG r rs) + BitVec.ofNat 48 (8 * j))

/-- SCATTER: issues 16 indexed source reads, each followed by an I-write, taking a tally when one is free (R234). -/
def execScatter (c : CellId) (p : Pfx) (rd rs : Reg) (s : State) : Host.Outcome State Fault Refusal :=
  let r0 := regsAt s c
  elementsIns s (.scatter c p rd rs) c p rd rs true
    ((elementsBad (elementAddr (addrOf (getG r0 rd)) r0)).or (elementsBad (scatterSrc r0 rs))) (fun r => r.tag0)
    fun _ r j tl =>
      .read (scatterSrc r rs j)
        (.scatter (elementAddr (addrOf (getG r rd)) r j) ⟨c, tl, BitVec.ofNat 4 j, r.tag0⟩) r.tag0

/-! ## Stream ports (R235, R236, Table 04-10) -/

/-- A stream port number that is reserved (Table 04-10). -/
def portBad (port : BitVec 8) : Option Nat := if 6 ≤ port.toNat then some 147 else none

/-- TAKE: requests the next word of a stream port for delivery to tag rd (R236). -/
def execTake (c : CellId) (p : Pfx) (rd : Reg) (port : BitVec 8) (s : State) : Host.Outcome State Fault Refusal :=
  sendIns s (.take c p rd port) c p encC ((portBad port).or (tagBad (regsAt s c) rd)) [rd] 2 fun _ r => .take port (getG r rd) r.dl r.fl

/-- PUT: sends a request on VN1 to place rs in a stream port (R147). -/
def execPut (c : CellId) (p : Pfx) (port : BitVec 8) (rs : Reg) (s : State) : Host.Outcome State Fault Refusal :=
  sendIns s (.put c p port rs) c p encC (if 6 ≤ port.toNat ∨ port = 0 ∨ port = 5 then some 147 else none) [rs] 4 fun _ r =>
    .put port (getG r rs)

end Sys2Proof.Machine
end

