-- ==== Sys2Proof/Machine/Control.lean ====
section
/-! DEFINITION. Control, token and flow instructions (Tables 06-2 and 06-12). -/

namespace Sys2Proof.Machine

open Sys2Proof

/-! ## Control -/

/-- END waits for outstanding operations, may trap, and ends the strand (R169, R287). -/
def execEndStrand (c : CellId) (p : Pfx) (s : State) : Host.Outcome State Fault Refusal :=
  issue s (.endStrand c p) c p encA none [] false false fun s => fsTest s c fun s => endStrandState s c

/-- FBAR waits for outstanding operations and may trap (R287). -/
def execFbar (c : CellId) (p : Pfx) (s : State) : Host.Outcome State Fault Refusal :=
  issue s (.fbar c p) c p encA none [] false false fun s => fsTest s c fun s =>
    let r := regsAt s c
    complete s c r none (nextAddr r encA p)

/-- LBRK: makes the highest-numbered active loop level inactive (R187). -/
def execLbrk (c : CellId) (p : Pfx) (s : State) : Host.Outcome State Fault Refusal :=
  regIns s (.lbrk c p) c p encA none [] fun r =>
    match topLevel r with
    | some j => setLc r j 0
    | none => r

/-- TABLEAU raises trigger 1 (R213, Table 16-1). -/
def execTableauInstr (c : CellId) (p : Pfx) (s : State) : Host.Outcome State Fault Refusal :=
  issue s (.tableauInstr c p) c p encA none [] false false fun s =>
    let r := regsAt s c
    { complete s c r none (nextAddr r encA p) with tab := raiseTrigger s.tab 1 }

/-- A branch to a byte address (R212). -/
def branchIns (s : State) (i : Instr) (c : CellId) (p : Pfx) (k : Enc) (uses : List Reg) (target : Regs → BitVec 14) :
    Host.Outcome State Fault Refusal :=
  issue s i c p k none uses false false fun s =>
    let r := regsAt s c
    complete s c r none ((target r).setWidth 15)

/-- JR: register-indirect branch to rs[13:0] (R212). -/
def execJr (c : CellId) (p : Pfx) (rs : Reg) (s : State) : Host.Outcome State Fault Refusal :=
  branchIns s (.jr c p rs) c p encB [rs] fun r => (getG r rs).setWidth 14

/-- BR: branch to a 14-bit immediate address (R212). -/
def execBr (c : CellId) (p : Pfx) (target : BitVec 14) (s : State) : Host.Outcome State Fault Refusal :=
  branchIns s (.br c p target) c p encD [] fun _ => target

/-- The loop nesting is deeper than 4 (R185, Table 17-4). -/
def loopBad (r : Regs) (count : BitVec 32) : Option Nat :=
  if count ≠ 0 ∧ (freeLevel r).isNone then some 185 else none

/-- LOOP with a count and an end address (R185). -/
def loopIns (s : State) (i : Instr) (c : CellId) (p : Pfx) (k : Enc) (uses : List Reg) (count : Regs → BitVec 32)
    (e : BitVec 14) : Host.Outcome State Fault Refusal :=
  issue s i c p k (loopBad (regsAt s c) (count (regsAt s c))) uses false false fun s =>
    let r := regsAt s c
    let next := nextAddr r k p
    if count r = 0 then complete s c r none (e.setWidth 15)
    else match freeLevel r with
      | some i =>
        complete s c { r with ls := r.ls.set i (next.setWidth 14), le := r.le.set i e, lc := r.lc.set i (count r) }
          none next
      | none => s

/-- LOOP: activates a zero-overhead loop level with a count from rs and an immediate end address (R185). -/
def execLoop (c : CellId) (p : Pfx) (rs : Reg) (e : BitVec 14) (s : State) : Host.Outcome State Fault Refusal :=
  loopIns s (.loop c p rs e) c p encD [rs] (fun r => (getG r rs).setWidth 32) e

/-- LOOPI: activates a zero-overhead loop level with an immediate count and end address (R185). -/
def execLoopi (c : CellId) (p : Pfx) (count : BitVec 16) (e : BitVec 14) (s : State) :
    Host.Outcome State Fault Refusal :=
  loopIns s (.loopi c p count e) c p encE [] (fun _ => count.setWidth 32) e

/-! ## Tokens (R175 to R177) -/

/-- A SEND-class instruction (R175). -/
def tokenIns (s : State) (i : Instr) (c : CellId) (p : Pfx) (rd rs : Reg) (flags : BitVec 10) :
    Host.Outcome State Fault Refusal :=
  sendIns s i c p encB (tagBad (regsAt s c) rd) [rd, rs] 1 fun _ r => .token (tokenTo (getG r rd) (getG r rs) r.dl r.fl flags)

/-- SEND: emits a data token to the tag in rd with the value in rs (R175). -/
def execSend (c : CellId) (p : Pfx) (rd rs : Reg) (s : State) : Host.Outcome State Fault Refusal :=
  tokenIns s (.send c p rd rs) c p rd rs 0

/-- SENDC: emits a control token (R175). -/
def execSendc (c : CellId) (p : Pfx) (rd rs : Reg) (s : State) : Host.Outcome State Fault Refusal :=
  tokenIns s (.sendc c p rd rs) c p rd rs kindControl

/-- SENDS: emits a system token, for example a request to context 0 (R176). -/
def execSends (c : CellId) (p : Pfx) (rd rs : Reg) (s : State) : Host.Outcome State Fault Refusal :=
  tokenIns s (.sends c p rd rs) c p rd rs kindSystem

/-- SENDP: emits a data token with POISON set (R175). -/
def execSendp (c : CellId) (p : Pfx) (rd rs : Reg) (s : State) : Host.Outcome State Fault Refusal :=
  tokenIns s (.sendp c p rd rs) c p rd rs flagPoison

/-! ## Contexts and flows (R238, R239) -/

/-- RETIRE: advances ITER_BASE of the firing's context at its home node (R238). -/
def execRetire (c : CellId) (p : Pfx) (s : State) : Host.Outcome State Fault Refusal :=
  sendIns s (.retire c p) c p encA none [] 1 fun _ r => .retire (tagContext r.tag0)

/-- FACQ: flow 0, and a context that takes no lock, are answered at the cell (R239, R347). -/
def execFacq (c : CellId) (p : Pfx) (rd rs : Reg) (s : State) : Host.Outcome State Fault Refusal :=
  sendIns s (.facq c p rd rs) c p encB (tagBad (regsAt s c) rd) [rd, rs] 1 fun s r =>
    let mw := (engineAt s c).mode
    let f : BitVec 12 := (getG r rs).setWidth 12
    if f = 0 ∨ mwFlowhome mw = 2 then .token (tokenTo (getG r rd) 0 r.dl r.fl 0)
    else .acquire (lockHome mw f) (tagContext r.tag0) f (getG r rd) r.dl r.fl

/-- FREL: flow 0, and a context that takes no lock, have no effect (R239, R347). -/
def execFrel (c : CellId) (p : Pfx) (rs : Reg) (s : State) : Host.Outcome State Fault Refusal :=
  issue s (.frel c p rs) c p encB none [rs] true false fun s =>
    let r := regsAt s c
    let mw := (engineAt s c).mode
    let f : BitVec 12 := (getG r rs).setWidth 12
    let fin := fun t => complete t c (regsAt t c) none (nextAddr r encB p)
    if f = 0 ∨ mwFlowhome mw = 2 then fin s
    else emitThen s c 1 (.release (lockHome mw f) (tagContext r.tag0) f) fin

end Sys2Proof.Machine
end

