-- ==== Sys2Proof/Machine/Image.lean ====
section
/-! DEFINITION. The Yalog image: header, section table and their checks (R149 to R152), where sections go (Table 04-13), and
the spill region that an image sets (R318). -/

namespace Sys2Proof.Machine

open Sys2Proof

/-! ## Header (Table 04-11) -/

/-- An n-byte field of an image (R12). -/
def imgField (bs : List Byte) (off n : Nat) : Nat := leNat ((bs.drop off).take n)

/-- TOTAL_LEN. -/
def imgTotal (bs : List Byte) : Nat := imgField bs 0x08 4
/-- NSECT. -/
def imgNsect (bs : List Byte) : Nat := imgField bs 0x0C 2
/-- The context limit that CTX_LIMIT gives (R131). -/
def imgLimit (bs : List Byte) : Nat := if imgField bs 0x18 2 = 0 then 1024 else imgField bs 0x18 2
/-- The spill pages that SPILL_PAGES gives (R318). -/
def imgPages (bs : List Byte) : Nat := if imgField bs 0x1C 4 = 0 then 1024 else imgField bs 0x1C 4
/-- GRAPH_HOOK. -/
def imgHook (bs : List Byte) : W64 := BitVec.ofNat 64 (imgField bs 0x20 8)
/-- DEF_HANDLER. -/
def imgHandler (bs : List Byte) : W64 := BitVec.ofNat 64 (imgField bs 0x28 8)

/-- A tag of the header has PORT 3 and names a context below the limit (R150). -/
def headerTag (bs : List Byte) (w : W64) : Bool :=
  (unpackTag w).port == 3 && decide ((unpackTag w).context.toNat < imgLimit bs)

/-- The header's fields are in range (R150, step 4). -/
def headerFields (bs : List Byte) : Bool :=
  imgField bs 0x06 2 == 64 && decide (1 ≤ imgNsect bs) && decide (imgNsect bs ≤ 1024) &&
  decide (imgField bs 0x0E 2 < 4) && imgField bs 0x31 7 == 0 && imgField bs 0x3C 4 == 0 &&
  imgLimit bs % 64 == 0 && decide (64 ≤ imgLimit bs) && decide (imgLimit bs ≤ 16384) &&
  imgPages bs % 64 == 0 && decide (64 ≤ imgPages bs) && decide (imgPages bs ≤ 2048) &&
  imgHook bs != 0 && headerTag bs (imgHook bs) && (imgHandler bs == 0 || headerTag bs (imgHandler bs)) &&
  decide (1 ≤ imgField bs 0x30 1) && decide (imgField bs 0x30 1 ≤ 4)

/-- The status that the header gives, in the order of R150; 0 is OK. -/
def headerStatus (bs : List Byte) : BitVec 8 :=
  if imgField bs 0x00 4 ≠ 0x474F4C59 then 0x01
  else if imgField bs 0x04 2 ≠ 1 then 0x02
  else if 0x1000000 < imgTotal bs ∨ imgTotal bs < 64 + 24 * imgNsect bs then 0x03
  else if headerFields bs then 0x00 else 0x08

/-! ## Section table (Tables 04-12 and 04-13) -/

/-- An entry of the section table. -/
structure Section where
  index  : Nat
  type   : Nat
  sealed : Bool
  qual   : Nat
  len    : Nat
  offset : Nat
  target : Nat
  deriving DecidableEq, Repr

/-- Offset of an entry. -/
def entryOffset (i : Nat) : Nat := 64 + 24 * i
/-- The 24 bytes of an entry. -/
def entryBytes (bs : List Byte) (i : Nat) : List Byte := (bs.drop (entryOffset i)).take 24

/-- Entry i of the section table. -/
def sectionAt (bs : List Byte) (i : Nat) : Section :=
  let f := fun (o n : Nat) => imgField bs (entryOffset i + o) n
  ⟨i, f 0 1, f 1 1 % 2 == 1, f 2 2, f 4 4, f 8 4, f 16 8⟩

/-- The section table. -/
def sectionsOf (bs : List Byte) : List Section := (List.range (imgNsect bs)).map (sectionAt bs)

/-- A section that carries data in the image. -/
def hasData (x : Section) : Bool := x.type != 3
/-- Where a section's data ends in the image, its tag included. -/
def dataEnd (x : Section) : Nat := x.offset + x.len + (if x.sealed then 16 else 0)

/-- A type that Table 04-13 defines. -/
def typeKnown (t : Nat) : Bool := (decide (1 ≤ t) && decide (t ≤ 6)) || t == 0xFF

/-- QUAL, TARGET and LEN of a section keep Table 04-13. -/
def targetGood (bs : List Byte) (x : Section) : Bool :=
  match x.type with
  | 1 => (decide (x.qual < 256) || x.qual == 0xFFFF) && decide (x.target + x.len ≤ 0x4000)
  | 2 => decide (x.qual ≤ 1) && x.target % 8 == 0 && x.len % 8 == 0 && decide (x.target + x.len ≤ 0x2000000)
  | 3 => decide (x.qual ≤ 2) && x.target % 8 == 0 && x.len % 8 == 0 && decide (x.target + x.len ≤ 0x2000000) &&
         !x.sealed
  | 4 => x.qual == 0 && decide (16 ≤ x.target) && x.len % 64 == 0 && decide (x.target + x.len / 64 ≤ imgLimit bs)
  | 5 => x.qual == 0 && x.target == 0 && x.len % 20 == 0
  | 6 => x.qual == 0 && decide (x.target + x.len ≤ 0x10000)
  | _ => x.target == 0 && x.len == 136 && x.index + 1 == imgNsect bs && x.offset + x.len == imgTotal bs && !x.sealed

/-- The status that one entry gives; 0 is OK (R151; log 25). -/
def entryStatus (bs : List Byte) (x : Section) : BitVec 8 :=
  if !typeKnown x.type || decide (2 ≤ imgField bs (entryOffset x.index + 1) 1) ||
     imgField bs (entryOffset x.index + 12) 4 != 0 then 0x08
  else if hasData x && decide (imgTotal bs < dataEnd x) then 0x03
  else if targetGood bs x then 0x00 else 0x08

/-- Spill pages that a bank holds (R318). -/
def bankPages (pages : Nat) (t : Nat) : Nat :=
  if t < 2 then 0 else if t < 4 then 2 * (pages / 64) else pages / 64

/-- First address of a bank's part of the spill region (R318). -/
def spillStart (pages : Nat) (t : Nat) : Nat := (t + 1) * 0x80000 - bankPages pages t * 0x1000

/-- The range of bank memory that a section of type 0x02, 0x03 or 0x04 writes. -/
def bankRange (x : Section) : Nat × Nat :=
  match x.type with
  | 2 => (x.target, x.target + x.len)
  | 3 => (x.target, x.target + x.len)
  | 4 => (x.target * 64, x.target * 64 + x.len)
  | _ => (0, 0)

/-- Two ranges have a byte in common. -/
def meets (a b : Nat × Nat) : Bool := decide (max a.1 b.1 < min a.2 b.2)

/-- A section overlaps the descriptor table beyond the described contexts, or the spill region (R152). -/
def overlapsFixed (bs : List Byte) (x : Section) : Bool :=
  (x.type != 4 && meets (bankRange x) (0, 64 * imgLimit bs)) ||
  (List.range 64).any (fun t => meets (bankRange x) (spillStart (imgPages bs) t, (t + 1) * 0x80000))

/-- Two sections of a list overlap (R152). -/
def overlapsAny : List Section → Bool
  | [] => false
  | x :: r => r.any (fun y => meets (bankRange x) (bankRange y)) || overlapsAny r

/-- The status that the section table gives, entries first, then overlaps; 0 is OK (R151, R152; log 25). -/
def tableStatus (bs : List Byte) : BitVec 8 :=
  let xs := sectionsOf bs
  match (xs.map (entryStatus bs)).find? (· != 0) with
  | some st => st
  | none => if overlapsAny xs || xs.any (overlapsFixed bs) then 0x08 else 0x00

/-- The header and the whole section table have arrived. -/
def tableHere (bs : List Byte) : Bool := decide (64 ≤ bs.length) && decide (64 + 24 * imgNsect bs ≤ bs.length)

/-- Every byte of the image has arrived. -/
def imageHere (bs : List Byte) : Bool := tableHere bs && decide (imgTotal bs ≤ bs.length)

/-! ## Where sections go (Table 04-13) -/

/-- Memory with a run of whole or partial words given a presence state and valid check bits. -/
def markWords (m : Mem) (a n : Nat) (p : BitVec 2) : Mem :=
  (List.range ((a + n + 7) / 8 - a / 8)).foldl (fun m i => setEcc (setPres m (a / 8 * 8 + 8 * i) p) (a / 8 * 8 + 8 * i) .ok) m

/-- A cell's instruction store with bytes written. -/
def putCode (a : Nat) (bs : List Byte) (x : Cell) : Cell :=
  { x with istore := putBytes x.istore a bs
           istoreEcc := x.istoreEcc.filter (fun e => decide (e.1 < a / 8) || decide ((a + bs.length + 7) / 8 ≤ e.1)) }

/-- The cells that a CODE section names. -/
def codeCells (qual : Nat) : List CellId :=
  if qual = 0xFFFF then (List.range 256).map (BitVec.ofNat 8) else [BitVec.ofNat 8 qual]

/-- Bytes of a section go to their destination, from a place in the section on. -/
def putSection (s : State) (x : Section) (at_ : Nat) (bs : List Byte) : State :=
  match x.type with
  | 1 =>
    let put := fun (m : List (Nat × Cell)) (c : CellId) =>
      cellsSet m c (putCode (x.target + at_) bs (mget Cell.clear m c.toNat))
    { s with cells := (codeCells x.qual).foldl put s.cells }
  | 2 => let a := x.target + at_
         { s with mem := markWords (writeBytes s.mem a bs) a bs.length (if x.qual = 1 then presFull else presPlain) }
  | 4 => let a := x.target * 64 + at_
         { s with mem := markWords (writeBytes s.mem a bs) a bs.length presPlain }
  | 6 => let a := 0x10000000 + x.target + at_
         if s.pwr.keepLoad then { s with mem := markWords (writeBytes s.mem a bs) a bs.length presPlain } else s
  | _ => s

/-- A BANK_FILL section is set (Table 04-13). -/
def fillSection (s : State) (x : Section) : State :=
  if x.type = 3 then
    let p := if x.qual = 1 then presFull else if x.qual = 2 then presEmpty else presPlain
    { s with mem := markWords (writeBytes s.mem x.target (List.replicate x.len 0)) x.target x.len p }
  else s

/-- The part of newly arrived bytes that belongs to an unsealed section goes to its destination (R157). -/
def arrive (old : Nat) (bs : List Byte) (s : State) (x : Section) : State :=
  if !hasData x || x.sealed then s
  else
    let lo := max old x.offset
    let hi := min (old + bs.length) (x.offset + x.len)
    if lo < hi then putSection s x (lo - x.offset) ((bs.drop (lo - old)).take (hi - lo)) else s

/-- A list of free bytes. -/
def freeBytes (s : State) (n : Nat) : List Byte :=
  (List.range n).map fun i => (Config.freeValue (s.freeCounter + i)).setWidth 8

/-- Free presence states over a range of bank memory. -/
def freePres (s : State) (a n : Nat) : Mem :=
  (List.range (n / 8)).foldl (fun m i => setPres m (a + 8 * i) ((Config.freeValue (s.freeCounter + n + i)).setWidth 2)) s.mem

/-- A section's destination after its load has failed: left open (R157, R159; log 26). -/
def spoil (s : State) (x : Section) : State :=
  let s1 := putSection s { x with type := if x.type = 3 then 2 else x.type } 0 (freeBytes s x.len)
  let s2 := { s1 with freeCounter := s.freeCounter + 2 * x.len }
  if x.type = 2 ∨ x.type = 3 then { s2 with mem := freePres { s2 with freeCounter := s.freeCounter } x.target x.len } else s2

/-- The destinations of an image that did not finish with OK (R157, R159): those of the sections that had begun. -/
def spoilImage (s : State) (bs : List Byte) : State :=
  if tableHere bs && headerStatus bs == 0 && tableStatus bs == 0 then
    ((sectionsOf bs).filter fun x => !hasData x || decide (x.offset < bs.length)).foldl spoil s
  else s

/-! ## The spill region (R318) -/

/-- A quadrant's free spill pages, by fabric address bits [24:12], in ascending order. -/
def quadPages (pages : Nat) (q : BitVec 2) : List (BitVec 13) :=
  ((List.range 64).filter fun t => quadOfTile (BitVec.ofNat 6 t) == q).flatMap fun t =>
    (List.range (bankPages pages t)).map fun i => BitVec.ofNat 13 (spillStart pages t / 4096 + i)

/-- Lock units with every page of the region free. -/
def setPages (l : Locks) (pages : Nat) : Locks :=
  ([0, 1, 2, 3] : List (BitVec 2)).foldl (fun l q =>
    setUnit l q { unitAt l q with free := quadPages pages q, dir := [], latch := false }) l

end Sys2Proof.Machine
end

