-- ==== Sys2Proof/Machine/Events.lean ====
section
/-! DEFINITION. Outside events and their stamps (R97), steward notices (R145), requests to context 0 and their answers
(R141 to R143), and loads that are abandoned (R159). -/

namespace Sys2Proof.Machine

open Sys2Proof

/-! ## Stamps and notices -/

/-- An outside event arrives and is stamped with the present beat (R97). -/
def stampEvent (s : State) (rank sub : Nat) (k : OutKind) : State :=
  { s with time := { s.time with held := s.time.held ++ [⟨s.time.beat, rank, sub, false, k⟩] } }

/-- The steward posts a notice; before START it sends none (R145). -/
def postNotice (s : State) (code : BitVec 12) (v : W64) : State :=
  if s.stw.started then stampEvent s 1 0 (.notice code v) else s

/-- The held events of one kind. -/
def heldOf (s : State) (p : OutKind → Bool) : List OutEvent := s.time.held.filter (fun e => p e.kind)

/-- Events of a kind are lost with the domain that holds them (R114, R567). -/
def loseEvents (s : State) (p : OutKind → Bool) : State :=
  { s with time := { s.time with held := s.time.held.filter (fun e => !p e.kind) } }

/-- An event of the host face. -/
def isHostEvent : OutKind → Bool | .host _ => true | _ => false
/-- An event of the shuttle face. -/
def isShuttleEvent : OutKind → Bool | .shuttle _ => true | _ => false
/-- An event of a row port. -/
def isRowEvent (portB : Bool) : OutKind → Bool | .row b _ _ _ => b == portB | _ => false
/-- An event of the selvedge link. -/
def isFieldEvent : OutKind → Bool | .fieldWord _ => true | .fieldNotice _ _ _ _ _ => true | _ => false
/-- An event of the steward. -/
def isStewardEvent : OutKind → Bool | .notice _ _ => true | .tableau _ => true | _ => false
/-- An alarm. -/
def isAlarmEvent : OutKind → Bool | .alarm _ => true | _ => false

/-! ## Requests and answers (R141 to R143) -/

/-- PD1 is powered and clocked, outside a freeze (Table 03-2). -/
def stewardUp (s : State) : Bool := s.pwr.clkok && powered s 1 && !halted s

/-- Status codes (Table 04-9). -/
def stOk : BitVec 8 := 0x00
/-- See `stOk`. -/
def stBadMagic : BitVec 8 := 0x01
/-- See `stOk`. -/
def stBadVersion : BitVec 8 := 0x02
/-- See `stOk`. -/
def stLength : BitVec 8 := 0x03
/-- See `stOk`. -/
def stCrc : BitVec 8 := 0x04
/-- See `stOk`. -/
def stSignature : BitVec 8 := 0x05
/-- See `stOk`. -/
def stRevoked : BitVec 8 := 0x06
/-- See `stOk`. -/
def stSeal : BitVec 8 := 0x07
/-- See `stOk`. -/
def stSection : BitVec 8 := 0x08
/-- See `stOk`. -/
def stBusy : BitVec 8 := 0x09
/-- See `stOk`. -/
def stSequence : BitVec 8 := 0x0A
/-- See `stOk`. -/
def stNoImage : BitVec 8 := 0x0B
/-- See `stOk`. -/
def stUnknown : BitVec 8 := 0x0C
/-- See `stOk`. -/
def stArgument : BitVec 8 := 0x0D
/-- See `stOk`. -/
def stRefused : BitVec 8 := 0x0E
/-- See `stOk`. -/
def stFace : BitVec 8 := 0x0F

/-- The tile of the face that a request came through (Table 01-2). -/
def faceTile : Origin → TileId
  | .host => 0
  | .shuttle => 7
  | .row _ _ => 56
  | .strand => 63

/-- A token that leaves through a face as R142 gives it: context 0, KIND system, PORT 3, CELL 0, IADDR 0. -/
def faceAnswer (s : State) (serial : BitVec 16) (code : BitVec 12) (v : W64) : Token :=
  { value := v, context := 0, iteration := serial, port := 3, cell := 0, iaddr := 0, flags := kindSystem,
    deadline := now20 s + 256, flow := code }

/-- The i-th token of an answer as the steward offers it (R142), and the state after the reads that it takes. -/
def answerOffer (s : State) (r : Req) (i : Nat) (v : W64) : State × Offer :=
  let serial := r.serial + BitVec.ofNat 16 i
  match r.origin with
  | .strand =>
    let x := hookToken s kindSystem serial r.code v
    (x.1, ⟨0, none, mkFlit x.1 63 3 .strand (.token x.2)⟩)
  | o => (s, ⟨0, none, { vn := 3, vc := 0, pri := 3, age := 0, dest := faceTile o, extra := true, src := 63, origin := o,
                         waits := 0, home := 0, admitted := 0, msg := .token (faceAnswer s serial r.code v) }⟩)

/-- A status word (R143). -/
def statusWord (status : BitVec 8) (n : Nat) : W64 := (BitVec.ofNat 16 n ++ status : BitVec 24).setWidth 64

/-- An answer leaves: its status word and its data words (R142, R143). -/
def sendAnswer (s : State) (a : Answer) : State :=
  (statusWord a.status a.data.length :: a.data).zipIdx.foldl
    (fun s x => let y := answerOffer s a.req x.2 x.1; produce y.1 63 true y.2) s

/-- Two origins are one face. -/
def sameFace : Origin → Origin → Bool
  | .host, .host => true
  | .shuttle, .shuttle => true
  | .row a _, .row b _ => a == b
  | _, _ => false

/-- The requests taken that will be answered and are not answered yet. -/
def openRequests (s : State) : List Req :=
  let k := s.stw
  k.counters.map (·.1) ++ k.tableau ++ k.dumps.map (·.1) ++ k.release.map (·.1) ++ k.attach.toList ++ k.detach.toList ++
    (match s.tab.dump with | some d => d.req.toList | none => []) ++
    (match k.load with | some l => if imageHere l.bytes then l.req.toList else [] | none => [])

/-- No earlier request of the same face awaits its answer (R164). -/
def mayLeave (s : State) (a : Answer) : Bool :=
  (openRequests s).all fun r => !sameFace r.origin a.req.origin || decide (a.req.taken ≤ r.taken)

/-- The answers whose turn it is leave, in the order in which their requests were taken (R164). -/
def flushAnswers (s : State) : State :=
  (s.stw.ready.filter (fun e => mayLeave s e.2)).foldl (fun s e => sendAnswer s e.2)
    { s with stw := { s.stw with ready := s.stw.ready.filter (fun e => !mayLeave s e.2) } }

/-- The steward answers a request: a status word and data words (R142, R143). -/
def answer (s : State) (r : Req) (status : BitVec 8) (data : List W64) : State :=
  flushAnswers { s with stw := { s.stw with ready := minsert r.taken ⟨r, status, data⟩ s.stw.ready } }

/-- The bootstrap allowance is restored, since an ATTACH_RING has failed (R450). -/
def bootAgain (s : State) : State := { s with host := { s.host with bootUsed := false } }

/-- The beat from which the offsets of the request at the head of the inbox count (R105, R155): that of its admission;
a strand's request is not admitted, and the beat in which it is taken serves. -/
def offsetBase (s : State) : BitVec 48 :=
  match s.stw.inbox with
  | (_, .strand, _) :: _ => s.time.beat
  | (_, _, b) :: _ => b
  | [] => s.time.beat

/-- The steward takes the request at the head of its inbox when it carries a code (R141); it admits requests while STEADY
is high (R599). A non-zero EXT outside LOAD is
answered with ARGUMENT (R165). -/
def takeRequest (s : State) (codes : BitVec 12 → Bool) (body : State → Token → Req → Host.Outcome State Fault Refusal) :
    Host.Outcome State Fault Refusal :=
  if !stewardUp s then .next s
  else if !s.pwr.steady then .refused .wrongPhase
  else match s.stw.inbox with
  | [] => .refused .nothingWaiting
  | (t, o, _) :: rest =>
    if !codes t.flow then .refused .nothingWaiting
    else
      let s1 := { s with stw := { s.stw with inbox := rest, taken := s.stw.taken + 1 } }
      let r : Req := ⟨t.iteration, t.flow, o, s.stw.taken⟩
      if t.iaddr ≠ 0 ∧ t.flow ≠ 0x001 then
        .next (answer (if t.flow = 0x009 then bootAgain s1 else s1) r stArgument [])
      else body s1 t r

/-! ## Loads abandoned (R159) -/

/-- A load ends without status OK: it is abandoned, its destinations are left open, and the state word reports a status
(R144, R157, R159). -/
def endLoad (s : State) (l : Load) (status : BitVec 8) : State :=
  let s1 := spoilImage s l.bytes
  { s1 with stw := { s1.stw with load := none, loadStatus := status } }

/-- The load held by a face is abandoned on a reset or loss of that face: no answer, and the state word reports
SEQUENCE (R159). -/
def abandonLoad (s : State) (o : Origin) : State :=
  match s.stw.load with
  | some l =>
    (match l.face with
     | some f => if sameFace f o then endLoad s l stSequence else s
     | none => s)
  | none => s

/-- A token to context 16 or above from a face before START: its CONTEXT_LIMIT pair (R161, R663), and the state with
the node fault serial raised. -/
def limitPair (s : State) (t : Token) : List Token × State :=
  let tok := fun (v : W64) =>
    ({ value := v, context := 0, iteration := s.stw.nodeSerial, port := 3, cell := 0, iaddr := 0, flags := kindFault,
       deadline := now20 s + 256, flow := 0 } : Token)
  let info : BitVec 48 := BitVec.ofNat 32 (ctxLimit s) ++ (0 : BitVec 2) ++ t.context
  ([tok (faultWord fLimit 0xB info), tok (packTag (tokenTag t) &&& ~~~(0x3FF : W64))],
   { s with stw := { s.stw with nodeSerial := s.stw.nodeSerial + 1 } })

end Sys2Proof.Machine
end

