-- ==== Sys2Proof/Machine/Field.lean ====
section
/-! DEFINITION. The selvedge (chapter 13): the logic side of the selvedge link, its stream words, notices and faults, and
the field die with its inputs, outputs and safe state. -/

namespace Sys2Proof.Machine

open Sys2Proof

/-- PD9 is powered and clocked. -/
def selUp (s : State) : Bool := s.pwr.clkok && powered s 9

/-- The state with the logic side of the selvedge link replaced. -/
def setSel (s : State) (x : Sel) : State := { s with sel := x }

/-- The state with the field die replaced. -/
def setField (s : State) (x : Field) : State := { s with fd := x }

/-! ## Outputs (R73, R520, R521, R524) -/

/-- PAIR bit of an output's pair; a pair word with SPARE set pairs nothing (R72). -/
def paired (w : BitVec 9) (k : Nat) : Bool := !w.getLsbD 8 && w.getLsbD (k / 2)

/-- A pattern over the sixteen outputs. -/
def pattern (p : Nat → Bool) : BitVec 16 :=
  (List.range 16).foldl (fun w k => if p k then w ||| (1#16 <<< k) else w) 0

/-- The strapped safe pattern (R73). -/
def safePattern (safe : BitVec 18) (pair : BitVec 9) : BitVec 16 :=
  pattern fun k =>
    if paired pair k then safe.getLsbD (k / 2 * 2) && safe.getLsbD (k / 2 * 2 + 1) else safe.getLsbD k

/-- The commanded pattern as the outputs follow it in OPERATE (R521). -/
def operatePattern (c : BitVec 16) (pair : BitVec 9) : BitVec 16 :=
  pattern fun k => if paired pair k then c.getLsbD (k / 2 * 2) else c.getLsbD k

/-- The outputs on in effect (R524); latched outputs are off (R520). -/
def fieldOn (x : Field) : BitVec 16 :=
  match x.state with
  | .safe => safePattern x.safeWord x.pairWord &&& ~~~x.latched
  | .operate => operatePattern x.c x.pairWord &&& ~~~x.latched
  | _ => 0

/-- STATE as the uplink frame and the STATUS word code it (Table 13-8). -/
def stateCode : FieldState → BitVec 2
  | .operate => 2
  | _ => 1

/-- FSAFE_LED sinks current; it is high-impedance in every other state (R510). -/
def fsafeLed (x : Field) : Bool := x.state == .sampling || x.state == .safe

/-- The field die is powered and has its straps: it takes part in the link (Table 13-6). -/
def fieldUp (x : Field) : Bool := x.state == .safe || x.state == .operate

/-! ## FIELD_OUT words (R528, Table 13-7) -/

/-- TYPE of a FIELD_OUT word. -/
def wordType (w : W64) : BitVec 4 := w.extractLsb' 60 4

/-- Effect of a FIELD_OUT word on the logic side (Table 13-7). -/
def applyWord (x : Sel) (w : W64) : Sel :=
  match (wordType w).toNat with
  | 0 => x
  | 1 =>
    let m : BitVec 16 := w.extractLsb' 16 16
    { x with c := (x.c &&& ~~~m) ||| (w.setWidth 16 &&& m) }
  | 2 => { x with period := w.extractLsb' 24 4, mask := w.setWidth 24 }
  | 3 => { x with nctx := w.extractLsb' 46 14, ncell := w.extractLsb' 38 8, niaddr := w.extractLsb' 24 14,
                  nmask := w.setWidth 24 }
  | 4 => { x with safeWord := true }
  | 5 => { x with query := true }
  | _ => { x with wordErrs := satAdd x.wordErrs 1 }

/-- Reserved bits of a FIELD_OUT word that a graph writer writes as zero (R23, R528). -/
def wordReserved (w : W64) : Bool :=
  match (wordType w).toNat with
  | 1 => w.extractLsb' 32 28 != 0
  | 2 => w.extractLsb' 28 32 != 0
  | 0 => w.setWidth 60 != 0
  | 4 => w.setWidth 60 != 0
  | 5 => w.setWidth 60 != 0
  | _ => false

/-- The frame being built applies one more FIELD_OUT word, oldest first; a frame applies at most 4 (R528). -/
def applyNext (p : BitVec 4 → Bool) (s : State) : Host.Outcome State Fault Refusal :=
  if !selUp s then .next s
  else match s.streams.fieldOut with
  | [] => .refused .nothingWaiting
  | w :: rest =>
    if !p (wordType w) then .refused .nothingWaiting
    else if 4 ≤ s.sel.applied then .next s
    else if wordReserved w then unpredictable 23 s
    else .next { s with streams := { s.streams with fieldOut := rest },
                        sel := { applyWord s.sel w with applied := s.sel.applied + 1 } }

/-- An OUTPUT word updates C (Table 13-7). -/
def execFieldOutputWord (s : State) : Host.Outcome State Fault Refusal := applyNext (· == 1) s
/-- A REPORT word sets the report period and mask (Table 13-7). -/
def execFieldReportWord (s : State) : Host.Outcome State Fault Refusal := applyNext (· == 2) s
/-- A NOTIFY word sets the notice tag and mask (Table 13-7). -/
def execFieldNotifyWord (s : State) : Host.Outcome State Fault Refusal := applyNext (· == 3) s
/-- A SAFE word sets SAFE_REQ in the applying frame (Table 13-7). -/
def execFieldSafeWord (s : State) : Host.Outcome State Fault Refusal := applyNext (· == 4) s
/-- A QUERY word asks for a STATUS and a STRAP word (Table 13-7). -/
def execFieldQueryWord (s : State) : Host.Outcome State Fault Refusal := applyNext (· == 5) s
/-- A NOP word, or one of a reserved TYPE (R528). -/
def execFieldNopWord (s : State) : Host.Outcome State Fault Refusal :=
  applyNext (fun t => t == 0 || decide (6 ≤ t.toNat)) s

/-! ## Downlink frames (R511, R526, R527) -/

/-- A warm restart is in progress (R591, Table 14-11): causes 8 and 9, before STEADY. -/
def warmRestart (p : Power) : Bool := decide (8 ≤ p.wakeCause.toNat) && !p.steady

/-- A descent has begun (R566). -/
def inDescent (p : Power) : Bool := match p.phase with | .descent _ => true | _ => false

/-- The frame being built carries SAFE_REQ (R526). -/
def safeReqNow (s : State) : Bool :=
  decide (0 < s.sel.safeLeft) || warmRestart s.pwr || inDescent s.pwr || s.sel.safeWord

/-- The words that the frame still applies. -/
def applyRest (fuel : Nat) (x : Sel) : List W64 → Sel × List W64
  | [] => (x, [])
  | w :: r => match fuel with
    | 0 => (x, w :: r)
    | k + 1 => applyRest k (applyWord x w) r

/-- A word with reserved bits set among those that the frame still applies. -/
def restReserved (s : State) : Bool := (s.streams.fieldOut.take (4 - s.sel.applied)).any wordReserved

/-- The windows that wait for their report, with the window of the frame being built where a report is due for it
(R530). -/
def winsDue (x : Sel) : List (BitVec 32 × BitVec 4 × BitVec 24) :=
  if (x.frame.toNat + 1) % 2 ^ x.winPeriod.toNat = 0 then x.wins ++ [(x.frame, x.winPeriod, x.winMask)] else x.wins

/-- A downlink frame is sent, after the words it still applies (R526 to R528). -/
def sendDownlink (s : State) : State :=
  let a := applyRest (4 - s.sel.applied) s.sel s.streams.fieldOut
  let x := a.1
  let req := safeReqNow { s with sel := x }
  let f : Downlink := ⟨x.frame.setWidth 16, x.c, req, decide (0 < x.relLeft)⟩
  { s with
    streams := { s.streams with fieldOut := a.2 }
    sel := { x with frame := x.frame + 1, applied := 0, safeWord := false, safeLeft := x.safeLeft - 1,
                    relLeft := x.relLeft - 1, down := some f, wins := winsDue x, winPeriod := x.period,
                    winMask := x.mask }
    stw := { s.stw with release := s.stw.release.map fun r => (r.1, r.2 + 1) }
    pwr := { s.pwr with safeSent := if inDescent s.pwr then s.pwr.safeSent + 1 else s.pwr.safeSent } }

/-- The logic side sends a downlink frame (R526). -/
def execDownlinkFrame (s : State) : Host.Outcome State Fault Refusal :=
  if !selUp s then .next s
  else if restReserved s then unpredictable 23 s
  else .next (sendDownlink s)

/-! ## The field die and downlink frames (R513, R520, R524) -/

/-- A window ends: latches whose outputs were off in effect throughout it, in OPERATE, clear (R520). -/
def endWindow (x : Field) : Field := { x with latched := x.latched &&& ~~~x.offWin }

/-- A window begins. -/
def beginWindow (x : Field) : Field := { x with offWin := if x.state = .operate then ~~~ fieldOn x else 0 }

/-- The run of good downlink frames with a good one more (R513). -/
def goodNext (x : Field) (frame : BitVec 16) : BitVec 6 :=
  if x.last = some (frame - 1) then (if x.good = 63 then 63 else x.good + 1) else 1

/-- The die is in SAFE with CAUSE internal, and its self-check has not passed again (R525). -/
def checkHolds (x : Field) : Bool := x.state == .safe && x.cause == 3 && x.checkBad

/-- The field die acts on a good downlink frame (R513, Table 13-6, R525). -/
def judgeGood (x : Field) (f : Downlink) : Field :=
  let y := { x with good := goodNext x f.frame, last := some f.frame, c := f.cmd }
  match x.state with
  | .safe =>
    if f.release && !f.safeReq && decide (16 ≤ x.good.toNat) && !checkHolds x then { y with state := .operate } else y
  | .operate => if f.safeReq then { y with state := .safe, cause := 2 } else y
  | _ => y

/-- The die's self-check may have passed again since it failed: no command tells (R525; log 91). -/
def checkAgain (s : State) : State :=
  if checkHolds s.fd then bumpFree (setField s { s.fd with checkBad := (freeNow s).getLsbD 0 }) else s

/-- The field die judges a downlink frame (R513, R524, R535). -/
def execFieldDownlinkReceive (good : Bool) (s0 : State) : Host.Outcome State Fault Refusal :=
  let s := checkAgain s0
  if !fieldUp s.fd then .next s
  else match s.sel.down with
  | none => .refused .nothingWaiting
  | some f =>
    let x := endWindow s.fd
    let y := if good then judgeGood x f else { x with good := 0, dlbad := x.dlbad + 1 }
    let z := { y with answering := some (f.frame, x.inputs)
                      inputs := x.inputs.filterMap fun e =>
                        let i := { e.2 with first := none }
                        if i = UpInput.clear then none else some (e.1, i) }
    .next { s with fd := beginWindow z, sel := { s.sel with down := none } }

/-- What an uplink frame says of one input: its level is that of the window's end (Table 13-1). -/
def upInput (x : Field) (window : List (Nat × UpInput)) (levels : BitVec 24) (i : Nat) : UpInput :=
  let u := mget UpInput.clear window i
  { u with level := levels.getLsbD i, broke := u.broke && x.types.getLsbD (i / 8) }

/-- The field die answers a downlink frame (R511, R74). -/
def execUplinkFrameSend (levels : BitVec 24) (readback : BitVec 16) (lplusLow thermal : Bool) (s : State) :
    Host.Outcome State Fault Refusal :=
  let x := s.fd
  if !fieldUp x then .next s
  else match x.answering with
  | none => .refused .nothingWaiting
  | some (echo, window) =>
    let u : Uplink :=
      { echo := echo, inputs := (List.range 24).map (upInput x window levels), read := readback, latched := x.latched,
        state := stateCode x.state, cause := x.cause, good := x.good, on := fieldOn x, lplusLow := lplusLow,
        thermal := thermal, dlbad := x.dlbad, safeWord := x.safeWord, pairWord := x.pairWord, types := x.types,
        oow := x.oow }
    .next { s with fd := { x with answering := none }, sel := { s.sel with up := some u } }

/-! ## FIELD_IN words (Table 13-8) -/

/-- A HEADER word: link time at the window's end, and the beat (Table 13-8). -/
def headerWord (frame : BitVec 32) (beat : BitVec 48) : W64 :=
  (2 : BitVec 4) ++ (0 : BitVec 1) ++ BitVec.ofNat 27 ((frame.toNat + 1) * 1024) ++ (beat.setWidth 32 : BitVec 32)

/-- A STATUS word (Table 13-8). -/
def statusOf (u : Uplink) (state : BitVec 2) : W64 :=
  (3 : BitVec 4) ++ u.read ++ u.latched ++ state ++ u.cause ++ BitVec.ofBool u.lplusLow ++ BitVec.ofBool u.thermal ++
    u.good ++ u.on

/-- A STRAP word (Table 13-8). -/
def strapWord (u : Uplink) : W64 := (4 : BitVec 4) ++ u.oow ++ u.types ++ u.pairWord ++ u.safeWord ++ (0 : BitVec 20)

/-- A CHANNEL word (Table 13-8). -/
def channelWord (i : Nat) (u : UpInput) (x : SelInput) : W64 :=
  (1 : BitVec 4) ++ BitVec.ofNat 5 i ++ BitVec.ofBool u.level ++ BitVec.ofBool u.broke ++ BitVec.ofBool x.edge ++ x.cum ++
    BitVec.ofBool x.gap ++ (if x.edge then x.first else 0)

/-- The FIELD_IN word events and notices of one frame: a safety event's word, with its notice (R531, R533). -/
def placeWord (rank : Nat) (s : State) (w : W64) : State := stampEvent s rank 0 (.fieldWord w)

/-- A field notice (R533). -/
def placeNotice (rank : Nat) (s : State) (v : W64) : State :=
  if s.stw.started && s.sel.nctx != 0 then
    let x := s.sel
    stampEvent (setSel s { x with serial := x.serial + 1 }) rank 0 (.fieldNotice x.nctx x.ncell x.niaddr x.serial v)
  else s

/-- A safety event: its STATUS word, a STRAP word when one follows, and the notice (R531, R533). -/
def safetyEvent (s : State) (status : W64) (strap : Option W64) : State :=
  let s1 := placeWord 2 s status
  let s2 := match strap with | some w => placeWord 2 s1 w | none => s1
  placeNotice 2 s2 status

/-- The fault report of STATE leaving OPERATE (R534). -/
def safeEntered (s : State) (u : Uplink) (state cause : BitVec 2) : State :=
  nodeReport s fFieldSafe 0xD ((0 : BitVec 16) ++ u.on ++ (0 : BitVec 12) ++ cause ++ state) 0

/-! ## Uplink frames received (R514, R517, R530 to R534) -/

/-- The window that a frame describes, in 32 bits (R530). -/
def windowOfEcho (x : Sel) (echo : BitVec 16) : BitVec 32 :=
  let l := x.frame - 1
  l - ((l.setWidth 16 : BitVec 16) - echo).setWidth 32

/-- Link time of a first edge (R512), 27 bits. -/
def linkTime (frame : BitVec 32) (pos : BitVec 10) : BitVec 27 := BitVec.ofNat 27 (frame.toNat * 1024 + pos.toNat)

/-- One input after a good frame (R517, R530). `base` takes only the count base; `lost` says that a frame was lost before
it. An edge whose position was lost has no stated link time (log 24). -/
def takeInput (base lost : Bool) (frame : BitVec 32) (free : BitVec 27) (u : UpInput) (x : SelInput) : SelInput :=
  let gap := x.gap || (lost && !x.edge)
  if base then { x with prev := u.count, gap := gap }
  else
    let d := (u.count - x.prev).setWidth 24
    let risen := d != 0 || u.first.isSome
    { cum := x.cum + d, prev := u.count, edge := x.edge || risen, gap := gap
      first := if x.edge then x.first else match u.first with
        | some p => linkTime frame p
        | none => if risen then free else x.first }

/-- Every input after a good frame. -/
def takeInputs (base lost : Bool) (frame : BitVec 32) (free : Nat → BitVec 27) (us : List UpInput)
    (m : List (Nat × SelInput)) : List (Nat × SelInput) :=
  us.zipIdx.foldl (fun m e => mset SelInput.clear m e.2 (takeInput base lost frame (free e.2) e.1 (mget SelInput.clear m e.2))) m

/-- A window lies no later than a frame's. -/
def windowPast (frame : BitVec 32) (w : BitVec 32 × BitVec 4 × BitVec 24) : Bool := decide ((frame - w.1).toNat < 2 ^ 31)

/-- A report's words (R530). -/
def reportWords (s : State) (u : Uplink) (frame : BitVec 32) (mask : BitVec 24) : List W64 :=
  headerWord frame s.time.beat :: statusOf u u.state ::
    ((List.range 24).filter mask.getLsbD).map fun i =>
      channelWord i (u.inputs.getD i UpInput.clear) (mget SelInput.clear s.sel.inputs i)

/-- A report ends the interval of EDGE, GAP and FIRST of its inputs (Table 13-8). -/
def endIntervals (mask : BitVec 24) (m : List (Nat × SelInput)) : List (Nat × SelInput) :=
  ((List.range 24).filter mask.getLsbD).foldl (fun m i =>
    mset SelInput.clear m i { mget SelInput.clear m i with edge := false, gap := false, first := 0 }) m

/-- The report of one due window, made from a frame (R530, R540). -/
def makeReport (u : Uplink) (frame : BitVec 32) (s : State) (w : BitVec 32 × BitVec 4 × BitVec 24) : State :=
  let t := (reportWords s u frame w.2.2).foldl (placeWord 3) s
  setSel t { t.sel with inputs := endIntervals w.2.2 t.sel.inputs }

/-- The values of the input notices of a frame: inputs of the notice mask whose LEVEL or WIREBREAK has changed (R533). -/
def noticeValues (x : Sel) (old : Option Uplink) (u : Uplink) : List W64 :=
  match old with
  | none => []
  | some v =>
    ((List.range 24).filter fun i =>
      x.nmask.getLsbD i &&
        (let a := v.inputs.getD i UpInput.clear; let b := u.inputs.getD i UpInput.clear
         a.level != b.level || a.broke != b.broke)).map fun i =>
      channelWord i (u.inputs.getD i UpInput.clear) (mget SelInput.clear x.inputs i)

/-- A frame shows a safety event: STATE, CAUSE, FAULT, LPLUS_LOW or THERMAL differs (R531). -/
def statusDiffers (v u : Uplink) : Bool :=
  v.state != u.state || v.cause != u.cause || v.latched != u.latched || v.lplusLow != u.lplusLow || v.thermal != u.thermal

/-- More than 16 frames have been sent from the first that carries RELEASE on (R527). -/
def releaseLate (r : Req × Nat) : Bool := decide (16 < r.2)

/-- The waiting FIELD_RELEASE requests of a kind are answered (R527). -/
def answerReleases (s : State) (status : BitVec 8) (p : Req × Nat → Bool) : State :=
  let go := s.stw.release.filter p
  go.foldl (fun s r => answer s r.1 status [])
    { s with stw := { s.stw with release := s.stw.release.filter (fun r => !p r) } }

/-- The counts and inputs of the logic side after a good frame. -/
def takeUplink (s : State) (u : Uplink) : State :=
  let x := s.sel
  let frame := windowOfEcho x u.echo
  let base := !x.linkUp
  let lost := match x.lastFrame with | some l => l + 1 != frame | none => false
  let d : BitVec 16 := match x.last with | some v => u.dlbad - v.dlbad | none => 0
  let entry := match x.last with | some v => v.state == 2 && u.state == 1 | none => false
  setSel { s with freeCounter := s.freeCounter + 24 }
    { x with linkUp := true, up := none, lastFrame := some frame, last := some u,
             inputs := takeInputs base lost frame (fun i => (Config.freeValue (s.freeCounter + i)).setWidth 27) u.inputs x.inputs,
             good := satAdd x.good 1, goodRun := min 63 (x.goodRun + 1),
             dlbad := if base then x.dlbad else satAdd x.dlbad d.toNat, safes := satIf entry x.safes,
             wins := x.wins.filter (fun w => !windowPast frame w), query := false }

/-- A good uplink frame: safety events, reports, QUERY's words and notices (R517, R530 to R534). -/
def goodUplink (s : State) (u : Uplink) : State :=
  let x := s.sel
  let frame := windowOfEcho x u.echo
  let s1 := takeUplink s u
  let s2 := match x.linkUp, x.last with
    | true, some v => if statusDiffers v u then safetyEvent s1 (statusOf u u.state) none else s1
    | _, _ => safetyEvent s1 (statusOf u u.state) (some (strapWord u))
  let s3 := match x.linkUp, x.last with
    | true, some v => if v.state = 2 ∧ u.state = 1 then safeEntered s2 v u.state u.cause else s2
    | _, _ => s2
  let s4 := (x.wins.filter (windowPast frame)).foldl (makeReport u frame) s3
  let s5 := if x.query then [statusOf u u.state, strapWord u].foldl (placeWord 3) s4 else s4
  let s6 := (noticeValues s1.sel x.last u).foldl (placeNotice 3) s5
  if u.state = 2 then answerReleases (answerReleases s6 stRefused releaseLate) stOk (fun _ => true) else s6

/-- A run of good uplink frames ends; one of 16 or more is reported (R534). -/
def runEnds (s : State) : State :=
  let x := s.sel
  let s1 := setSel s { x with goodRun := 0 }
  if 16 ≤ x.goodRun then nodeReport s1 fFieldCrc 0xD ((0 : BitVec 42) ++ BitVec.ofNat 6 x.goodRun) 0 else s1

/-- A failing uplink frame is discarded and counted; the first after 16 good ones is reported (R511, R534). -/
def badUplink (s : State) : State :=
  runEnds (setSel s { s.sel with up := none, failing := satAdd s.sel.failing 1 })

/-- The logic side takes an uplink frame (R517, R530 to R534). -/
def execUplinkFrameReceive (good : Bool) (s : State) : Host.Outcome State Fault Refusal :=
  if !selUp s then .next s
  else match s.sel.up with
  | none => .refused .nothingWaiting
  | some u => .next (if good then goodUplink s u else badUplink s)

/-- The link state goes down: the frames that have not come end a run of good ones (log 92), and a STATUS word with STATE
0b00 is placed (R514, R531, R534). -/
def selvedgeDown (s : State) : State :=
  let s0 := runEnds s
  let s1 := setSel s0 { s0.sel with linkUp := false }
  match s.sel.last with
  | none => s1
  | some v =>
    let s2 := safetyEvent s1 (statusOf v 0) none
    if v.state = 2 then safeEntered s2 v 0 v.cause else s2

/-- 1 ms without a good uplink frame (R514). -/
def execSelvedgeLinkDown (s : State) : Host.Outcome State Fault Refusal :=
  if !selUp s then .next s
  else if !s.sel.linkUp then .refused .wrongPhase
  else .next (selvedgeDown s)

/-! ## FIELD_RELEASE (R527, R537) -/

/-- A FIELD_RELEASE request (R527). -/
def execFieldRelease (s : State) : Host.Outcome State Fault Refusal :=
  takeRequest s (· == 0x00D) fun s t r =>
    if t.cell ≠ 0 ∨ t.value ≠ 0 then .next (answer s r stArgument [])
    else if !selUp s || !s.sel.linkUp then .next (answer s r stRefused [])
    else match s.sel.last with
    | some u =>
      if u.state = 2 then .next (answer s r stOk [])
      else .next { s with sel := { s.sel with relLeft := 4 }, stw := { s.stw with release := s.stw.release ++ [(r, 0)] } }
    | none => .next (answer s r stRefused [])

/-- No OPERATE within 16 frames: the request is answered REFUSED (R527). -/
def execFieldReleaseTimeout (s : State) : Host.Outcome State Fault Refusal :=
  if !stewardUp s then .next s
  else if s.stw.release.any (fun r => releaseLate r || !selUp s) then
    .next (answerReleases s stRefused (fun r => releaseLate r || !selUp s))
  else .refused .nothingWaiting

/-! ## The field die (R60, R70 to R74, R516 to R525) -/

/-- L+ rises above the undervoltage threshold: straps are sampled, outputs off (R60, Table 13-6). -/
def execLplusRise (s : State) : Host.Outcome State Fault Refusal :=
  if s.fd.state = .unpowered then .next (setField s { Field.clear with state := .sampling }) else .refused .wrongPhase

/-- Field strap sampling completes: FCFG_SAFE0 to 5, FCFG_PAIR0 to 2, FCFG_TYPE (R70, R71, R74, R82). A pin whose
readings are missing is out of window. -/
def execFieldStrapSamplingDone (readings : List (List Nat)) (s : State) : Host.Outcome State Fault Refusal :=
  if s.fd.state ≠ .sampling then .refused .wrongPhase
  else
    let cs := readings.map pinCode
    let b := fieldBits cs
    let oow := (List.range 10).foldl (fun (m : BitVec 10) i => if (cs.getD i none).isNone then m ||| (1#10 <<< i) else m) 0
    .next (setField s { s.fd with state := .safe, cause := 0, safeWord := b 5 ++ b 4 ++ b 3 ++ b 2 ++ b 1 ++ b 0,
                                  pairWord := b 8 ++ b 7 ++ b 6, types := b 9, oow := oow })

/-- L+ falls below the undervoltage threshold (R722, R538). -/
def execLplusFall (s : State) : Host.Outcome State Fault Refusal :=
  if s.fd.state = .unpowered then .refused .wrongPhase else .next (setField s Field.clear)

/-- The silence timer expires; it acts in OPERATE only (R525). Good downlink frames have stopped for longer than 40 µs
(R513). -/
def execSilenceTimeout (s : State) : Host.Outcome State Fault Refusal :=
  let x := { s.fd with good := 0 }
  if !fieldUp s.fd then .next s
  else .next (setField s (if s.fd.state = .operate then { x with state := .safe, cause := 1, offWin := 0 } else x))

/-- The field die's self-check fails (Table 13-6, R525). -/
def execFieldSelfCheckFail (s : State) : Host.Outcome State Fault Refusal :=
  if !fieldUp s.fd then .next s
  else .next (setField s
    (if s.fd.state = .operate then { s.fd with state := .safe, cause := 3, offWin := 0, checkBad := true }
     else { s.fd with checkBad := true }))

/-- The field die with one input's record replaced. -/
def setInput (x : Field) (i : Nat) (u : UpInput) : Field := { x with inputs := mset UpInput.clear x.inputs i u }

/-- A rising edge is counted from the die's power-up on; the window's first is recorded (R516, Table 13-1). -/
def execInputEdge (ch : BitVec 5) (position : BitVec 10) (s : State) : Host.Outcome State Fault Refusal :=
  let u := mget UpInput.clear s.fd.inputs ch.toNat
  if 24 ≤ ch.toNat || s.fd.state == .unpowered then .next s
  else .next (setField s (setInput s.fd ch.toNat
    { u with count := u.count + 1, first := if u.first.isSome then u.first else some position }))

/-- A broken wire on an input of a Type 3 group (R518). -/
def wirebreak (ch : BitVec 5) (broke : Bool) (s : State) : Host.Outcome State Fault Refusal :=
  let u := mget UpInput.clear s.fd.inputs ch.toNat
  if 24 ≤ ch.toNat || !fieldUp s.fd then .next s
  else if !s.fd.types.getLsbD (ch.toNat / 8) then .next s
  else .next (setField s (setInput s.fd ch.toNat { u with broke := broke }))

/-- Wire break is set (Table 13-3); a Type 1 group does not evaluate it. -/
def execWirebreakSet (ch : BitVec 5) (s : State) : Host.Outcome State Fault Refusal := wirebreak ch true s

/-- Wire break is cleared (Table 13-3). -/
def execWirebreakClear (ch : BitVec 5) (s : State) : Host.Outcome State Fault Refusal := wirebreak ch false s

/-- The outputs that latch with an output: its pair too (R520). -/
def latchMask (x : Field) (k : Nat) : BitVec 16 :=
  if paired x.pairWord k then 3#16 <<< (k / 2 * 2) else 1#16 <<< k

/-- An output that has been in current limit latches off (R520); only one that is on carries current. -/
def execOutputCurrentLatch (k : BitVec 4) (s : State) : Host.Outcome State Fault Refusal :=
  if !fieldUp s.fd then .next s
  else if !(fieldOn s.fd).getLsbD k.toNat then .refused .wrongPhase
  else .next (setField s { s.fd with latched := s.fd.latched ||| latchMask s.fd k.toNat })

/-- An output at its temperature limit latches off (Table 13-4, R520). -/
def execOutputThermalLatch (k : BitVec 4) (s : State) : Host.Outcome State Fault Refusal :=
  if !fieldUp s.fd then .next s
  else .next (setField s { s.fd with latched := s.fd.latched ||| latchMask s.fd k.toNat })

end Sys2Proof.Machine
end

