-- ==== Sys2Proof/Machine/Integer.lean ====
section
/-! DEFINITION. Integer, compare, bit-field, special-register and multiply-divide instructions (Tables 06-3 to 06-8,
chapter 7). -/

namespace Sys2Proof.Machine

open Sys2Proof

/-! ## Values -/

/-- Shift left (R214, R215). -/
def shlV (p : Pfx) (a : W64) (n : BitVec 6) : W64 :=
  place p (if p.w32 then ((a.setWidth 32 : BitVec 32) <<< (n.toNat % 32)).setWidth 64 else a <<< n.toNat)
/-- Shift right, zeros in (R214, R215). -/
def shrV (p : Pfx) (a : W64) (n : BitVec 6) : W64 :=
  place p (if p.w32 then ((a.setWidth 32 : BitVec 32) >>> (n.toNat % 32)).setWidth 64 else a >>> n.toNat)
/-- Shift right, sign in (R214, R215). -/
def sarV (p : Pfx) (a : W64) (n : BitVec 6) : W64 :=
  place p (if p.w32 then ((a.setWidth 32 : BitVec 32).sshiftRight (n.toNat % 32)).setWidth 64
           else a.sshiftRight n.toNat)
/-- Rotate right (R214, R215). -/
def rorV (p : Pfx) (a : W64) (n : BitVec 6) : W64 :=
  place p (if p.w32 then ((a.setWidth 32 : BitVec 32).rotateRight (n.toNat % 32)).setWidth 64
           else a.rotateRight n.toNat)

/-- Leading zero bits of a number of `w` bits. -/
def clzNat (w x : Nat) : Nat := if x = 0 then w else w - 1 - x.log2
/-- Trailing zero bits of a number of `w` bits. -/
def ctzNat : Nat → Nat → Nat
  | 0, _ => 0
  | w + 1, x => if x % 2 = 1 then 0 else 1 + ctzNat w (x / 2)
/-- One bits among the low `w` bits. -/
def popNat : Nat → Nat → Nat
  | 0, _ => 0
  | w + 1, x => x % 2 + popNat w (x / 2)

/-- The width of an integer operation. -/
def opWidth (p : Pfx) : Nat := if p.w32 then 32 else 64
/-- CLZ (R214, R215). -/
def clzV (p : Pfx) (a : W64) : W64 := BitVec.ofNat 64 (clzNat (opWidth p) (narrow p.w32 a).toNat)
/-- CTZ (R214, R215). -/
def ctzV (p : Pfx) (a : W64) : W64 := BitVec.ofNat 64 (ctzNat (opWidth p) (narrow p.w32 a).toNat)
/-- POPC (R214, R215). -/
def popV (p : Pfx) (a : W64) : W64 := BitVec.ofNat 64 (popNat (opWidth p) (narrow p.w32 a).toNat)

/-- An operand as a signed number of the operation's width. -/
def signedV (p : Pfx) (a : W64) : Int := if p.w32 then (a.setWidth 32 : BitVec 32).toInt else a.toInt
/-- Signed order of the operation's width. -/
def ltS (p : Pfx) (a b : W64) : Bool := decide (signedV p a < signedV p b)
/-- Unsigned order of the operation's width. -/
def ltU (p : Pfx) (a b : W64) : Bool := decide ((narrow p.w32 a).toNat < (narrow p.w32 b).toNat)
/-- 1 or 0 in all 64 bits (R221). -/
def boolV (b : Bool) : W64 := if b then 1 else 0

/-- The mask of a field of width `w` from bit `lsb`, truncated at bit 63 (R222). -/
def fieldMask (lsb wm1 : BitVec 6) : W64 := (BitVec.allOnes 64 >>> (63 - wm1.toNat)) <<< lsb.toNat
/-- BFX (R222). -/
def bfxV (a : W64) (lsb wm1 : BitVec 6) : W64 := (a &&& fieldMask lsb wm1) >>> lsb.toNat
/-- BFXS (R222): the field is extended from its top bit, bit 63 where it is truncated. -/
def bfxsV (a : W64) (lsb wm1 : BitVec 6) : W64 :=
  (a <<< (63 - Nat.min 63 (lsb.toNat + wm1.toNat))).sshiftRight
    (63 - Nat.min 63 (lsb.toNat + wm1.toNat) + lsb.toNat)
/-- BFI (R222). -/
def bfiV (d a : W64) (lsb wm1 : BitVec 6) : W64 :=
  (d &&& ~~~ fieldMask lsb wm1) ||| ((a <<< lsb.toNat) &&& fieldMask lsb wm1)

/-- The product of two operands with their signedness, 128 bits; with W32, PL's bits copied up (R217, R218). -/
def mulV (p : Pfx) (sa sb : Bool) (a b : W64) : BitVec 128 :=
  let x : Int := if sa then signedV p a else (narrow p.w32 a).toNat
  let y : Int := if sb then signedV p b else (narrow p.w32 b).toNat
  BitVec.ofInt 128 (x * y)

/-- Quotient and remainder of an unsigned division of the operation's width (Table 06-6). -/
def divuV (p : Pfx) (a b : W64) : W64 × W64 :=
  let x := narrow p.w32 a
  let y := narrow p.w32 b
  if y = 0 then (place p (BitVec.allOnes 64), place p x)
  else (place p (BitVec.ofNat 64 (x.toNat / y.toNat)), place p (BitVec.ofNat 64 (x.toNat % y.toNat)))

/-- Quotient and remainder of a signed division of the operation's width (Table 06-6): the quotient of the most
negative value by −1 wraps to itself. -/
def divsV (p : Pfx) (a b : W64) : W64 × W64 :=
  let x := signedV p a
  let y := signedV p b
  if y = 0 then (place p (BitVec.allOnes 64), place p (BitVec.ofInt 64 x))
  else (place p (BitVec.ofInt 64 (x.tdiv y)), place p (BitVec.ofInt 64 (x.tmod y)))


/-! ## Register forms -/

/-- rd ← f(rd, rs). -/
def binIns (s : State) (i : Instr) (c : CellId) (p : Pfx) (k : Enc) (rd rs : Reg) (f : W64 → W64 → W64) :
    Host.Outcome State Fault Refusal :=
  regIns s i c p k none [rd, rs] fun r => setG r rd (f (getG r rd) (getG r rs))

/-- rd ← f(rs, operand). -/
def immIns (s : State) (i : Instr) (c : CellId) (p : Pfx) (k : Enc) (rd rs : Reg) (f : W64 → W64) :
    Host.Outcome State Fault Refusal :=
  regIns s i c p k none [rd, rs] fun r => setG r rd (f (getG r rs))

/-- Sum or difference with carry (R216). -/
def carryIns (s : State) (i : Instr) (c : CellId) (p : Pfx) (k : Enc) (uses : List Reg) (rd : Reg) (f : Regs → W64 × Bool) :
    Host.Outcome State Fault Refusal :=
  regIns s i c p k none uses fun r => { setG r rd (f r).1 with cf := (f r).2 }

/-- NOP: no-operation instruction; it issues in one cycle and has no effect (R211). -/
def execNop (c : CellId) (p : Pfx) (s : State) : Host.Outcome State Fault Refusal :=
  regIns s (.nop c p) c p encA none [] fun r => r

/-- MOV: copies rs to rd (R214). -/
def execMov (c : CellId) (p : Pfx) (rd rs : Reg) (s : State) : Host.Outcome State Fault Refusal :=
  binIns s (.mov c p rd rs) c p encBWS rd rs fun _ b => place p b

/-- ADD: adds rs to rd and sets CF to the carry out (R216). -/
def execAdd (c : CellId) (p : Pfx) (rd rs : Reg) (s : State) : Host.Outcome State Fault Refusal :=
  carryIns s (.add c p rd rs) c p encBWS [rd, rs] rd fun r => addFlags p (getG r rd) (getG r rs) false

/-- SUB: subtracts rs from rd and sets CF to the borrow (R216). -/
def execSub (c : CellId) (p : Pfx) (rd rs : Reg) (s : State) : Host.Outcome State Fault Refusal :=
  carryIns s (.sub c p rd rs) c p encBWS [rd, rs] rd fun r => subFlags p (getG r rd) (getG r rs) false

/-- ADC: adds rs and CF to rd and sets CF to the carry out (R216). -/
def execAdc (c : CellId) (p : Pfx) (rd rs : Reg) (s : State) : Host.Outcome State Fault Refusal :=
  carryIns s (.adc c p rd rs) c p encBWS [rd, rs] rd fun r => addFlags p (getG r rd) (getG r rs) r.cf

/-- SBC: subtracts rs and CF from rd and sets CF to the borrow (R216). -/
def execSbc (c : CellId) (p : Pfx) (rd rs : Reg) (s : State) : Host.Outcome State Fault Refusal :=
  carryIns s (.sbc c p rd rs) c p encBWS [rd, rs] rd fun r => subFlags p (getG r rd) (getG r rs) r.cf

/-- AND: bitwise AND of rd and rs (R214). -/
def execAndOp (c : CellId) (p : Pfx) (rd rs : Reg) (s : State) : Host.Outcome State Fault Refusal :=
  binIns s (.andOp c p rd rs) c p encBWS rd rs fun a b => place p (a &&& b)

/-- OR: bitwise OR of rd and rs (R214). -/
def execOrOp (c : CellId) (p : Pfx) (rd rs : Reg) (s : State) : Host.Outcome State Fault Refusal :=
  binIns s (.orOp c p rd rs) c p encBWS rd rs fun a b => place p (a ||| b)

/-- XOR: bitwise XOR of rd and rs (R214). -/
def execXor (c : CellId) (p : Pfx) (rd rs : Reg) (s : State) : Host.Outcome State Fault Refusal :=
  binIns s (.xor c p rd rs) c p encBWS rd rs fun a b => place p (a ^^^ b)

/-- NOT: writes the complement of rs to rd (R214). -/
def execNotOp (c : CellId) (p : Pfx) (rd rs : Reg) (s : State) : Host.Outcome State Fault Refusal :=
  binIns s (.notOp c p rd rs) c p encBWS rd rs fun _ b => place p (~~~ b)

/-- NEG: writes 0 minus rs to rd and leaves CF unchanged (R214). -/
def execNeg (c : CellId) (p : Pfx) (rd rs : Reg) (s : State) : Host.Outcome State Fault Refusal :=
  binIns s (.neg c p rd rs) c p encBWS rd rs fun _ b => place p (0 - b)

/-- SHL: shifts rd left by an amount taken from rs (R215). -/
def execShl (c : CellId) (p : Pfx) (rd rs : Reg) (s : State) : Host.Outcome State Fault Refusal :=
  binIns s (.shl c p rd rs) c p encBWS rd rs fun a b => shlV p a (b.setWidth 6)

/-- SHR: shifts rd right logically by an amount taken from rs (R215). -/
def execShr (c : CellId) (p : Pfx) (rd rs : Reg) (s : State) : Host.Outcome State Fault Refusal :=
  binIns s (.shr c p rd rs) c p encBWS rd rs fun a b => shrV p a (b.setWidth 6)

/-- SAR: shifts rd right arithmetically by an amount taken from rs (R215). -/
def execSar (c : CellId) (p : Pfx) (rd rs : Reg) (s : State) : Host.Outcome State Fault Refusal :=
  binIns s (.sar c p rd rs) c p encBWS rd rs fun a b => sarV p a (b.setWidth 6)

/-- ROR: rotates rd right by an amount taken from rs (R215). -/
def execRor (c : CellId) (p : Pfx) (rd rs : Reg) (s : State) : Host.Outcome State Fault Refusal :=
  binIns s (.ror c p rd rs) c p encBWS rd rs fun a b => rorV p a (b.setWidth 6)

/-- CLZ: counts the leading zero bits of rs (R215). -/
def execClz (c : CellId) (p : Pfx) (rd rs : Reg) (s : State) : Host.Outcome State Fault Refusal :=
  binIns s (.clz c p rd rs) c p encBW rd rs fun _ b => clzV p b

/-- CTZ: counts the trailing zero bits of rs (R215). -/
def execCtz (c : CellId) (p : Pfx) (rd rs : Reg) (s : State) : Host.Outcome State Fault Refusal :=
  binIns s (.ctz c p rd rs) c p encBW rd rs fun _ b => ctzV p b

/-- POPC: counts the one bits of rs (R215). -/
def execPopc (c : CellId) (p : Pfx) (rd rs : Reg) (s : State) : Host.Outcome State Fault Refusal :=
  binIns s (.popc c p rd rs) c p encBW rd rs fun _ b => popV p b

/-! ## Immediate forms -/

/-- SHLI: shifts rs left by an immediate amount into rd (R215). -/
def execShli (c : CellId) (p : Pfx) (rd rs : Reg) (imm : BitVec 6) (s : State) : Host.Outcome State Fault Refusal :=
  immIns s (.shli c p rd rs imm) c p encCWS rd rs fun a => shlV p a imm

/-- SHRI: shifts rs right logically by an immediate amount into rd (R215). -/
def execShri (c : CellId) (p : Pfx) (rd rs : Reg) (imm : BitVec 6) (s : State) : Host.Outcome State Fault Refusal :=
  immIns s (.shri c p rd rs imm) c p encCWS rd rs fun a => shrV p a imm

/-- SARI: shifts rs right arithmetically by an immediate amount into rd (R215). -/
def execSari (c : CellId) (p : Pfx) (rd rs : Reg) (imm : BitVec 6) (s : State) : Host.Outcome State Fault Refusal :=
  immIns s (.sari c p rd rs imm) c p encCWS rd rs fun a => sarV p a imm

/-- RORI: rotates rs right by an immediate amount into rd (R215). -/
def execRori (c : CellId) (p : Pfx) (rd rs : Reg) (imm : BitVec 6) (s : State) : Host.Outcome State Fault Refusal :=
  immIns s (.rori c p rd rs imm) c p encCWS rd rs fun a => rorV p a imm

/-- ADDI: adds the extended immediate to rs into rd and sets CF (R216). -/
def execAddi (c : CellId) (p : Pfx) (rd rs : Reg) (imm : BitVec 32) (s : State) :
    Host.Outcome State Fault Refusal :=
  carryIns s (.addi c p rd rs imm) c p encEWS [rd, rs] rd fun r => addFlags p (getG r rs) (ext32 p imm) false

/-- ANDI: ANDs the extended immediate with rs into rd (R214). -/
def execAndi (c : CellId) (p : Pfx) (rd rs : Reg) (imm : BitVec 32) (s : State) :
    Host.Outcome State Fault Refusal :=
  immIns s (.andi c p rd rs imm) c p encEWS rd rs fun a => place p (a &&& ext32 p imm)

/-- ORI: ORs the extended immediate with rs into rd (R214). -/
def execOri (c : CellId) (p : Pfx) (rd rs : Reg) (imm : BitVec 32) (s : State) :
    Host.Outcome State Fault Refusal :=
  immIns s (.ori c p rd rs imm) c p encEWS rd rs fun a => place p (a ||| ext32 p imm)

/-- XORI: XORs the extended immediate with rs into rd (R214). -/
def execXori (c : CellId) (p : Pfx) (rd rs : Reg) (imm : BitVec 32) (s : State) :
    Host.Outcome State Fault Refusal :=
  immIns s (.xori c p rd rs imm) c p encEWS rd rs fun a => place p (a ^^^ ext32 p imm)

/-- MOVI32: loads an extended 32-bit immediate into rd (R214). -/
def execMovi32 (c : CellId) (p : Pfx) (rd : Reg) (imm : BitVec 32) (s : State) :
    Host.Outcome State Fault Refusal :=
  regIns s (.movi32 c p rd imm) c p { encE with x := true } none [rd] fun r => setG r rd (ext32 p imm)

/-- MOVI: loads a 64-bit immediate into rd (R214). -/
def execMovi (c : CellId) (p : Pfx) (rd : Reg) (imm : BitVec 64) (s : State) : Host.Outcome State Fault Refusal :=
  regIns s (.movi c p rd imm) c p encF none [rd] fun r => setG r rd imm

/-! ## Multiply and divide -/

/-- A MUL-class instruction: its product becomes pending (R190, R217). -/
def mulIns (s : State) (i : Instr) (c : CellId) (p : Pfx) (rd rs : Reg) (f : W64 → W64 → BitVec 128) :
    Host.Outcome State Fault Refusal :=
  issue s i c p encBW none [rd, rs] false false fun s =>
    let r := (engineAt s c).regs
    complete s c r (some (f (getG r rd) (getG r rs))) (nextAddr r encBW p)

/-- MUL: forms the unsigned 128-bit product of rd and rs for PH:PL (R218). -/
def execMul (c : CellId) (p : Pfx) (rd rs : Reg) (s : State) : Host.Outcome State Fault Refusal :=
  mulIns s (.mul c p rd rs) c p rd rs (mulV p false false)

/-- MULS: forms the signed 128-bit product of rd and rs for PH:PL (R218). -/
def execMuls (c : CellId) (p : Pfx) (rd rs : Reg) (s : State) : Host.Outcome State Fault Refusal :=
  mulIns s (.muls c p rd rs) c p rd rs (mulV p true true)

/-- MULSU: forms the signed-by-unsigned 128-bit product of rd and rs for PH:PL (R218). -/
def execMulsu (c : CellId) (p : Pfx) (rd rs : Reg) (s : State) : Host.Outcome State Fault Refusal :=
  mulIns s (.mulsu c p rd rs) c p rd rs (mulV p true false)

/-- The cycle after a MUL-class instruction ends with no instruction issued in it (R190). A strand that a precise trap has
stopped keeps its product pending (R196, R293), and so does a table lookup until it ends. -/
def execProductWrite (c : CellId) (s : State) : Host.Outcome State Fault Refusal :=
  let e := engineAt s c
  if cellUp s c && e.phase == .running && e.regs.pend.isSome then
    .next (setEngine s c { e with regs := commitProduct e.regs })
  else .refused .engineNotReady

/-- A divide issues: a pending product is written, and the divider stalls the strand (R192, R219, R252). -/
def divIns (s : State) (i : Instr) (c : CellId) (p : Pfx) (rd rs : Reg) (f : W64 → W64 → W64 × W64) :
    Host.Outcome State Fault Refusal :=
  issue s i c p encBWS none [rd, rs] false false fun s =>
    let e := engineAt s c
    let q := f (getG e.regs rd) (getG e.regs rs)
    setEngine s c { e with phase := .dividing q.1 q.2 (nextAddr e.regs encBWS p), regs := commitProduct e.regs,
                           stall := 0 }

/-- DIVU: starts an unsigned 36-cycle divide that gives the quotient in PL and the remainder in PH (R219). -/
def execDivu (c : CellId) (p : Pfx) (rd rs : Reg) (s : State) : Host.Outcome State Fault Refusal :=
  divIns s (.divu c p rd rs) c p rd rs (divuV p)

/-- DIVS: starts a signed truncating 36-cycle divide that gives the quotient in PL and the remainder in PH (R219). -/
def execDivs (c : CellId) (p : Pfx) (rd rs : Reg) (s : State) : Host.Outcome State Fault Refusal :=
  divIns s (.divs c p rd rs) c p rd rs (divsV p)

/-- The divider writes PH and PL in its last cycle (R220). -/
def execDivideComplete (c : CellId) (s : State) : Host.Outcome State Fault Refusal :=
  let e := engineAt s c
  match e.phase with
  | .dividing q r after =>
    if cellUp s c then
      .next (setEngine s c { (e.at (retire { e.regs with pl := q, ph := r } none after)) with phase := .running })
    else .refused .engineNotReady
  | _ => .refused .engineNotReady

/-! ## Compare, select and bit fields -/

/-- CMPEQ: writes 1 to rd when rd equals rs, and 0 otherwise (R221). -/
def execCmpeq (c : CellId) (p : Pfx) (rd rs : Reg) (s : State) : Host.Outcome State Fault Refusal :=
  binIns s (.cmpeq c p rd rs) c p encBW rd rs fun a b => boolV (narrow p.w32 a == narrow p.w32 b)

/-- CMPLT: signed less-than compare of rd and rs (R221). -/
def execCmplt (c : CellId) (p : Pfx) (rd rs : Reg) (s : State) : Host.Outcome State Fault Refusal :=
  binIns s (.cmplt c p rd rs) c p encBW rd rs fun a b => boolV (ltS p a b)

/-- CMPLTU: unsigned less-than compare of rd and rs (R221). -/
def execCmpltu (c : CellId) (p : Pfx) (rd rs : Reg) (s : State) : Host.Outcome State Fault Refusal :=
  binIns s (.cmpltu c p rd rs) c p encBW rd rs fun a b => boolV (ltU p a b)

/-- MIN: signed minimum of rd and rs (R221). -/
def execMin (c : CellId) (p : Pfx) (rd rs : Reg) (s : State) : Host.Outcome State Fault Refusal :=
  binIns s (.min c p rd rs) c p encBWS rd rs fun a b => place p (if ltS p b a then b else a)

/-- MAX: signed maximum of rd and rs (R221). -/
def execMax (c : CellId) (p : Pfx) (rd rs : Reg) (s : State) : Host.Outcome State Fault Refusal :=
  binIns s (.max c p rd rs) c p encBWS rd rs fun a b => place p (if ltS p a b then b else a)

/-- MINU: unsigned minimum of rd and rs (R221). -/
def execMinu (c : CellId) (p : Pfx) (rd rs : Reg) (s : State) : Host.Outcome State Fault Refusal :=
  binIns s (.minu c p rd rs) c p encBWS rd rs fun a b => place p (if ltU p b a then b else a)

/-- MAXU: unsigned maximum of rd and rs (R221). -/
def execMaxu (c : CellId) (p : Pfx) (rd rs : Reg) (s : State) : Host.Outcome State Fault Refusal :=
  binIns s (.maxu c p rd rs) c p encBWS rd rs fun a b => place p (if ltU p a b then b else a)

/-- SEL: writes rs to rd when rt bit 0 is 1 (R221). -/
def execSel (c : CellId) (p : Pfx) (rd rs rt : Reg) (s : State) : Host.Outcome State Fault Refusal :=
  regIns s (.sel c p rd rs rt) c p encC none [rd, rs, rt] fun r => if (getG r rt).getLsbD 0 then setG r rd (getG r rs) else r

/-- BFX: extracts a bit field of rs into rd, zero-extended (R222). -/
def execBfx (c : CellId) (p : Pfx) (rd rs : Reg) (lsb widthMinus1 : BitVec 6) (s : State) :
    Host.Outcome State Fault Refusal :=
  immIns s (.bfx c p rd rs lsb widthMinus1) c p encD rd rs fun a => bfxV a lsb widthMinus1

/-- BFI: inserts the low bits of rs into a bit field of rd (R222). -/
def execBfi (c : CellId) (p : Pfx) (rd rs : Reg) (lsb widthMinus1 : BitVec 6) (s : State) :
    Host.Outcome State Fault Refusal :=
  binIns s (.bfi c p rd rs lsb widthMinus1) c p encD rd rs fun d a => bfiV d a lsb widthMinus1

/-- BFXS: extracts a bit field of rs into rd, sign-extended (R222). -/
def execBfxs (c : CellId) (p : Pfx) (rd rs : Reg) (lsb widthMinus1 : BitVec 6) (s : State) :
    Host.Outcome State Fault Refusal :=
  immIns s (.bfxs c p rd rs lsb widthMinus1) c p encD rd rs fun a => bfxsV a lsb widthMinus1

/-! ## Special registers and the beat -/

/-- The rule a reserved special register breaks (Table 17-4). -/
def srBad (i : BitVec 8) : Option Nat := if srReserved i then some 172 else none

/-- RDSR (R223); of FS it waits for every outstanding floating-point operation (Table 05-10). -/
def execRdsr (c : CellId) (p : Pfx) (rd : Reg) (idx : BitVec 8) (s : State) : Host.Outcome State Fault Refusal :=
  issue s (.rdsr c p rd idx) c p encC (srBad idx) [rd] false false fun s =>
    let e := engineAt s c
    if idx = 3 ∧ e.fpOut ≠ [] then stalled s c 7
    else complete s c (setG e.regs rd (readSr s.straps e.regs idx)) none (nextAddr e.regs encC p)

/-- WRSR: writes rs to a special register; writes to TAG and FEAT registers are ignored (R173). The loop check after the
WRSR itself already sees a loop register that it wrote (R173 and R206 speak of the next instruction, R186 of every
instruction; the model's choice, log 98). -/
def execWrsr (c : CellId) (p : Pfx) (idx : BitVec 8) (rs : Reg) (s : State) : Host.Outcome State Fault Refusal :=
  regIns s (.wrsr c p idx rs) c p encC (srBad idx) [rs] fun r => writeSr r idx (getG r rs)

/-- BEAT: reads the 48-bit beat counter into rd (R223). -/
def execBeat (c : CellId) (p : Pfx) (rd : Reg) (s : State) : Host.Outcome State Fault Refusal :=
  regIns s (.beat c p rd) c p encB none [rd] fun r => setG r rd (s.time.beat.setWidth 64)

end Sys2Proof.Machine
end

