-- ==== Sys2Proof/Machine/Softfloat.lean ====
section
/-! DEFINITION. Floating-point results and flags (chapter 7), computed from exact integers and rounded once (R267).
Values travel in the low bits of a 64-bit word. -/

namespace Sys2Proof.Machine

open Sys2Proof

/-- A binary format: precision in bits, fraction bits included, and the width of the exponent field. -/
structure Fmt where
  prec : Nat
  ebits : Nat
  deriving DecidableEq, Repr

/-- binary64. -/
def fmt64 : Fmt := ⟨53, 11⟩
/-- binary32. -/
def fmt32 : Fmt := ⟨24, 8⟩

/-- The fraction's width. -/
def Fmt.fbits (f : Fmt) : Nat := f.prec - 1
/-- The greatest exponent of a finite number. -/
def Fmt.emax (f : Fmt) : Int := 2 ^ (f.ebits - 1) - 1
/-- The least exponent of a normal number. -/
def Fmt.emin (f : Fmt) : Int := 1 - f.emax
/-- The sign bit's place. -/
def Fmt.sbit (f : Fmt) : Nat := f.fbits + f.ebits
/-- The largest value of the exponent field. -/
def Fmt.expAll (f : Fmt) : Nat := 2 ^ f.ebits - 1

/-- What a word of a format denotes: a NaN (its bits), an infinity, or ±m × 2^e. -/
inductive FpVal where
  | nan (bits : Nat)
  | inf (neg : Bool)
  | fin (neg : Bool) (m : Nat) (e : Int)
  deriving DecidableEq, Repr

/-- The bits of a format in a register. -/
def Fmt.bits (f : Fmt) (x : W64) : Nat := x.toNat % 2 ^ (f.sbit + 1)

/-- The value of a word; subnormals keep their exact value (R268). -/
def unpack (f : Fmt) (x : W64) : FpVal :=
  let n := f.bits x
  let neg := n.testBit f.sbit
  let ex := n / 2 ^ f.fbits % 2 ^ f.ebits
  let fr := n % 2 ^ f.fbits
  if ex = f.expAll then (if fr = 0 then .inf neg else .nan n)
  else if ex = 0 then .fin neg fr (f.emin - f.fbits)
  else .fin neg (fr + 2 ^ f.fbits) (f.emin - f.fbits + ex - 1)

/-- A NaN is signalling when the top fraction bit is 0 (chapter 7, NaN propagation). -/
def isSnanBits (f : Fmt) (n : Nat) : Bool := !n.testBit (f.fbits - 1)
/-- A value is a signalling NaN. -/
def isSnan (f : Fmt) : FpVal → Bool
  | .nan n => isSnanBits f n
  | _ => false
/-- A value is a NaN. -/
def isNan : FpVal → Bool
  | .nan _ => true
  | _ => false

/-- A quieted NaN (R274). -/
def quiet (f : Fmt) (n : Nat) : W64 := BitVec.ofNat 64 (n ||| 2 ^ (f.fbits - 1))
/-- The default NaN (R271). -/
def defaultNan (f : Fmt) : W64 := BitVec.ofNat 64 (f.expAll * 2 ^ f.fbits + 2 ^ (f.fbits - 1))
/-- The sign bit of a format. -/
def signBits (f : Fmt) (neg : Bool) : Nat := if neg then 2 ^ f.sbit else 0
/-- An infinity. -/
def infBits (f : Fmt) (neg : Bool) : W64 := BitVec.ofNat 64 (signBits f neg + f.expAll * 2 ^ f.fbits)
/-- The largest finite magnitude. -/
def maxBits (f : Fmt) (neg : Bool) : W64 := BitVec.ofNat 64 (signBits f neg + f.expAll * 2 ^ f.fbits - 1)
/-- A zero. -/
def zeroBits (f : Fmt) (neg : Bool) : W64 := BitVec.ofNat 64 (signBits f neg)

/-- `m / 2^d` rounded to an integer under a rounding direction: RMODE 0 ties to even, 1 toward zero, 2 toward +∞,
3 toward −∞ (R267). -/
def roundShift (rm : BitVec 2) (neg : Bool) (m d : Nat) : Nat :=
  let q := m / 2 ^ d
  let r := m % 2 ^ d
  let up :=
    if rm = 0 then decide (2 ^ d < 2 * r) || (decide (2 * r = 2 ^ d) && decide (q % 2 = 1) && decide (0 < d))
    else if rm = 1 then false
    else if rm = 2 then !neg && r != 0
    else neg && r != 0
  if up then q + 1 else q

/-- The result of overflow (Table 07-6). -/
def overflowBits (f : Fmt) (rm : BitVec 2) (neg : Bool) : W64 :=
  if rm = 0 ∨ (rm = 2 ∧ neg = false) ∨ (rm = 3 ∧ neg = true) then infBits f neg else maxBits f neg

/-- ±m × 2^e rounded once to a format, with its flags (R267 to R272). `m` is exact, or its lowest bit stands for
every bit below it and lies below the rounding point. A zero `m` is an exact zero of the sign given. -/
def roundPack (f : Fmt) (rm : BitVec 2) (neg : Bool) (m : Nat) (e : Int) : W64 × BitVec 5 :=
  if m = 0 then (zeroBits f neg, 0)
  else
    let len := m.log2 + 1
    let top : Int := e + len - 1
    -- rounded with unbounded exponent: the exponent of the leading bit
    let du := len - f.prec
    let ru := roundShift rm neg m du
    let topU : Int := if f.prec < len ∧ ru = 2 ^ f.prec then top + 1 else top
    if f.emax < topU then (overflowBits f rm neg, fOverflow ||| fInexact)
    else
      let qmin : Int := f.emin - f.fbits
      let q : Int := max (top - f.fbits) qmin
      let d := (q - e).toNat
      let mr := if e < q then roundShift rm neg m d else m * 2 ^ (e - q).toNat
      let inexact := decide (e < q) && m % 2 ^ d != 0
      (BitVec.ofNat 64 (signBits f neg + (q - qmin).toNat * 2 ^ f.fbits + mr),
       flagIf (inexact && decide (topU < f.emin)) fUnderflow ||| flagIf inexact fInexact)

/-- The NaN rule (R274): the first NaN in operand order, quieted. -/
def firstNan (f : Fmt) : List FpVal → W64
  | [] => defaultNan f
  | .nan n :: _ => quiet f n
  | _ :: r => firstNan f r

/-- Invalid when any operand is a signalling NaN. -/
def snanFlag (f : Fmt) (vs : List FpVal) : BitVec 5 := flagIf (vs.any (isSnan f)) fInvalid

/-- A signed integer of a sign and a magnitude. -/
def sgn (neg : Bool) (m : Nat) : Int := if neg then -(m : Int) else m

/-- The sum of two finite values rounded once; an exact zero has the sign of R273. -/
def addFin (f : Fmt) (rm : BitVec 2) (na : Bool) (ma : Nat) (ea : Int) (nb : Bool) (mb : Nat) (eb : Int) :
    W64 × BitVec 5 :=
  let e := min ea eb
  let x := sgn na (ma * 2 ^ (ea - e).toNat) + sgn nb (mb * 2 ^ (eb - e).toNat)
  if x = 0 then
    (zeroBits f (if ma = 0 ∧ mb = 0 ∧ na = nb then na else decide (rm = 3)), 0)
  else roundPack f rm (decide (x < 0)) x.natAbs e

/-- A value with its sign changed. -/
def negVal : FpVal → FpVal
  | .inf n => .inf (!n)
  | .fin n m e => .fin (!n) m e
  | v => v

/-- Addition of two values; NaN operands are taken from `ops` in operand order. -/
def addVal (f : Fmt) (rm : BitVec 2) (a b : FpVal) : W64 × BitVec 5 :=
  match a, b with
  | .inf x, .inf y => if x = y then (infBits f x, 0) else (defaultNan f, fInvalid)
  | .inf x, _ => (infBits f x, 0)
  | _, .inf y => (infBits f y, 0)
  | .fin na ma ea, .fin nb mb eb => addFin f rm na ma ea nb mb eb
  | .nan n, _ => (quiet f n, 0)
  | _, .nan n => (quiet f n, 0)

/-- FADD. -/
def fpAdd (f : Fmt) (rm : BitVec 2) (x y : W64) : W64 × BitVec 5 :=
  let a := unpack f x
  let b := unpack f y
  if isNan a || isNan b then (firstNan f [a, b], snanFlag f [a, b]) else addVal f rm a b

/-- FSUB. -/
def fpSub (f : Fmt) (rm : BitVec 2) (x y : W64) : W64 × BitVec 5 :=
  let a := unpack f x
  let b := unpack f y
  if isNan a || isNan b then (firstNan f [a, b], snanFlag f [a, b]) else addVal f rm a (negVal b)

/-- FMUL. -/
def fpMul (f : Fmt) (rm : BitVec 2) (x y : W64) : W64 × BitVec 5 :=
  let a := unpack f x
  let b := unpack f y
  match a, b with
  | .inf n, .inf n' => (infBits f (n != n'), 0)
  | .inf n, .fin n' m _ => if m = 0 then (defaultNan f, fInvalid) else (infBits f (n != n'), 0)
  | .fin n m _, .inf n' => if m = 0 then (defaultNan f, fInvalid) else (infBits f (n != n'), 0)
  | .fin n m e, .fin n' m' e' => roundPack f rm (n != n') (m * m') (e + e')
  | _, _ => (firstNan f [a, b], snanFlag f [a, b])

/-- FDIV. The quotient is formed to 130 bits below its unit, with every lower bit gathered in one. -/
def fpDiv (f : Fmt) (rm : BitVec 2) (x y : W64) : W64 × BitVec 5 :=
  let a := unpack f x
  let b := unpack f y
  match a, b with
  | .inf _, .inf _ => (defaultNan f, fInvalid)
  | .inf n, .fin n' _ _ => (infBits f (n != n'), 0)
  | .fin n _ _, .inf n' => (zeroBits f (n != n'), 0)
  | .fin n m e, .fin n' m' e' =>
    if m' = 0 then (if m = 0 then (defaultNan f, fInvalid) else (infBits f (n != n'), fDivZero))
    else if m = 0 then (zeroBits f (n != n'), 0)
    else
      let q := m * 2 ^ 130 / m'
      let sticky := if m * 2 ^ 130 % m' = 0 then 0 else 1
      roundPack f rm (n != n') (2 * q + sticky) (e - e' - 131)
  | _, _ => (firstNan f [a, b], snanFlag f [a, b])

/-- x × y + z with the product's and the addend's signs as given, rounded once (R277); NaN operands in the order
x, y, z (R242). -/
def fpFma (f : Fmt) (rm : BitVec 2) (negProd negAdd : Bool) (x y z : W64) : W64 × BitVec 5 :=
  let a := unpack f x
  let b := unpack f y
  let c := unpack f z
  let zeroInf := match a, b with
    | .inf _, .fin _ m _ => m == 0
    | .fin _ m _, .inf _ => m == 0
    | _, _ => false
  if isNan a || isNan b || isNan c then
    (firstNan f [a, b, c], snanFlag f [a, b, c] ||| flagIf zeroInf fInvalid)
  else if zeroInf then (defaultNan f, fInvalid)
  else
    let c' := if negAdd then negVal c else c
    let prod : FpVal := match a, b with
      | .fin n m e, .fin n' m' e' => .fin ((n != n') != negProd) (m * m') (e + e')
      | .inf n, .inf n' => .inf ((n != n') != negProd)
      | .inf n, .fin n' _ _ => .inf ((n != n') != negProd)
      | .fin n _ _, .inf n' => .inf ((n != n') != negProd)
      | v, _ => v
    addVal f rm prod c'

/-- The order of two values that are not NaNs, −0 equal to +0: a < b. -/
def fpLt (a b : FpVal) : Bool :=
  match a, b with
  | .inf n, .inf n' => n && !n'
  | .inf n, .fin _ _ _ => n
  | .fin _ _ _, .inf n' => !n'
  | .fin n m e, .fin n' m' e' =>
    let lo := min e e'
    decide (sgn n (m * 2 ^ (e - lo).toNat) < sgn n' (m' * 2 ^ (e' - lo).toNat))
  | _, _ => false

/-- A compare (R243): `signalling` raises invalid for any NaN. -/
def fpCmp (f : Fmt) (signalling : Bool) (rel : FpVal → FpVal → Bool) (x y : W64) : W64 × BitVec 5 :=
  let a := unpack f x
  let b := unpack f y
  if isNan a || isNan b then (0, if signalling then fInvalid else snanFlag f [a, b])
  else (if rel a b then 1 else 0, 0)

/-- Neither is less than the other. -/
def fpEq (a b : FpVal) : Bool := !fpLt a b && !fpLt b a

/-- FCMPUN (R243). -/
def fpUnordered (f : Fmt) (x y : W64) : W64 × BitVec 5 :=
  let a := unpack f x
  let b := unpack f y
  (if isNan a || isNan b then 1 else 0, snanFlag f [a, b])

/-- The sign bit of a value that is not a NaN. -/
def fpNeg : FpVal → Bool
  | .inf n => n
  | .fin n _ _ => n
  | .nan _ => false

/-- FMIN and FMAX (R243): −0 lies below +0. -/
def fpMinMax (f : Fmt) (max : Bool) (x y : W64) : W64 × BitVec 5 :=
  let a := unpack f x
  let b := unpack f y
  let fl := snanFlag f [a, b]
  if isNan a && isNan b then (firstNan f [a, b], fl)
  else if isNan a then (BitVec.ofNat 64 (f.bits y), fl)
  else if isNan b then (BitVec.ofNat 64 (f.bits x), fl)
  else
    let less := fpLt a b || (fpEq a b && fpNeg a && !fpNeg b)
    (BitVec.ofNat 64 (if less != max then f.bits x else f.bits y), fl)

/-- FCVTF from one format to the other (R276, R278). -/
def fpConvert (src dst : Fmt) (rm : BitVec 2) (x : W64) : W64 × BitVec 5 :=
  match unpack src x with
  | .nan n =>
    let fr := n % 2 ^ src.fbits
    let fr' := if src.fbits < dst.fbits then fr * 2 ^ (dst.fbits - src.fbits) else fr / 2 ^ (src.fbits - dst.fbits)
    (BitVec.ofNat 64 (signBits dst (n.testBit src.sbit) + dst.expAll * 2 ^ dst.fbits
        + (fr' ||| 2 ^ (dst.fbits - 1))), flagIf (isSnanBits src n) fInvalid)
  | .inf n => (infBits dst n, 0)
  | .fin n m e => roundPack dst rm n m e

/-- A value rounded to an integer of a range (R244). -/
def fpToInt (f : Fmt) (rm : BitVec 2) (lo hi : Int) (x : W64) : Int × BitVec 5 :=
  match unpack f x with
  | .nan _ => (0, fInvalid)
  | .inf n => (if n then lo else hi, fInvalid)
  | .fin n m e =>
    let mr := if e < 0 then roundShift rm n m (-e).toNat else m * 2 ^ e.toNat
    let v := sgn n mr
    if v < lo then (lo, fInvalid)
    else if hi < v then (hi, fInvalid)
    else (v, flagIf (decide (e < 0) && m % 2 ^ (-e).toNat != 0) fInexact)

/-- An integer converted to a format (R278). -/
def intToFp (f : Fmt) (rm : BitVec 2) (v : Int) : W64 × BitVec 5 := roundPack f rm (decide (v < 0)) v.natAbs 0

/-- The interpolation of TLIF between two binary32 entries at fraction f ≠ 0 of 2^16 (R249, R290). -/
def fpInterp (rm : BitVec 2) (t0 t1 : BitVec 32) (frac : BitVec 16) : BitVec 32 × BitVec 5 :=
  let x : W64 := t0.setWidth 64
  let y : W64 := t1.setWidth 64
  let a := unpack fmt32 x
  let b := unpack fmt32 y
  let r : W64 × BitVec 5 :=
    if isNan a || isNan b then (firstNan fmt32 [a, b], snanFlag fmt32 [a, b])
    else match a, b with
      | .inf n, .inf n' => if n = n' then (x, 0) else (defaultNan fmt32, fInvalid)
      | .fin n m e, .fin n' m' e' =>
        let lo := min e e'
        let va := sgn n (m * 2 ^ (e - lo).toNat)
        let vb := sgn n' (m' * 2 ^ (e' - lo).toNat)
        let sum := va * (65536 - frac.toNat) + vb * frac.toNat
        if sum = 0 then
          -- the interpolated step is an exact zero of the sign of T[i + 1] − T[i], or cancels T[i]
          let stepNeg := if m = 0 ∧ m' = 0 ∧ n' = !n then n' else decide (rm = 3)
          (zeroBits fmt32 (if m = 0 ∧ m' = 0 ∧ stepNeg = n then n else decide (rm = 3)), 0)
        else roundPack fmt32 rm (decide (sum < 0)) sum.natAbs (lo - 16)
      | _, _ => (defaultNan fmt32, fInvalid)
  (r.1.setWidth 32, r.2 &&& (fInvalid ||| fInexact))

/-- The one entry that a clamped TLIF, or one with fraction 0, returns (R249, R290). -/
def fpSingle (t : BitVec 32) : BitVec 32 × BitVec 5 :=
  match unpack fmt32 (t.setWidth 64) with
  | .nan n => ((quiet fmt32 n).setWidth 32, flagIf (isSnanBits fmt32 n) fInvalid)
  | _ => (t, 0)

end Sys2Proof.Machine
end

