-- ==== Sys2Proof/Machine/Float.lean ====
section
/-! DEFINITION. Floating-point instructions (Table 06-13, chapter 7). -/

namespace Sys2Proof.Machine

open Sys2Proof

/-- The format an instruction names (R241). -/
def fmtOf (p : Pfx) : Fmt := if p.fs32 then fmt32 else fmt64
/-- A floating-point operation on registers under the rounding mode of the firing's context (R241, R245). -/
def fpIns (s : State) (i : Instr) (c : CellId) (p : Pfx) (k : Enc) (rd : Reg) (uses : List Reg)
    (f : BitVec 2 → Regs → W64 × BitVec 5) : Host.Outcome State Fault Refusal :=
  issue s i c p k none uses false false fun s =>
    let e := engineAt s c
    let x := f (mwRmode e.mode) e.regs
    fpResult s c p k rd x.1 x.2

/-- An operation rd ← rd op rs. -/
def fpBin (s : State) (i : Instr) (c : CellId) (p : Pfx) (rd rs : Reg) (f : BitVec 2 → W64 → W64 → W64 × BitVec 5) :
    Host.Outcome State Fault Refusal :=
  fpIns s i c p encBFT rd [rd, rs] fun rm r => f rm (getG r rd) (getG r rs)

/-- FADD: floating-point addition (R240). -/
def execFadd (c : CellId) (p : Pfx) (rd rs : Reg) (s : State) : Host.Outcome State Fault Refusal :=
  fpBin s (.fadd c p rd rs) c p rd rs (fpAdd (fmtOf p))

/-- FSUB: floating-point subtraction (R240). -/
def execFsub (c : CellId) (p : Pfx) (rd rs : Reg) (s : State) : Host.Outcome State Fault Refusal :=
  fpBin s (.fsub c p rd rs) c p rd rs (fpSub (fmtOf p))

/-- FMUL: floating-point multiplication (R240). -/
def execFmul (c : CellId) (p : Pfx) (rd rs : Reg) (s : State) : Host.Outcome State Fault Refusal :=
  fpBin s (.fmul c p rd rs) c p rd rs (fpMul (fmtOf p))

/-- FDIV: floating-point division (R240). -/
def execFdiv (c : CellId) (p : Pfx) (rd rs : Reg) (s : State) : Host.Outcome State Fault Refusal :=
  fpBin s (.fdiv c p rd rs) c p rd rs (fpDiv (fmtOf p))

/-- FMIN: IEEE minimumNumber (R243). -/
def execFmin (c : CellId) (p : Pfx) (rd rs : Reg) (s : State) : Host.Outcome State Fault Refusal :=
  fpBin s (.fmin c p rd rs) c p rd rs fun _ => fpMinMax (fmtOf p) false

/-- FMAX: IEEE maximumNumber (R243). -/
def execFmax (c : CellId) (p : Pfx) (rd rs : Reg) (s : State) : Host.Outcome State Fault Refusal :=
  fpBin s (.fmax c p rd rs) c p rd rs fun _ => fpMinMax (fmtOf p) true

/-- FCMPEQ: quiet floating-point equality compare (R243). -/
def execFcmpeq (c : CellId) (p : Pfx) (rd rs : Reg) (s : State) : Host.Outcome State Fault Refusal :=
  fpBin s (.fcmpeq c p rd rs) c p rd rs fun _ => fpCmp (fmtOf p) false fpEq

/-- FCMPLT: signalling floating-point less-than compare (R243). -/
def execFcmplt (c : CellId) (p : Pfx) (rd rs : Reg) (s : State) : Host.Outcome State Fault Refusal :=
  fpBin s (.fcmplt c p rd rs) c p rd rs fun _ => fpCmp (fmtOf p) true fpLt

/-- FCMPLE: signalling floating-point less-or-equal compare (R243). -/
def execFcmple (c : CellId) (p : Pfx) (rd rs : Reg) (s : State) : Host.Outcome State Fault Refusal :=
  fpBin s (.fcmple c p rd rs) c p rd rs fun _ => fpCmp (fmtOf p) true fun a b => !fpLt b a

/-- FCMPUN: quiet floating-point unordered test (R243). -/
def execFcmpun (c : CellId) (p : Pfx) (rd rs : Reg) (s : State) : Host.Outcome State Fault Refusal :=
  fpBin s (.fcmpun c p rd rs) c p rd rs fun _ => fpUnordered (fmtOf p)

/-- FCVTF: binary32 to binary64, or with FS32 binary64 to binary32 (Tables 05-4, 06-13). -/
def execFcvtf (c : CellId) (p : Pfx) (rd rs : Reg) (s : State) : Host.Outcome State Fault Refusal :=
  fpIns s (.fcvtf c p rd rs) c p encBFT rd [rd, rs] fun rm r =>
    if p.fs32 then fpConvert fmt64 fmt32 rm (getG r rs) else fpConvert fmt32 fmt64 rm (getG r rs)

/-- A conversion to an integer of the width W32 selects (R241, R244). -/
def fpToIntIns (s : State) (i : Instr) (c : CellId) (p : Pfx) (rd rs : Reg) (signed toZero : Bool) :
    Host.Outcome State Fault Refusal :=
  fpIns s i c p encBFTWS rd [rd, rs] fun rm r =>
    let w := opWidth p
    let lo : Int := if signed then -(2 ^ (w - 1)) else 0
    let hi : Int := if signed then 2 ^ (w - 1) - 1 else 2 ^ w - 1
    let x := fpToInt (fmtOf p) (if toZero then 1 else rm) lo hi (getG r rs)
    (place p (BitVec.ofInt 64 x.1), x.2)

/-- FCVTI: float to signed integer, rounded by RMODE (R244). -/
def execFcvti (c : CellId) (p : Pfx) (rd rs : Reg) (s : State) : Host.Outcome State Fault Refusal :=
  fpToIntIns s (.fcvti c p rd rs) c p rd rs true false

/-- FCVTIZ: float to signed integer, rounded toward zero (R244). -/
def execFcvtiz (c : CellId) (p : Pfx) (rd rs : Reg) (s : State) : Host.Outcome State Fault Refusal :=
  fpToIntIns s (.fcvtiz c p rd rs) c p rd rs true true

/-- FCVTU: float to unsigned integer, rounded by RMODE (R244). -/
def execFcvtu (c : CellId) (p : Pfx) (rd rs : Reg) (s : State) : Host.Outcome State Fault Refusal :=
  fpToIntIns s (.fcvtu c p rd rs) c p rd rs false false

/-- ICVTF: signed integer to float (R278). -/
def execIcvtf (c : CellId) (p : Pfx) (rd rs : Reg) (s : State) : Host.Outcome State Fault Refusal :=
  fpIns s (.icvtf c p rd rs) c p encBFTW rd [rd, rs] fun rm r => intToFp (fmtOf p) rm (signedV p (getG r rs))

/-- UCVTF: unsigned integer to float (R278). -/
def execUcvtf (c : CellId) (p : Pfx) (rd rs : Reg) (s : State) : Host.Outcome State Fault Refusal :=
  fpIns s (.ucvtf c p rd rs) c p encBFTW rd [rd, rs] fun rm r =>
    intToFp (fmtOf p) rm ((narrow p.w32 (getG r rs)).toNat : Int)

/-- The sign bit of a format as a word. -/
def signMask (p : Pfx) : W64 := if p.fs32 then 0x80000000 else 0x8000000000000000

/-- FNEG: inverts the sign bit of rs into rd (R242). -/
def execFneg (c : CellId) (p : Pfx) (rd rs : Reg) (s : State) : Host.Outcome State Fault Refusal :=
  regIns s (.fneg c p rd rs) c p encBF none [rd, rs] fun r =>
    setG r rd (narrow p.fs32 (getG r rs) ^^^ signMask p)

/-- FABS: clears the sign bit of rs into rd (R242). -/
def execFabs (c : CellId) (p : Pfx) (rd rs : Reg) (s : State) : Host.Outcome State Fault Refusal :=
  regIns s (.fabs c p rd rs) c p encBF none [rd, rs] fun r =>
    setG r rd (narrow p.fs32 (getG r rs) &&& ~~~ signMask p)

/-- A fused operation (R277). -/
def fmaIns (s : State) (i : Instr) (c : CellId) (p : Pfx) (rd rs rt : Reg) (negProd negAdd : Bool) :
    Host.Outcome State Fault Refusal :=
  fpIns s i c p encCFT rd [rd, rs, rt] fun rm r =>
    fpFma (fmtOf p) rm negProd negAdd (getG r rs) (getG r rt) (getG r rd)

/-- FMA: fused rs times rt plus rd, rounded once (R277). -/
def execFma (c : CellId) (p : Pfx) (rd rs rt : Reg) (s : State) : Host.Outcome State Fault Refusal :=
  fmaIns s (.fma c p rd rs rt) c p rd rs rt false false

/-- FMS: fused rs times rt minus rd, rounded once (R277). -/
def execFms (c : CellId) (p : Pfx) (rd rs rt : Reg) (s : State) : Host.Outcome State Fault Refusal :=
  fmaIns s (.fms c p rd rs rt) c p rd rs rt false true

/-- FNMA: fused rd minus rs times rt, rounded once (R277). -/
def execFnma (c : CellId) (p : Pfx) (rd rs rt : Reg) (s : State) : Host.Outcome State Fault Refusal :=
  fmaIns s (.fnma c p rd rs rt) c p rd rs rt true false

/-! ## Table lookup (R246 to R250, R289, R290) -/

/-- Two entries interpolated for TLI (R248). -/
def tliValue (t0 t1 : BitVec 32) (frac : BitVec 16) : W64 :=
  BitVec.ofInt 64 (t0.toInt + ((t1.toInt - t0.toInt) * frac.toNat + 32768) / 65536)

/-- The result of a lookup and its flags, from its first entry and, when none of the clamps applies, its second. -/
def lookupValue (float : Bool) (rm : BitVec 2) (frac : BitVec 16) (t0 : BitVec 32) (t1 : Option (BitVec 32)) :
    W64 × BitVec 5 :=
  match t1 with
  | none => if float then ((fpSingle t0).1.setWidth 64, (fpSingle t0).2) else (t0.signExtend 64, 0)
  | some t1 =>
    if float then
      let r := if frac = 0 then fpSingle t0 else fpInterp rm t0 t1 frac
      (r.1.setWidth 64, r.2)
    else (tliValue t0 t1 frac, 0)

/-- The end of a lookup (R248 to R250): an enabled flag of TLIF traps at once in precise mode or under TR; otherwise
the result is written and the flags accumulate in FS. `none` for a value that could not be served: rd receives 0 and
FS is unchanged. -/
def lookupEnd (s : State) (c : CellId) (precise : Bool) (rd : Reg) (next : BitVec 15) (x : Option (W64 × BitVec 5)) :
    State :=
  let e := engineAt s c
  let e1 := { e with phase := .running }
  match x with
  | none => setEngine s c (e1.at (retire (setG e.regs rd 0) none next))
  | some (v, fl) =>
    if (precise || mwPrecise e.mode) && fl &&& mwTrapen e.mode != 0 then
      trapStop s c false fl (fl &&& mwTrapen e.mode)
    else setEngine s c (e1.at (retire (fpWrite e.regs rd v fl) none next))

/-- Where a position lies in a table of 2^k + 1 entries: the index of the first entry, and whether a second one is
used (R248). -/
def lookupIndex (k : Nat) (x : W64) : Nat × Bool :=
  if x.toInt < 0 then (0, false)
  else if 2 ^ k ≤ (x >>> 16).toNat then (2 ^ k, false)
  else ((x >>> 16).toNat, true)

/-- An entry of a table in the instruction store. -/
def istoreEntry (x : Cell) (a : Nat) : BitVec 32 :=
  BitVec.ofNat 32 (leNat ((List.range 4).map (fun i => mget 0 x.istore (a + i))))

/-- The address of a table and the number of entries its lookup reads, or none when it lies in the instruction
store. -/
def tableBad (r : Regs) (rs rt : Reg) (kcode : BitVec 4) : Option Nat :=
  let k := kcode.toNat + 2
  let t := getG r rt
  if t.getLsbD 63 then
    if 0x4000 < (t.toNat % 0x4000) / 4 * 4 + 4 * (2 ^ k + 1) then some 247 else none
  else
    let i := lookupIndex k (getG r rs)
    let a := alignTo 2 (addrOf t)
    (mapBad (a + BitVec.ofNat 48 (4 * i.1))).or
      (if i.2 then mapBad (a + BitVec.ofNat 48 (4 * (i.1 + 1))) else none)

/-- The reports of table entries that cannot be read, one for each faulty word (R340). -/
def entryFaults (s : State) (c : CellId) (tag0 : W64) : List Nat → State
  | [] => s
  | a :: r => entryFaults (firingReport s tag0 fEcc 0x7 ((0 : BitVec 24) ++ c ++ (0 : BitVec 2) ++ BitVec.ofNat 14 a)) c tag0 r

/-- A lookup in the cell's own instruction store (R247, R340): an entry with a double-bit error gives rd 0 and a fault
report. -/
def lookupStore (s : State) (c : CellId) (p : Pfx) (k : Enc) (float : Bool) (rd : Reg) (base : Nat)
    (i : Nat × Bool) (frac : BitVec 16) : State :=
  let e := engineAt s c
  let x := cellAt s c
  let a0 := base + 4 * i.1
  let as := if i.2 && (a0 + 4) / 8 != a0 / 8 then [a0, a0 + 4] else [a0]
  let bad := as.filter (fun a => istoreDouble x [a / 8])
  let s1 := setCell s c (istoreRead x (as.map (· / 8)))
  let next := nextAddr e.regs k p
  if bad ≠ [] then lookupEnd (entryFaults s1 c e.regs.tag0 bad) c p.tr rd next none
  else
    lookupEnd s1 c p.tr rd next
      (some (lookupValue float (mwRmode e.mode) frac (istoreEntry x a0)
        (if i.2 then some (istoreEntry x (a0 + 4)) else none)))

/-- A lookup in fabric memory: its reads are issued and the strand waits for their answers (R199, R247). A pending product
stays pending until the lookup ends (R293). -/
def lookupFabric (s : State) (c : CellId) (p : Pfx) (k : Enc) (float : Bool) (rd : Reg) (base : Addr)
    (i : Nat × Bool) (frac : BitVec 16) : State :=
  let e := engineAt s c
  let read := fun (j : Nat) (second : Bool) =>
    strandOffer s c (.read (base + BitVec.ofNat 48 (4 * j)) (.table c second) e.regs.tag0)
  let fs := if i.2 then [read i.1 false, read (i.1 + 1) true] else [read i.1 false]
  setEngine (produceAll s (tileOf c) false fs) c
    { e with phase := .lookup ⟨float, rd, frac, i.2, p.tr, none, none, nextAddr e.regs k p⟩, stall := 0 }

/-- TLI and TLIF. -/
def lookupIns (s : State) (i : Instr) (c : CellId) (p : Pfx) (k : Enc) (float : Bool) (rd rs rt : Reg)
    (kcode : BitVec 4) : Host.Outcome State Fault Refusal :=
  issue s i c p k ((if 9 ≤ kcode.toNat then some 246 else none).or (tableBad (regsAt s c) rs rt kcode)) [rd, rs, rt]
    false false fun s =>
    let r := regsAt s c
    let t := getG r rt
    let x := getG r rs
    let i := lookupIndex (kcode.toNat + 2) x
    if t.getLsbD 63 then lookupStore s c p k float rd (t.toNat % 0x4000 / 4 * 4) i (x.setWidth 16)
    else lookupFabric s c p k float rd (alignTo 2 (addrOf t)) i (x.setWidth 16)

/-- TLI: integer table lookup with linear interpolation and clamping (R248). -/
def execTli (c : CellId) (p : Pfx) (rd rs rt : Reg) (kcode : BitVec 4) (s : State) :
    Host.Outcome State Fault Refusal :=
  lookupIns s (.tli c p rd rs rt kcode) c p encC false rd rs rt kcode

/-- TLIF: binary32 table lookup with interpolation rounded once (R249). -/
def execTlif (c : CellId) (p : Pfx) (rd rs rt : Reg) (kcode : BitVec 4) (s : State) :
    Host.Outcome State Fault Refusal :=
  lookupIns s (.tlif c p rd rs rt kcode) c p encCT true rd rs rt kcode

end Sys2Proof.Machine
end

