-- ==== Sys2Proof/Machine/Host.lean ====
section
/-! DEFINITION. The host face (chapter 11): the token window and its credits, the host ring, MSI and LTR, the memory
window, requests from the fabric, power management and resets. -/

namespace Sys2Proof.Machine

open Sys2Proof

/-! ## State of the face -/

/-- PD6 is powered and clocked. -/
def hostUp (s : State) : Bool := s.pwr.clkok && powered s 6

/-- The face may issue requests: the link is up, Bus Master Enable is 1, and the function is in D0 (R437, R438). -/
def hostIssues (s : State) : Bool := hostUp s && s.host.linkUp && s.host.bme && !s.host.d3hot

/-- The face answers memory requests: its link is up, it is released, Memory Space Enable is 1, in D0. -/
def hostAnswers (s : State) : Bool :=
  hostUp s && s.host.linkUp && s.host.released && !s.host.flr && !s.host.d3hot &&
    (mget 0 s.host.cfg 1).getLsbD 1

/-- How many read tags are outstanding. -/
def tagsOut (h : HostFace) : Nat := (h.tags.filter (fun e => e.2.isSome)).length

/-- A free read tag (R436), the lowest; tags whose completions are abandoned are taken last (log 89). -/
def freeTag (h : HostFace) : Option (BitVec 5) :=
  let free := fun (i : Nat) => mget (none : Option TagUse) h.tags i == none
  match (List.range 32).find? (fun i => free i && !h.abandoned.contains (BitVec.ofNat 5 i)) with
  | some i => some (BitVec.ofNat 5 i)
  | none => ((List.range 32).find? free).map (BitVec.ofNat 5)

/-- The face with a read tag set or freed. -/
def setTag (h : HostFace) (tag : BitVec 5) (u : Option TagUse) : HostFace :=
  { h with tags := mset none h.tags tag.toNat u }

/-- The tag held for a use of the face's own. -/
def tagFor (h : HostFace) (u : TagUse) : Option (BitVec 5) :=
  (h.tags.find? (fun e => e.2 == some u)).map fun e => BitVec.ofNat 5 e.1

/-! ## Configuration space (R409, R410; log 17) -/

/-- The greatest link width and generation of a CFG_HOST code (Table 02-4). -/
def hostLimits (c : BitVec 3) : Nat × Nat :=
  match c.toNat with
  | 1 => (1, 1) | 2 => (1, 3) | 3 => (2, 3) | 4 => (4, 2) | 5 => (4, 3) | _ => (0, 0)

/-- Reset values of the configuration dwords that software sets, where they are not zero: Device Control with
Max_Read_Request_Size 512 (Table 11-3), and the AER masks and severities. -/
def cfgReset (d : Nat) : BitVec 32 :=
  match d with
  | 0x1E => 0x00002810
  | 0x42 => 0x00400000
  | 0x43 => 0x00462030
  | 0x45 => 0x0000E000
  | _ => 0

/-- A configuration dword as software has set it. -/
def cfgAt (h : HostFace) (d : Nat) : BitVec 32 := mget 0 h.cfg d ^^^ cfgReset d

/-- The bits of a configuration dword that software sets and that have no behaviour of their own command. -/
def cfgMask (x : Straps) (d : Nat) : BitVec 32 :=
  match d with
  | 0x01 => 0x00000542
  | 0x03 => 0x000000FF
  | 0x04 => 0xFFFF0000
  | 0x06 => 0xFC000000
  | 0x07 => 0xFFFFFFFF
  | 0x0C => if flashOn x then 0xFF000001 else 0
  | 0x0F => 0x000000FF
  | 0x14 => 0x00710000
  | 0x15 => 0xFFFFFFFC
  | 0x16 => 0xFFFFFFFF
  | 0x17 => 0x0000FFFF
  | 0x18 => 0x0000000F
  | 0x1E => 0x000078FF
  | 0x20 => 0x000000CB
  | 0x26 => 0x00000400
  | 0x28 => 0x0000000F
  | 0x42 => 0x07FFF030
  | 0x43 => 0x07FFF030
  | 0x45 => 0x0000F1C1
  | 0x51 => 0x1FFF1FFF
  | _ => 0

/-- The bits of a configuration dword that the device sets (Tables 11-2 and 11-3; log 17). -/
def cfgFixed (x : Straps) (h : HostFace) (d : Nat) : BitVec 32 :=
  let lim := hostLimits x.host
  match d with
  | 0x00 => Config.deviceId ++ Config.vendorId
  | 0x01 => 0x00100000 ||| (if h.bme then 4 else 0)
  | 0x02 => (0x120000 : BitVec 24) ++ Config.revMajor.setWidth 4 ++ Config.revMinor.setWidth 4
  | 0x06 => 0x0000000C
  | 0x0B => Config.deviceId ++ Config.vendorId
  | 0x0D => 0x00000040
  | 0x10 => 0x00035001
  | 0x11 => 0x00000008 ||| (if h.d3hot then 3 else 0)
  | 0x14 => 0x01847005
  | 0x19 => h.msiHeld &&& 0xF
  | 0x1C => 0x00020010
  | 0x1D => 0x10008001
  | 0x1E => if tagsOut h = 0 then 0 else 0x00200000
  | 0x1F => 0x00420800 ||| BitVec.ofNat 32 (16 * lim.1 + lim.2)
  | 0x20 => BitVec.ofNat 32 (0x100000 * h.width.toNat + 0x10000 * h.gen.toNat)
  | 0x25 => 0x00000800
  | 0x27 => BitVec.ofNat 32 (2 ^ (lim.2 + 1) - 2)
  | 0x40 => 0x14020001
  | 0x50 => 0x00010018
  | _ => 0

/-- What a configuration dword reads as: what the device sets, with what software has set. -/
def cfgRead (x : Straps) (h : HostFace) (d : Nat) : BitVec 32 := cfgFixed x h d ||| (cfgAt h d &&& cfgMask x d)

/-- The bits that byte enables select. -/
def enableBits (en : BitVec 4) : BitVec 32 :=
  BitVec.ofNat 32 (leNat ((List.range 4).map fun i => if en.getLsbD i then 0xFF else 0))

/-- MSI Enable. -/
def msiEnable (h : HostFace) : Bool := (cfgAt h 0x14).getLsbD 16
/-- The number of messages that software enabled, at most 4. -/
def msiCount (h : HostFace) : Nat := min 4 (2 ^ ((cfgAt h 0x14).extractLsb' 20 3).toNat)

/-! ## MSI (R429) -/

/-- The face has had something pending since the last boundary (Table 11-14). -/
def markBusy (s : State) : State := { s with host := { s.host with busy := true } }

/-- A message of an event vector is written, or held pending by its mask. -/
def postMsi (s : State) (v : Nat) : State :=
  let h := s.host
  let n := v % msiCount h
  if (cfgAt h 0x18).getLsbD n then { s with host := { h with msiHeld := h.msiHeld ||| (1#32 <<< n) } }
  else markBusy { s with out := .msi (BitVec.ofNat 2 n) :: s.out,
                         host := { h with msiSent := h.msiSent ||| (1#4 <<< v), msis := satAdd h.msis 1 } }

/-- An event vector is due: its message is written, held pending by its mask, or left to the next boundary. -/
def sendMsi (s : State) (v : Nat) : State :=
  let h := s.host
  match h.ring with
  | none => s
  | some g =>
    if !(g.msiEn.getLsbD v && msiEnable h && hostIssues s) then s
    else if h.msiSent.getLsbD v then { s with host := { h with msiOwed := h.msiOwed ||| (1#4 <<< v) } }
    else postMsi s v

/-- Pending messages whose mask has been cleared are written, once the face may issue them. -/
def releaseMsi (s : State) : State :=
  [0, 1, 2, 3].foldl (fun s n =>
    if s.host.msiHeld.getLsbD n && !(cfgAt s.host 0x18).getLsbD n && msiEnable s.host && hostIssues s then
      markBusy { s with out := .msi (BitVec.ofNat 2 n) :: s.out,
                        host := { s.host with msiHeld := s.host.msiHeld &&& ~~~(1#32 <<< n), msis := satAdd s.host.msis 1 } }
    else s) s

/-! ## Requests on the link (R408, R412, R445) -/

/-- Max_Payload_Size as the host has set it, at most 256 bytes (Table 11-1). -/
def maxPayload (h : HostFace) : Nat := if (cfgAt h 0x1E).extractLsb' 5 3 = 0 then 128 else 256

/-- Bytes from an address on, in pieces of at most `size` bytes that end where `size` divides the address; each piece
with how many bytes stand before it. -/
def pieces (size : Nat) : Nat → Nat → Nat → List Byte → List (Nat × List Byte)
  | 0, _, _, _ => []
  | k + 1, a, before, bs =>
    if bs = [] then []
    else
      let n := size - a % size
      (before, bs.take n) :: pieces size k (a + n) (before + n) (bs.drop n)

/-- Bytes written to host memory, in Memory Writes within Max_Payload_Size (Table 11-1). -/
def memWrites (s : State) (a : W64) (bs : List Byte) : State :=
  (pieces (maxPayload s.host) (bs.length + 1) a.toNat 0 bs).foldl
    (fun s p => emit s (.memWrite (a + BitVec.ofNat 64 p.1) p.2)) s

/-- A read of the host completes with bytes from an address on, in completions within Max_Payload_Size that end on
64-byte boundaries; each says whether it carries a byte that is bad (Table 11-1, R433). -/
def completions (s : State) (a : Nat) (bs : List (Byte × Bool)) : State :=
  (pieces (maxPayload s.host) (bs.length + 1) a 0 (bs.map (·.1))).foldl
    (fun s p => emit s (.completion (if ((bs.drop p.1).take p.2.length).any (·.2) then .ep else .ok) p.2)) s

/-- A request that arrives on the link; while no link is up, none does (R411, R600). -/
def onLink (s : State) (serve : Host.Outcome State Fault Refusal) : Host.Outcome State Fault Refusal :=
  if !hostUp s || !s.host.linkUp then .next s else serve

/-- A configuration request: before the face is released and during a Function Level Reset it gets Configuration Request
Retry Status (R412, R445). -/
def configRequest (s : State) (serve : Host.Outcome State Fault Refusal) : Host.Outcome State Fault Refusal :=
  onLink s (if !s.host.released || s.host.flr then .next (emit s .retryStatus) else serve)

/-- A memory write that the face does not claim is reported as an Unsupported Request (R431, R438). -/
def unsupportedWrite (s : State) : State := emit s (.report .unsupportedRequest)

/-! ## Tokens bound for the host (R422, R441) -/

/-- The staging, 8 KiB, has room for tokens (Table 01-6). -/
def stagingRoom (s : State) (n : Nat) : Bool := decide ((s.host.staging.length + n) * 20 ≤ 8192)

/-- Tokens reach the face: they enter the staging, or are discarded and counted while Bus Master Enable is 0 (R441). -/
def hostBound (s : State) (ts : List Token) : State :=
  if s.host.bme then markBusy { s with host := { s.host with staging := s.host.staging ++ ts } }
  else { s with host := { s.host with discards := satAdd s.host.discards ts.length } }

/-! ## The token window (R413 to R419) -/

/-- The bytes of a BAR0 slot. -/
def slotData (h : HostFace) (slot : Nat) : List (Option Byte) :=
  (List.range 32).map fun i => mget none h.bar0 (32 * slot + i)

/-- The token record of a slot when it is complete. -/
def slotRecord (h : HostFace) (slot : Nat) : Option (List Byte) :=
  if (slotData h slot).all Option.isSome then some ((slotData h slot).map (·.getD 0)) else none

/-- The slots that hold at least one byte of a record not taken. -/
def partialSlots (h : HostFace) : Nat := (h.bar0.map (fun e => e.1 / 32)).eraseDups.length

/-- The host may write record `seqNo` now (R417, R419). -/
def recordGranted (h : HostFace) (seqNo : BitVec 32) : Bool :=
  match h.ring with
  | none => !h.bootUsed && seqNo == h.nextSeq
  | some _ =>
    let d := ((h.lastWord.setWidth 32 : BitVec 32) - seqNo).toNat
    1 ≤ d && d ≤ 2 ^ 31

/-- The number of the record that a byte written into a slot belongs to: the next one of that slot (R414). -/
def slotNumber (h : HostFace) (slot : Nat) : BitVec 32 :=
  h.nextSeq + BitVec.ofNat 32 ((slot + 2048 - h.nextSeq.toNat % 2048) % 2048)

/-- The rule that a record breaks, if any: reserved bytes not zero (R414), or a token of KIND fault (R122). -/
def recordBad (bs : List Byte) : Option Nat :=
  if (bs.drop 20).any (· != 0) then some 414
  else if kindOf (tokenOfBytes bs).flags = 1 then some 122
  else none

/-- The face takes complete records in sequence while its buffer of 256 has room (R415); an unpredictable one is
returned by the rule it breaks. -/
def takeRecords : Nat → State → Except Nat State
  | 0, s => .ok s
  | k + 1, s =>
    let h := s.host
    let slot := h.nextSeq.toNat % 2048
    if 256 ≤ (heldOf s isHostEvent).length then .ok s
    else match slotRecord h slot with
    | none => .ok s
    | some bs =>
      match recordBad bs with
      | some n => .error n
      | none =>
        let h1 := { h with nextSeq := h.nextSeq + 1, bootUsed := h.bootUsed || h.ring.isNone,
                           bar0 := h.bar0.filter (fun e => e.1 / 32 != slot) }
        takeRecords k (stampEvent { s with host := h1 } 6 0 (.host (tokenOfBytes bs)))

/-- The outcome of taking records. -/
def takingRecords (s : State) : Host.Outcome State Fault Refusal :=
  match takeRecords 256 s with
  | .ok t => .next t
  | .error n => unpredictable n s

/-- What a record beyond its grant, or a consumed count never granted, leaves (Table 17-4): the host face's records, its
ring and the tokens they carry are lost, duplicated or garbled, and the fabric's other state is as it was (log 90). -/
def garbleRecords (s : State) : State :=
  let a := State.any s.freeCounter
  let h := { s.host with
    bar0 := canonical none a.host.bar0, nextSeq := a.host.nextSeq, admitted := a.host.admitted, limit := a.host.limit,
    lastWord := a.host.lastWord, bootUsed := a.host.bootUsed, ring := a.host.ring, staging := a.host.staging,
    packet := a.host.packet }
  let garbled := (a.host.staging.take 256).map fun t => ({ stamp := s.time.beat, rank := 6, sub := 0, late := false, kind := .host t } : OutEvent)
  bumpFree { s with host := h, time := { s.time with held := s.time.held.filter (fun e => !isHostEvent e.kind) ++ garbled } }

/-- Bytes written from an offset on. -/
def putOptBytes (m : List (Nat × Option Byte)) (a : Nat) : List Byte → List (Nat × Option Byte)
  | [] => m
  | b :: r => putOptBytes (mset none m a (some b)) (a + 1) r

/-- The slots that a write into BAR0 reaches. -/
def slotsWritten (offset n : Nat) : List Nat :=
  ((List.range 2048).filter fun k => decide (offset < 32 * k + 32) && decide (32 * k < offset + n))

/-- A posted write into BAR0 (R414, R433); bytes beyond the window are not in it. A record written beyond its grant is
the error of R449. -/
def execBar0Write (offset : BitVec 16) (data : List (BitVec 8)) (poisoned : Bool) (s : State) :
    Host.Outcome State Fault Refusal :=
  let bs := data.take (0x10000 - offset.toNat)
  onLink s
    (if !hostAnswers s then .next (unsupportedWrite s)
     else if poisoned then .next (emit s (.report .poisoned))
     else if (slotsWritten offset.toNat bs.length).any (fun k => !recordGranted s.host (slotNumber s.host k)) then
       .next (garbleRecords s)
     else takingRecords { s with host := { s.host with bar0 := putOptBytes s.host.bar0 offset.toNat bs } })

/-- A read of BAR0 (R416). -/
def execBar0Read (offset : BitVec 16) (len : Nat) (s : State) : Host.Outcome State Fault Refusal :=
  onLink s
    (if !hostAnswers s then .next (emit s (.completion .ur []))
     else .next (completions s offset.toNat (List.replicate (min len (0x10000 - offset.toNat)) (0, false))))

/-! ## The memory window (R430 to R433) -/

/-- The fabric address of an offset in BAR2/3 for an access of `len` bytes, with RDONLY; `none` on a miss (R431). The
fabric is not there before fabric up and in TENDING (R571, R600). -/
def windowAddr (s : State) (offset : BitVec 26) (len : Nat) : Option (Addr × Bool) :=
  let w := mget 0 s.host.inb (offset.toNat / 0x400000)
  let o := offset.toNat % 0x400000
  let size := 2 ^ (w.extractLsb' 56 5).toNat
  if s.pwr.fabricUp && w.getLsbD 63 && decide (o + len ≤ size) then
    some ((w.extractLsb' 16 32 : BitVec 32).setWidth 48 <<< 16 + BitVec.ofNat 48 o, w.getLsbD 62)
  else none

/-- A request through BAR2/3 that misses is counted (R431). -/
def countMiss (s : State) : State := { s with host := { s.host with misses := satAdd s.host.misses 1 } }

/-- The number of words that `len` bytes from an address span. -/
def wordsSpanned (a : Addr) (len : Nat) : Nat := (a.toNat % 8 + len + 7) / 8

/-- The read requests of a host read (R432): one for each word, named by the read's number and the word's place. -/
def hostReadFlits (s : State) (a : Addr) (len : Nat) : List Flit :=
  (List.range (wordsSpanned a len)).map fun i =>
    mkFlit s 0 2 .host (.read (BitVec.ofNat 48 (a.toNat / 8 * 8 + 8 * i)) .host
      (BitVec.ofNat 64 (s.host.readNo * 1024 + i)))

/-- The offers of flits that one block makes in order. -/
def offersOf (fs : List Flit) : List Offer := fs.map fun f => ⟨0, none, f⟩

/-- A host read through BAR2/3 (R431), of at most 4096 bytes (Table 11-1). -/
def execBar23Read (offset : BitVec 26) (len : Nat) (s : State) : Host.Outcome State Fault Refusal :=
  let n := min len 4096
  onLink s
    (if !hostAnswers s then .next (emit s (.completion .ur []))
     else match windowAddr s offset n with
     | none => .next (emit (countMiss s) (.completion .ur []))
     | some (a, _) =>
       let h := { s.host with reads := s.host.reads ++ [⟨s.host.readNo, a, n, []⟩], readNo := s.host.readNo + 1 }
       .next (produceAll { s with host := h } 0 true (offersOf (hostReadFlits s a n))))

/-- Bytes from a byte offset in a word on, as one word with its mask. -/
def placeInWord (o : Nat) (bs : List Byte) : BitVec 8 × W64 :=
  (BitVec.ofNat 8 ((2 ^ bs.length - 1) * 2 ^ o), BitVec.ofNat 64 (leNat bs * 256 ^ o))

/-- A write split at word boundaries (R329). -/
def splitWrite : Nat → Addr → List Byte → List (Addr × BitVec 8 × W64)
  | 0, _, _ => []
  | k + 1, a, bs =>
    if bs = [] then []
    else
      let o := a.toNat % 8
      let n := 8 - o
      let p := placeInWord o (bs.take n)
      (BitVec.ofNat 48 (a.toNat / 8 * 8), p.1, p.2) :: splitWrite k (a + BitVec.ofNat 48 n) (bs.drop n)

/-- The write requests of a host write (R329). -/
def hostWriteFlits (s : State) (a : Addr) (bs : List Byte) : List Flit :=
  (splitWrite (bs.length + 1) a bs).map fun w => mkFlit s 0 2 .host (.write w.1 w.2.1 w.2.2 .host 0)

/-- A host write through BAR2/3 (R431, R433). -/
def execBar23Write (offset : BitVec 26) (data : List (BitVec 8)) (poisoned : Bool) (s : State) :
    Host.Outcome State Fault Refusal :=
  onLink s
    (if !hostAnswers s then .next (unsupportedWrite s)
     else if poisoned then .next (emit s (.report .poisoned))
     else match windowAddr s offset data.length with
     | none => .next (unsupportedWrite (countMiss s))
     | some (a, rdonly) =>
       if rdonly || rangeOf a == .flash then .next (countMiss s)
       else .next (produceAll s 0 true (offersOf (hostWriteFlits s a data))))

/-- A write to the expansion ROM window is accepted and discarded (R49). -/
def execExpansionRomWrite (_offset : BitVec 24) (_data : List (BitVec 8)) (s : State) :
    Host.Outcome State Fault Refusal := .next s

/-- The expansion ROM window is open: its enable bit and Memory Space Enable are both 1 (R434). -/
def romOpen (s : State) : Bool := hostAnswers s && (cfgAt s.host 0x0C).getLsbD 0

/-- A byte of a host read, and whether it stands in a word with an error: such a byte is left open (R433), so a free
value stands for it. -/
def readByteAt (s : State) (r : HostRead) (i : Nat) : Byte × Bool :=
  let o := r.addr.toNat % 8 + i
  let w := mget ((0 : W64), false) r.words (o / 8)
  (if w.2 then (Config.freeValue (s.freeCounter + i)).setWidth 8 else BitVec.ofNat 8 (w.1.toNat / 256 ^ (o % 8)), w.2)

/-- A word of a host read arrives at tile 0 (R432): when it is the last, the completions go to the host. -/
def hostWordArrives (s : State) (id v : W64) (bad : Bool) : State :=
  match s.host.reads.find? (fun r => r.number == id.toNat / 1024) with
  | none => s
  | some r =>
    let r1 := { r with words := minsert (id.toNat % 1024) (v, bad) (mdrop (id.toNat % 1024) r.words) }
    if r1.words.length = wordsSpanned r.addr r.len then
      completions { s with host := { s.host with reads := s.host.reads.erase r }, freeCounter := s.freeCounter + r.len }
        r.addr.toNat ((List.range r.len).map (readByteAt s r1))
    else { s with host := { s.host with reads := s.host.reads.map (fun x => if x = r then r1 else x) } }

/-- Two inbound entries map overlapping ranges (R454). -/
def overlap (x y : W64) : Bool :=
  let b := fun (w : W64) => (w.extractLsb' 16 32 : BitVec 32).toNat * 65536
  let e := fun (w : W64) => b w + 2 ^ (w.extractLsb' 56 5).toNat
  x.getLsbD 63 && y.getLsbD 63 && decide (b x < e y) && decide (b y < e x)

/-- An inbound entry word breaks a rule of R430. -/
def xlateInBad (w : W64) : Bool :=
  let lg := (w.extractLsb' 56 5).toNat
  let base := (w.extractLsb' 16 32 : BitVec 32).toNat * 65536
  let last := base + 2 ^ lg - 1
  w.getLsbD 61 || w.extractLsb' 48 8 != 0 || w.extractLsb' 0 16 != 0 || decide (lg < 16) || decide (22 < lg) ||
    base % 2 ^ lg != 0 ||
    (rangeOf (BitVec.ofNat 48 base) != rangeOf (BitVec.ofNat 48 last)) ||
    !([Range.bank, Range.keep, Range.flash].contains (rangeOf (BitVec.ofNat 48 base)))

/-- An address lies in the range of a valid inbound entry. -/
def inEntry (w : W64) (a : Addr) : Bool :=
  let base := (w.extractLsb' 16 32 : BitVec 32).toNat * 65536
  w.getLsbD 63 && decide (base ≤ a.toNat) && decide (a.toNat < base + 2 ^ (w.extractLsb' 56 5).toNat)

/-- A flit carries a host write through an inbound entry. -/
def writesThrough (w : W64) (f : Flit) : Bool :=
  match f.msg with
  | .write a _ _ .host _ => inEntry w a
  | _ => false

/-- A host request through an inbound entry is in flight (R454). -/
def inbInUse (s : State) (w : W64) : Bool :=
  s.host.reads.any (fun r => inEntry w r.addr) || s.weave.anyFlit (writesThrough w)

/-- XLATE_IN (R430). With PD6 unpowered there is no entry to set, and the status is left open (log 18). -/
def execXlateIn (s : State) : Host.Outcome State Fault Refusal :=
  takeRequest s (· == 0x00B) fun s t r =>
    let e := t.cell.toNat
    let old := mget 0 s.host.inb e
    if 16 ≤ e || xlateInBad t.value then .next (answer s r stArgument [])
    else if !hostUp s then .next (answer (bumpFree s) r (if (freeNow s).getLsbD 0 then stOk else stRefused) [])
    else if inbInUse s old then unpredictable 454 s
    else if (List.range 16).any (fun i => i != e && overlap t.value (mget 0 s.host.inb i)) then unpredictable 454 s
    else .next (answer { s with host := { s.host with inb := mset 0 s.host.inb e t.value } } r stOk [])

/-! ## Outbound translation (R330, R435) -/

/-- The host address of a fabric address in host memory; `none` on a miss (R330). -/
def xlate (h : HostFace) (a : Addr) : Option W64 :=
  let w := mget 0 h.outb (a.extractLsb' 43 4).toNat
  let o := (a.extractLsb' 0 43).toNat
  if w.getLsbD 11 && decide (o < 2 ^ (w.extractLsb' 0 6).toNat) then
    some ((w.extractLsb' 12 52 : BitVec 52).setWidth 64 <<< 12 + BitVec.ofNat 64 o)
  else none

/-- The fabric address that a read tag is held for. -/
def tagAddr : TagUse → Option Addr
  | .read a _ _ _ => some a
  | .iread q _ => some q.addr
  | _ => none

/-- A read through an outbound entry is in flight (R454): one that has left the face under a tag. A request that has not
been translated yet has not gone through the entry (log 89). -/
def outbInUse (h : HostFace) (e : Nat) : Bool :=
  h.tags.any fun t => match t.2.bind tagAddr with | some a => (a.extractLsb' 43 4).toNat == e | none => false

/-- XLATE_OUT (R435). -/
def execXlateOut (s : State) : Host.Outcome State Fault Refusal :=
  takeRequest s (· == 0x00C) fun s t r =>
    let e := t.cell.toNat
    let lg := (t.value.extractLsb' 0 6).toNat
    if 16 ≤ e || t.value.extractLsb' 6 5 != 0 || decide (lg < 12) || decide (43 < lg) then .next (answer s r stArgument [])
    else if !hostUp s then .next (answer (bumpFree s) r (if (freeNow s).getLsbD 0 then stOk else stRefused) [])
    else if outbInUse s.host e then unpredictable 454 s
    else .next (answer { s with host := { s.host with outb := mset 0 s.host.outb e t.value } } r stOk [])

/-! ## Requests from the fabric (R436, R437) -/

/-- A request to host memory. -/
def isHostReq (f : Flit) : Bool :=
  match f.msg with
  | .read _ _ _ => true
  | .write _ _ _ _ _ => true
  | .iread _ => true
  | .iwrite _ _ _ _ => true
  | .iclear _ _ => true
  | _ => false

/-- The bytes that a read asks for. -/
def readLen : ReadFor → Nat
  | .load r => 2 ^ r.size.toNat
  | .table _ _ => 4
  | _ => 8

/-- The place of the host face. -/
def hostPlace : Place := .extra 0

/-- A store that fails at the face: its report (R437). -/
def storeFails (s : State) (a : Addr) (mask : BitVec 8) (wf : WriteFor) (tag0 : W64) (code : BitVec 8) : State :=
  match wf with
  | .host => s
  | _ => firingReport s tag0 code (writeAccess wf mask) a

/-- A request to host memory fails at the face (R229, R250, R317, R437). -/
def hostReqFails (s : State) (f : Flit) (code : BitVec 8) : State :=
  match f.msg with
  | .read a rf tag0 => answerRead s hostPlace f.pri a rf tag0 a (.error code)
  | .write a mask _ wf tag0 => storeFails s a mask wf tag0 code
  | .iread q => answerIread s hostPlace f.pri q (.error code)
  | .iwrite _ _ (some e) tag0 => resolveElement s hostPlace e true tag0 code
  | .iwrite a _ none tag0 => firingReport s tag0 code (if code = fTranslation then 0x4 else 0x2) a
  | _ => s

/-- The address of a request. -/
def reqAddr : Msg → Addr
  | .read a _ _ => a
  | .write a _ _ _ _ => a
  | .iread q => q.addr
  | .iwrite a _ _ _ => a
  | .iclear a _ => a
  | _ => 0

/-- The bytes that a mask selects of a word, from the lowest one on, and the lowest one's place. -/
def maskedBytes (mask : BitVec 8) (v : W64) : Nat × List Byte :=
  let sel := (List.range 8).filter (fun i => mask.getLsbD i)
  (sel.headD 0, sel.map fun i => BitVec.ofNat 8 (v.toNat / 256 ^ i))

/-- A Memory Read of a fabric request is sent under a tag (R436). -/
def sendRead (s : State) (tag : BitVec 5) (u : TagUse) (ha : W64) (len : Nat) : State :=
  emit { s with host := { setTag s.host tag (some u) with busy := true } } (.memRead tag ha len)

/-- A translated request to host memory becomes a PCI Express request; `none` while all tags are taken (R436). ICLEAR has
no effect there (R227). -/
def hostIssue (s : State) (f : Flit) (ha : W64) : Option State :=
  match f.msg with
  | .read a rf tag0 => (freeTag s.host).map fun tag => sendRead s tag (.read a rf tag0 f.pri) ha (readLen rf)
  | .iread q => (freeTag s.host).map fun tag => sendRead s tag (.iread q f.pri) ha 8
  | .write a mask v _ _ =>
    let m := maskedBytes mask v
    some (emit s (.memWrite (ha - BitVec.ofNat 64 (a.toNat % 8) + BitVec.ofNat 64 m.1) m.2))
  | .iwrite _ v e tag0 =>
    let s1 := emit s (.memWrite ha (leBytes 8 v.toNat))
    some (match e with | some e => resolveElement s1 hostPlace e true tag0 0 | none => s1)
  | _ => some s

/-- A request to host memory leaves tile 0 (R330, R436, R437). ICLEAR has no effect outside bank memory (R227). While the
face may issue nothing, the request fails with HOST_OFF and is not translated (log 89). -/
def execHostRequestIssue (s : State) : Host.Outcome State Fault Refusal :=
  if !tileUp s 0 then .next s
  else match takeHead s.weave 0 true 1 isHostReq isHostReq with
  | none => .refused .nothingWaiting
  | some f =>
    let s1 := taken s 0 true f
    match f.msg with
    | .iclear _ _ => .next s1
    | m =>
      if !hostIssues s then .next (hostReqFails s1 f fHostOff)
      else match xlate s.host (reqAddr m) with
      | none => .next (hostReqFails { s1 with host := { s1.host with tmisses := satAdd s1.host.tmisses 1 } } f fTranslation)
      | some ha => match hostIssue s1 f ha with
        | some t => .next t
        | none => .next s

/-- A read that a tag is held for is answered (R437). -/
def answerTag (s : State) (u : TagUse) (r : Except (BitVec 8) W64) : State :=
  match u with
  | .read a rf tag0 pri =>
    answerRead s hostPlace pri a rf tag0 a (r.map fun (v : W64) => (v <<< (8 * (a.toNat % 8)) : W64))
  | .iread q pri => answerIread s hostPlace pri q r
  | _ => s

/-- What the link reports of a completion that has failed (Table 11-13). -/
def reportOf : CplStatus → List Out
  | .ok => []
  | .ur => [.report .receivedUr]
  | .ca => [.report .receivedCa]
  | .ep => [.report .poisoned]

/-- The state after a completion that may have failed: it is counted and reported (Table 11-13). -/
def completionState (s : State) (status : CplStatus) : State :=
  { s with out := reportOf status ++ s.out
           host := { s.host with errors := satIf (status != .ok) s.host.errors } }

/-- A completion arrives (Table 11-13). One that matches no tag is discarded: without report and counted where its tag was
abandoned, else as an Unexpected Completion. Those of the face's own reads have commands of their own. -/
def execHostCompletion (tag : BitVec 5) (status : CplStatus) (data : BitVec 64) (s : State) :
    Host.Outcome State Fault Refusal :=
  onLink s
    (match mget none s.host.tags tag.toNat with
     | none =>
       if s.host.abandoned.contains tag then
         .next { s with host := { s.host with abandoned := s.host.abandoned.erase tag, strays := satAdd s.host.strays 1 } }
       else .next (emit s (.report .unexpectedCompletion))
     | some .params => .refused .wrongPhase
     | some .consumed => .refused .wrongPhase
     | some u =>
       let s1 := completionState { s with host := setTag s.host tag none } status
       .next (answerTag s1 u (if status = .ok then .ok data else .error fHostError)))

/-! ## The host ring (R420 to R428) -/

/-- The rules of Table 11-6. -/
def paramsBad (bs : List Byte) : Bool :=
  let w := fun (i : Nat) => BitVec.ofNat 64 (leNat ((bs.drop (8 * i)).take 8))
  let lg := ((w 1).extractLsb' 0 5).toNat
  (w 0).extractLsb' 0 12 != 0 || (w 1).extractLsb' 12 52 != 0 || (w 1).extractLsb' 5 3 != 0 ||
    decide (lg < 16) || decide (24 < lg) || (w 2).extractLsb' 0 3 != 0 || (w 3).extractLsb' 0 3 != 0 ||
    (bs.drop 32).any (· != 0)

/-- The ring that a parameter block describes (R421). -/
def ringOf (bs : List Byte) : Ring :=
  let w := fun (i : Nat) => BitVec.ofNat 64 (leNat ((bs.drop (8 * i)).take 8))
  { base := w 0, log2 := (w 1).extractLsb' 0 5, msiEn := (w 1).extractLsb' 8 4, credit := w 2, consumAt := w 3,
    produced := 0, consumed := 0, seq := 0, ends := [], asking := false, opened := false, firsts := 0 }

/-- An attachment that fails is answered, and the bootstrap allowance is restored (R420, R450). -/
def attachFails (s : State) (r : Req) (status : BitVec 8) : State :=
  answer (bootAgain { s with stw := { s.stw with attach := none } }) r status []

/-- ATTACH_RING (R420): the face reads the parameter block, once a tag is free. -/
def execAttachRing (s : State) : Host.Outcome State Fault Refusal :=
  takeRequest s (· == 0x009) fun s1 t r =>
    if t.cell ≠ 0 then .next (answer (bootAgain s1) r stArgument [])
    else if s.host.ring.isSome then .next (answer s1 r stRefused [])
    else if s.stw.attach.isSome then .next s
    else if !hostIssues s then .next (attachFails s1 r stRefused)
    else match freeTag s.host with
    | none => .next s
    | some tag => .next (sendRead { s1 with stw := { s1.stw with attach := some r } } tag .params t.value 64)

/-- The ring opens for packets: what waits in the staging goes first (R421, R450). -/
def openRing (s : State) : State :=
  { s with host := { s.host with ring := s.host.ring.map fun g => { g with opened := true, firsts := s.host.staging.length } } }

/-- A ring is attached and its request answered; packets start once the answer has reached the face, where it goes there
(R421). -/
def attachRing (s : State) (r : Req) (g : Ring) : State :=
  let s1 := answer { s with stw := { s.stw with attach := none }
                            host := { s.host with ring := some g, bootUsed := false, lastWord := 0 } } r stOk []
  if r.origin == .host then s1 else openRing s1

/-- The answer to ATTACH_RING reaches the face: the ring opens (R421). -/
def afterAttach (s : State) (t : Token) : State :=
  if t.context == 0 && t.flow == 0x009 then
    (match s.host.ring with | some g => if g.opened then s else openRing s | none => s)
  else s

/-- The read of a parameter block ends (R420, R421). A completion of another length than 64 bytes is no successful one
(log 89). -/
def execRingParamsReadDone (status : CplStatus) (data : List (BitVec 8)) (s : State) : Host.Outcome State Fault Refusal :=
  if !hostUp s || !stewardUp s then .next s
  else match tagFor s.host .params, s.stw.attach with
  | some tag, some r =>
    let s1 := completionState { s with host := setTag s.host tag none } status
    if status ≠ .ok ∨ data.length ≠ 64 then .next (attachFails s1 r stRefused)
    else if paramsBad data then .next (attachFails s1 r stArgument)
    else .next (attachRing s1 r (ringOf data))
  | _, _ => .refused .nothingWaiting

/-- DETACH_RING (R422): the answer is the ring's last packet. Without a ring its status is left open (log 18). -/
def execDetachRing (s : State) : Host.Outcome State Fault Refusal :=
  takeRequest s (· == 0x00A) fun s1 t r =>
    if t.cell ≠ 0 ∨ t.value ≠ 0 then .next (answer s1 r stArgument [])
    else if s.host.ring.isNone then
      .next (answer (bumpFree s1) r (if (freeNow s).getLsbD 0 then stOk else stRefused) [])
    else if s.stw.detach.isSome then .next s
    else .next { s1 with stw := { s1.stw with detach := some r } }

/-- Bytes of a ring of size S that a packet of a length occupies (R425). -/
def packetSpan (length : Nat) : Nat := (length + 31) / 32 * 32

/-- The ring has room for a packet (R425). -/
def ringRoom (g : Ring) (length : Nat) : Bool :=
  decide (packetSpan length + 32 ≤ 2 ^ g.log2.toNat - (g.produced - g.consumed).toNat)

/-- A packet's bytes with its final length word (Tables 11-7 and 11-9). -/
def packetBytes (s : State) (g : Ring) (type : Byte) (count : Nat) (payload : List Byte) : List Byte :=
  leBytes 4 (16 + payload.length) ++ [type, 0] ++ leBytes 2 count ++ leBytes 4 g.seq.toNat ++
    leBytes 4 (s.time.beat.toNat % 2 ^ 32) ++ payload

/-- A token of KIND fault or system. -/
def urgentToken (t : Token) : Bool := kindOf t.flags == 1 || kindOf t.flags == 3

/-- A TOKENS packet of tokens (R424). -/
def tokensPacket (s : State) (g : Ring) (ts : List Token) (last : Bool) : Packet :=
  ⟨false, packetBytes s g 1 ts.length (ts.flatMap tokenBytes), 0, ts.any urgentToken, last, false⟩

/-- A dump to the host sink waits for its packet. -/
def hostDump (s : State) : Option (List Byte) :=
  match s.tab.dump, s.tab.held with
  | some d, some bs => if d.sink = 1 ∧ d.pos = 0 then some bs else none
  | _, _ => none

/-- A TOKENS packet is started with the tokens present in the staging (R424). -/
def startTokens (s : State) (g : Ring) : Packet × State :=
  (tokensPacket s g (s.host.staging.take 32) false,
   { s with host := { s.host with staging := s.host.staging.drop 32, ring := some { g with firsts := g.firsts - 32 } } })

/-- A DUMP packet is started (R424). -/
def startDump (s : State) (g : Ring) (bs : List Byte) : Packet × State :=
  (⟨true, packetBytes s g 2 0 bs, 0, true, false, false⟩,
   { s with tab := { s.tab with dump := s.tab.dump.map fun d => { d with pos := bs.length } } })

/-- The last packet of a ring that DETACH_RING came for from the host: its answer (R422). -/
def lastPacket (s : State) (g : Ring) (r : Req) : Packet :=
  tokensPacket s g [faceAnswer s r.serial r.code (statusWord stOk 0)] true

/-- An answer of an earlier request of the host has not left: it is not made yet, on its way to the face, or in the
staging (R164). -/
def answersAhead (s : State) (r : Req) : Bool :=
  !mayLeave s ⟨r, stOk, []⟩ || s.weave.anyFlit (fun f => isAnswer f && f.origin == .host) ||
    s.host.staging.any (fun t => t.context == 0)

/-- The packet to start next, with the state after it has been started: the last one of a ring to be detached, a TOKENS
packet, or a DUMP packet; which of the last two goes first is left open (log 19), once what waited for the ring has gone
(R450). -/
def nextPacket (s : State) (g : Ring) : Option (Packet × State) :=
  let detaching := match s.stw.detach with | some r => if answersAhead s r then none else some r | none => none
  let tokens := if s.host.staging = [] then none else some (startTokens s g)
  if !g.opened then none
  else match detaching with
  | some r => some (lastPacket s g r, s)
  | none => match hostDump s with
    | none => tokens
    | some bs =>
      if s.host.staging ≠ [] ∧ 0 < g.firsts then tokens
      else if s.host.staging ≠ [] ∧ (freeNow s).getLsbD 0 then some (startTokens (bumpFree s) g)
      else some (startDump (bumpFree s) g bs)

/-- The face asks for the consumed word; without a free tag, at the next boundary (R425). -/
def askConsumed (s : State) (g : Ring) : State :=
  match tagFor s.host .consumed, freeTag s.host with
  | none, some tag =>
    sendRead { s with host := { s.host with ring := some { g with asking := true } } } tag .consumed g.consumAt 8
  | _, _ => { s with host := { s.host with ring := some { g with asking := true } } }

/-- A ring whose DETACH_RING came from elsewhere than the host is detached once no packet is in progress; the answer goes
where R142 sends it. -/
def detachNow (s : State) (r : Req) : State :=
  answer { s with stw := { s.stw with detach := none }, host := { s.host with ring := none, bootUsed := false } } r stOk []

/-- The next packet wants more room than the ring has (R425). -/
def roomWanted (s : State) (g : Ring) : Bool :=
  match nextPacket s g with
  | some (p, _) => s.host.packet.isNone && !ringRoom g p.bytes.length
  | none => false

/-- A DETACH_RING came from elsewhere than the host. -/
def detachAway (s : State) : Option Req := s.stw.detach.filter (fun r => r.origin != .host)

/-- A packet is started when the ring has room; else the consumed word is read, now and at each boundary (R424, R425). A
packet that was cut waits for R442. -/
def execRingPacketStart (s : State) : Host.Outcome State Fault Refusal :=
  if !hostIssues s then .next s
  else match s.host.ring, s.host.packet with
  | some g, none =>
    (match detachAway s with
     | some r => .next (detachNow s r)
     | none => match nextPacket s g with
       | none => .refused .nothingWaiting
       | some (p, s1) =>
         if ringRoom g p.bytes.length then
           .next (markBusy { s1 with host := { s1.host with
             packet := some p, ring := s1.host.ring.map fun g => { g with asking := false } } })
         else .next (if g.asking then s else askConsumed s g))
  | _, _ => .refused .wrongPhase

/-- Bytes written at a ring offset, split where the ring ends (R425). -/
def ringWrite (s : State) (g : Ring) (at' : Nat) (bs : List Byte) : State :=
  let size := 2 ^ g.log2.toNat
  let o := at' % size
  memWrites (memWrites s (g.base + BitVec.ofNat 64 o) (bs.take (size - o))) g.base (bs.drop (size - o))

/-- A packet's bytes from a place on, with the provisional length words, each after the bytes it covers (R427). -/
def writeBody (s : State) (g : Ring) (p : Packet) : Nat → Nat → State
  | 0, _ => s
  | k + 1, from' =>
    let start := g.produced.toNat
    let upTo := min ((from' / 1024 + 1) * 1024) p.bytes.length
    let lo := max from' 4
    let s1 := if lo < upTo then ringWrite s g (start + lo) ((p.bytes.take upTo).drop lo) else s
    if p.bytes.length ≤ upTo then s1
    else writeBody (sendMsi (ringWrite s1 g start (leBytes 4 (upTo + 2 ^ 31))) 1) g p k upTo

/-- The end of a packet (R426): terminator, length word, MSI; the produced count advances. -/
def endPacket (s : State) (g : Ring) (length : Nat) (truncated urgent : Bool) : State :=
  let start := g.produced.toNat
  let s1 := ringWrite s g (start + packetSpan length) [0, 0, 0, 0]
  let s2 := ringWrite s1 g start (leBytes 4 (length + (if truncated then 2 ^ 30 else 0)))
  let s3 := sendMsi s2 (if truncated || urgent then 3 else 0)
  { s3 with host := { s3.host with
      packet := none, busy := true,
      ring := some { g with produced := g.produced + BitVec.ofNat 64 (packetSpan length), seq := g.seq + 1
                            ends := g.ends ++ [g.produced + BitVec.ofNat 64 (packetSpan length)] } } }

/-- The rest of a packet, from where the face stopped on. -/
def writeRest (s : State) (g : Ring) (p : Packet) : State :=
  let s1 := if p.written ≠ 0 ∧ p.written % 1024 = 0
    then sendMsi (ringWrite s g g.produced.toNat (leBytes 4 (p.written + 2 ^ 31))) 1 else s
  writeBody s1 g p (p.bytes.length / 1024 + 1) p.written

/-- A packet is completed (R426, R427). A DUMP packet is completed once the collector has handed over its last byte. A
detached ring ends with its last packet (R422). -/
def execRingPacketComplete (s : State) : Host.Outcome State Fault Refusal :=
  if !hostIssues s then .next s
  else match s.host.ring, s.host.packet with
  | some g, some p =>
    if p.cut || (p.dump && s.tab.dump.isSome) then .next s
    else
      let s1 := endPacket (writeRest s g p) g p.bytes.length false (p.dump || p.urgent)
      if p.last then
        .next (flushAnswers { s1 with stw := { s1.stw with detach := none },
                                      host := { s1.host with ring := none, bootUsed := false } })
      else .next s1
  | _, _ => .refused .nothingWaiting

/-- The packets' ends that follow a consumed count: none when it is no packet's end. -/
def endsAfter (v : W64) : List W64 → Option (List W64)
  | [] => none
  | e :: r => if e = v then some r else endsAfter v r

/-- The ends that stand after the consumed word has been read (R428): a count that is neither the old one nor a
packet's end was never granted. -/
def consumedTo (g : Ring) (v : W64) : Option (List W64) := if v = g.consumed then some g.ends else endsAfter v g.ends

/-- The read of the consumed word completes (R425, R428). -/
def execConsumedWordRead (status : CplStatus) (value : BitVec 64) (s : State) : Host.Outcome State Fault Refusal :=
  onLink s
    (match tagFor s.host .consumed with
     | none => .refused .nothingWaiting
     | some tag =>
       let s1 := completionState { s with host := setTag s.host tag none } status
       match s.host.ring with
       | none => .next s1
       | some g =>
         if status ≠ .ok then .next s1
         else match consumedTo g value with
         | none => .next (garbleRecords s1)
         | some es => .next { s1 with host := { s1.host with ring := some { g with consumed := value, ends := es } } })

/-! ## Bus Master Enable (R441, R442) -/

/-- The HOST_OFF notice (Table 11-15). -/
def hostOff (s : State) (cause : BitVec 2) : State :=
  postNotice s 0x082 ((BitVec.ofNat 8 (tagsOut s.host) ++ (0 : BitVec 6) ++ cause : BitVec 16).setWidth 64)

/-- How far a packet in progress has been written when the face stops: the commands do not say, so it is left free. One
more than its bytes stands for its terminator (R453). -/
def writtenSoFar (s : State) (p : Packet) : Nat :=
  p.written + (freeNow s).toNat % (p.bytes.length + 2 - p.written)

/-- A packet in progress stops, if the face could issue until then: the bytes issued by then stand in the ring. -/
def stopPacket (s : State) : State :=
  match s.host.packet, s.host.ring with
  | some p, some g =>
    if hostIssues s && !p.cut then
      let n := min (writtenSoFar s p) p.bytes.length
      let s1 := bumpFree (writeBody s g { p with bytes := p.bytes.take n } (n / 1024 + 1) p.written)
      let s2 := { s1 with host := { s1.host with packet := some { p with written := n } } }
      if p.bytes.length < writtenSoFar s p then
        ringWrite s2 g (g.produced.toNat + packetSpan p.bytes.length) [0, 0, 0, 0]
      else s2
    else s
  | _, _ => s

/-- Tokens in the staging are discarded and counted (R441). -/
def dropStaging (h : HostFace) : HostFace :=
  { h with staging := [], discards := satAdd h.discards h.staging.length }

/-- Dump bytes that the host face discards (R441). In what unit the face's own count takes them is left open: at least
once, at most once a byte. -/
def discardDump (s : State) (n : Nat) : State :=
  if n = 0 then s
  else
    let k := (freeNow s).toNat % n + 1
    bumpFree { s with tab := { s.tab with discarded := satAdd s.tab.discarded n }
                      host := { s.host with discards := satAdd s.host.discards k } }

/-- Dump bytes of the packet that has been stopped that it will not carry. -/
def cutDump (p : Packet) : Nat := if p.dump then p.bytes.length - p.written else 0

/-- Tokens of the packet that has been stopped that it will not carry whole (R424, R441). -/
def cutTokens (p : Packet) : Nat := if p.dump then 0 else (p.bytes.length - 16) / 20 - (p.written - 16) / 20

/-- The packet in progress ends early: the tokens and dump bytes that it will not carry are discarded and counted (R42,
R441, R647). -/
def cutPacket (s : State) : State :=
  let t := stopPacket s
  match t.host.packet with
  | none => t
  | some p =>
    if p.cut then t
    else discardDump { t with host := { t.host with packet := some { p with cut := true }
                                                    discards := satAdd t.host.discards (cutTokens p) } } (cutDump p)

/-- The host clears Bus Master Enable (R441). -/
def execBusMasterDisable (s : State) : Host.Outcome State Fault Refusal :=
  configRequest s
    (if !s.host.bme then .next s
     else
       let s1 := hostOff (cutPacket s) 1
       .next { s1 with host := { dropStaging s1.host with bme := false } })

/-- The face goes on after Bus Master Enable has been set, with a ring still attached: it closes a packet that was cut,
and the steward says so (R442). -/
def resumeRing (s : State) : State :=
  match s.host.ring with
  | none => s
  | some g =>
    hostOff (match s.host.packet with
             | some p => if p.cut then endPacket s g p.written true true else s
             | none => s) 0

/-- The host sets Bus Master Enable (R442). In D3hot the face goes on only once the function is back in D0 (log 89). -/
def execBusMasterEnable (s : State) : Host.Outcome State Fault Refusal :=
  configRequest s
    (let s1 := { s with host := { s.host with bme := true } }
     if s.host.bme then .next s
     else if s.host.d3hot then .next s1
     else .next (resumeRing (releaseMsi s1)))

/-- A packet was cut and the face has not gone on since. -/
def packetCut (h : HostFace) : Bool := match h.packet with | some p => p.cut | none => false

/-! ## Power management (R438) -/

/-- The function enters D3hot (R438). -/
def execD3hotEntry (s : State) : Host.Outcome State Fault Refusal :=
  configRequest s
    (if s.host.d3hot then .next s
     else
       let s1 := stopPacket s
       .next (hostOff { s1 with host := { s1.host with d3hot := true } } 2))

/-- The function returns to D0 (R438). Where Bus Master Enable was set in D3hot over a packet that had been cut, the face
now closes it as R442 states (log 89). -/
def execD0Return (s : State) : Host.Outcome State Fault Refusal :=
  configRequest s
    (let s1 := releaseMsi { s with host := { s.host with d3hot := false } }
     if !s.host.d3hot then .next s
     else if s.host.bme && packetCut s.host then .next (resumeRing s1)
     else .next s1)

/-- A TLP is pending at the face in one direction or the other. -/
def tlpPending (h : HostFace) : Bool :=
  h.packet.isSome || (h.ring.isSome && h.staging != []) || h.msiOwed != 0 || h.reads != [] || decide (0 < tagsOut h)

/-- The face requests L1 after 8.192 µs with nothing pending (R440). -/
def execAspmL1Entry (s : State) : Host.Outcome State Fault Refusal :=
  if !hostUp s || !s.host.linkUp then .next s
  else if (cfgAt s.host 0x20).getLsbD 1 && !tlpPending s.host then .next (emit s .l1)
  else .refused .wrongPhase

/-! ## Resets of the face (R444 to R446) -/

/-- The HOST_RESET notice (Table 11-17). -/
def hostResetNotice (s : State) (records reads : Nat) (cause : BitVec 2) : State :=
  postNotice s 0x083 ((BitVec.ofNat 8 (min 255 records) ++ BitVec.ofNat 8 reads ++ (0 : BitVec 6) ++ cause :
    BitVec 24).setWidth 64)

/-- Every read that a tag is held for fails with HOST_OFF (R444). -/
def abandonReads (s : State) : List (Nat × Option TagUse) → State
  | [] => s
  | (_, some u) :: r => abandonReads (answerTag s u (.error fHostOff)) r
  | (_, none) :: r => abandonReads s r

/-- The face after a reset: the counts, the link and the outbound entries stand (R444). -/
def hostCleared (h : HostFace) : HostFace :=
  { dropStaging h with
    d3hot := false, bme := false, cfg := [], bar0 := [], nextSeq := 0, admitted := 0, limit := 0, lastWord := 0,
    bootUsed := false, ring := none, packet := none,
    abandoned := h.abandoned ++ (h.tags.filter (fun e => e.2.isSome)).map (fun e => BitVec.ofNat 5 e.1),
    tags := [], reads := [], inb := [], msiSent := 0, msiOwed := 0, msiHeld := 0, ltr := 0,
    partials := satAdd h.partials (partialSlots h) }

/-- A reset of the host face with a cause of Table 11-17. -/
def hostReset (s : State) (cause : BitVec 2) : State :=
  let s0 := if s.host.bme then cutPacket s else s
  let s1 := abandonReads { s0 with host := hostCleared s0.host } s.host.tags
  let s2 := match s.stw.attach with | some r => attachFails s1 r stRefused | none => s1
  let s3 := match s.stw.detach with | some r => detachNow s2 r | none => s2
  hostResetNotice (abandonLoad s3 .host) (partialSlots s.host) (tagsOut s.host) cause

/-- A Function Level Reset begins (R444). -/
def execFunctionLevelReset (s : State) : Host.Outcome State Fault Refusal :=
  configRequest s
    (let s1 := hostReset s 0
     .next { s1 with host := { s1.host with flr := true } })

/-- A Function Level Reset completes (R445). -/
def execFlrComplete (s : State) : Host.Outcome State Fault Refusal :=
  if !hostUp s then .next s
  else if !s.host.flr then .refused .wrongPhase
  else .next { s with host := { s.host with flr := false } }

/-- The link after it has gone down. -/
def linkLost (s : State) : State := { s with host := { s.host with flr := false, linkUp := false, width := 0, gen := 0 } }

/-- A Hot Reset (R444). -/
def execHotReset (s : State) : Host.Outcome State Fault Refusal :=
  onLink s
    (let s1 := hostReset s 1
     .next { s1 with host := { s1.host with flr := false } })

/-- The link goes down (R444). -/
def execHostLinkDown (s : State) : Host.Outcome State Fault Refusal := onLink s (.next (linkLost (hostReset s 2)))

/-- PERST_N is asserted (R444, R445). -/
def execPerstNAssert (s : State) : Host.Outcome State Fault Refusal :=
  let s0 := { s with pwr := { s.pwr with perstN := false } }
  if !hostUp s then .next s0 else .next (linkLost (hostReset s0 3))

/-- Link training ends (R408, R412, R601): at most at the width and rate of CFG_HOST. A width of 1, 2 or 4 lanes and a rate
that the strap admits are all that a link comes up with. -/
def execHostLinkTrained (width gen : BitVec 4) (s : State) : Host.Outcome State Fault Refusal :=
  let lim := hostLimits s.straps.host
  if !hostUp s then .next s
  else if !s.pwr.perstN || s.host.linkUp then .refused .wrongPhase
  else if ¬ (width = 1 ∨ width = 2 ∨ width = 4) ∨ lim.1 < width.toNat ∨ gen = 0 ∨ lim.2 < gen.toNat then .next s
  else .next { s with host := { s.host with linkUp := true, width := width, gen := gen } }

/-- A configuration write to a field with no behaviour of its own (R409). -/
def execConfigWrite (offset : BitVec 12) (data : BitVec 32) (enables : BitVec 4) (s : State) :
    Host.Outcome State Fault Refusal :=
  let d := offset.toNat / 4
  let m := cfgMask s.straps d &&& enableBits enables
  let v := (cfgAt s.host d &&& ~~~ m) ||| (data &&& m)
  configRequest s (.next (releaseMsi { s with host := { s.host with cfg := mset 0 s.host.cfg d (v ^^^ cfgReset d) } }))

/-- A read without completion times out (R437); a parameter block's or the consumed word's read ends in the same way. -/
def execHostCompletionTimeout (tag : BitVec 5) (s : State) : Host.Outcome State Fault Refusal :=
  if !hostUp s then .next s
  else match mget none s.host.tags tag.toNat with
  | none => .refused .nothingWaiting
  | some u =>
    let h := setTag s.host tag none
    let s1 := emit { s with host := { h with timeouts := satAdd h.timeouts 1 } } (.report .completionTimeout)
    match u, s.stw.attach with
    | .params, some r => .next (attachFails s1 r stRefused)
    | _, _ => .next (answerTag s1 u (.error fHostTimeout))

/-! ## At beat boundaries -/

/-- LIMIT as the credit word would hold it (R418): held while the node withholds or descends (R357, R566). -/
def creditLimit (s : State) : BitVec 32 :=
  if s.time.withholding || !s.pwr.steady then s.host.limit else s.host.admitted + 256

/-- LIMIT as it stands when a boundary is reached: it follows A while a ring is attached and the node does not withhold, so
that a word written as withholding begins carries the change of A as well (R418, R451). -/
def trackLimit (s : State) : State :=
  if s.host.ring.isSome then { s with host := { s.host with limit := creditLimit s } } else s

/-- The credit word at a boundary (R417, R418). -/
def creditBoundary (s : State) : State :=
  match s.host.ring with
  | none => s
  | some g =>
    let limit := creditLimit s
    let w : W64 := BitVec.ofBool s.time.withholding ++ (0 : BitVec 31) ++ limit
    if hostIssues s && w != s.host.lastWord then
      sendMsi (markBusy (emit { s with host := { s.host with lastWord := w, limit := limit } }
        (.memWrite g.credit (leBytes 8 w.toNat)))) 2
    else s

/-- Messages that wait for the boundary (R429); while the face may issue nothing, they wait on (R438). -/
def msiBoundary (s : State) : State :=
  let owed := s.host.msiOwed
  if !hostIssues s then { s with host := { s.host with msiSent := 0 } }
  else [0, 1, 2, 3].foldl (fun s v => if owed.getLsbD v && msiEnable s.host then postMsi s v else s)
    { s with host := { s.host with msiSent := 0, msiOwed := 0 } }

/-- The consumed word is read again while room is wanting (R425, R452). -/
def consumedBoundary (s : State) : State :=
  match s.host.ring with
  | some g => if g.asking && hostIssues s && roomWanted s g then askConsumed s g else s
  | none => s

/-- Something is pending at the face (Table 11-14). -/
def hostPending (s : State) : Bool :=
  s.host.packet.isSome || s.host.staging != [] || s.host.msiOwed != 0 || decide (0 < tagsOut s.host)

/-- PD6 is about to power down: a descent to STANDBY or HIBERNATE has begun, or begins at the present boundary
(Tables 11-14 and 14-10). -/
def pd6Falls (p : Power) : Bool :=
  match p.phase with
  | .descent d => d != .tending
  | .descentOff d => d != .tending
  | .run => p.sleepReq.any (fun d => d != .tending)
  | _ => false

/-- The condition of Table 11-14 at a boundary, by row from 1 on: something pending since the last one, nothing for a whole
beat, TENDING, PD6 about to power down. -/
def ltrCondition (s : State) : BitVec 3 :=
  if pd6Falls s.pwr then 4
  else if s.pwr.phase = .tending then 3
  else if hostPending s || s.host.busy then 1
  else 2

/-- A latency in nanoseconds. -/
def latency (sv : Nat × Nat) : Nat := sv.2 * 32 ^ sv.1

/-- The scale and value of an LTR message: the table's or the host's maximum, whichever is smaller (R439). -/
def ltrValue (h : HostFace) (c : BitVec 3) : Nat × Nat :=
  let table := if c = 1 then (2, 4) else if c = 2 then (3, 4) else (4, 1)
  let w := cfgAt h 0x51
  let snoop := ((w.extractLsb' 10 3).toNat, (w.extractLsb' 0 10).toNat)
  let noSnoop := ((w.extractLsb' 26 3).toNat, (w.extractLsb' 16 10).toNat)
  let small := fun (a b : Nat × Nat) => if latency b < latency a then b else a
  small (small table snoop) noSnoop

/-- An LTR message for a condition, when it is another than the last one sent for, and none has been sent in this beat
(R439). -/
def ltrMessage (s : State) (c : BitVec 3) : State :=
  let lv := ltrValue s.host c
  if hostUp s && s.host.linkUp && (cfgAt s.host 0x26).getLsbD 10 && c != s.host.ltr && !s.host.ltrSent then
    emit { s with host := { s.host with ltr := c, ltrSent := true } }
      (if c = 4 then .ltr 0 0 false else .ltr (BitVec.ofNat 3 lv.1) (BitVec.ofNat 10 lv.2) true)
  else s

/-- The LTR message of a boundary (R439). -/
def ltrBoundary (s : State) : State :=
  let s1 := ltrMessage { s with host := { s.host with ltrSent := false } } (ltrCondition s)
  { s1 with host := { s1.host with busy := hostPending s } }

/-- What the host face does at a beat boundary. -/
def hostBoundary (s : State) : State :=
  if hostUp s then ltrBoundary (consumedBoundary (creditBoundary (msiBoundary s))) else s

end Sys2Proof.Machine
end

