-- ==== Sys2Proof/Machine/Crypto.lean ====
section
/-! DEFINITION. The checks and ciphers that the spec names by their standards: CRC-32 (R149), CRC-16 (R462), SHA-256 and
ECDSA P-256 (R153, R635), AES-256-GCM (R154, R637). -/

namespace Sys2Proof.Machine

open Sys2Proof

/-! ## CRCs -/

/-- Apply a function a number of times. -/
def timesDo {α : Type} (g : α → α) : Nat → α → α
  | 0, x => x
  | n + 1, x => timesDo g n (g x)

/-- One bit of the reflected CRC-32. -/
def crc32Bit (c : BitVec 32) : BitVec 32 := if c.getLsbD 0 then (c >>> 1) ^^^ 0xEDB88320 else c >>> 1

/-- CRC-32 of IEEE 802.3 over bytes (R149). -/
def crc32 (bs : List Byte) : BitVec 32 :=
  ~~~ bs.foldl (fun (c : BitVec 32) b => timesDo crc32Bit 8 (c ^^^ b.setWidth 32)) 0xFFFFFFFF

/-- One bit of the CRC-16 of R462. -/
def crc16Bit (c : BitVec 16) : BitVec 16 := if c.getLsbD 15 then (c <<< 1) ^^^ 0x1021 else c <<< 1

/-- CRC-16 over bytes (R462). -/
def crc16 (bs : List Byte) : BitVec 16 :=
  bs.foldl (fun (c : BitVec 16) b => timesDo crc16Bit 8 (c ^^^ ((b.setWidth 16 : BitVec 16) <<< 8))) 0xFFFF

/-! ## SHA-256 -/

/-- The round constants of SHA-256. -/
def shaK : List (BitVec 32) :=
  [0x428a2f98, 0x71374491, 0xb5c0fbcf, 0xe9b5dba5, 0x3956c25b, 0x59f111f1, 0x923f82a4, 0xab1c5ed5,
   0xd807aa98, 0x12835b01, 0x243185be, 0x550c7dc3, 0x72be5d74, 0x80deb1fe, 0x9bdc06a7, 0xc19bf174] ++
  [0xe49b69c1, 0xefbe4786, 0x0fc19dc6, 0x240ca1cc, 0x2de92c6f, 0x4a7484aa, 0x5cb0a9dc, 0x76f988da,
   0x983e5152, 0xa831c66d, 0xb00327c8, 0xbf597fc7, 0xc6e00bf3, 0xd5a79147, 0x06ca6351, 0x14292967] ++
  [0x27b70a85, 0x2e1b2138, 0x4d2c6dfc, 0x53380d13, 0x650a7354, 0x766a0abb, 0x81c2c92e, 0x92722c85,
   0xa2bfe8a1, 0xa81a664b, 0xc24b8b70, 0xc76c51a3, 0xd192e819, 0xd6990624, 0xf40e3585, 0x106aa070] ++
  [0x19a4c116, 0x1e376c08, 0x2748774c, 0x34b0bcb5, 0x391c0cb3, 0x4ed8aa4a, 0x5b9cca4f, 0x682e6ff3,
   0x748f82ee, 0x78a5636f, 0x84c87814, 0x8cc70208, 0x90befffa, 0xa4506ceb, 0xbef9a3f7, 0xc67178f2]

/-- The initial hash value of SHA-256. -/
def shaInit : List (BitVec 32) :=
  [0x6a09e667, 0xbb67ae85, 0x3c6ef372, 0xa54ff53a, 0x510e527f, 0x9b05688c, 0x1f83d9ab, 0x5be0cd19]

/-- A number from bytes, most significant first. -/
def beNat (bs : List Byte) : Nat := bs.foldl (fun n b => n * 256 + b.toNat) 0

/-- The bytes of a number, most significant first. -/
def beBytes (n : Nat) (x : Nat) : List Byte :=
  ((List.range n).map fun i => BitVec.ofNat 8 (x / 256 ^ i)).reverse

/-- Four-byte words of a block, most significant byte first. -/
def beWords (n : Nat) (bs : List Byte) : List (BitVec 32) :=
  match n with
  | 0 => []
  | k + 1 => BitVec.ofNat 32 (beNat (bs.take 4)) :: beWords k (bs.drop 4)

/-- The message schedule, newest word first. -/
def shaSchedule : Nat → List (BitVec 32) → List (BitVec 32)
  | 0, w => w
  | n + 1, w =>
    let a := w.getD 14 0
    let b := w.getD 1 0
    let s0 := a.rotateRight 7 ^^^ a.rotateRight 18 ^^^ a >>> 3
    let s1 := b.rotateRight 17 ^^^ b.rotateRight 19 ^^^ b >>> 10
    shaSchedule n ((w.getD 15 0 + s0 + w.getD 6 0 + s1) :: w)

/-- One round of SHA-256 on the eight working words. -/
def shaRound (h : List (BitVec 32)) (kw : BitVec 32 × BitVec 32) : List (BitVec 32) :=
  match h with
  | [a, b, c, d, e, f, g, x] =>
    let s1 := e.rotateRight 6 ^^^ e.rotateRight 11 ^^^ e.rotateRight 25
    let t1 := x + s1 + ((e &&& f) ^^^ (~~~ e &&& g)) + kw.1 + kw.2
    let s0 := a.rotateRight 2 ^^^ a.rotateRight 13 ^^^ a.rotateRight 22
    let t2 := s0 + ((a &&& b) ^^^ (a &&& c) ^^^ (b &&& c))
    [t1 + t2, a, b, c, d + t1, e, f, g]
  | _ => h

/-- The hash after one block. -/
def shaBlock (h : List (BitVec 32)) (block : List Byte) : List (BitVec 32) :=
  List.zipWith (· + ·) h
    ((shaK.zip (shaSchedule 48 (beWords 16 block).reverse).reverse).foldl shaRound h)

/-- The hash after a number of blocks. -/
def shaBlocks : Nat → List (BitVec 32) → List Byte → List (BitVec 32)
  | 0, h, _ => h
  | n + 1, h, bs => shaBlocks n (shaBlock h (bs.take 64)) (bs.drop 64)

/-- SHA-256 of bytes. -/
def sha256 (bs : List Byte) : BitVec 256 :=
  let padded := bs ++ [0x80] ++ List.replicate ((119 - bs.length % 64) % 64) 0 ++ beBytes 8 (8 * bs.length)
  BitVec.ofNat 256 ((shaBlocks (padded.length / 64) shaInit padded).foldl (fun n w => n * 2 ^ 32 + w.toNat) 0)

/-! ## ECDSA over P-256 -/

/-- The prime of P-256. -/
def p256P : Nat := 0xffffffff00000001000000000000000000000000ffffffffffffffffffffffff
/-- The order of the base point. -/
def p256N : Nat := 0xffffffff00000000ffffffffffffffffbce6faada7179e84f3b9cac2fc632551
/-- The coefficient b of the curve y² = x³ − 3x + b. -/
def p256B : Nat := 0x5ac635d8aa3a93e7b3ebbd55769886bc651d06b0cc53b0f63bce3c3e27d2604b
/-- The base point. -/
def p256G : Nat × Nat :=
  (0x6b17d1f2e12c4247f8bce6e563a440f277037d812deb33a0f4a13945d898c296,
   0x4fe342e2fe1a7f9b8ee7eb4a7c0f9e162bce33576b315ececbb6406837bf51f5)

/-- b to the power e modulo p, for e below 2 to the fuel. -/
def powMod (p : Nat) : Nat → Nat → Nat → Nat
  | 0, _, _ => 1 % p
  | k + 1, b, e =>
    if e = 0 then 1 % p
    else if e % 2 = 1 then b * powMod p k (b * b % p) (e / 2) % p
    else powMod p k (b * b % p) (e / 2)

/-- The inverse modulo a prime. -/
def invMod (p a : Nat) : Nat := powMod p 256 (a % p) (p - 2)

/-- The point with a slope through two points. -/
def ecThird (m x1 y1 x2 : Nat) : Nat × Nat :=
  let x3 := (m * m + 2 * p256P - x1 - x2) % p256P
  (x3, (m * (x1 + p256P - x3) + p256P - y1) % p256P)

/-- The sum of two points; `none` is the point at infinity. -/
def ecAdd (a b : Option (Nat × Nat)) : Option (Nat × Nat) :=
  match a, b with
  | none, b => b
  | a, none => a
  | some (x1, y1), some (x2, y2) =>
    if x1 ≠ x2 then
      some (ecThird ((y2 + p256P - y1) * invMod p256P (x2 + p256P - x1) % p256P) x1 y1 x2)
    else if (y1 + y2) % p256P = 0 then none
    else some (ecThird ((3 * x1 * x1 + p256P - 3) * invMod p256P (2 * y1) % p256P) x1 y1 x1)

/-- A multiple of a point, for a factor below 2 to the fuel. -/
def ecMul : Nat → Nat → Option (Nat × Nat) → Option (Nat × Nat)
  | 0, _, _ => none
  | k + 1, n, a =>
    if n = 0 then none
    else if n % 2 = 1 then ecAdd a (ecMul k (n / 2) (ecAdd a a))
    else ecMul k (n / 2) (ecAdd a a)

/-- The point lies on the curve. -/
def onCurve (x y : Nat) : Bool :=
  decide (x < p256P) && decide (y < p256P) && y * y % p256P == (x * x * x + (p256P - 3) * x + p256B) % p256P

/-- The signature (r, s) verifies over a hash under the key (x, y) (R635 step 4). -/
def ecdsaVerifies (hash : BitVec 256) (x y r s : Nat) : Bool :=
  if onCurve x y && decide (1 ≤ r) && decide (r < p256N) && decide (1 ≤ s) && decide (s < p256N) then
    let w := invMod p256N s
    match ecAdd (ecMul 256 (hash.toNat * w % p256N) (some p256G)) (ecMul 256 (r * w % p256N) (some (x, y))) with
    | none => false
    | some (x1, _) => x1 % p256N == r
  else false

/-! ## AES-256 and GCM -/

/-- Multiplication by x in the field of AES. -/
def gfDouble (a : Byte) : Byte := if a.getLsbD 7 then (a <<< 1) ^^^ 0x1B else a <<< 1

/-- Multiplication in the field of AES, over the low bits of the second factor. -/
def gfMul : Nat → Byte → Byte → Byte
  | 0, _, _ => 0
  | k + 1, a, b => (if b.getLsbD 0 then a else 0) ^^^ gfMul k (gfDouble a) (b >>> 1)

/-- The inverse in the field of AES, a to the power 254. -/
def gfInv (a : Byte) : Byte :=
  let sq := fun (x : Byte) => gfMul 8 x x
  let a2 := sq a
  let a4 := sq a2
  let a8 := sq a4
  let a16 := sq a8
  let a32 := sq a16
  let a64 := sq a32
  [a4, a8, a16, a32, a64, sq a64].foldl (gfMul 8) a2

/-- SubBytes on one byte. -/
def aesSub (a : Byte) : Byte :=
  let b := gfInv a
  b ^^^ b.rotateLeft 1 ^^^ b.rotateLeft 2 ^^^ b.rotateLeft 3 ^^^ b.rotateLeft 4 ^^^ 0x63

/-- Bytewise exclusive or. -/
def xorBytes (a b : List Byte) : List Byte := List.zipWith (· ^^^ ·) a b

/-- The next four-byte word of the key schedule; words newest first, `i` the number of the word. -/
def aesNextWord (ws : List (List Byte)) (i : Nat) : List Byte :=
  let prev := ws.getD 0 []
  let t :=
    if i % 8 = 0 then xorBytes ((prev.drop 1 ++ prev.take 1).map aesSub) [timesDo gfDouble (i / 8 - 1) 1, 0, 0, 0]
    else if i % 8 = 4 then prev.map aesSub
    else prev
  xorBytes (ws.getD 7 []) t

/-- The 60 words of the key schedule, oldest first (AES-256). -/
def aesKeySchedule (key : List Byte) : List (List Byte) :=
  ((List.range 52).foldl (fun ws i => aesNextWord ws (i + 8) :: ws)
    ((List.range 8).map fun i => (key.drop (4 * i)).take 4).reverse).reverse

/-- ShiftRows on 16 bytes in column order. -/
def aesShift (x : List Byte) : List Byte := (List.range 16).map fun i => x.getD ((i + 4 * (i % 4)) % 16) 0

/-- MixColumns on one column. -/
def aesMix (c : List Byte) : List Byte :=
  match c with
  | [a, b, d, e] =>
    let two := gfDouble
    [two a ^^^ (two b ^^^ b) ^^^ d ^^^ e, a ^^^ two b ^^^ (two d ^^^ d) ^^^ e,
     a ^^^ b ^^^ two d ^^^ (two e ^^^ e), (two a ^^^ a) ^^^ b ^^^ d ^^^ two e]
  | _ => c

/-- The bytes of a round key. -/
def roundKey (ws : List (List Byte)) (r : Nat) : List Byte := ((ws.drop (4 * r)).take 4).flatten

/-- AES-256 encryption of one block under a key schedule. -/
def aesEncrypt (ws : List (List Byte)) (x : List Byte) : List Byte :=
  let x0 := xorBytes x (roundKey ws 0)
  let x13 := (List.range 13).foldl (fun y r =>
    let z := aesShift (y.map aesSub)
    xorBytes ((List.range 4).flatMap fun i => aesMix ((z.drop (4 * i)).take 4)) (roundKey ws (r + 1))) x0
  xorBytes (aesShift (x13.map aesSub)) (roundKey ws 14)

/-- Multiplication in the field of GCM, bit 127 of the word standing for x to the power 0. -/
def gcmMul : Nat → BitVec 128 → BitVec 128 → BitVec 128
  | 0, _, _ => 0
  | k + 1, v, y =>
    (if y.getLsbD 127 then v else 0) ^^^
      gcmMul k (if v.getLsbD 0 then (v >>> 1) ^^^ (0xE1#128 <<< 120) else v >>> 1) (y <<< 1)

/-- GHASH over blocks of 16 bytes, the last one padded with zeros. -/
def ghash (h : BitVec 128) : Nat → BitVec 128 → List Byte → BitVec 128
  | 0, y, _ => y
  | n + 1, y, bs =>
    ghash h n (gcmMul 128 h (y ^^^ BitVec.ofNat 128 (beNat (bs.take 16 ++ List.replicate (16 - (bs.take 16).length) 0))))
      (bs.drop 16)

/-- The keystream of GCM from a block counter on. -/
def gcmStream (ws : List (List Byte)) (nonce : List Byte) : Nat → Nat → List Byte
  | 0, _ => []
  | n + 1, ctr => aesEncrypt ws (nonce ++ beBytes 4 ctr) ++ gcmStream ws nonce n (ctr + 1)

/-- AES-256-GCM opening: the plaintext when the tag is right (R637). -/
def gcmOpen (key nonce aad cipher tag : List Byte) : Option (List Byte) :=
  let ws := aesKeySchedule key
  let h := BitVec.ofNat 128 (beNat (aesEncrypt ws (List.replicate 16 0)))
  let blocks := fun (bs : List Byte) => (bs.length + 15) / 16
  let y := ghash h (blocks cipher) (ghash h (blocks aad) 0 aad) cipher
  let y1 := ghash h 1 y (beBytes 8 (8 * aad.length) ++ beBytes 8 (8 * cipher.length))
  let want := xorBytes (beBytes 16 y1.toNat) (aesEncrypt ws (nonce ++ beBytes 4 1))
  if want = tag then some (xorBytes cipher (gcmStream ws nonce (blocks cipher) 2)) else none

end Sys2Proof.Machine
end

