-- ==== Sys2Proof/Machine/Shuttle.lean ====
section
/-! DEFINITION. The shuttle link (chapter 12): frames, sequence, acknowledgement and replay, credits, start and loss. -/

namespace Sys2Proof.Machine

open Sys2Proof

/-- PD7 is powered and clocked. -/
def shuttleUp (s : State) : Bool := s.pwr.clkok && powered s 7

/-- A count of Table 12-10 raised. -/
def bumpCount (m : List (Nat × BitVec 32)) (i n : Nat) : List (Nat × BitVec 32) := mset 0 m i (satAdd (mget 0 m i) n)

/-- The shuttle face with one of its counts raised: 0 sent, 1 accepted, 2 discards, 3 code violations, 4 NAKs, 5 replays,
6 losses, 7 FRESH INITs. -/
def shCount (x : Shuttle) (i n : Nat) : Shuttle := { x with counts := bumpCount x.counts i n }

/-- The state with the shuttle face replaced. -/
def setShuttle (s : State) (x : Shuttle) : State := { s with sh := x }

/-! ## Frames (Tables 12-2 and 12-3) -/

/-- A frame's bytes with its CRC (R462). -/
def withCrc (bs : List Byte) : List Byte := bs ++ leBytes 2 (crc16 bs).toNat

/-- The payload bytes that FTYPE and COUNT call for; `none` where COUNT is out of range or the type is reserved
(R460, R461). -/
def payloadLength (ftype count : Byte) : Option Nat :=
  let n := count.toNat
  match ftype.toNat with
  | 1 => if 1 ≤ n ∧ n ≤ 4 then some (20 * n) else none
  | 2 => if 1 ≤ n ∧ n ≤ 8 then some (8 * n) else none
  | 4 => if n = 0 then some 0 else none
  | 5 => if n = 0 then some 0 else none
  | _ => none

/-- A byte of a frame. -/
def byteAt (bs : List Byte) (i : Nat) : Byte := bs.getD i 0

/-- A received frame passes its CRC and has the format of its type (R461, R462). -/
def frameGood (bs : List Byte) : Bool :=
  match payloadLength (byteAt bs 0) (byteAt bs 1) with
  | none => false
  | some n => bs.length == n + 10 && bs == withCrc (bs.take (n + 8))

/-- SEQ, ACK, CREDIT and the CTL bits of a frame. -/
def frameSeq (bs : List Byte) : Byte := byteAt bs 2
/-- See `frameSeq`. -/
def frameAck (bs : List Byte) : Byte := byteAt bs 3
/-- See `frameSeq`. -/
def frameCredit (bs : List Byte) : BitVec 16 := byteAt bs 5 ++ byteAt bs 4
/-- The payload of a frame. -/
def framePayload (bs : List Byte) : List Byte := (bs.drop 8).take (bs.length - 10)

/-- Reserved bits of a frame are set: CTL [7:3] or byte 0x07 (Table 12-2). -/
def frameReserved (bs : List Byte) : Bool := (byteAt bs 6).extractLsb' 3 5 != 0 || byteAt bs 7 != 0

/-- The device grants credits to the partner: from STEADY on, while the node does not withhold (R357, R466). -/
def shGranting (s : State) : Bool := s.pwr.steady && !s.time.withholding

/-- The CREDIT that the device grants (R466): kept before STEADY, in a descent and while the node withholds. -/
def grantedCredit (s : State) : BitVec 16 := if shGranting s then s.sh.u + 32 else s.sh.limit

/-- CREDIT as it stands when granting stops (R357, R466). -/
def trackCredit (s : State) : State := setShuttle s { s.sh with limit := grantedCredit s }

/-- A frame as the device sends it now. -/
def frameBytes (s : State) (ftype count seq : Byte) (ctl : Byte) (payload : List Byte) : List Byte :=
  withCrc ([ftype, count, seq, s.sh.exp] ++ leBytes 2 (grantedCredit s).toNat ++ [ctl, 0] ++ payload)

/-- The device sends a frame: its acknowledgement and credit are on their way (R465). -/
def sendFrame (s : State) (ftype count seq ctl : Byte) (payload : List Byte) : State :=
  let x := shCount { s.sh with owed := false, credit := grantedCredit s } 0 1
  { s with out := .shuttle (frameBytes s ftype count seq ctl payload) :: s.out, sh := x }

/-! ## Acknowledgement and replay (R463 to R467) -/

/-- Held frames that an ACK does not cover. -/
def stillHeld (held : List ShFrame) (ack : Byte) : List ShFrame :=
  held.filter (fun f => decide (128 ≤ (ack - f.seq - 1).toNat))

/-- Every held frame is to be sent again, where that is not under way from the oldest on already (R464, R500). -/
def sendAgain (x : Shuttle) : Shuttle :=
  if x.held.length = x.again then x else shCount { x with again := x.held.length } 5 1

/-- The face after the ACK and CREDIT of a good frame (R464, R465). -/
def applyAck (x : Shuttle) (bs : List Byte) : Shuttle :=
  let held := stillHeld x.held (frameAck bs)
  { x with held := held, again := min x.again held.length, uncounted := min x.uncounted held.length,
           partner := frameCredit bs, resends := if held.length < x.held.length then 0 else x.resends }

/-- A frame is discarded and counted; the first one owes a NAK (R463). -/
def discardFrame (x : Shuttle) (nak : Bool) : Shuttle :=
  shCount { x with naked := x.naked || nak, oweNak := x.oweNak || (nak && !x.naked) } 2 1

/-- Units of a frame. -/
def frameUnits (ftype count : Byte) : Nat := if ftype = 3 then 4 else count.toNat

/-- A sequenced frame keeps within the credit granted (R467). -/
def withinCredit (s : State) (bs : List Byte) : Bool :=
  decide ((s.sh.credit - (s.sh.recv + BitVec.ofNat 16 (frameUnits (byteAt bs 0) (byteAt bs 1)))).toNat < 2 ^ 15)

/-- What a received sequenced frame meets (R463, R467): it is taken; it is a repeat; it comes after a gap; or it counts as
failing its CRC. -/
inductive Fit where
  | accept
  | again
  | gap
  | bad
  deriving DecidableEq, Repr

/-- How a frame of TYPE TOKENS or RAW fits. -/
def fitOf (s : State) (bs : List Byte) : Fit :=
  let d := (frameSeq bs - s.sh.exp).toNat
  if d = 0 then (if withinCredit s bs then .accept else .bad)
  else if 248 ≤ d then .again
  else .gap

/-- The link is lost: nothing is discarded (R470), a load through the face is abandoned (R159). A NAK that has been sent
stands until the expected frame has been accepted (R463). -/
def shuttleLost (s : State) : State :=
  abandonLoad (setShuttle s (shCount { s.sh with aligned := false, up := false, seen := false, again := 0, resends := 0 } 6 1))
    .shuttle

/-- The held frames are sent again, or the link is lost when the oldest has been sent again 16 times (R464). -/
def resendOrLose (s : State) : State :=
  if s.sh.held = [] then s
  else if 16 ≤ s.sh.resends && s.sh.again != s.sh.held.length then shuttleLost s
  else setShuttle s (sendAgain s.sh)

/-- The state after the ACK, NAK and CREDIT of a good frame (R464, R465). -/
def ackFrame (s : State) (bs : List Byte) : State :=
  let s1 := setShuttle s (applyAck s.sh bs)
  if (byteAt bs 6).getLsbD 0 then resendOrLose s1 else s1

/-- A sequenced frame is accepted (R463). -/
def acceptSequenced (s : State) (bs : List Byte) : State :=
  let s1 := setShuttle s (shCount { s.sh with
    exp := s.sh.exp + 1, naked := false, oweNak := false, owed := true,
    recv := s.sh.recv + BitVec.ofNat 16 (frameUnits (byteAt bs 0) (byteAt bs 1)) } 1 1)
  ackFrame s1 bs

/-- Tokens of a frame are stamped in order (R471). -/
def stampAll (s : State) (rank sub : Nat) : List OutKind → State
  | [] => s
  | k :: r => stampAll (stampEvent s rank sub k) rank sub r

/-- The tokens of a TOKENS frame. -/
def frameTokens (bs : List Byte) : List Token := tokensOfBytes 4 (framePayload bs)

/-- The words of a payload. -/
def payloadWords (bs : List Byte) : List W64 :=
  (List.range (bs.length / 8)).map fun i => BitVec.ofNat 64 (leNat ((bs.drop (8 * i)).take 8))

/-- The state with the code violations counted that came before a frame or a loss of alignment: no command tells how many
there were, so their number is a free value (R459, Table 12-10; log 28). -/
def violationsCounted (s : State) : State :=
  setShuttle (bumpFree s) (shCount s.sh 3 (freeNow s).toNat)

/-- A TOKENS frame in sequence: its tokens arrive (R463, R471). -/
def takeTokens (s : State) (bs : List Byte) : Host.Outcome State Fault Refusal :=
  if (frameTokens bs).any (fun t => kindOf t.flags == 1) then unpredictable 122 s
  else .next (stampAll (acceptSequenced s bs) 5 0 ((frameTokens bs).map .shuttle))

/-- A RAW frame in sequence: its words enter the receive buffer (R463, R466). -/
def takeRaw (s : State) (bs : List Byte) : State :=
  let s1 := acceptSequenced s bs
  setShuttle s1 { s1.sh with raw := s1.sh.raw ++ payloadWords (framePayload bs) }

/-- A sequenced frame arrives (R463, R467). A repeat and a frame after a gap pass their CRC: their ACK and CREDIT hold. -/
def takeSequenced (s : State) (bs : List Byte) : Host.Outcome State Fault Refusal :=
  match fitOf s bs with
  | .accept => if byteAt bs 0 = 1 then takeTokens s bs else .next (takeRaw s bs)
  | .again => .next (ackFrame (setShuttle s { discardFrame s.sh false with owed := true }) bs)
  | .gap => .next (ackFrame (setShuttle s (discardFrame s.sh true)) bs)
  | .bad => .next (setShuttle s (discardFrame s.sh true))

/-! ## Link start and loss (R468, R469) -/

/-- Held frames renumbered from SEQ 0 (R469). -/
def renumber (held : List ShFrame) : List ShFrame :=
  held.zipIdx.map fun f => { f.1 with seq := BitVec.ofNat 8 f.2 }

/-- The face after an INIT with FRESH: the counts start anew, and held frames are sent again against the new credit (R467,
R469; log 20). -/
def freshInit (x : Shuttle) (bs : List Byte) : Shuttle :=
  { x with exp := 0, u := 0, recv := 0, credit := 0, limit := 0, partner := frameCredit bs, held := renumber x.held,
           next := BitVec.ofNat 8 x.held.length, again := x.held.length, uncounted := x.held.length, resends := 0, sent := 0,
           naked := false, oweNak := false }

/-- The face after an INIT without FRESH (R469). -/
def plainInit (x : Shuttle) (bs : List Byte) : Shuttle :=
  let y := applyAck x bs
  { y with again := y.held.length, resends := 0 }

/-- An INIT frame arrives (R468, R469); one with FRESH is counted, and a load through the face is abandoned (R159). -/
def takeInit (s : State) (bs : List Byte) : State :=
  let isFresh := (byteAt bs 6).getLsbD 1
  let isSeen := (byteAt bs 6).getLsbD 2
  let s0 := if isFresh then abandonLoad (setShuttle s (shCount s.sh 7 1)) .shuttle else s
  if s.sh.up then shuttleLost s0
  else
    let x := if isFresh then freshInit s0.sh bs else plainInit s0.sh bs
    setShuttle s0 { x with seen := true, up := isSeen, fresh := x.fresh && !isSeen }

/-- A whole frame arrives: what it is, its bytes say (R460 to R463, R23). -/
def takeFrame (s : State) (bs : List Byte) : Host.Outcome State Fault Refusal :=
  if !frameGood bs then .next (setShuttle s (discardFrame s.sh true))
  else if frameReserved bs then unpredictable 23 s
  else if byteAt bs 0 = 4 then
    let s1 := ackFrame s bs
    .next (setShuttle s1 (shCount s1.sh 1 1))
  else if byteAt bs 0 = 5 then .next (takeInit s bs)
  else takeSequenced s bs

/-- A frame reaches an aligned receiver (R468). -/
def receiveFrame (s : State) (bs : List Byte) : Host.Outcome State Fault Refusal :=
  if !shuttleUp s || !s.sh.aligned then .next s else takeFrame (violationsCounted s) bs

/-- A TOKENS frame accepted in sequence (R463, R471). -/
def execShuttleTokensFrame (bytes : List (BitVec 8)) (s : State) : Host.Outcome State Fault Refusal := receiveFrame s bytes

/-- A RAW frame accepted in sequence: its words enter the receive buffer (R463). -/
def execShuttleRawFrame (bytes : List (BitVec 8)) (s : State) : Host.Outcome State Fault Refusal := receiveFrame s bytes

/-- A LINK frame (R465). -/
def execShuttleLinkFrame (bytes : List (BitVec 8)) (s : State) : Host.Outcome State Fault Refusal := receiveFrame s bytes

/-- An INIT frame (R468, R469). -/
def execShuttleInitFrame (bytes : List (BitVec 8)) (s : State) : Host.Outcome State Fault Refusal := receiveFrame s bytes

/-- A frame that fails on the line, or a whole one that is discarded (R459, R461, R463). -/
def execShuttleBadFrame (bad : ShuttleBad) (s : State) : Host.Outcome State Fault Refusal :=
  match bad with
  | .whole bs => receiveFrame s bs
  | .line =>
    if !shuttleUp s || !s.sh.aligned then .next s
    else
      let s1 := violationsCounted s
      .next (setShuttle s1 (discardFrame s1.sh true))

/-- Sixteen K28.5 characters align the receiver (R468). -/
def execShuttleAligned (s : State) : Host.Outcome State Fault Refusal :=
  if !shuttleUp s then .next s
  else if s.sh.aligned then .refused .wrongPhase
  else .next (setShuttle s { s.sh with aligned := true })

/-- An aligned side sends INIT every 256 bit times (R468). -/
def execShuttleInitTimer (s : State) : Host.Outcome State Fault Refusal :=
  if !shuttleUp s then .next s
  else if !s.sh.aligned || s.sh.up then .refused .wrongPhase
  else
    let ctl : Byte := (BitVec.ofBool s.sh.seen ++ BitVec.ofBool s.sh.fresh ++ (0 : BitVec 1) : BitVec 3).setWidth 8
    .next (sendFrame s 5 0 0 ctl [])

/-- Alignment is lost, and with it an established link; the violations are counted (R459). -/
def execShuttleAlignmentLost (s : State) : Host.Outcome State Fault Refusal :=
  let s1 := violationsCounted s
  if !shuttleUp s then .next s
  else if !s.sh.aligned then .refused .wrongPhase
  else if s.sh.up then .next (shuttleLost s1)
  else .next (setShuttle s1 { s1.sh with aligned := false, seen := false })

/-! ## Sending (R464 to R467, R472) -/

/-- The oldest held frame has gone unacknowledged since it was last sent: every held frame is sent again, or the link is
lost (R464). Frames that a NAK already has sent again are sent once (R500). -/
def execShuttleReplayTimeout (s : State) : Host.Outcome State Fault Refusal :=
  if !shuttleUp s then .next s
  else if !s.sh.up || s.sh.held == [] then .refused .nothingWaiting
  else if s.sh.again != 0 then .next s
  else .next (resendOrLose s)

/-- An acknowledgement or a changed CREDIT is owed (R465). -/
def linkOwed (s : State) : Bool := s.sh.owed || s.sh.oweNak || grantedCredit s != s.sh.credit

/-- A LINK frame, with NAK when one is owed (R463, R465). -/
def sendLink (s : State) : State :=
  let nak := s.sh.oweNak
  let s1 := sendFrame s 4 0 0 (if nak then 1 else 0) []
  if nak then setShuttle s1 (shCount { s1.sh with oweNak := false } 4 1) else s1

/-- A LINK frame falls due (R465). -/
def execShuttleLinkFrameDue (s : State) : Host.Outcome State Fault Refusal :=
  if !shuttleUp s then .next s
  else if !s.sh.up then .refused .wrongPhase
  else if linkOwed s then .next (sendLink s) else .refused .nothingWaiting

/-- A token that leaves for the partner joins the TOKENS frame that is being filled, which will take a place in the replay
buffer; without room for `n` tokens there, tile 7's extra port holds them back (R41, R470). -/
def shuttleRoom (x : Shuttle) (n : Nat) : Bool := decide (x.held.length < 8) && decide (x.tx.length + n ≤ 4)

/-- Units that the partner's credit still admits (R467). -/
def unitsAdmitted (x : Shuttle) : Nat :=
  let d := (x.partner - x.sent).toNat
  if d < 2 ^ 15 then d else 0

/-- The dump that streams to the shuttle sink: the bytes not handed over yet. -/
def shuttleDump (s : State) : List Byte :=
  match s.tab.dump, s.tab.held with
  | some d, some bs => if d.sink = 2 then bs.drop d.pos else []
  | _, _ => []

/-- A new sequenced frame: its type, COUNT, payload, and the state without what it carries. -/
structure NewFrame where
  ftype   : Byte
  count   : Byte
  payload : List Byte
  rest    : State
  deriving DecidableEq, Repr

/-- The frame of a type that is ready: 0 TOKENS, 1 RAW, 2 DUMP (R467, R472). -/
def readyFrame (s : State) (k : Nat) : Option NewFrame :=
  let room := unitsAdmitted s.sh
  match k with
  | 0 =>
    let ts := s.sh.tx.take (min 4 room)
    if ts = [] then none
    else some ⟨1, BitVec.ofNat 8 ts.length, ts.flatMap tokenBytes,
      setShuttle s { s.sh with tx := s.sh.tx.drop ts.length }⟩
  | 1 =>
    let ws := s.streams.shPut.take (min 8 room)
    if ws = [] then none
    else some ⟨2, BitVec.ofNat 8 ws.length, ws.flatMap (fun w => leBytes 8 w.toNat),
      { s with streams := { s.streams with shPut := s.streams.shPut.drop ws.length } }⟩
  | _ =>
    let bs := (shuttleDump s).take 80
    if bs = [] ∨ room < 4 then none
    else some ⟨3, BitVec.ofNat 8 bs.length, bs,
      { s with tab := { s.tab with dump := s.tab.dump.map fun d => { d with pos := d.pos + bs.length } } }⟩

/-- The first ready type in the rotation, with its frame. -/
def nextFrame (s : State) : Option (Nat × NewFrame) :=
  ([s.sh.turn.toNat % 3, (s.sh.turn.toNat + 1) % 3, (s.sh.turn.toNat + 2) % 3].filterMap fun k =>
    (readyFrame s k).map (k, ·)).head?

/-- A new sequenced frame is sent and held (R464, R467). -/
def sendNew (k : Nat) (f : NewFrame) : State :=
  let s := f.rest
  let h : ShFrame := ⟨f.ftype, f.count, s.sh.next, f.payload⟩
  let s1 := sendFrame s f.ftype f.count s.sh.next 0 f.payload
  setShuttle s1 { s1.sh with held := s1.sh.held ++ [h], next := s1.sh.next + 1, turn := BitVec.ofNat 2 ((k + 1) % 3),
                             sent := s1.sh.sent + BitVec.ofNat 16 (frameUnits f.ftype f.count) }

/-- A held frame is sent again; one that has not been sent since a FRESH exchange takes credit anew (R464, R467, R469). -/
def sendHeld (s : State) (f : ShFrame) : State :=
  let x := s.sh
  let new := decide (x.again ≤ x.uncounted)
  let units := frameUnits f.ftype f.count
  if new && decide (unitsAdmitted x < units) then s
  else
    let s1 := sendFrame s f.ftype f.count f.seq 0 f.payload
    setShuttle s1 { s1.sh with again := x.again - 1
                               uncounted := if new then x.again - 1 else x.uncounted
                               sent := if new then x.sent + BitVec.ofNat 16 units else x.sent
                               resends := if x.again = x.held.length then x.resends + 1 else x.resends }

/-- At a frame boundary the device sends a NAK or LINK, a held frame again, or a new frame within credit (R464, R472). -/
def execShuttleFrameSend (s : State) : Host.Outcome State Fault Refusal :=
  if !shuttleUp s then .next s
  else if !s.sh.up then .refused .wrongPhase
  else if s.sh.oweNak then .next (sendLink s)
  else match s.sh.held[s.sh.held.length - s.sh.again]? with
  | some f => .next (sendHeld s f)
  | none =>
    if 8 ≤ s.sh.held.length then .next s
    else match nextFrame s with
    | none => .refused .nothingWaiting
    | some (k, f) => .next (sendNew k f)

/-- A raw word moves into SHUTTLE_RAW (R466). -/
def execShuttleRawMove (s : State) : Host.Outcome State Fault Refusal :=
  if !shuttleUp s then .next s
  else match s.sh.raw with
  | [] => .refused .nothingWaiting
  | w :: r =>
    if s.streams.shTake.length < 128 then
      .next { s with sh := { s.sh with raw := r, u := s.sh.u + 1 },
                     streams := { s.streams with shTake := s.streams.shTake ++ [w] } }
    else .next s

end Sys2Proof.Machine
end

