-- ==== Sys2Proof/Machine/Row.lean ====
section
/-! DEFINITION. The row ports (chapter 12): frames, credits, forwarding, link start and loss, and raw frames. -/

namespace Sys2Proof.Machine

open Sys2Proof

/-! ## Ports -/

/-- A row port's state. -/
def rowAt (s : State) : RowId → RowPort
  | .a => s.rowA
  | .b => s.rowB

/-- The state with a row port replaced. -/
def setRow (s : State) (r : RowId) (p : RowPort) : State :=
  match r with
  | .a => { s with rowA := p }
  | .b => { s with rowB := p }

/-- The other port. -/
def otherRow : RowId → RowId
  | .a => .b
  | .b => .a

/-- A port as a flag: 1 is port B. -/
def isB : RowId → Bool
  | .a => false
  | .b => true

/-- The port of a flag. -/
def portIdOf (b : Bool) : RowId := if b then .b else .a

/-- A row port is strapped on, powered and clocked. -/
def rowUp (s : State) (r : RowId) : Bool := s.pwr.clkok && powered s 8 && rowOn s.straps r

/-- A port with one of its counts raised: 0 received, 1 failures, 2 forwarded, 3 end-of-chain discards, 4 raw overflow,
5 raw-put errors, 6 link downs, 7 converted tokens (Table 12-10). -/
def rowCount (p : RowPort) (i n : Nat) : RowPort := { p with counts := bumpCount p.counts i n }

/-! ## Frames (Tables 12-5 and 12-6) -/

/-- Two bytes of a frame, little-endian. -/
def half (bs : List Byte) (i : Nat) : BitVec 16 := byteAt bs (i + 1) ++ byteAt bs i
/-- FTYPE of a frame. -/
def rfType (bs : List Byte) : Byte := byteAt bs 14
/-- FLAGS of a frame. -/
def rfFlags (bs : List Byte) : Byte := byteAt bs 15
/-- The destination node ID of a frame. -/
def rfDst (bs : List Byte) : BitVec 12 := (half bs 16).setWidth 12
/-- NODST of a frame. -/
def rfNoDst (bs : List Byte) : Bool := (half bs 16).getLsbD 15
/-- The originating node ID of a frame. -/
def rfSrc (bs : List Byte) : BitVec 12 := (half bs 18).setWidth 12
/-- LEN of a frame. -/
def rfLen (bs : List Byte) : Nat := (half bs 20).toNat
/-- The payload of a frame. -/
def rfPayload (bs : List Byte) : List Byte := (bs.drop 30).take (rfLen bs)
/-- The tokens of a frame. -/
def rfTokens (bs : List Byte) : List Token := tokensOfBytes 64 (rfPayload bs)
/-- Blocks that a frame occupies (R483). -/
def rfBlocks (bs : List Byte) : Nat := (bs.length + 4 + 63) / 64

/-- The Ethertype of row token frames (R475). -/
def isTokenFrame (bs : List Byte) : Bool := byteAt bs 12 == 0x88 && byteAt bs 13 == 0xB5

/-- A frame's length is admitted (R475): without FCS, 60 to 1514 bytes. -/
def sizeGood (bs : List Byte) : Bool := decide (60 ≤ bs.length) && decide (bs.length ≤ 1514)

/-- A row token frame has the format of its type (R480). -/
def formatGood (bs : List Byte) : Bool :=
  let ty := (rfType bs).toNat
  let tokens := decide (20 ≤ rfLen bs) && decide (rfLen bs ≤ 1280) && rfLen bs % 20 == 0
  sizeGood bs && isTokenFrame bs && bs.length == max 60 (30 + rfLen bs) &&
  (if ty = 1 ∨ ty = 2 ∨ ty = 3 then !rfNoDst bs && tokens
   else if ty = 4 then rfNoDst bs && (if (rfFlags bs).getLsbD 2 then decide (rfLen bs ≤ 1280) else tokens)
   else if ty = 5 ∨ ty = 6 then rfNoDst bs && rfLen bs == 0
   else false)

/-- Reserved header bits that a sender writes as zero (R23). -/
def reservedSet (bs : List Byte) : Bool :=
  (rfFlags bs).getLsbD 3 || (rfFlags bs).getLsbD 7 || (half bs 16).extractLsb' 12 3 != 0 ||
    (half bs 18).extractLsb' 12 4 != 0

/-- A frame is addressed to this node (R66, R487). -/
def forThisNode (s : State) (bs : List Byte) : Bool := !nodeUnassigned s.straps && rfDst bs == nodeId s.straps

/-! ## Credits (R483 to R486) -/

/-- Tokens in frames that are held as the words of the raw stream. -/
def tokensKept (frames : List (List Byte)) : Nat := (frames.map fun a => (half a 28).toNat / 20).sum

/-- Tokens in the local receive buffer. -/
def localHeld (s : State) (r : RowId) : Nat :=
  (heldOf s (isRowEvent (isB r))).length + tokensKept (rowAt s r).answers + tokensKept (rowAt s r).kept

/-- Blocks in the forwarding buffer that frames of this port fill. -/
def blocksHeld (s : State) (r : RowId) : Nat := ((rowAt s (otherRow r)).fwd.map rfBlocks).sum

/-- The device grants local credits: from STEADY on, while the node does not withhold and a quadrant runs (R484). -/
def rowGranting (s : State) : Bool := s.pwr.steady && !s.time.withholding && s.pwr.running != 0

/-- LCREDIT by its formula where credits are granted, else as it stood when they stopped (R484). -/
def localCredit (s : State) (r : RowId) : BitVec 16 :=
  if rowGranting s then (rowAt s r).lr + 64 - BitVec.ofNat 16 (localHeld s r) else (rowAt s r).limit

/-- The LCREDIT that a port grants (R484); it stops while an ANSWER waits for room (R491). -/
def grantLocal (s : State) (r : RowId) : BitVec 16 :=
  if (rowAt s r).answers = [] then localCredit s r else (rowAt s r).limit

/-- LCREDIT as it stands when local credits stop. -/
def trackLocal (s : State) (r : RowId) : State := setRow s r { rowAt s r with limit := grantLocal s r }

/-- LCREDIT of both ports as it stands when the node ceases to grant. -/
def trackRows (s : State) : State := trackLocal (trackLocal s .a) .b

/-- The FCREDIT that a port grants (R484). -/
def grantForward (s : State) (r : RowId) : BitVec 16 := (rowAt s r).fr + 64 - BitVec.ofNat 16 (blocksHeld s r)

/-- What a credit limit still admits beyond a count (R485). -/
def creditLeft (limit count : BitVec 16) : Nat :=
  let d := (limit - count).toNat
  if d < 2 ^ 15 then d else 0

/-- Tokens that the neighbour's local pool admits. -/
def localRoom (p : RowPort) : Nat := creditLeft p.nLcredit p.lnext
/-- Blocks that the neighbour's forwarding pool admits. -/
def forwardRoom (p : RowPort) : Nat := creditLeft p.nFcredit p.fnext
/-- An addressed frame is charged to the neighbour's local pool (R483). -/
def chargedLocal (p : RowPort) (dst : BitVec 12) : Bool := p.neighbor == some dst && dst != 0xFFF

/-- The port holds tokens for the neighbour's local pool and has no local credit (R486). -/
def wantsCredit (p : RowPort) : Bool :=
  localRoom p == 0 &&
  (p.own.any (fun o => match o with
     | .token d _ => chargedLocal p d
     | .answer d _ _ => chargedLocal p d
     | .undeliverable f => chargedLocal p (rfDst f)
     | _ => false) ||
   p.fwd.any (fun f => chargedLocal p (rfDst f)))

/-! ## Building frames (R476, R479, R482) -/

/-- A node address (R476). -/
def nodeAddress (n : Option (BitVec 12)) : List Byte :=
  match n with
  | some x => [0x06, 0x5A, 0x54, 0x00, (x.extractLsb' 8 4).setWidth 8, x.setWidth 8]
  | none => [0x06, 0x5A, 0x54, 0x00, 0xFF, 0xFF]

/-- Bytes padded with zeros to 60 (R479). -/
def padFrame (bs : List Byte) : List Byte := bs ++ List.replicate (60 - bs.length) 0

/-- The 16-bit DST field (Table 12-5). -/
def dstField : Option (BitVec 12) → BitVec 16
  | some d => d.setWidth 16
  | none => 0x8000

/-- A frame that this node originates, with its hop fields zero (Table 12-5). -/
def rowFrame (s : State) (p : RowPort) (ftype : Byte) (dst : Option (BitVec 12)) (seen dump : Bool)
    (payload : List Byte) : List Byte :=
  let flags : Byte := (0 : BitVec 1) ++ s.straps.beat ++ (0 : BitVec 1) ++ BitVec.ofBool dump ++ BitVec.ofBool seen ++
    BitVec.ofBool (wantsCredit p)
  padFrame (nodeAddress dst ++ nodeAddress (some (nodeId s.straps)) ++ [0x88, 0xB5, ftype, flags] ++
    leBytes 2 (dstField dst).toNat ++ leBytes 2 (nodeId s.straps).toNat ++ leBytes 2 payload.length ++
    List.replicate 8 0 ++ payload)

/-- A token's deadline as the offset that a row frame carries (R482). -/
def offsetOf (s : State) (d : BitVec 20) : BitVec 20 :=
  BitVec.ofInt 20 (max (-2 ^ 18) (min (2 ^ 19 - 1) (delta d (now20 s))))

/-- A token as a row frame carries it (R482). -/
def wireToken (s : State) (t : Token) : List Byte := tokenBytes { t with deadline := offsetOf s t.deadline }

/-- An undeliverable frame on its way back (Table 12-8): DST and SRC exchanged. -/
def turnBack (bs : List Byte) : List Byte :=
  nodeAddress (some (rfSrc bs)) ++ nodeAddress (some (rfDst bs)) ++ [0x88, 0xB5, 0x03, rfFlags bs &&& 0x70] ++
    leBytes 2 (rfSrc bs).toNat ++ leBytes 2 (rfDst bs).toNat ++ bs.drop 20

/-- A port sends a row token frame: the hop fields are written, the pools charged, the grants noted (R484, R487). -/
def sendRow (s : State) (r : RowId) (bs : List Byte) (tokens blocks : Nat) (good : Bool) : State :=
  let p := rowAt s r
  let ln := p.lnext + BitVec.ofNat 16 tokens
  let fn := p.fnext + BitVec.ofNat 16 blocks
  let gl := grantLocal s r
  let gf := grantForward s r
  let wire := bs.take 22 ++ leBytes 2 gl.toNat ++ leBytes 2 gf.toNat ++ leBytes 2 ln.toNat ++ leBytes 2 fn.toNat ++
    bs.drop 30
  emit (setRow s r { p with lnext := ln, fnext := fn, gLcredit := gl, gFcredit := gf }) (.row (isB r) wire good)

/-- An addressed frame is sent and charged to its pool (R483). -/
def sendAddressed (s : State) (r : RowId) (bs : List Byte) (good : Bool) : State :=
  if chargedLocal (rowAt s r) (rfDst bs) then sendRow s r bs (rfLen bs / 20) 0 good
  else sendRow s r bs 0 (rfBlocks bs) good

/-- The credits that an addressed frame needs are there (R485). -/
def addressedReady (p : RowPort) (bs : List Byte) : Bool :=
  if chargedLocal p (rfDst bs) then decide (rfLen bs / 20 ≤ localRoom p) else decide (rfBlocks bs ≤ forwardRoom p)

/-! ## Own frames that are ready (R490) -/

/-- How many tokens an own TOKENS frame may carry now (R490). -/
def tokensAdmitted (p : RowPort) (dst : BitVec 12) : Nat :=
  min 64 (if chargedLocal p dst then localRoom p else (64 * forwardRoom p - 34) / 20)

/-- An own frame is ready: it is whole, and its credits are available (R490). -/
def ownReady (s : State) (p : RowPort) (o : RowOwn) : Bool :=
  match o with
  | .token d _ => tokensAdmitted p d != 0
  | .answer d more ts => more == 0 &&
      addressedReady p (rowFrame s p 2 (some d) false false (ts.flatMap (wireToken s)))
  | .undeliverable f => addressedReady p f
  | _ => true

/-- A list without the first occurrence of each of others. -/
def eraseAll (l : List RowOwn) : List RowOwn → List RowOwn
  | [] => l
  | o :: r => eraseAll (l.erase o) r

/-- The own frames that are ready, in the order in which they became so (R490). -/
def settleReady (s : State) (r : RowId) : State :=
  let p := rowAt s r
  let still := p.ready.filter (ownReady s p)
  setRow s r { p with ready := still ++ (eraseAll p.own still).filter (ownReady s p) }

/-! ## Conversions (R495 to R497, Tables 12-8 and 17-3) -/

/-- INFO of a ROW_LINK_DOWN or REMOTE_UNREACHABLE report: port, bits [19:17] of the fault word, node ID (Table 17-3). -/
def rowInfo (r : RowId) (mid : BitVec 3) (node : BitVec 12) : BitVec 48 :=
  (0 : BitVec 24) ++ node ++ (0 : BitVec 8) ++ mid ++ BitVec.ofBool (isB r)

/-- The neighbour's node ID as a report gives it. -/
def neighbourId (p : RowPort) : BitVec 12 := p.neighbor.getD 0xFFF

/-- The port's link has gone down (R495, R496). -/
def linkDownReport (s : State) (r : RowId) : State :=
  nodeReport s fRowDown 0xC (rowInfo r 0 (neighbourId (rowAt s r))) 0

/-- A token converted at a port is counted; before START no report is made, and nothing is counted for it (R663). -/
def countConverted (s : State) (r : RowId) : State :=
  if s.stw.started then setRow s r (rowCount (rowAt s r) 7 1) else s

/-- An own token becomes a ROW_LINK_DOWN fault token (Table 12-8). -/
def convertDown (r : RowId) (s : State) (t : Token) : State :=
  let s1 := countConverted s r
  nodeReport s1 fRowDown 0xC (rowInfo r 1 (neighbourId (rowAt s r))) (packTag (tokenTag t))

/-- A token of an UNDELIVERABLE frame becomes a REMOTE_UNREACHABLE fault token (R497). -/
def convertBack (r : RowId) (node : BitVec 12) (s : State) (t : Token) : State :=
  let s1 := countConverted s r
  nodeReport s1 fRemote 0xC (rowInfo r 6 node) (packTag (tokenTag t))

/-- The tokens of an UNDELIVERABLE frame are converted; the home node is the frame's SRC. -/
def convertFrame (r : RowId) (s : State) (f : List Byte) : State :=
  (rfTokens f).foldl (convertBack r (rfSrc f)) s

/-- What waits on a down link is treated as Table 12-8 says; SINK and raw frames keep waiting, and so does the place of an
answer whose tokens have not all come. -/
def treatOwn (r : RowId) (s : State) (o : RowOwn) : State :=
  let keep := fun (s : State) (o : RowOwn) => setRow s r { rowAt s r with own := (rowAt s r).own ++ [o] }
  match o with
  | .token _ t => convertDown r s t
  | .answer d more ts =>
    let s1 := ts.foldl (convertDown r) s
    if more = 0 then s1 else keep s1 (.answer d more [])
  | .undeliverable f => convertFrame r s f
  | o => keep s o

/-- The link is down, and its grace is over (R495, R496). -/
def graceGone (p : RowPort) : Bool := p.graceOver && !p.usable

/-- Every own frame that waits is treated as Table 12-8 says. -/
def treatWaiting (s : State) (r : RowId) : State :=
  (rowAt s r).own.foldl (treatOwn r) (setRow s r { rowAt s r with own := [] })

/-- A frame waits for a port: it trains if it must, and the grace of a port that was never up begins (R493, R496). -/
def frameWaits (s : State) (r : RowId) : State :=
  let p := rowAt s r
  setRow s r { p with training := p.training || (s.pwr.started && !p.phyUp)
                      grace := p.grace || (!p.everUp && !p.usable && !p.graceOver) }

/-- Fabric up occurs: the ports for which frames wait begin to train (R493). -/
def trainWaiting (s : State) (r : RowId) : State :=
  let p := rowAt s r
  setRow s r { p with training := p.training || (!p.phyUp && !(p.own.isEmpty && p.fwd.isEmpty)) }

/-- The own frames that wait for a port are these; after the grace they are treated at once (R495). -/
def setOwn (s : State) (r : RowId) (own : List RowOwn) : State :=
  let s1 := setRow s r { rowAt s r with own := own }
  settleReady (frameWaits (if graceGone (rowAt s r) then treatWaiting s1 r else s1) r) r

/-- An own frame waits for a port, or is treated at once after the grace (R495). -/
def queueOwn (s : State) (r : RowId) (o : RowOwn) : State := setOwn s r ((rowAt s r).own ++ [o])

/-- A forwarded frame on a down link is treated as Table 12-8 says: it goes back by the port it came from. -/
def treatForward (r : RowId) (s : State) (f : List Byte) : State :=
  if (rfType f).toNat = 3 then convertFrame r s f
  else queueOwn s (otherRow r) (.undeliverable (turnBack f))

/-- A forwarded frame waits in the forwarding buffer for a port, or is treated at once after the grace (R495). -/
def queueForward (s : State) (r : RowId) (f : List Byte) : State :=
  let p := rowAt s r
  if graceGone p then frameWaits (treatForward r s f) r
  else frameWaits (setRow s r { p with fwd := p.fwd ++ [f] }) r

/-! ## The raw streams (R491) -/

/-- The take side of a port's raw stream. -/
def rawTake (s : State) : RowId → List W64
  | .a => s.streams.rowTakeA
  | .b => s.streams.rowTakeB

/-- The state with the take side of a port's raw stream replaced. -/
def setRawTake (s : State) (r : RowId) (ws : List W64) : State :=
  match r with
  | .a => { s with streams := { s.streams with rowTakeA := ws } }
  | .b => { s with streams := { s.streams with rowTakeB := ws } }

/-- The put side of a port's raw stream. -/
def rawPut (s : State) : RowId → List W64
  | .a => s.streams.rowPutA
  | .b => s.streams.rowPutB

/-- The state with the put side of a port's raw stream replaced. -/
def setRawPut (s : State) (r : RowId) (ws : List W64) : State :=
  match r with
  | .a => { s with streams := { s.streams with rowPutA := ws } }
  | .b => { s with streams := { s.streams with rowPutB := ws } }

/-- Bytes as data words, byte 0 in bits [7:0], the last word filled with zeros. -/
def dataWords (bs : List Byte) : List W64 := payloadWords (bs ++ List.replicate (7 - (bs.length + 7) % 8) 0)

/-- A raw descriptor word (Table 12-7). -/
def rawDescriptor (s : State) (kind : BitVec 2) (len : Nat) : W64 :=
  (1 : BitVec 1) ++ (0 : BitVec 13) ++ kind ++ (s.time.beat.setWidth 32 : BitVec 32) ++ (0 : BitVec 5) ++
    BitVec.ofNat 11 len

/-- The words that a frame becomes in the raw stream (R491). -/
def rawWords (s : State) (kind : BitVec 2) (bs : List Byte) : List W64 :=
  rawDescriptor s kind bs.length :: dataWords bs

/-- Words fit in the take side (Table 01-6). -/
def rawFits (s : State) (r : RowId) (n : Nat) : Bool := decide ((rawTake s r).length + n ≤ 256)

/-- A frame is placed whole, or discarded and counted (R491). -/
def placeRaw (s : State) (r : RowId) (kind : BitVec 2) (bs : List Byte) : State :=
  let ws := rawWords s kind bs
  if rawFits s r ws.length then setRawTake s r (rawTake s r ++ ws)
  else setRow s r (rowCount (rowAt s r) 4 1)

/-- ANSWER frames that wait are placed as far as they fit, in order (R491). -/
def settleAnswers (fuel : Nat) (s : State) (r : RowId) : State :=
  match fuel, (rowAt s r).answers with
  | k + 1, a :: rest =>
    if rawFits s r (a.length / 8) then
      settleAnswers k (setRawTake (setRow s r { rowAt s r with answers := rest }) r (rawTake s r ++ payloadWords a)) r
    else s
  | _, _ => s

/-! ## Frames received -/

/-- A frame passes its FCS: it is counted, and a row token frame's hop fields are taken (R484, R485). -/
def hopTaken (s : State) (r : RowId) (bs : List Byte) : State :=
  let p := rowCount (rowAt s r) 0 1
  settleReady (setRow s r { p with nLcredit := half bs 22, nFcredit := half bs 24, lr := half bs 26, fr := half bs 28,
                                   want := (rfFlags bs).getLsbD 0 }) r

/-- A frame of the local pool fits in the local receive buffer; its sender may not exceed the grant (R41, R485; log 21). -/
def fitsLocal (s : State) (r : RowId) (bs : List Byte) : Bool := decide (localHeld s r + rfLen bs / 20 ≤ 64)

/-- A forwarded frame's blocks fit in the forwarding buffer (R41, R485; log 21). -/
def fitsForward (s : State) (r : RowId) (bs : List Byte) : Bool := decide (blocksHeld s r + rfBlocks bs ≤ 64)

/-- An addressed frame, of FTYPE 0x01 to 0x03 (R480). -/
def isAddressed (bs : List Byte) : Bool := ([1, 2, 3] : List Nat).contains (rfType bs).toNat

/-- The bytes that an ANSWER frame's words hold. -/
def answerWords (s : State) (bs : List Byte) : List Byte := (rawWords s 2 bs).flatMap fun w => leBytes 8 w.toNat

/-- An ANSWER frame is placed whole in the raw stream, or waits until it fits; local credits stop meanwhile (R491). -/
def takeAnswerFrame (s : State) (r : RowId) (words : List Byte) : State :=
  let s1 := setRow s r { rowAt s r with answers := (rowAt s r).answers ++ [words] }
  settleAnswers ((rowAt s r).answers.length + 1)
    (if (rowAt s r).answers = [] then setRow s1 r { rowAt s1 r with limit := localCredit s1 r } else s1) r

/-- An ANSWER or UNDELIVERABLE frame for this node is taken in, its words given (R491, R497). -/
def takeKept (r : RowId) (s : State) (words : List Byte) : State :=
  if (rfType (words.drop 8)).toNat = 2 then takeAnswerFrame s r words else convertFrame r s (words.drop 8)

/-- STEADY rises: the frames kept for it are taken in, in their order (R50). -/
def takeAllKept (s : State) (r : RowId) : State :=
  (rowAt s r).kept.foldl (takeKept r) (setRow s r { rowAt s r with kept := [] })

/-- An addressed frame for this node: the tokens of a TOKENS frame are stamped in order (R482, R501, R503); an ANSWER or
UNDELIVERABLE frame is taken in at once, or after STEADY (R50). -/
def takeAddressed (s : State) (r : RowId) (bs : List Byte) : Host.Outcome State Fault Refusal :=
  if !fitsLocal s r bs then unpredictable 485 s
  else if (rfType bs).toNat = 1 then
    if (rfTokens bs).any (fun t => kindOf t.flags == 1) then unpredictable 122 s
    else .next (stampAll s 7 (isB r).toNat
      ((rfTokens bs).map fun t => .row (isB r) (rfSrc bs) t ((rfFlags bs).extractLsb' 4 3)))
  else if s.pwr.steady then .next (takeKept r s (answerWords s bs))
  else .next (setRow s r { rowAt s r with kept := (rowAt s r).kept ++ [answerWords s bs] })

/-- An addressed frame for another node waits for the other port (R487); at the end of a chain it is discarded and counted
(R79). -/
def forwardFrame (s : State) (r : RowId) (bs : List Byte) : Host.Outcome State Fault Refusal :=
  if !rowOn s.straps (otherRow r) then .next (setRow s r (rowCount (rowAt s r) 3 1))
  else if !fitsForward s r bs then unpredictable 485 s
  else .next (queueForward s (otherRow r) bs)

/-- A HELLO teaches the neighbour's node ID; with SEEN it makes the hop usable (R494). -/
def takeHello (s : State) (r : RowId) (bs : List Byte) : State :=
  let p := { rowAt s r with heard := true, neighbor := some (rfSrc bs) }
  settleReady (setRow s r
    (if (rfFlags bs).getLsbD 1 then { p with usable := true, everUp := true, grace := false, graceOver := false }
     else p)) r

/-- A row token frame of a good format (Table 12-6). A LINK frame carries the hop's credits alone (R484). -/
def takeRowFrame (s : State) (r : RowId) (bs : List Byte) : Host.Outcome State Fault Refusal :=
  if isAddressed bs then (if forThisNode s bs then takeAddressed s r bs else forwardFrame s r bs)
  else if rfType bs = 4 then .next (placeRaw s r 1 bs)
  else if rfType bs = 6 then .next (takeHello s r bs)
  else .next s

/-- A frame that fails, or counts as failing, its FCS is discarded and counted (R475, R480). One for another node has
reached the other port only if its cut-through had begun, and then its copy ends with a bad FCS (R489): whether it had is
left open (log 22). -/
def failFrame (s : State) (r : RowId) (bs : List Byte) : State :=
  let s1 := bumpFree (setRow s r (rowCount (rowAt s r) 1 1))
  let p := rowAt s (otherRow r)
  let begun := decide (30 ≤ bs.length) && isTokenFrame bs && isAddressed bs && !forThisNode s bs &&
    rowOn s.straps (otherRow r) && p.usable && !p.helloDue && !p.linkDue && p.fwd.isEmpty && addressedReady p bs
  if begun && (freeNow s).getLsbD 0 then sendAddressed s1 (otherRow r) bs false else s1

/-- A frame reaches a row port, its FCS right or wrong: what it is, its bytes say (R475, R480, R23). Without a PHY link
none arrives. -/
def receiveRow (s : State) (r : RowId) (bs : List Byte) (fcs : Bool) : Host.Outcome State Fault Refusal :=
  if !rowUp s r || !(rowAt s r).phyUp then .next s
  else if !fcs || !sizeGood bs then .next (failFrame s r bs)
  else if !isTokenFrame bs then .next (placeRaw (setRow s r (rowCount (rowAt s r) 0 1)) r 0 bs)
  else if !formatGood bs then .next (failFrame s r bs)
  else if reservedSet bs then unpredictable 23 s
  else takeRowFrame (hopTaken s r bs) r bs

/-- A TOKENS frame for this node: its tokens are stamped in order (R482, R501, R503). -/
def execRowTokensFrame (port : RowId) (bytes : List (BitVec 8)) (s : State) : Host.Outcome State Fault Refusal :=
  receiveRow s port bytes true

/-- An ANSWER frame for this node: placed whole in the raw stream, or kept until it fits (R491). -/
def execRowAnswerFrame (port : RowId) (bytes : List (BitVec 8)) (s : State) : Host.Outcome State Fault Refusal :=
  receiveRow s port bytes true

/-- An UNDELIVERABLE frame for this node: each token becomes a REMOTE_UNREACHABLE fault token (R497). -/
def execRowUndeliverableFrame (port : RowId) (bytes : List (BitVec 8)) (s : State) : Host.Outcome State Fault Refusal :=
  receiveRow s port bytes true

/-- A SINK frame is placed whole in the raw stream, or discarded (R491). -/
def execRowSinkFrame (port : RowId) (bytes : List (BitVec 8)) (s : State) : Host.Outcome State Fault Refusal :=
  receiveRow s port bytes true

/-- A LINK frame carries the hop's credits (R484). -/
def execRowLinkFrame (port : RowId) (bytes : List (BitVec 8)) (s : State) : Host.Outcome State Fault Refusal :=
  receiveRow s port bytes true

/-- A HELLO teaches the neighbour's node ID; with SEEN it makes the hop usable (R494). -/
def execRowHelloFrame (port : RowId) (bytes : List (BitVec 8)) (s : State) : Host.Outcome State Fault Refusal :=
  receiveRow s port bytes true

/-- A raw frame is placed in the raw stream, or discarded and counted (R475, R491). -/
def execRowRawFrame (port : RowId) (bytes : List (BitVec 8)) (s : State) : Host.Outcome State Fault Refusal :=
  receiveRow s port bytes true

/-- A frame whose FCS is wrong, or whose length or format is, is discarded and counted (R475, R480). One whose format
is good has a wrong FCS. A frame that its link cut short arrives as such a one before the ROW_LINK_LOSS (R489, log 22). -/
def execRowBadFrame (port : RowId) (bytes : List (BitVec 8)) (s : State) : Host.Outcome State Fault Refusal :=
  receiveRow s port bytes false

/-- An addressed frame for another node (R487, R489). -/
def execRowForwardFrame (port : RowId) (bytes : List (BitVec 8)) (good : Bool) (s : State) :
    Host.Outcome State Fault Refusal :=
  receiveRow s port bytes good

/-! ## Sending (R490) -/

/-- The dump bytes that a row sink takes next: 1024 at most (R481). -/
def dumpChunk (s : State) : List Byte :=
  match s.tab.dump, s.tab.held with
  | some d, some bs => (bs.drop d.pos).take 1024
  | _, _ => []

/-- The dump after a chunk has been handed to a row port. -/
def afterChunk (s : State) (r : RowId) (n : Nat) : State :=
  let s1 := { s with tab := { s.tab with dump := s.tab.dump.map fun d => { d with pos := d.pos + n } } }
  if dumpChunk s1 = [] then s1 else queueOwn s1 r (.dump (dumpChunk s1))

/-- The tokens of one DST among what waits, at most `n`. -/
def sameDst (dst : BitVec 12) (n : Nat) : List RowOwn → List RowOwn
  | [] => []
  | o :: r => match n, o with
    | 0, _ => []
    | k + 1, .token d t => if d = dst then .token d t :: sameDst dst k r else sameDst dst (k + 1) r
    | k, _ => sameDst dst k r

/-- The tokens among waiting frames. -/
def tokensOf : List RowOwn → List Token
  | [] => []
  | .token _ t :: r => t :: tokensOf r
  | _ :: r => tokensOf r

/-- An own frame made before with the port's WANT as it is now (R486). -/
def markWant (p : RowPort) (bs : List Byte) : List Byte :=
  bs.take 15 ++ [rfFlags bs &&& 0xFE ||| BitVec.setWidth 8 (BitVec.ofBool (wantsCredit p))] ++ bs.drop 16

/-- An own frame is sent (R481, R490, R492). -/
def sendOwn (s : State) (r : RowId) (o : RowOwn) : State :=
  let p := rowAt s r
  let less := fun (os : List RowOwn) =>
    setRow s r { p with own := eraseAll p.own os, ready := eraseAll p.ready os, fwdTurn := true }
  match o with
  | .token d _ =>
    let os := sameDst d (tokensAdmitted p d) p.own
    sendAddressed (less os) r (rowFrame s p 1 (some d) false false ((tokensOf os).flatMap (wireToken s))) true
  | .answer d _ ts => sendAddressed (less [o]) r (rowFrame s p 2 (some d) false false (ts.flatMap (wireToken s))) true
  | .undeliverable f => sendAddressed (less [o]) r (markWant p f) true
  | .sink t => sendRow (less [o]) r (rowFrame s p 4 none false false (wireToken s t)) 0 0 true
  | .dump bs => afterChunk (sendRow (less [o]) r (rowFrame s p 4 none false true bs) 0 0 true) r bs.length
  | .raw bs =>
    let s1 := less [o]
    emit (setRawPut s1 r ((rawPut s1 r).drop (1 + (bs.length + 7) / 8))) (.row (isB r) (padFrame bs) true)

/-- A forwarded frame is sent (R487). -/
def sendForward (s : State) (r : RowId) (f : List Byte) : State :=
  let p := rowAt s r
  sendAddressed (setRow s r (rowCount { p with fwd := p.fwd.erase f, fwdTurn := false } 2 1)) r f true

/-- The first forwarded frame whose credits are there; frames of one pool keep their order. -/
def forwardNext (p : RowPort) : Option (List Byte) :=
  ([p.fwd.find? (fun f => chargedLocal p (rfDst f)), p.fwd.find? (fun f => !chargedLocal p (rfDst f))].filterMap
    (fun x => x.filter (addressedReady p))).head?

/-- A grant has advanced by 16 or more since the port last sent it (R486). -/
def grantAdvanced (s : State) (r : RowId) : Bool :=
  decide (16 ≤ creditLeft (grantLocal s r) (rowAt s r).gLcredit) ||
    decide (16 ≤ creditLeft (grantForward s r) (rowAt s r).gFcredit)

/-- What a port sends at a frame boundary: a HELLO, a LINK, or a forwarded and an own frame by turns (R490). -/
def sendNext (s : State) (r : RowId) : Option State :=
  let p := rowAt s r
  if p.helloDue then
    some (sendRow (setRow s r { p with helloDue := false }) r (rowFrame s p 6 none p.heard false []) 0 0 true)
  else if !p.usable then none
  else if p.linkDue || grantAdvanced s r then
    some (sendRow (setRow s r { p with linkDue := false }) r (rowFrame s p 5 none false false []) 0 0 true)
  else match p.fwdTurn, forwardNext p, p.ready.head? with
  | true, some f, _ => some (sendForward s r f)
  | _, _, some o => some (sendOwn s r o)
  | _, some f, none => some (sendForward s r f)
  | _, none, none => none

/-- A port is at a frame boundary (R490). -/
def execRowFrameSend (port : RowId) (s : State) : Host.Outcome State Fault Refusal :=
  if !rowUp s port then .next s
  else if !(rowAt s port).phyUp then .refused .wrongPhase
  else match sendNext s port with
  | some t => .next (settleReady t port)
  | none => .refused .nothingWaiting

/-- 500 µs with a changed grant, or 10 ms, have passed since the port last sent a frame: a LINK frame falls due (R486). -/
def execRowLinkFrameDue (port : RowId) (s : State) : Host.Outcome State Fault Refusal :=
  if !rowUp s port then .next s
  else if !(rowAt s port).usable then .refused .wrongPhase
  else .next (setRow s port { rowAt s port with linkDue := true })

/-- A HELLO falls due (R494). -/
def execRowHelloTimer (port : RowId) (s : State) : Host.Outcome State Fault Refusal :=
  if !rowUp s port then .next s
  else if !(rowAt s port).phyUp then .refused .wrongPhase
  else .next (setRow s port { rowAt s port with helloDue := true })

/-! ## Link start and loss (R493 to R496) -/

/-- The port's PHY detects a neighbour that trains (R493). Before fabric up the port does not train. -/
def execNeighbourTrainingDetected (port : RowId) (s : State) : Host.Outcome State Fault Refusal :=
  if !rowUp s port || !s.pwr.started || (rowAt s port).phyUp then .next s
  else .next (setRow s port { rowAt s port with training := true })

/-- The PHY link is established: the counts of the hop are reset (R485, R494). -/
def execRowPhyLinkUp (port : RowId) (s : State) : Host.Outcome State Fault Refusal :=
  let p := rowAt s port
  if !rowUp s port then .next s
  else if !p.training || p.phyUp then .refused .wrongPhase
  else .next (settleReady (setRow s port
    { p with phyUp := true, heard := false, lr := 0, fr := 0, lnext := 0, fnext := 0, nLcredit := 0, nFcredit := 0,
             gLcredit := 0, gFcredit := 0, limit := 0 }) port)

/-- A port's link goes down (R495): one that was up is reported and its grace begins; a load through the port is
abandoned, even one that came before the hop was usable from this side (R159). -/
def rowDown (s : State) (r : RowId) : State :=
  let p := rowAt s r
  let waits := !p.own.isEmpty || !p.fwd.isEmpty
  let q := { p with phyUp := false, heard := false, usable := false, training := waits, helloDue := false,
                    linkDue := false, want := false, grace := p.grace || p.usable }
  abandonLoad (if p.usable then linkDownReport (setRow s r (rowCount q 6 1)) r else setRow s r q) (.row (isB r) 0)

/-- A row link goes down (R495). -/
def execRowLinkLoss (port : RowId) (s : State) : Host.Outcome State Fault Refusal :=
  if !rowUp s port then .next s
  else if !(rowAt s port).phyUp then .refused .wrongPhase
  else .next (rowDown s port)

/-- The grace ends: a port that has not been up is reported, and what waits is treated (R495, R496, Table 12-8). -/
def execRowGraceExpired (port : RowId) (s : State) : Host.Outcome State Fault Refusal :=
  let p := rowAt s port
  if !rowUp s port then .next s
  else if !p.grace || p.usable then .refused .wrongPhase
  else
    let s1 := setRow s port { p with grace := false, graceOver := true, fwd := [] }
    let s2 := if p.everUp then s1 else linkDownReport s1 port
    .next (settleReady (p.fwd.foldl (treatForward port) (treatWaiting s2 port)) port)

/-! ## Tokens that leave through a row port (R38, R478, R481) -/

/-- The port on the way to a node (R477). -/
def portToward (s : State) (home : BitVec 12) : RowId := if nodeId s.straps < home then .b else .a

/-- A token for a remote context: queued for its port, or converted at once (R478). -/
def remoteToken (s : State) (home : BitVec 12) (t : Token) : State :=
  let x := s.straps
  let r := portToward s home
  let back := fun (info : BitVec 48) => nodeReport s fRemote 0xB info (packTag (tokenTag t))
  if home = nodeId x then back (rowInfo .a 0 home)
  else if nodeUnassigned x then back (rowInfo .a 2 home)
  else if !rowOn x r then back (rowInfo r 4 home)
  else queueOwn s r (.token home t)

/-- The number of data words that a status word announces (R143). -/
def wordsAnnounced (t : Token) : Nat := (t.value.extractLsb' 8 16).toNat

/-- An answer that has `more` tokens to come: a frame holds at most 64 of them (R142, R481). -/
def grownAnswer (dst : BitVec 12) (more : Nat) (ts : List Token) : List RowOwn :=
  if more = 0 then [.answer dst 0 ts]
  else if ts.length = 64 then [.answer dst 0 ts, .answer dst more []]
  else [.answer dst more ts]

/-- The waiting frames with a token added to the answer that is being collected for its node; `none` where there is no such
answer. -/
def addToAnswer (dst : BitVec 12) (t : Token) : List RowOwn → Option (List RowOwn)
  | [] => none
  | .answer d (more + 1) ts :: r =>
    if d = dst then some (grownAnswer d more (ts ++ [t]) ++ r)
    else (addToAnswer dst t r).map (.answer d (more + 1) ts :: ·)
  | o :: r => (addToAnswer dst t r).map (o :: ·)

/-- An answer's token joins the answer being collected for its node, or begins one (R142, R143, R481). -/
def collectAnswer (s : State) (r : RowId) (dst : BitVec 12) (t : Token) : State :=
  match addToAnswer dst t (rowAt s r).own with
  | some own => setOwn s r own
  | none => queueOwn s r (.answer dst (wordsAnnounced t) [t])

/-- How many own frames of a kind wait. -/
def ownCount (p : RowPort) (kind : RowOwn → Bool) : Nat := (p.own.filter kind).length

/-- A token for a remote context that waits. -/
def isOwnToken : RowOwn → Bool | .token _ _ => true | _ => false
/-- A token of the port's sink context that waits. -/
def isOwnSink : RowOwn → Bool | .sink _ => true | _ => false
/-- A whole ANSWER frame that waits. -/
def isOwnAnswer : RowOwn → Bool | .answer _ more _ => more == 0 | _ => false

/-- A port takes `n` tokens more of its sink context (R41; log 68). -/
def sinkRoom (p : RowPort) (n : Nat) : Bool := decide (ownCount p isOwnSink + n ≤ 64)

/-- The port of a row sink context (Table 04-6). -/
def sinkPort (c : BitVec 14) : Option RowId := if c = 3 then some .a else if c = 4 then some .b else none

/-- Where a token at tile 56 leaves for: a sink context's port, the node of a request that is answered, or a home node. -/
inductive RowLeaving where
  | sink (r : RowId)
  | answer (r : RowId) (node : BitVec 12)
  | home (node : BitVec 12)
  deriving DecidableEq, Repr

/-- Where a token leaves for (R38, R142, R478, R481). -/
def leavingFor (f : Flit) (t : Token) : RowLeaving :=
  match sinkPort t.context, f.origin with
  | some r, _ => .sink r
  | none, .row b node => if t.context = 0 then .answer (portIdOf b) node else .home f.home
  | none, _ => .home f.home

/-- The port takes a token now: at most one frame's worth of each kind waits there, and further ones wait in the weave
(R41; log 68). -/
def rowAccepts (s : State) (l : RowLeaving) : Bool :=
  match l with
  | .sink r => sinkRoom (rowAt s r) 1
  | .answer r _ => ownCount (rowAt s r) isOwnAnswer == 0
  | .home node => decide (ownCount (rowAt s (portToward s node)) isOwnToken < 64)

/-- A token that a row port's face takes: not one for a sink that the straps leave unpowered (R132). -/
def rowTakes (s : State) (f : Flit) : Bool :=
  match f.msg with
  | .token t => (match sinkPort t.context with | some r => rowOn s.straps r | none => true)
  | _ => false

/-- A token that a row port takes now. -/
def rowTakesNow (s : State) (f : Flit) : Bool :=
  rowTakes s f && (match f.msg with | .token t => rowAccepts s (leavingFor f t) | _ => false)

/-- A token leaves the weave for a row port. -/
def leaveByRow (s : State) (t : Token) : RowLeaving → State
  | .sink r => queueOwn s r (.sink t)
  | .answer r node => collectAnswer s r node t
  | .home node => remoteToken s node t

/-- A token reaches tile 56's extra port (R38, R142, R478, R481). While every port that the tokens there are for is full,
they wait (R41). -/
def execTokenToRowFace (net3 : Bool) (s : State) : Host.Outcome State Fault Refusal :=
  let vn : BitVec 2 := if net3 then 3 else 0
  if !tileUp s 56 then .next s
  else match takeHead s.weave 56 true vn (rowTakesNow s) (rowTakesNow s) with
  | some f =>
    (match f.msg with
     | .token t => .next (leaveByRow (taken s 56 true f) t (leavingFor f t))
     | _ => .refused .nothingWaiting)
  | none => if (outAt s.weave (outKey 56 true vn)).any (rowTakes s) then .next s else .refused .nothingWaiting

end Sys2Proof.Machine
end

