-- ==== Sys2Proof/Machine/Faces.lean ====
section
/-! DEFINITION. What the blocks at the extra ports serve: keep memory and the flash window (R310 to R312), the stream ports
(R147, R148), the sinks (R131, R132), and read data that returns (R199, R432). -/

namespace Sys2Proof.Machine

open Sys2Proof

/-! ## Keep memory (R227, R310) -/

/-- The address of a memory request. -/
def flitAddr (f : Flit) : Option Addr :=
  match f.msg with
  | .read a _ _ => some a
  | .write a _ _ _ _ => some a
  | .iread q => some q.addr
  | .iwrite a _ _ _ => some a
  | .iclear a _ => some a
  | _ => none

/-- A request to keep memory. -/
def isKeep (f : Flit) : Bool := match flitAddr f with | some a => rangeOf a == .keep | none => false
/-- A request to the flash window. -/
def isFlash (f : Flit) : Bool := match flitAddr f with | some a => rangeOf a == .flash | none => false
/-- A request that keep memory's service takes in turn: without a flash controller, flash-window requests too (R69,
R310). -/
def keepTurn (s : State) (f : Flit) : Bool := isKeep f || (isFlash f && !flashOn s.straps)

/-- A keep word as a read finds it (Table 08-4). -/
def keepWord (m : Mem) (a : Addr) : Except (BitVec 8) W64 := if wordBad m a then .error fEcc else .ok (wordAt m a)

/-- A write to keep memory; a partial write of a word with a double-bit error fails (Table 08-4). -/
def keepWrite (s : State) (a : Addr) (mask : BitVec 8) (v : W64) (wf : WriteFor) (tag0 : W64) : State :=
  if wordBad s.mem a && mask != 0xFF then
    let s1 := { s with mem := countDouble s.mem .keep }
    match wf with
    | .host => s1
    | _ => firingReport s1 tag0 fEcc (writeAccess wf mask) (wordAddr a)
  else
    let m := if mask = 0xFF then s.mem else checkWord s.mem .keep a
    { s with mem := setEcc (putWord m a (mergeWord (wordAt m a) v mask)) a.toNat .ok }

/-- Keep memory serves one request: there ILOAD acts as LD, ISTORE as ST, and ICLEAR has no effect (R227). -/
def keepServe (s : State) (f : Flit) : State :=
  match f.msg with
  | .read a rf tag0 =>
    answerRead { s with mem := checkWord s.mem .keep a } .keep f.pri a rf tag0 (wordAddr a) (keepWord s.mem a)
  | .write a mask v wf tag0 => keepWrite s a mask v wf tag0
  | .iread q => answerIread { s with mem := checkWord s.mem .keep q.addr } .keep f.pri q (keepWord s.mem q.addr)
  | .iwrite a v e tag0 =>
    let s1 := keepWrite s a 0xFF v .store tag0
    (match e with | some e => resolveElement s1 .keep e true tag0 0 | none => s1)
  | _ => s

/-- Tile 63's extra port serves a keep-memory request (R310). -/
def execKeepAccess (s : State) : Host.Outcome State Fault Refusal :=
  if !tileUp s 63 then .next s
  else match takeHead s.weave 63 true 1 (keepTurn s) isKeep with
  | some f => .next (keepServe (taken s 63 true f) f)
  | none => .refused .nothingWaiting

/-! ## The flash window (R69, R312) -/

/-- A byte of the flash window: all ones without flash, and beyond the fitted part whatever it gives (R69, R312). -/
def flashByte (s : State) (off : Nat) : Byte :=
  if !flashOn s.straps then 0xFF
  else if off < s.mem.flashSize then mget 0 s.mem.flash off
  else Config.flashBeyond off

/-- The word of the flash window that holds an address. -/
def flashWord (s : State) (a : Addr) : W64 :=
  BitVec.ofNat 64 (leNat ((List.range 8).map fun i => flashByte s ((a.toNat - 0x20000000) / 8 * 8 + i)))

/-- A read command to the flash, of the mode that CFG_FLASH selects, with a 3-byte address (R69, R312). -/
def flashCommand (s : State) (off len : Nat) : State :=
  if flashOn s.straps then
    let m := flashMode s.straps
    emit s (.flashRead m.1 m.2.1 m.2.2 (BitVec.ofNat 24 off) len)
  else s

/-- The read command of one window word. -/
def windowCommand (s : State) (a : Addr) : State := flashCommand s ((a.toNat - 0x20000000) / 8 * 8) 8

/-- The flash controller serves one request; a write has no effect (R227). -/
def flashServe (s : State) (f : Flit) : State :=
  match f.msg with
  | .read a rf tag0 => answerRead (windowCommand s a) (.extra 63) f.pri a rf tag0 (wordAddr a) (.ok (flashWord s a))
  | .iread q => answerIread (windowCommand s q.addr) (.extra 63) f.pri q (.ok (flashWord s q.addr))
  | .iwrite _ _ (some e) tag0 => resolveElement s (.extra 63) e true tag0 0
  | _ => s

/-- The host reads the expansion ROM window: which bytes, no command tells, so they are at a free offset and of a free
number (R434; log 93). -/
def romRead (s : State) : State :=
  let off := (freeNow s).toNat % 2 ^ 24
  let len := min ((Config.freeValue (s.freeCounter + 1)).toNat % 4096 + 1) (2 ^ 24 - off)
  completions (flashCommand { s with freeCounter := s.freeCounter + 2 } off len) off
    ((List.range len).map fun i => (flashByte s (off + i), false))

/-- The flash controller serves a window read, of the fabric or of the expansion ROM window; while the steward reads an
image, or under EXTEST, it waits (R312, R434, R609, R633). -/
def execFlashWindowRead (s : State) : Host.Outcome State Fault Refusal :=
  let waits := s.stw.boot == .reading || s.jtag.ir == 0
  if !tileUp s 63 then .next s
  else match takeHead s.weave 63 true 1 (if flashOn s.straps then isFlash else keepTurn s) isFlash with
  | some f => if waits then .next s else .next (flashServe (taken s 63 true f) f)
  | none =>
    if !romOpen s then .refused .nothingWaiting
    else if waits then .next s else .next (romRead s)

/-! ## Stream ports (R147, R148, Table 04-10) -/

/-- The tile at which a stream port is attached. -/
def portTile (p : BitVec 8) : TileId := (portDest p).1

/-- A TAKE from a port. -/
def isTake (p : BitVec 8) (f : Flit) : Bool := match f.msg with | .take q _ _ _ => q == p | _ => false
/-- A PUT to a port. -/
def isPut (p : BitVec 8) (f : Flit) : Bool := match f.msg with | .put q _ => q == p | _ => false
/-- A request to a port: one port's requests are served in the order of their arrival (R148). -/
def isPortRequest (p : BitVec 8) (f : Flit) : Bool := isTake p f || isPut p f

/-- The take side of a port. -/
def takeSide (s : State) (p : BitVec 8) : List W64 :=
  match p.toNat with
  | 0 => s.streams.fieldIn
  | 2 => s.streams.rowTakeA
  | 3 => s.streams.rowTakeB
  | 4 => s.streams.shTake
  | 5 => s.streams.alarm
  | _ => []

/-- The stream ports with the take side of one replaced. -/
def setTakeSide (x : Streams) (p : BitVec 8) (ws : List W64) : Streams :=
  match p.toNat with
  | 0 => { x with fieldIn := ws }
  | 2 => { x with rowTakeA := ws }
  | 3 => { x with rowTakeB := ws }
  | 4 => { x with shTake := ws }
  | 5 => { x with alarm := ws }
  | _ => x

/-- What a TAKE delivers: the next word, or the last one taken with UNDERRUN (R147). -/
def takeAnswer (s : State) (p : BitVec 8) : W64 × BitVec 10 :=
  match takeSide s p with
  | w :: _ => (w, 0)
  | [] => (mget 0 s.streams.last p.toNat, flagUnderrun)

/-- The state after a word has been taken. -/
def afterTake (s : State) (p : BitVec 8) : State :=
  match takeSide s p with
  | [] => s
  | w :: rest =>
    let x := setTakeSide s.streams p rest
    let s1 := { s with streams := { x with last := mset 0 x.last p.toNat w } }
    if p = 2 then settleAnswers s1.rowA.answers.length s1 .a
    else if p = 3 then settleAnswers s1.rowB.answers.length s1 .b
    else s1

/-- A stream port serves a TAKE (R147, R148). -/
def execStreamTakeRequest (port : BitVec 8) (s : State) : Host.Outcome State Fault Refusal :=
  if 6 ≤ port.toNat then .refused .nothingWaiting
  else if !tileUp s (portTile port) then .next s
  else match takeHead s.weave (portTile port) true 1 (isPortRequest port) (isTake port) with
  | some f =>
    (match f.msg with
     | .take _ tag dl fl =>
       let a := takeAnswer s port
       .next (placeSend (afterTake (taken s (portTile port) true f) port) (.extra (portTile port)) f.pri
         (.token (tokenTo tag a.1 dl fl a.2)))
     | _ => .refused .nothingWaiting)
  | none => .refused .nothingWaiting

/-- A word or token sent to a face that the straps leave unpowered is counted (R132, R492). -/
def countDiscard (s : State) : State := { s with stw := { s.stw with sinkDiscards := satAdd s.stw.sinkDiscards 1 } }

/-- Words of the put side that belong to frames already complete (R492). -/
def wholeWords (p : RowPort) : Nat :=
  (p.own.map fun o => match o with | .raw bs => 1 + (bs.length + 7) / 8 | _ => 0).sum

/-- LENGTH of a raw descriptor word (Table 12-7). -/
def rawLength (w : W64) : Nat := (w.setWidth 11 : BitVec 11).toNat

/-- The bytes of data words. -/
def wordBytes (ws : List W64) : List Byte := ws.flatMap fun w => leBytes 8 w.toNat

/-- What a PUT to a raw stream meets: it is taken, with the state after it; it waits; or a reserved bit is set. -/
inductive Put where
  | done (s : State)
  | waits
  | reserved
  deriving DecidableEq, Repr

/-- A discarded put word (R492). -/
def rawPutError (s : State) (r : RowId) (n : Nat) : State := setRow s r (rowCount (rowAt s r) 5 n)

/-- A word reaches the put side of a raw stream (R492). -/
def rawPutWord (s : State) (r : RowId) (w : W64) : Put :=
  let p := rowAt s r
  let part := (rawPut s r).drop (wholeWords p)
  let room := decide ((rawPut s r).length < 256)
  match part with
  | [] =>
    if !w.getLsbD 63 || decide (rawLength w < 14) || decide (1514 < rawLength w) then .done (rawPutError s r 1)
    else if w.extractLsb' 50 13 != 0 || w.extractLsb' 11 5 != 0 then .reserved
    else if room then .done (setRawPut s r (rawPut s r ++ [w])) else .waits
  | d :: data =>
    let len := rawLength d
    if !room then .waits
    else if data.length + 1 < (len + 7) / 8 then .done (setRawPut s r (rawPut s r ++ [w]))
    else
      let bs := (wordBytes (data ++ [w])).take len
      if isTokenFrame bs then
        .done (rawPutError (setRawPut s r ((rawPut s r).take (wholeWords p))) r (2 + data.length))
      else .done (queueOwn (setRawPut s r (rawPut s r ++ [w])) r (.raw bs))

/-- A PUT word at its port (R132, R147, R492). -/
def putWordAt (s : State) (port : BitVec 8) (v : W64) : Put :=
  match port.toNat with
  | 1 => if s.streams.fieldOut.length < 16 then
           .done { s with streams := { s.streams with fieldOut := s.streams.fieldOut ++ [v] } } else .waits
  | 2 => if rowAOn s.straps then rawPutWord s .a v else .done (countDiscard s)
  | 3 => if rowBOn s.straps then rawPutWord s .b v else .done (countDiscard s)
  | _ => if !shutOn s.straps then .done (countDiscard s)
         else if s.streams.shPut.length < 128 then
           .done { s with streams := { s.streams with shPut := s.streams.shPut ++ [v] } } else .waits

/-- A stream port takes a PUT word when it has room (R147, R148). -/
def execStreamPutRequest (port : BitVec 8) (s : State) : Host.Outcome State Fault Refusal :=
  if port = 0 ∨ 5 ≤ port.toNat then .refused .nothingWaiting
  else if !tileUp s (portTile port) then .next s
  else match takeHead s.weave (portTile port) true 1 (isPortRequest port) (isPut port) with
  | some f =>
    (match f.msg with
     | .put _ v =>
       (match putWordAt (taken s (portTile port) true f) port v with
        | .done t => .next t
        | .waits => .next s
        | .reserved => unpredictable 23 s)
     | _ => .refused .nothingWaiting)
  | none => .refused .nothingWaiting

/-! ## Sinks (R131, R132) -/

/-- A token of a network at an extra port, with its virtual network chosen by `net3`. -/
def tokenVn (net3 : Bool) : BitVec 2 := if net3 then 3 else 0

/-- The token of a flit. -/
def flitToken (f : Flit) : Option Token := match f.msg with | .token t => some t | _ => none

/-- A token for a sink whose face or port the straps leave unpowered (R132). -/
def sinkOff (s : State) (f : Flit) : Bool :=
  match flitToken f with
  | some t =>
    (t.context == 1 && !hostOn s.straps) || (t.context == 2 && !shutOn s.straps) ||
    (t.context == 3 && !rowAOn s.straps) || (t.context == 4 && !rowBOn s.straps)
  | none => false

/-- A token that its face takes. -/
def sinkOn (s : State) (f : Flit) : Bool := (flitToken f).isSome && !sinkOff s f

/-- An extra port's token goes to its sink: what the sink makes of it, `none` while it has no room. -/
def sinkToken (s : State) (t : TileId) (net3 : Bool) (kind : Flit → Bool) (body : State → Token → Option State) :
    Host.Outcome State Fault Refusal :=
  match takeHead s.weave t true (tokenVn net3) kind kind with
  | some f =>
    (match f.msg with
     | .token x => (match body (taken s t true f) x with | some u => .next u | none => .next s)
     | _ => .refused .nothingWaiting)
  | none => .refused .nothingWaiting

/-- A token bound for the host reaches the staging (R424); a full staging makes it wait (Table 01-6). The answer to
ATTACH_RING opens the ring (R421). -/
def execTokenToHostSink (net3 : Bool) (s : State) : Host.Outcome State Fault Refusal :=
  if !tileUp s 0 || !hostUp s then .next s
  else sinkToken s 0 net3 (sinkOn s) fun s1 x =>
    if stagingRoom s 1 || !s.host.bme then some (hostBound (afterAttach s1 x) [x]) else none

/-- A token for the shuttle partner reaches tile 7 (R472); without room in the face it waits (R41). -/
def execTokenToShuttleSink (net3 : Bool) (s : State) : Host.Outcome State Fault Refusal :=
  if !tileUp s 7 || !shuttleUp s then .next s
  else sinkToken s 7 net3 (sinkOn s) fun s1 x =>
    if shuttleRoom s.sh 1 then some (setShuttle s1 { s.sh with tx := s.sh.tx ++ [x] }) else none

/-- A token of context 5. -/
def isFieldToken (f : Flit) : Bool := match flitToken f with | some t => t.context == 5 | none => false

/-- A token to context 5 places its value in FIELD_OUT, or waits for room (R131, R147). -/
def execTokenToFieldSink (net3 : Bool) (s : State) : Host.Outcome State Fault Refusal :=
  if !tileUp s 63 || !selUp s then .next s
  else sinkToken s 63 net3 isFieldToken fun s1 x =>
    if s.streams.fieldOut.length < 16 then
      some { s1 with streams := { s.streams with fieldOut := s.streams.fieldOut ++ [x.value] } }
    else none

/-- A token for a sink that the straps leave unpowered is accepted, discarded and counted (R132). -/
def execSinkDiscard (t : TileId) (net3 : Bool) (s : State) : Host.Outcome State Fault Refusal :=
  if t ≠ 0 ∧ t ≠ 7 ∧ t ≠ 56 then .refused .nothingWaiting
  else if !tileUp s t then .next s
  else sinkToken s t net3 (sinkOff s) fun s1 _ => some (countDiscard s1)

/-! ## Read data that returns (R199, R247, R432) -/

/-- Table data in a cell's room. -/
def isTableData : Msg → Bool
  | .tableData _ _ _ => true
  | _ => false

/-- A table entry reaches the strand that waits for it; with every entry there, the lookup completes (R199, R250). -/
def tableEntry (s : State) (c : CellId) (second : Bool) (v : Option (BitVec 32)) : State :=
  let e := engineAt s c
  match e.phase with
  | .lookup l =>
    let l1 := if second then { l with second := some v } else { l with first := some v }
    (match l1.needTwo, l1.first, l1.second with
     | false, some a, _ =>
       lookupEnd s c l.precise l.rd l.after (a.map fun x => lookupValue l.float (mwRmode e.mode) l.frac x none)
     | true, some a, some b =>
       lookupEnd s c l.precise l.rd l.after
         (a.bind fun x => b.map fun y => lookupValue l.float (mwRmode e.mode) l.frac x (some y))
     | _, _, _ => setEngine s c { e with phase := .lookup l1 })
  | _ => s

/-- The first cell of a tile that runs and holds table data. -/
def tableCell (s : State) (t : TileId) : Option (CellId × Msg) :=
  (([0, 1, 2, 3] : List (BitVec 2)).filterMap fun i =>
    let c := cellOf t i
    if cellUp s c then ((cellAt s c).room.find? isTableData).map (c, ·) else none).head?

/-- Host data at tile 0's extra port. -/
def isHostData (f : Flit) : Bool := match f.msg with | .hostData _ _ _ => true | _ => false

/-- Read data reaches its requester (R199, R432). -/
def execDataReturn (t : TileId) (extra : Bool) (s : State) : Host.Outcome State Fault Refusal :=
  if !tileUp s t then .next s
  else if extra then
    (match takeHead s.weave t true 2 isHostData isHostData with
     | some f =>
       (match f.msg with
        | .hostData id v bad => .next (hostWordArrives (taken s t true f) id v bad)
        | _ => .refused .nothingWaiting)
     | none => .refused .nothingWaiting)
  else
    match tableCell s t with
    | some (c, .tableData d second v) =>
      let x := cellAt s c
      .next (tableEntry (setCell s c { x with room := x.room.erase (.tableData d second v) }) c second v)
    | _ => .refused .nothingWaiting

end Sys2Proof.Machine
end

