-- ==== Sys2Proof/Machine/Jtag.lean ====
section
/-! DEFINITION. The test access port (R630 to R633): each command shifts an instruction and its data register. -/

namespace Sys2Proof.Machine

open Sys2Proof

/-- The port operates while PD11 is powered (R630). -/
def jtagUp (s : State) : Bool := powered s 11

/-- EXTEST: the drive-and-observe balls take their boundary cell values, and flash reads wait (R632, R633). -/
def execExtest (cells : BitVec 8) (s : State) : Host.Outcome State Fault Refusal :=
  if jtagUp s then .next { s with jtag := { ir := 0, drive := cells } } else .next s

/-- SAMPLE/PRELOAD: the boundary cells are loaded, and the balls keep their functions (R633). -/
def execSamplePreload (cells : BitVec 8) (s : State) : Host.Outcome State Fault Refusal :=
  if jtagUp s then .next { s with jtag := { ir := 1, drive := cells } } else .next s

/-- The IDCODE register (R631). -/
def idcodeWord : BitVec 32 := Config.revMajor ++ (0x4840 : BitVec 16) ++ Config.manufacturer ++ (1 : BitVec 1)

/-- IDCODE: the identity register is shifted out (R631). -/
def execIdcode (s : State) : Host.Outcome State Fault Refusal :=
  if jtagUp s then .next (emit { s with jtag := { s.jtag with ir := 2 } } (.tdo idcodeWord)) else .next s

/-- BYPASS, or a reserved code, which is treated as BYPASS (Table 16-7). A code of another instruction selects that one, with
the boundary cells as they are. -/
def execBypass (code : BitVec 4) (s : State) : Host.Outcome State Fault Refusal :=
  if jtagUp s then .next { s with jtag := { s.jtag with ir := if code.toNat ≤ 2 then code else 15 } } else .next s

end Sys2Proof.Machine
end

