-- ==== Sys2Proof/Machine/Load.lean ====
section
/-! DEFINITION. Loading and starting an image: LOAD chunks and flash reads, verification, START (R155 to R160, R594, R595,
R634 to R639). -/

namespace Sys2Proof.Machine

open Sys2Proof

/-! ## Bytes of an image arrive (R150, R157) -/

/-- The section table has just become complete: the fills are set and the data that came before is written. -/
def tableArrived (s : State) (bs : List Byte) : State :=
  (sectionsOf bs).foldl (arrive 0 bs) ((sectionsOf bs).foldl fillSection s)

/-- More bytes of the load: a status with which it ends, or the state that has taken them. -/
def feed (s : State) (l : Load) (new : List Byte) : BitVec 8 × State :=
  let bs := l.bytes ++ new
  let s1 := { s with stw := { s.stw with load := some { l with bytes := bs } } }
  let status :=
    if l.bytes.length < 64 && decide (64 ≤ bs.length) && headerStatus bs != 0 then headerStatus bs
    else if !tableHere l.bytes && tableHere bs then tableStatus bs
    else 0
  if status ≠ 0 then (status, s1)
  else if !tableHere bs then (0, s1)
  else if !tableHere l.bytes then (0, tableArrived s1 bs)
  else (0, (sectionsOf bs).foldl (arrive l.bytes.length new) s1)

/-! ## LOAD (R156 to R159) -/

/-- A face may send LOAD under the boot source in effect (R158, Table 15-4). -/
def faceAdmitted (x : Straps) (o : Origin) : Bool :=
  match (bootSource x).1.toNat, o with
  | 2, .host => true
  | 3, .shuttle => true
  | 4, .row b _ => !b
  | 5, .host => true
  | 7, .strand => false
  | 7, _ => true
  | _, _ => false

/-- The load is complete and its status not yet known. -/
def verifying (s : State) : Bool :=
  match s.stw.load with
  | some l => imageHere l.bytes
  | none => false

/-- A LOAD is answered BUSY (R158; log 27). -/
def loadBusy (s : State) (o : Origin) : Bool :=
  s.stw.started ||
  ((bootSource s.straps).1 == 5 && (s.stw.boot == .reading || s.stw.boot == .verifying)) ||
  (match s.stw.load with
   | some l => (match l.face with | some f => !sameFace f o | none => true) || verifying s
   | none => false)

/-- The chunk index of a LOAD (Table 04-8). -/
def chunkIndex (t : Token) : Nat := t.iaddr.toNat * 65536 + t.iteration.toNat

/-- A chunk that the load takes (R156, R157): the header or table may end it. -/
def takeChunk (s : State) (l : Load) (t : Token) (r : Req) : State :=
  let x := feed s { l with req := some r } (leBytes 8 t.value.toNat)
  if x.1 = 0 then x.2
  else answer (endLoad x.2 { l with bytes := l.bytes ++ leBytes 8 t.value.toNat } x.1) r x.1 []

/-- One LOAD request (R156 to R158). Of ARGUMENT and BUSY, where both hold, ARGUMENT is answered (DESIGN CHOICE, log 94). -/
def execLoadChunk (s : State) : Host.Outcome State Fault Refusal :=
  takeRequest s (· == 0x001) fun s t r =>
    if !faceAdmitted s.straps r.origin then .next (answer s r stFace [])
    else if t.cell ≠ 0 then .next (answer s r stArgument [])
    else if loadBusy s r.origin then .next (answer s r stBusy [])
    else match s.stw.load with
    | some l =>
      if chunkIndex t = l.bytes.length / 8 then .next (takeChunk s l t r)
      else .next (answer (endLoad s l stSequence) r stSequence [])
    | none =>
      if chunkIndex t = 0 then
        .next (takeChunk { s with stw := { s.stw with image := none } } ⟨some r.origin, [], none⟩ t r)
      else .next (answer { s with stw := { s.stw with loadStatus := stSequence } } r stSequence [])

/-- No chunk for 1 s: the load is abandoned and its face gets SEQUENCE (R159). -/
def execLoadTimeout (s : State) : Host.Outcome State Fault Refusal :=
  if !stewardUp s then .next s
  else match s.stw.load with
  | none => .refused .nothingWaiting
  | some l =>
    if l.face = none ∨ verifying s then .refused .wrongPhase
    else
      let s1 := endLoad s l stSequence
      .next (match l.req with | some r => answer s1 r stSequence [] | none => s1)

/-! ## Verification (R595, R635 to R639, R653) -/

/-- A signature is to be checked (R64, R65). -/
def signatureChecked (s : State) (l : Load) : Bool :=
  decide (1 ≤ secLevel s.straps) || (l.face.isNone && (bootSource s.straps).1 == 1)

/-- The image as it was sealed by its length. -/
def wholeImage (l : Load) : List Byte := l.bytes.take (imgTotal l.bytes)

/-- The CRC-32 of an image matches (Table 04-11). -/
def crcMatches (bs : List Byte) : Bool :=
  (crc32 (bs.take 0x38 ++ [0, 0, 0, 0] ++ bs.drop 0x3C)).toNat == imgField bs 0x38 4

/-- The SIGNATURE section (Table 04-13). -/
def signatureSection (bs : List Byte) : Option Section := (sectionsOf bs).find? (fun x => x.type == 0xFF)

/-- A signer slot. -/
def slotAt (k : Keys) (n : Nat) : SignerSlot :=
  match n with
  | 0 => k.slot0
  | 1 => k.slot1
  | 2 => k.slot2
  | _ => ⟨0, 0⟩

/-- Big-endian value of 32 bytes of the signature block (R153). -/
def sigField (bs : List Byte) (x : Section) (off : Nat) : Nat := beNat ((bs.drop (x.offset + off)).take 32)

/-- The status that the signature gives (R635); 0 is OK. -/
def signatureStatus (k : Keys) (bs : List Byte) : BitVec 8 :=
  match signatureSection bs with
  | none => stSignature
  | some x =>
    let slot := slotAt k x.qual
    if slot.state ≠ 1 then stRevoked
    else if sha256 ((bs.drop (x.offset + 8)).take 64) ≠ slot.hash then stSignature
    else if ecdsaVerifies (sha256 (bs.take x.offset)) (sigField bs x 8) (sigField bs x 40) (sigField bs x 72)
        (sigField bs x 104) then stOk
    else stSignature

/-- The nonce of a sealed section (R154). -/
def sectionNonce (bs : List Byte) (x : Section) : List Byte := (bs.drop 0x10).take 8 ++ leBytes 4 x.index

/-- A sealed section opened under the device key (R637). -/
def openSection (k : Keys) (bs : List Byte) (x : Section) : Option (List Byte) :=
  match k.device with
  | none => none
  | some key => gcmOpen (beBytes 32 key.toNat) (sectionNonce bs x) (entryBytes bs x.index)
      ((bs.drop x.offset).take x.len) ((bs.drop (x.offset + x.len)).take 16)

/-- The types that CFG_SEC 2 admits only sealed (R638). -/
def mustSeal (t : Nat) : Bool := t == 1 || t == 2 || t == 4 || t == 5 || t == 6

/-- The status that seals give (R637, R638); 0 is OK. -/
def sealStatus (s : State) (checked : Bool) (bs : List Byte) : BitVec 8 :=
  let xs := sectionsOf bs
  if secLevel s.straps == 2 && xs.any (fun x => mustSeal x.type && !x.sealed) then stSeal
  else if xs.any (fun x => x.sealed && (!checked || (openSection s.keys bs x).isNone)) then stSeal
  else stOk

/-- The status of a complete image: CRC, then signature, then seals (R653). -/
def finalStatus (s : State) (l : Load) : BitVec 8 :=
  let bs := wholeImage l
  let sig := if signatureChecked s l then signatureStatus s.keys bs else stOk
  if !crcMatches bs then stCrc
  else if sig ≠ stOk then sig
  else sealStatus s (signatureChecked s l) bs

/-- The plain data of a section. -/
def sectionData (k : Keys) (bs : List Byte) (x : Section) : List Byte :=
  if x.sealed then (openSection k bs x).getD [] else (bs.drop x.offset).take x.len

/-- The initial tokens of an image, in order (R155). -/
def initTokens (k : Keys) (bs : List Byte) : List Token :=
  ((sectionsOf bs).filter fun x => x.type == 5).flatMap fun x =>
    tokensOfBytes (x.len / 20) (sectionData k bs x)

/-- What the steward keeps of an image (Table 04-11). -/
def imageOf (k : Keys) (bs : List Byte) : Image :=
  { id := BitVec.ofNat 64 (imgField bs 0x10 8), limit := BitVec.ofNat 15 (imgLimit bs),
    staleWin := BitVec.ofNat 16 (imgField bs 0x1A 2), pages := imgPages bs, hook := imgHook bs,
    handler := imgHandler bs, tabSink := BitVec.ofNat 8 (imgField bs 0x30 1), init := initTokens k bs }

/-- A valid slot becomes revoked. -/
def revokeSlot (x : SignerSlot) : SignerSlot := if x.state = 1 then { x with state := 2 } else x

/-- Valid slots below k are revoked (R636, R652). -/
def revokeBelow (k : Keys) (n : Nat) : Keys :=
  let k1 := { k with slot0 := if 0 < n then revokeSlot k.slot0 else k.slot0
                     slot1 := if 1 < n then revokeSlot k.slot1 else k.slot1 }
  { k1 with rolls := satIf (decide (k1.slot0 ≠ k.slot0 ∨ k1.slot1 ≠ k.slot1)) k.rolls }

/-- The key block's counts and slots after a load's status is known (Table 16-6, R636). -/
def keysAfter (k : Keys) (checked : Bool) (bs : List Byte) (status : BitVec 8) : Keys :=
  let k1 := { k with verified := satIf (checked && status == stOk) k.verified
                     sigFails := satIf (status == stSignature) k.sigFails
                     revoked := satIf (status == stRevoked) k.revoked
                     seals := satIf (status == stSeal) k.seals }
  if checked && status == stOk then
    revokeBelow k1 (match signatureSection bs with | some x => x.qual | none => 0)
  else k1

/-- Sealed sections go to their destinations once they are opened. -/
def writeSealed (k : Keys) (bs : List Byte) (s : State) (x : Section) : State :=
  if x.sealed then putSection s x 0 (sectionData k bs x) else s

/-- The image is accepted: sealed sections are written, the spill region and the image's parameters are set. -/
def acceptImage (s : State) (l : Load) : State :=
  let bs := wholeImage l
  let s1 := (sectionsOf bs).foldl (writeSealed s.keys bs) s
  { s1 with locks := setPages s1.locks (imgPages bs)
            stw := { s1.stw with image := some (imageOf s.keys bs), load := none, loadStatus := stOk } }

/-- The load's status is known (R157, R595). -/
def verifyDone (s : State) (l : Load) : State :=
  let status := finalStatus s l
  let s1 := if status = stOk then acceptImage s l else endLoad s l status
  let s2 := { s1 with keys := keysAfter s.keys (signatureChecked s l) (wholeImage l) status
                      stw := { s1.stw with boot := if l.face.isNone then .done else s1.stw.boot } }
  match l.face, l.req with
  | some _, some r => answer s2 r status []
  | _, _ => s2

/-- A reserved field of an accepted image that no table treats is not zero (R23): bits [9:0] of a header tag (R126), FLAGS
[9:8] of an initial token, the first 8 bytes of the signature block (R153). -/
def imageReserved (k : Keys) (bs : List Byte) : Bool :=
  (imgHook bs ||| imgHandler bs).setWidth 10 != 0 ||
  (initTokens k bs).any (fun t => t.flags.extractLsb' 8 2 != 0) ||
  match signatureSection bs with
  | some x => imgField bs x.offset 8 != 0
  | none => false

/-- Verification of a complete image finishes (R595); an image that would be accepted with a reserved field set is
unpredictable (R23). -/
def execImageVerifyDone (s : State) : Host.Outcome State Fault Refusal :=
  if !stewardUp s then .next s
  else match s.stw.load with
  | none => .refused .nothingWaiting
  | some l =>
    if !imageHere l.bytes then .refused .wrongPhase
    else if finalStatus s l == stOk && imageReserved s.keys (wholeImage l) then unpredictable 23 s
    else .next (verifyDone s l)

/-! ## The boot image from flash (R594) -/

/-- Length of the next read command (R594). -/
def nextLength (l : Load) : Nat := if l.bytes = [] then 4096 else min 4096 (imgTotal l.bytes - l.bytes.length)

/-- The next read command of the boot image begins (R594). -/
def beginRead (s : State) (l : Load) : State := flashCommand s l.bytes.length (nextLength l)

/-- Bytes of the next read command (R594). -/
def nextRead (s : State) (l : Load) : List Byte :=
  (List.range (nextLength l)).map fun i => flashByte s (l.bytes.length + i)

/-- A read command of the boot image completes (R594). -/
def flashRead (s : State) (l : Load) : State :=
  let new := nextRead s l
  let l1 : Load := { l with bytes := l.bytes ++ new }
  let x := feed s l new
  if x.1 ≠ 0 then
    let s1 := endLoad x.2 l1 x.1
    { s1 with stw := { s1.stw with boot := .done } }
  else if imageHere l1.bytes then { x.2 with stw := { x.2.stw with boot := .verifying } }
  else beginRead { x.2 with stw := { x.2.stw with boot := .reading } } l1

/-- A read command of the boot image completes, and the next one begins (R594); under EXTEST it waits (R633). -/
def execFlashReadDone (s : State) : Host.Outcome State Fault Refusal :=
  if !stewardUp s then .next s
  else match s.stw.boot, s.stw.load with
  | .reading, some l => if s.jtag.ir = 0 then .next s else .next (flashRead s l)
  | _, _ => .refused .wrongPhase

/-! ## START (R155, R160) -/

/-- The initial tokens enter the weave at tile 63 in order, their deadlines counted from the START admission beat
(R155). -/
def injectInit (s : State) (base : BitVec 48) (ts : List Token) : State :=
  produceAll s 63 true (ts.map fun t =>
    ⟨0, some t.context, mkFlit s 63 0 .strand (.token { t with deadline := base.setWidth 20 + t.deadline })⟩)

/-- The graph starts (R155): from here on the context limit is the image's. -/
def startGraph (s : State) (base : BitVec 48) : State :=
  let s1 := { s with stw := { s.stw with started := true } }
  match s.stw.image with
  | some i => injectInit s1 base i.init
  | none => s

/-- A START request (R155, R157). -/
def execStart (s : State) : Host.Outcome State Fault Refusal :=
  let base := offsetBase s
  takeRequest s (· == 0x002) fun s t r =>
    if t.cell ≠ 0 ∨ t.value ≠ 0 then .next (answer s r stArgument [])
    else if s.stw.started then .next (answer s r stBusy [])
    else if s.stw.image = none then .next (answer s r stNoImage [])
    else .next (answer (startGraph s base) r stOk [])

end Sys2Proof.Machine
end

