-- ==== Sys2Proof/Machine/Weave.lean ====
section
/-! DEFINITION. Routers (R378 to R393), link-level credits (R740), lock units and flow mirrors (R347 to R353), and the
notices of a new iteration base (R140). -/

namespace Sys2Proof.Machine

open Sys2Proof

/-! ## Routes (R386, R387) -/

/-- The X coordinate of a tile (R25). -/
def tileX (t : TileId) : BitVec 3 := t.extractLsb' 0 3
/-- The Y coordinate of a tile (R25). -/
def tileY (t : TileId) : BitVec 3 := t.extractLsb' 3 3
/-- The tile at a pair of coordinates (R25). -/
def tileAt (x y : BitVec 3) : TileId := y ++ x

/-- A flit that must move along an axis goes in the + direction (R386). -/
def goesUp (src dst : BitVec 3) : Bool :=
  let d := (dst - src).toNat
  d < 4 || (d == 4 && src.toNat % 2 == 0)

/-- The output port of a flit at tile `t` (R386, Table 10-1). -/
def routePort (t : TileId) (f : Flit) : Nat :=
  if tileX t ≠ tileX f.dest then (if goesUp (tileX f.src) (tileX f.dest) then 0 else 1)
  else if tileY t ≠ tileY f.dest then (if goesUp (tileY f.src) (tileY f.dest) then 2 else 3)
  else if f.extra then 5 else 4

/-- The tile that an output port of a link leads to (R378). -/
def neighbour (t : TileId) (port : Nat) : TileId :=
  match port with
  | 0 => tileAt (tileX t + 1) (tileY t)
  | 1 => tileAt (tileX t - 1) (tileY t)
  | 2 => tileAt (tileX t) (tileY t + 1)
  | _ => tileAt (tileX t) (tileY t - 1)

/-- The input port at the far end of a link. -/
def farPort (port : Nat) : Nat :=
  match port with
  | 0 => 1 | 1 => 0 | 2 => 3 | _ => 2

/-- A link crosses the dateline of its ring (R387). -/
def crossesDateline (t : TileId) (port : Nat) : Bool :=
  match port with
  | 0 => tileX t == 7
  | 1 => tileX t == 0
  | 2 => tileY t == 7
  | _ => tileY t == 0

/-- The virtual channel that a flit takes as it leaves through a port, having come in through another (R387). -/
def nextVc (t : TileId) (inPort outPort : Nat) (f : Flit) : BitVec 1 :=
  if 4 ≤ outPort then 0
  else if crossesDateline t outPort then 1
  else if decide (inPort < 2) == decide (outPort < 2) && decide (inPort < 4) then f.vc
  else 0

/-! ## Arbitration (R391) -/

/-- Ports 0 to 5, networks and channels of a router by the number 8 × port + 2 × VN + VC of R391. -/
def chanOfNumber (t : TileId) (n : Nat) : Nat := t.toNat * 48 + n

/-- No flit of this network and virtual channel stands at a port's endpoints. -/
def stageFree (w : Weave) (t : TileId) (extra : Bool) (vn : BitVec 2) (vc : BitVec 1) : Bool :=
  (outAt w (outKey t extra vn)).all (fun f => f.vc != vc)

/-- The downstream place of a flit has room (R391): an input channel of the next router, the port's endpoints, the
steward's inbox, or the room a cell reserved (R384). -/
def downstreamRoom (s : State) (t : TileId) (inPort outPort : Nat) (f : Flit) : Bool :=
  if outPort < 4 then
    tileUp s (neighbour t outPort) &&
      chanRoom s.weave (chanKey (neighbour t outPort) (farPort outPort) f.vn (nextVc t inPort outPort f))
  else
    match f.msg with
    | .token u =>
      if outPort = 5 ∧ t = 63 ∧ u.context = 0 then decide (s.stw.inbox.length < 16)
      else stageFree s.weave t (outPort == 5) f.vn f.vc
    | .slotReturn _ _ _ _ => true
    | .recordReturn _ _ _ => true
    | .ackElement _ _ => true
    | .ackPage _ _ _ _ => true
    | .tableData _ _ _ => true
    | .retry r => !cellUp s r.cell || stageFree s.weave t (outPort == 5) f.vn f.vc
    | .retire _ => true
    | _ => stageFree s.weave t (outPort == 5) f.vn f.vc

/-- The heads of a router's input channels that are routed to an output port, in the turn order that begins at a
channel: channel number and flit. -/
def heads (w : Weave) (t : TileId) (outPort : Nat) (start : Nat) : List (Nat × Flit) :=
  (List.range 48).filterMap fun i =>
    match chanAt w (chanOfNumber t ((start + i) % 48)) with
    | f :: _ => if routePort t f = outPort then some ((start + i) % 48, f) else none
    | [] => none

/-- The head that an output port chooses: the greatest urgency, the first in turn order of equals (R391). -/
def chosen (s : State) (t : TileId) (outPort : Nat) : Option (Nat × Flit) :=
  bestBy (fun x : Nat × Flit => urgency x.2)
    ((heads s.weave t outPort ((s.time.beat.toNat + t.toNat) % 48)).filter
      (fun x => downstreamRoom s t (x.1 / 8) outPort x.2))

/-- The flit at the head of an input channel has left its slot: at a link port a credit is owed, at a local or extra port
what waits there is taken (R740, R384, R392). -/
def leaveSlot (s : State) (t : TileId) (n : Nat) : State :=
  let k := chanOfNumber t n
  let w := { s.weave with chans := mset [] s.weave.chans k (chanAt s.weave k).tail }
  if n / 8 < 4 then { s with weave := { w with owed := mset 0 w.owed k (mget 0 w.owed k + 1) } }
  else drain { s with weave := w } t (n / 8 == 5)

/-! ## What the steward does with a RETIRE (R140) -/

/-- Tiles in ascending order. -/
def allTiles : List TileId := (List.range 64).map (BitVec.ofNat 6)

/-- ITER_BASE of a context advances, and the new base is carried to every tile (R140). A word that cannot be read is
reported and stays (Table 17-3). -/
def retireNotices (s : State) (ctx : BitVec 14) : State :=
  let base := ctxIterBase s.mem ctx + 1
  let m := readDescriptor s.mem ctx 3
  if eccAt s.mem (descAddr ctx + 24) = .double then
    nodeReport { s with mem := m } fEcc 0xF (BitVec.ofNat 48 (descAddr ctx + 24)) 0
  else produceAll { s with mem := bumpIterBase m ctx } 63 true
    (allTiles.map fun t => ⟨0, none, mkNotice 63 t (.iterBase ctx base)⟩)

/-- A message enters the room that its cell reserved for it (R384). -/
def intoRoom (s : State) (c : CellId) (m : Msg) : State :=
  setCell s c { cellAt s c with room := (cellAt s c).room ++ [m] }

/-- A flit leaves the weave at its tile's local or extra port: to the steward's inbox (R141), to the steward's hands
(RETIRE), into a cell's room (R384), or to the port's endpoints. -/
def deliver (s : State) (t : TileId) (extra : Bool) (f : Flit) : State :=
  let k := outKey t extra f.vn
  let stage := { s with weave := setOut s.weave k (outAt s.weave k ++ [f]) }
  match f.msg with
  | .token u =>
    if extra && t == 63 && u.context == 0 then
      { s with stw := { s.stw with inbox := s.stw.inbox ++ [(u, f.origin, f.admitted)] } }
    else stage
  | .retire ctx => retireNotices s ctx
  | .slotReturn c _ _ _ => intoRoom s c f.msg
  | .recordReturn c _ _ => intoRoom s c f.msg
  | .ackElement e _ => intoRoom s e.cell f.msg
  | .ackPage c _ _ _ => intoRoom s c f.msg
  | .tableData c _ _ => intoRoom s c f.msg
  | .retry r => if cellUp s r.cell then stage else intoRoom s r.cell f.msg
  | _ => stage

/-- A token to context 0 whose KIND is not system (R141). -/
def badRequest (f : Flit) : Bool :=
  match f.msg with
  | .token u => u.context == 0 && kindOf u.flags != 3
  | _ => false

/-! ## Lock units: the end of a release (R351) -/

/-- Once the local port has accepted the last UNLOCK notice, the slot is free. -/
def finishRelease (s : State) (t : TileId) : State :=
  match lockQuad t with
  | none => s
  | some q =>
    let u := unitAt s.locks q
    match u.work with
    | .releasing slot =>
      if (offersAt s.weave (offerKey t false)).any (fun o => o.req == 6 && o.flit.vn == 3) then s
      else { s with locks := setUnit s.locks q { u with slots := mset none u.slots slot.toNat none, work := .none }
                    time := markProgress s.time }
    | _ => s

/-- A flit chosen by an output port moves on (R379, R387, R391): the probes on the leaving side see it, its slot frees, and
it enters the next router or leaves the weave. `waited` is its slot's present wait count (R390). -/
def moveOn (s : State) (t : TileId) (outPort : Nat) (n : Nat) (f : Flit) (waited : BitVec 5) : State :=
  let g := { f with vc := nextVc t (n / 8) outPort f }
  let s1 := { s with weave := { s.weave with
                probes := probesSee s.weave s.time.beat t outPort true g (f.waits + waited.toNat) } }
  let s2 := leaveSlot s1 t n
  let s3 :=
    if outPort < 4 then
      { s2 with weave := enter s2.weave s.time.beat (neighbour t outPort) (farPort outPort) { g with waits := 0 } }
    else deliver s2 t (outPort == 5) { f with waits := 0 }
  finishRelease s3 t

/-- An output port chooses a waiting flit and moves it on (R391); with no room downstream, the flits wait. -/
def execFlitForward (t : TileId) (outPort : BitVec 3) (waited : BitVec 5) (s : State) :
    Host.Outcome State Fault Refusal :=
  if 6 ≤ outPort.toNat then .refused .nothingWaiting
  else if !tileUp s t then .next s
  else if heads s.weave t outPort.toNat 0 = [] then .refused .nothingWaiting
  else match chosen s t outPort.toNat with
  | none => .next s
  | some (n, f) =>
    if outPort = 5 ∧ t = 63 ∧ badRequest f then unpredictable 141 s
    else .next (moveOn s t outPort.toNat n f waited)

/-- A credit crosses back over a link (R740). -/
def execCreditReturn (t : TileId) (port : BitVec 3) (vn : BitVec 2) (vc : BitVec 1) (s : State) :
    Host.Outcome State Fault Refusal :=
  let k := chanKey t port.toNat vn vc
  if 4 ≤ port.toNat then .refused .nothingWaiting
  else if !tileUp s t then .next s
  else if mget 0 s.weave.owed k = 0 then .refused .nothingWaiting
  else .next { s with weave := { s.weave with owed := mset 0 s.weave.owed k (mget 0 s.weave.owed k - 1) } }

/-- A flit whose slot's wait count wraps: AGE rises, to at most 63 (R390). -/
def aged (f : Flit) : Flit := { f with age := if f.age = 63 then 63 else f.age + 1, waits := f.waits + 32 }

/-- A list with its first or second element changed. -/
def changeAt {α : Type} (second : Bool) (g : α → α) : List α → List α
  | [] => []
  | x :: r => if second then x :: (match r with | [] => [] | y :: z => g y :: z) else g x :: r

/-- The wait count of a slot wraps (R390). -/
def execAgeIncrement (t : TileId) (port : BitVec 3) (vn : BitVec 2) (vc : BitVec 1) (second : Bool) (s : State) :
    Host.Outcome State Fault Refusal :=
  let k := chanKey t port.toNat vn vc
  if 6 ≤ port.toNat then .refused .nothingWaiting
  else if !tileUp s t then .next s
  else if (chanAt s.weave k).length ≤ second.toNat then .refused .nothingWaiting
  else .next { s with weave := { s.weave with chans := mset [] s.weave.chans k (changeAt second aged (chanAt s.weave k)) } }

/-! ## Lock units (R349 to R351) -/

/-- A FACQ. -/
def isAcquire (f : Flit) : Bool := match f.msg with | .acquire _ _ _ _ _ _ => true | _ => false
/-- A FREL. -/
def isRelease (f : Flit) : Bool := match f.msg with | .release _ _ _ => true | _ => false
/-- A tile's acknowledgement of a LOCK notice. -/
def isAckLock (f : Flit) : Bool := match f.msg with | .ackLock _ => true | _ => false
/-- A LOCK notice. -/
def isLock (f : Flit) : Bool := match f.msg with | .lock _ _ _ _ => true | _ => false
/-- A request to a lock unit. -/
def isLockRequest (f : Flit) : Bool := isAcquire f || isRelease f
/-- An UNLOCK notice. -/
def isUnlock (f : Flit) : Bool := match f.msg with | .unlock _ _ => true | _ => false
/-- A notice to a tile's flow mirror. -/
def isMirrorNotice (f : Flit) : Bool := isLock f || isUnlock f
/-- An ITER_BASE notice. -/
def isIterBase (f : Flit) : Bool := match f.msg with | .iterBase _ _ => true | _ => false

/-- The slot that holds a flow, with its lock. -/
def slotOfFlow (u : LockUnit) (f : BitVec 12) : Option (Nat × Lock) :=
  (u.slots.filterMap fun e => e.2.map fun l => (e.1, l)).find? (fun e => e.2.flow == f)

/-- The lowest-numbered free slot (R349). -/
def freeSlot (u : LockUnit) : Option Nat :=
  (List.range 64).find? (fun i => mget (none : Option Lock) u.slots i == none)

/-- Notices of a lock unit, one to each tile in ascending order (R350, R351). -/
def unitNotices (s : State) (q : BitVec 2) (m : Msg) : State :=
  produceAll s (lockTile q) false (allTiles.map fun t => ⟨6, none, mkNotice (lockTile q) t m⟩)

/-- A FACQ taken by its lock unit (R349); a refusal is counted (Table 16-6). -/
def acquireFor (s : State) (q : BitVec 2) (pri : BitVec 2) (ctx : BitVec 14) (f : BitVec 12) (tag : W64)
    (dl : BitVec 20) (fl : BitVec 12) : State :=
  let u := unitAt s.locks q
  let granted := { unitSend s q pri (.token (tokenTo tag 0 dl fl 0)) with time := markProgress s.time }
  let refused := unitSend { s with locks := setUnit s.locks q { u with refused := satAdd u.refused 1 } } q pri
    (.token (tokenTo tag (fFlowLock.setWidth 64) dl fl flagPoison))
  match slotOfFlow u f, freeSlot u with
  | some e, _ => if e.2.owner = ctx then granted else refused
  | none, none => refused
  | none, some i =>
    let slot := BitVec.ofNat 6 i
    let u1 := { u with slots := mset none u.slots i (some ⟨f, ctx⟩), work := .granting slot tag dl fl pri 0 }
    unitNotices { s with locks := setUnit s.locks q u1 } q (.lock q slot f ctx)

/-- What a lock unit does with a FACQ's flit. -/
def acquire (s : State) (q : BitVec 2) (g : Flit) : State :=
  match g.msg with
  | .acquire _ ctx f tag dl fl => acquireFor s q g.pri ctx f tag dl fl
  | _ => s

/-- The lock unit takes a FACQ when it has nothing in progress (R349). -/
def execLockAcquireRequest (q : BitVec 2) (s : State) : Host.Outcome State Fault Refusal :=
  if !tileUp s (lockTile q) then .next s
  else match takeHead s.weave (lockTile q) false 1 isLockRequest isAcquire with
  | none => .refused .nothingWaiting
  | some f => .next (if (unitAt s.locks q).work = .none then acquire (taken s (lockTile q) false f) q f else s)

/-- A tile's flow mirror after a notice (R350 to R352): a LOCK notice is written, and its acknowledgement owed; an UNLOCK
notice deletes its entry. -/
def mirrorNotice (s : State) (t : TileId) (m : Msg) : State :=
  match m with
  | .lock q slot f owner =>
    let n := 64 * q.toNat + slot.toNat
    let entries := minsert n ⟨f, owner⟩ (mdrop n (mirrorAt s.locks t))
    let owed := mget [] s.locks.owed t.toNat ++ [(q, ⟨f, owner⟩)]
    { s with locks := { s.locks with mirror := mset [] s.locks.mirror t.toNat entries,
                                     owed := mset [] s.locks.owed t.toNat owed } }
  | .unlock q slot =>
    let entries := mdrop (64 * q.toNat + slot.toNat) (mirrorAt s.locks t)
    { s with locks := { s.locks with mirror := mset [] s.locks.mirror t.toNat entries } }
  | _ => s

/-- A LOCK notice reaches a tile (R350, R352). -/
def execLockNotice (t : TileId) (s : State) : Host.Outcome State Fault Refusal :=
  if !tileUp s t then .next s
  else match takeHead s.weave t false 3 isMirrorNotice isLock with
  | none => .refused .nothingWaiting
  | some f => .next (mirrorNotice (taken s t false f) t f.msg)

/-- A cell of a tile runs a strand whose firing a lock of quadrant `q` would block (R350). -/
def runsBlocked (s : State) (q : BitVec 2) (l : Lock) (c : CellId) : Bool :=
  let e := engineAt s c
  e.phase != .idle && lockBlocks e.mode (tagContext e.regs.tag0) e.flow (64 * q.toNat, l)

/-- A tile acknowledges a LOCK notice once none of its cells runs a strand that the lock blocks (R350). -/
def execLockNoticeAck (t : TileId) (q : BitVec 2) (s : State) : Host.Outcome State Fault Refusal :=
  let owed := mget [] s.locks.owed t.toNat
  if !tileUp s t then .next s
  else match owed.find? (fun o => o.1 == q) with
  | none => .refused .nothingWaiting
  | some o =>
    if [0, 1, 2, 3].any (fun i => runsBlocked s q o.2 (cellOf t i)) then .next s
    else
      let s1 := { s with locks := { s.locks with owed := mset [] s.locks.owed t.toNat (owed.erase o) } }
      .next (produceLocal s1 t 5 (mkFlit s t 3 .strand (.ackLock q)))

/-- A grant with one more acknowledgement (R350). -/
def countAck (s : State) (q : BitVec 2) : State :=
  let u := unitAt s.locks q
  match u.work with
  | .granting slot tag dl fl pri acks =>
    if acks = 63 then
      unitSend { s with locks := setUnit s.locks q { u with work := .none }, time := markProgress s.time } q pri
        (.token (tokenTo tag 0 dl fl 0))
    else { s with locks := setUnit s.locks q { u with work := .granting slot tag dl fl pri (acks + 1) } }
  | _ => s

/-- The lock unit counts an acknowledgement, and after the 64th sends the grant (R350). -/
def execLockAckReceive (q : BitVec 2) (s : State) : Host.Outcome State Fault Refusal :=
  if !tileUp s (lockTile q) then .next s
  else match takeHead s.weave (lockTile q) false 2 isAckLock isAckLock with
  | none => .refused .nothingWaiting
  | some f => .next (countAck (taken s (lockTile q) false f) q)

/-- What a lock unit does with a FREL (R351): of the owner, it begins a release; of any other context, nothing. -/
def release (s : State) (q : BitVec 2) (m : Msg) : State :=
  match m with
  | .release _ ctx f =>
    let u := unitAt s.locks q
    (match slotOfFlow u f with
     | none => s
     | some (i, l) =>
       if l.owner = ctx then
         unitNotices { s with locks := setUnit s.locks q { u with work := .releasing (BitVec.ofNat 6 i) } } q
           (.unlock q (BitVec.ofNat 6 i))
       else s)
  | _ => s

/-- The lock unit takes a FREL when it has nothing in progress (R349, R351). -/
def execLockReleaseRequest (q : BitVec 2) (s : State) : Host.Outcome State Fault Refusal :=
  if !tileUp s (lockTile q) then .next s
  else match takeHead s.weave (lockTile q) false 1 isLockRequest isRelease with
  | none => .refused .nothingWaiting
  | some f =>
    .next (if (unitAt s.locks q).work = .none then finishRelease (release (taken s (lockTile q) false f) q f.msg) (lockTile q)
      else s)

/-- An UNLOCK notice reaches a tile (R351). -/
def execUnlockNotice (t : TileId) (s : State) : Host.Outcome State Fault Refusal :=
  if !tileUp s t then .next s
  else match takeHead s.weave t false 3 isMirrorNotice isUnlock with
  | none => .refused .nothingWaiting
  | some f => .next (mirrorNotice (taken s t false f) t f.msg)

/-! ## Iteration bases (R140) -/

/-- The held slots of a context that lie within the window of a new base and have not been called back yet. -/
def releasedSlots (x : Cell) (window : Nat) (ctx : BitVec 14) (base : BitVec 16) : List (BitVec 13 × BitVec 7) :=
  x.hold.flatMap fun q =>
    (q.live.filter fun y =>
      y.context == ctx && !y.reading && !x.due.contains (q.page, y.index) &&
        !(decide (window ≤ (y.iteration - base).toNat) && decide ((y.iteration - base).toNat < 2 ^ 15))).map
      fun y => (q.page, y.index)

/-- A cell receives a new base (R140). -/
def newBase (window : Nat) (ctx : BitVec 14) (base : BitVec 16) (x : Cell) : Cell :=
  { x with bases := mset none x.bases ctx.toNat (some base), due := x.due ++ releasedSlots x window ctx base }

/-- The four cells of a tile receive a new base (R140), with the window of the context's descriptor (R308). -/
def tileBase (s : State) (t : TileId) (m : Msg) : State :=
  match m with
  | .iterBase ctx base =>
    let w := ctxWindow s.mem ctx
    let put := fun (m : List (Nat × Cell)) (i : BitVec 2) =>
      cellsSet m (cellOf t i) (newBase w ctx base (mget Cell.clear m (cellOf t i).toNat))
    { s with cells := [0, 1, 2, 3].foldl put s.cells, mem := readDescriptor s.mem ctx 0 }
  | _ => s

/-- A new ITER_BASE reaches the four cells of a tile (R140). -/
def execIterBaseNotice (t : TileId) (s : State) : Host.Outcome State Fault Refusal :=
  if !tileUp s t then .next s
  else match takeHead s.weave t false 3 isIterBase isIterBase with
  | none => .refused .nothingWaiting
  | some f => .next (tileBase (taken s t false f) t f.msg)

end Sys2Proof.Machine
end

