-- ==== Sys2Proof/Machine/Tableau.lean ====
section
/-! DEFINITION. The tableau, its dumps, and the counter groups (chapter 16). -/

namespace Sys2Proof.Machine

open Sys2Proof

/-! ## Words that report the device's state -/

/-- Pages of a quadrant's spill region (R318). -/
def pagesTotal (u : LockUnit) : Nat := u.dir.length + u.free.length
/-- Spill occupancy above 75 % (R356). -/
def above75 (u : LockUnit) : Bool := decide (3 * pagesTotal u < 4 * u.dir.length)
/-- Spill occupancy below 50 % (R356). -/
def below50 (u : LockUnit) : Bool := decide (2 * u.dir.length < pagesTotal u)
/-- The free list is empty (R325). -/
def noFreePage (u : LockUnit) : Bool := u.free.isEmpty
/-- Flow-lock slots held. -/
def slotsHeld (u : LockUnit) : Nat := (u.slots.filter (fun e => e.2.isSome)).length

/-- The energy state's code (Table 14-5): FULL is RUN with all four quadrants at full rate (R554). -/
def energyState (p : Power) : BitVec 3 :=
  match p.phase with
  | .off => 0
  | .hibernate => 1
  | .standby => 2
  | .tending => 3
  | _ => if p.running = 15 ∧ p.rate = 0 ∧ p.clkok then 5 else 4

/-- The DESCRIBE state word (R144). -/
def stateWord (s : State) : W64 :=
  (0 : BitVec 37) ++ BitVec.ofNat 15 (ctxLimit s) ++ energyState s.pwr ++ BitVec.ofBool s.stw.started ++ s.stw.loadStatus

/-- The image ID; zero when no image is loaded (R144). -/
def imageId (s : State) : W64 := match s.stw.image with | some i => i.id | none => 0

/-- The energy word (Table 14-9). -/
def energyWord (s : State) : W64 :=
  let p := s.pwr
  (0 : BitVec 14) ++ p.wakeFrom ++ p.wakeCause ++ p.supplyFaults ++ BitVec.ofBool p.grace ++ BitVec.ofBool p.exhaustMark ++
    BitVec.ofBool p.keepHeld ++ (0 : BitVec 1) ++ p.vid ++ p.running ++ p.rate ++ p.limitQuads ++
    BitVec.ofNat 3 (energyTier s.straps) ++ p.level ++ p.reading

/-- The key state word (Table 16-8). -/
def keyState (k : Keys) : W64 :=
  (0 : BitVec 55) ++ BitVec.ofBool k.device.isSome ++ (0 : BitVec 2) ++ k.slot2.state ++ k.slot1.state ++ k.slot0.state

/-! ## Counter groups (Table 16-6) -/

/-- The first count word of a cell. -/
def cellCountA (x : Cell) : W64 := x.uncorrect ++ x.corrected ++ x.late
/-- The second count word of a cell. -/
def cellCountB (x : Cell) : W64 := x.respills ++ x.untallied ++ x.refusals

/-- The two count words of a bank. -/
def bankCounts (b : Bank) : List W64 :=
  [(0 : BitVec 21) ++ b.high ++ b.uncorrect ++ b.corrected, b.retries.setWidth 64]

/-- The count word of a quadrant. -/
def quadCounts (u : LockUnit) : W64 := (0 : BitVec 16) ++ u.refused ++ u.episodes ++ u.high

/-- The counter words of a probe (Table 10-6). -/
def probeCounts (p : Probe) : List W64 := [p.matched.setWidth 64, p.waited.setWidth 64, p.dropped.setWidth 64]

/-- Eight link counts in the order of Table 12-10. -/
def linkCounts (m : List (Nat × BitVec 32)) : List W64 := (List.range 8).map fun i => (mget 0 m i).setWidth 64

/-- The cells, banks or probes from a number on. -/
def numbersFrom (first n : Nat) : List Nat := (List.range n).map (· + first)

/-- The data words of a counter group (Table 16-6); `none` for a reserved group. -/
def counterGroup (s : State) (g : Nat) : Option (List W64) :=
  let cells := fun (first : Nat) => (numbersFrom first 64).flatMap fun i =>
    [cellCountA (mget Cell.clear s.cells i), cellCountB (mget Cell.clear s.cells i)]
  let probes := fun (first : Nat) => (numbersFrom first 16).flatMap fun i => probeCounts (mget Probe.idle s.weave.probes i)
  let h := s.host
  let k := s.keys
  match g with
  | 0x00 => some [s.pwr.clockLosses.setWidth 64, s.pwr.supplyFaults.setWidth 64, s.pwr.wakeRefusals.setWidth 64,
      s.time.overruns.setWidth 64, s.tab.latched.setWidth 64, s.tab.ignoredTotal.setWidth 64, s.tab.dumps.setWidth 64,
      s.tab.discarded.setWidth 64, s.stw.sinkDiscards.setWidth 64]
  | 0x01 => some (cells 0)
  | 0x02 => some (cells 64)
  | 0x03 => some (cells 128)
  | 0x04 => some (cells 192)
  | 0x05 => some ((List.range 64).flatMap (fun i => bankCounts (mget Bank.clear s.mem.banks i)) ++
      [(0 : BitVec 32) ++ s.mem.keepUncorr ++ s.mem.keepCorr, 0])
  | 0x06 => some ((List.range 4).map (fun i => quadCounts (mget LockUnit.clear s.locks.units i)) ++
      [s.time.withholds.setWidth 64])
  | 0x07 => some ([h.misses, h.discards, h.partials, h.strays, h.timeouts, h.errors, h.tmisses, h.msis].map (·.setWidth 64))
  | 0x08 => some (linkCounts s.sh.counts)
  | 0x09 => some (linkCounts s.rowA.counts)
  | 0x0A => some (linkCounts s.rowB.counts)
  | 0x0B => some ([s.sel.good, s.sel.failing, s.sel.dlbad, s.sel.overruns, s.sel.wordErrs, s.sel.safes].map (·.setWidth 64))
  | 0x0C => some (probes 0)
  | 0x0D => some (probes 16)
  | 0x0E => some (keyState k ::
      [k.verified, k.sigFails, k.revoked, k.seals, s.pwr.tampers, s.pwr.glitches, k.rolls].map (·.setWidth 64))
  | _ => none

/-- The steward answers the COUNTERS requests that wait for their sample (R629). -/
def answerCounters (s : State) : State :=
  s.stw.counters.foldl (fun s r => answer s r.1 stOk ((counterGroup s r.2.toNat).getD []))
    { s with stw := { s.stw with counters := [] } }

/-! ## Records of the dump (Tables 16-4 and 16-5, R622 to R627) -/

/-- Bytes filled with zeros up to a length. -/
def padTo (n : Nat) (bs : List Byte) : List Byte := bs ++ List.replicate (n - bs.length) 0

/-- The stall cause of a strand as the snapshot shows it (Table 16-4). -/
def stallOf (e : Engine) : BitVec 4 :=
  match e.phase with
  | .running => e.stall
  | .dividing _ _ _ => 5
  | .lookup _ => 2
  | _ => 0

/-- STATE of a cell record (Table 16-4). -/
def strandState (e : Engine) : BitVec 2 :=
  match e.phase with
  | .idle => 0
  | .stopped _ _ _ _ => 3
  | .recording _ _ _ => 3
  | _ => if stallOf e = 0 then 1 else 2

/-- Active loop levels (R185): bit i when LCi is not zero. -/
def activeLoops (r : Regs) : BitVec 4 :=
  BitVec.ofBool (r.lc[3] != 0) ++ BitVec.ofBool (r.lc[2] != 0) ++ BitVec.ofBool (r.lc[1] != 0) ++ BitVec.ofBool (r.lc[0] != 0)

/-- Elements issued by a GATHER or SCATTER in progress. -/
def elementsIssued (e : Engine) : Nat := match e.mid with | .elements n _ => n | _ => 0

/-- The token being refused at a cell, by the first channel that refuses one (R355). -/
def refusedToken (s : State) (c : CellId) : Option Token :=
  match (cellAt s c).refusing with
  | e :: _ => headToken s c e.1
  | [] => none

/-- The queue of a cell holds a lock-blocked firing (R361). -/
def lockWaits (s : State) (c : CellId) : Bool := (cellAt s c).queue.any (firingBlocked s c)

/-- A cell record (Table 16-4). -/
def cellRecord (s : State) (c : CellId) : List W64 :=
  let x := cellAt s c
  let e := x.engine
  let r := e.regs
  let tallies := (x.tallies.filter (fun t => t.2.isSome)).length
  let next := selected s c
  [ if e.phase = .idle then 0 else r.tag0,
    strandState e ++ stallOf e ++ activeLoops r ++ r.fs ++ BitVec.ofNat 5 (elementsIssued e) ++ (0 : BitVec 30) ++
      (r.pc.setWidth 14 : BitVec 14),
    r.dl ++ r.fl ++ x.gen ++ BitVec.ofNat 5 x.queue.length ++ BitVec.ofNat 5 tallies ++
      BitVec.ofBool (lockWaits s c) ++ BitVec.ofNat 12 x.mstore.length,
    BitVec.ofNat 16 x.spill.length ++ BitVec.ofNat 16 x.hold.length ++ BitVec.ofBool (x.refusing != []) ++ (0 : BitVec 31),
    (match next with | some f => f.tag | none => 0),
    (match next with | some f => f.deadline ++ f.flow ++ (0 : BitVec 32) | none => 0),
    (match refusedToken s c with | some t => packTag (tokenTag t) | none => 0),
    cellCountA x ]

/-- The flits in a tile's input channels, with their channels 8 × port + 2 × VN + VC (R623). -/
def heldFlits (w : Weave) (t : TileId) : List (Nat × Flit) :=
  (List.range 48).flatMap fun n => (chanAt w (chanOfNumber t n)).map (n, ·)

/-- The channels of a tile that hold a flit. -/
def nonEmpty (w : Weave) (t : TileId) : BitVec 48 :=
  (List.range 48).foldl (fun m n => if chanAt w (chanOfNumber t n) = [] then m else m ||| (1#48 <<< n)) 0

/-- A tile record (R623). Among flits of equal AGE the record does not say which is described: the choice is free. -/
def tileRecord (s : State) (t : TileId) : List W64 :=
  let b := bankAt s.mem t
  let u := unitAt s.locks (quadOfTile t)
  let fs := heldFlits s.weave t
  let age := (fs.map fun f => f.2.age.toNat).foldl max 0
  let oldest := fs.filter (fun f => f.2.age.toNat == age)
  let mine := fun (p : BitVec 13) => p.extractLsb' 7 6 == t
  let used := (u.dir.filter (fun d => mine d.page)).length
  [ (0 : BitVec 10) ++ BitVec.ofNat 6 age ++ nonEmpty s.weave t,
    (0 : BitVec 10) ++ b.uncorrect ++ b.corrected ++ b.high ++ BitVec.ofNat 11 (b.deferred.length + b.answering.length),
    (0 : BitVec 16) ++ b.scrub ++ b.retries,
    (0 : BitVec 32) ++ BitVec.ofNat 16 (used + (u.free.filter mine).length) ++ BitVec.ofNat 16 used,
    (match oldest[(Config.freeValue (s.freeCounter + t.toNat)).toNat % oldest.length]? with
     | some f => (0 : BitVec 26) ++ BitVec.ofNat 6 f.1 ++ flitHeader f.2
     | none => 0) ]

/-- The word of a lock slot (R624). -/
def slotWord (l : Option Lock) : BitVec 32 :=
  match l with
  | some x => (1 : BitVec 1) ++ (0 : BitVec 3) ++ x.owner ++ (0 : BitVec 2) ++ x.flow
  | none => 0

/-- A quadrant record (R624). -/
def quadRecord (s : State) (q : BitVec 2) : List Byte :=
  let u := unitAt s.locks q
  let w : W64 := (0 : BitVec 6) ++ BitVec.ofNat 7 (slotsHeld u) ++ BitVec.ofBool (s.pwr.running.getLsbD q.toNat) ++
    BitVec.ofBool (noFreePage u) ++ BitVec.ofBool (above75 u) ++ u.high ++ BitVec.ofNat 16 u.free.length ++
    BitVec.ofNat 16 u.dir.length
  padTo 0x40 (wordBytes [w]) ++ (List.range 64).flatMap fun i => leBytes 4 (slotWord (mget none u.slots i)).toNat

/-- An alarm slot's record (R625). -/
def alarmRecord (a : Alarm) : List W64 :=
  let missed := match a.pend with | some p => p.missed | none => 0
  [a.target.setWidth 64, a.period.setWidth 64, a.tag,
   (0 : BitVec 54) ++ BitVec.ofBool a.set ++ BitVec.ofBool a.pend.isSome ++ missed]

/-- The number of held events in 8 bits; above 255 the record does not say what the field holds, so it is free. -/
def heldCount (s : State) : BitVec 8 :=
  if s.time.held.length < 256 then BitVec.ofNat 8 s.time.held.length
  else (Config.freeValue (s.freeCounter + 64)).setWidth 8

/-- The steward record (R625). -/
def stewardRecord (s : State) : List Byte :=
  let w : W64 := (0 : BitVec 32) ++ heldCount s ++ (0 : BitVec 7) ++ BitVec.ofBool s.time.withholding ++ s.time.stale
  padTo 1024 (wordBytes ([stateWord s, w] ++ (List.range 8).flatMap fun i => alarmRecord (mget Alarm.clear s.time.alarms i)) ++
    s.stw.inbox.flatMap fun e => tokenBytes e.1 ++ [0, 0, 0, 0])

/-- Face record 0 (Table 16-5). -/
def hostRecord (h : HostFace) : List W64 :=
  let ring := fun (f : Ring → W64) => match h.ring with | some g => f g | none => 0
  [ h.nextSeq.setWidth 64, h.admitted.setWidth 64, h.limit.setWidth 64, ring (·.produced), ring (·.consumed),
    (0 : BitVec 40) ++ h.gen ++ h.width ++ (0 : BitVec 5) ++ BitVec.ofBool h.ring.isSome ++ BitVec.ofBool h.d3hot ++
      BitVec.ofBool h.bme ++ (0 : BitVec 2) ++ BitVec.ofNat 6 (tagsOut h),
    BitVec.ofNat 64 (20 * h.staging.length) ]

/-- Face record 1 (Table 16-5). -/
def shuttleRecord (x : Shuttle) : List W64 :=
  [ (0 : BitVec 39) ++ BitVec.ofBool x.up ++ (0 : BitVec 4) ++ BitVec.ofNat 4 x.held.length ++ x.next ++ x.exp,
    x.u.setWidth 64, x.sent.setWidth 64, x.partner.setWidth 64 ]

/-- Face records 2 and 3 (Table 16-5). -/
def rowRecord (s : State) (r : RowId) : List W64 :=
  let p := rowAt s r
  [ (0 : BitVec 36) ++ p.neighbor.getD 0 ++ (0 : BitVec 14) ++ BitVec.ofBool p.grace ++ BitVec.ofBool p.usable,
    p.lr.setWidth 64, p.fr.setWidth 64, p.lnext.setWidth 64, p.fnext.setWidth 64, p.gLcredit.setWidth 64,
    p.gFcredit.setWidth 64, BitVec.ofNat 64 (localHeld s r), BitVec.ofNat 64 (blocksHeld s r) ]

/-- Face record 4 (Table 16-5). -/
def selvedgeRecord (x : Sel) : List W64 :=
  [ (match x.last with
     | some u => statusOf u (if x.linkUp then u.state else 0)
     | none => 0x3000000000000000),
    x.c.setWidth 64,
    (2 : BitVec 4) ++ (0 : BitVec 32) ++ x.period ++ x.mask,
    (3 : BitVec 4) ++ x.nctx ++ x.ncell ++ x.niaddr ++ x.nmask,
    (0 : BitVec 47) ++ BitVec.ofBool x.linkUp ++ (if x.frame = 0 then 0 else (x.frame - 1).setWidth 16) ]

/-- Events held by rank (Table 16-5). -/
def rankCounts (t : Time) : List W64 :=
  (List.range 8).map fun i => BitVec.ofNat 64 (t.held.filter (fun e => e.rank == i + 1)).length

/-- The face records (Table 16-5). -/
def faceRecords (s : State) : List Byte :=
  ([hostRecord s.host, shuttleRecord s.sh, rowRecord s .a, rowRecord s .b, selvedgeRecord s.sel, rankCounts s.time,
    [keyState s.keys], []] : List (List W64)).flatMap fun ws => padTo 128 (wordBytes ws)

/-- A probe's parameter block (Table 10-5). -/
def probeBlock (p : ProbeParams) : List W64 :=
  [ (0 : BitVec 32) ++ p.sample ++ (0 : BitVec 7) ++ p.vnmask ++ BitVec.ofBool p.side ++ p.port ++ p.tile ++
      BitVec.ofBool p.clear ++ BitVec.ofBool p.trace ++ BitVec.ofBool p.enable,
    p.hmask ++ p.hval, p.w2mask ++ p.w2val, p.w3mask ++ p.w3val, p.w4mask ++ p.w4val ]

/-- A probe record (R627). -/
def probeRecord (p : Probe) : List W64 :=
  (match p.next, p.params with
   | some q, _ => probeBlock q
   | none, some q => probeBlock q
   | none, none => [0, 0, 0, 0, 0]) ++
  [p.matched.setWidth 64, p.waited.setWidth 64, (0 : BitVec 44) ++ BitVec.ofNat 4 p.trace.length ++ p.dropped]

/-- A section of the dump with its header (Table 16-3). -/
def section_ (type count rsize : Nat) (body : List Byte) : List Byte :=
  leBytes 1 type ++ [0] ++ leBytes 2 count ++ leBytes 4 rsize ++ leBytes 4 (count * rsize) ++ [0, 0, 0, 0] ++ body

/-- The six sections of the dump (Table 16-3). -/
def dumpSections (s : State) : List Byte :=
  section_ 1 256 64 ((List.range 256).flatMap fun i => wordBytes (cellRecord s (BitVec.ofNat 8 i))) ++
  section_ 2 64 64 ((List.range 64).flatMap fun i => padTo 64 (wordBytes (tileRecord s (BitVec.ofNat 6 i)))) ++
  section_ 3 4 320 ((List.range 4).flatMap fun i => quadRecord s (BitVec.ofNat 2 i)) ++
  section_ 4 1 1024 (stewardRecord s) ++
  section_ 5 8 128 (faceRecords s) ++
  section_ 6 32 64 ((List.range 32).flatMap fun i => wordBytes (probeRecord (mget Probe.idle s.weave.probes i)))

/-- TRIGGERS (Table 16-1). -/
def triggerBits (ts : List (BitVec 4)) : BitVec 16 := ts.foldl (fun m b => m ||| (1#16 <<< b.toNat)) 0

/-- A dump (Table 16-2) with a given CRC field. -/
def dumpWith (s : State) (crc : BitVec 32) : List Byte :=
  [0x54, 0x41, 0x42, 0x58] ++ leBytes 2 1 ++ leBytes 2 6 ++ leBytes 4 26016 ++ leBytes 4 crc.toNat ++
    leBytes 8 s.time.beat.toNat ++ leBytes 2 (triggerBits s.tab.due).toNat ++ leBytes 2 s.tab.ignored.toNat ++
    leBytes 4 (s.tab.serial + 1).toNat ++ wordBytes [imageId s, feat3 s.straps, energyWord s, 0] ++ dumpSections s

/-- The dump of a state at the latch (R621). -/
def dumpBytes (s : State) : List Byte := dumpWith s (crc32 (dumpWith s 0))

/-! ## Triggers (R611, R612, R617, R620) -/

/-- Triggers that are ignored (R612). -/
def ignoreTriggers (t : Tab) (n : Nat) : Tab :=
  { t with ignored := satAdd t.ignored n, ignoredTotal := satAdd t.ignoredTotal n }

/-- A falling edge on TABLEAU_N arrives (Table 03-6). While MCLK is stopped it is not recognised (R117); during a freeze
its trigger is ignored (R644). -/
def execTableauNAssert (s : State) : Host.Outcome State Fault Refusal :=
  if !s.pwr.clkok then .next s
  else if halted s then
    let s1 := { s with tab := ignoreTriggers s.tab 1 }
    .next (if s.stw.started then stampEvent s1 4 0 (.tableau (some ((s.time.beat + 1).setWidth 64))) else s1)
  else .next (stampEvent s 4 0 (.tableau none))

/-! ## The freeze (R613, R614) -/

/-- An engine as the freeze stops it: outstanding operations complete, and a divide in progress is abandoned (R197). -/
def freezeEngine (e : Engine) : Engine :=
  let e1 := flushEngine e
  match e1.phase with
  | .dividing _ _ _ => { e1 with phase := .running, stall := 5 }
  | _ => e1

/-- A keyed collection with every value changed. -/
def mmap {α : Type} [DecidableEq α] (d : α) (f : α → α) (m : List (Nat × α)) : List (Nat × α) :=
  (m.map fun e => (e.1, f e.2)).filter fun e => decide (e.2 ≠ d)

/-- The freeze at a latching boundary: strands stop, and the snapshot is taken and held (R613, R614). -/
def execTableauFreeze (s : State) : Host.Outcome State Fault Refusal :=
  if !s.pwr.clkok || !powered s 1 then .next s
  else if s.tab.frozen || s.tab.due.isEmpty then .refused .wrongPhase
  else
    let s1 := { s with cells := mmap Cell.clear (fun x => { x with engine := freezeEngine x.engine }) s.cells }
    let bs := dumpBytes s1
    .next { s1 with
      freeCounter := s.freeCounter + 65
      tab := { s.tab with due := [], held := some bs, frozen := true, ignored := 0, latched := satAdd s.tab.latched 1,
                          serial := s.tab.serial + 1 } }

/-! ## Dumps (R615 to R618) -/

/-- The face of a sink context is strapped on (R617, R618). -/
def dumpSinkOn (x : Straps) (sink : BitVec 8) : Bool :=
  (sink == 1 && hostOn x) || (sink == 2 && shutOn x) || (sink == 3 && rowAOn x) || (sink == 4 && rowBOn x)

/-- A dump begins (R615): a row port is offered its first bytes. -/
def beginDump (s : State) (sink : BitVec 8) (req : Option Req) : State :=
  let s1 := { s with tab := { s.tab with dump := some ⟨sink, 0, req⟩ } }
  if sink = 3 then queueOwn s1 .a (.dump (dumpChunk s1))
  else if sink = 4 then queueOwn s1 .b (.dump (dumpChunk s1))
  else s1

/-- The automatic dump of a snapshot (R616, R618). -/
def autoDump (s : State) : State :=
  match s.stw.image with
  | some i => if s.stw.started && dumpSinkOn s.straps i.tabSink && s.tab.dump.isNone then beginDump s i.tabSink none else s
  | none => s

/-- A request to dump the snapshot (R617). -/
def execTableauDump (s : State) : Host.Outcome State Fault Refusal :=
  takeRequest s (· == 0x008) fun s t r =>
    let sink := if t.cell = 0 then (match s.stw.image with | some i => i.tabSink | none => 0) else t.cell
    if t.value ≠ 0 ∨ 4 < t.cell.toNat ∨ !dumpSinkOn s.straps sink then .next (answer s r stArgument [])
    else if s.tab.dump.isSome then .next { s with stw := { s.stw with dumps := s.stw.dumps ++ [(r, sink)] } }
    else if s.tab.held.isNone then .next (answer s r stRefused [])
    else .next (beginDump s sink (some r))

/-- The collector hands over the last byte: the snapshot is released, the dump's request is answered, and the requests
that waited find no snapshot (R615, R617). A host face with Bus Master Enable 0 discards what is left (R647). -/
def execTableauDumpComplete (s : State) : Host.Outcome State Fault Refusal :=
  if !s.pwr.clkok || !powered s 1 then .next s
  else match s.tab.dump, s.tab.held with
  | some d, some bs =>
    let discards := d.sink == 1 && !s.host.bme
    if halted s || (d.pos != bs.length && !discards) then .refused .wrongPhase
    else
      let s1 := if discards then discardDump s (bs.length - d.pos) else s
      let s2 := { s1 with tab := { s1.tab with held := none, dump := none, dumps := satAdd s1.tab.dumps 1 }
                          stw := { s1.stw with dumps := [] } }
      let s3 := match d.req with | some r => answer s2 r stOk [] | none => s2
      .next (s.stw.dumps.foldl (fun s r => answer s r.1 stRefused []) s3)
  | _, _ => .refused .nothingWaiting

end Sys2Proof.Machine
end

