-- ==== Sys2Proof/Machine/System.lean ====
section
/-! DEFINITION. System requests that ask, set and act (chapter 4): DESCRIBE, COUNTERS, probes, TABLEAU, energy, sleep,
alarms, RESUME and reserved codes. -/

namespace Sys2Proof.Machine

open Sys2Proof

/-! ## Parameter blocks (R146, R308) -/

/-- Where a parameter block's word lies, when it may lie there. -/
def paramPlace (a : Addr) : Option Place :=
  match rangeOf a with
  | .bank => some (.bank (bankOf a))
  | .keep => some .keep
  | _ => none

/-- A block of n words may lie at an ARG64: bits [63:48] zero, every word in bank or keep memory (R146). -/
def paramAddress (v : W64) (n : Nat) : Bool :=
  v.extractLsb' 48 16 == 0 &&
    (List.range n).all fun i => (paramPlace ((v.setWidth 48 : Addr) + BitVec.ofNat 48 (8 * i))).isSome

/-- The words of a parameter block are PLAIN (R146). -/
def blockPlain (m : Mem) (a : Addr) (n : Nat) : Bool :=
  (List.range n).all fun i => presAt m (a + BitVec.ofNat 48 (8 * i)).toNat == presPlain

/-- A word that the steward reads: corrected and counted as Table 08-4 states. A word with a double-bit error has no
stated value: it is free. -/
def readParam (s : State) (a : Addr) : State × W64 :=
  match paramPlace a with
  | none => (s, 0)
  | some pl =>
    let s1 := { s with mem := checkWord s.mem pl a }
    if wordBad s.mem a then (bumpFree s1, freeNow s) else (s1, wordAt s.mem a)

/-- The words of a parameter block. -/
def readParams (s : State) (a : Addr) : Nat → State × List W64
  | 0 => (s, [])
  | n + 1 =>
    let x := readParam s a
    let y := readParams x.1 (a + 8) n
    (y.1, x.2 :: y.2)

/-! ## Requests that report -/

/-- DESCRIBE (R144). -/
def execDescribe (s : State) : Host.Outcome State Fault Refusal :=
  takeRequest s (· == 0x003) fun s t r =>
    if t.cell ≠ 0 ∨ t.value ≠ 0 then .next (answer s r stArgument [])
    else .next (answer s r stOk
      [feat0, feat1, feat2, feat3 s.straps, s.time.beat.setWidth 64, imageId s, stateWord s])

/-- COUNTERS (R628, R629): the words are sampled at the next beat boundary. -/
def execCounters (s : State) : Host.Outcome State Fault Refusal :=
  takeRequest s (· == 0x004) fun s t r =>
    if t.value ≠ 0 ∨ 0x0E < t.cell.toNat then .next (answer s r stArgument [])
    else .next { s with stw := { s.stw with counters := s.stw.counters ++ [(r, t.cell)] } }

/-- ENERGY_QUERY (R564). -/
def execEnergyQuery (s : State) : Host.Outcome State Fault Refusal :=
  takeRequest s (· == 0x00E) fun s t r =>
    if t.cell ≠ 0 ∨ t.value ≠ 0 then .next (answer s r stArgument [])
    else .next (answer s r stOk [energyWord s])

/-- A request with a reserved code or a notice's code (R143). -/
def execReservedSystemCode (s : State) : Host.Outcome State Fault Refusal :=
  takeRequest s (fun k => k == 0 || decide (0x012 ≤ k.toNat)) fun s _ r => .next (answer s r stUnknown [])

/-! ## Probes (R395, R399) -/

/-- The probe parameters that a block holds (Table 10-5). -/
def probeOf (ws : List W64) : ProbeParams :=
  let w := fun (i : Nat) => ws.getD i 0
  { sample := (w 0).extractLsb' 24 8, vnmask := (w 0).extractLsb' 13 4, side := (w 0).getLsbD 12,
    port := (w 0).extractLsb' 9 3, tile := (w 0).extractLsb' 3 6, clear := (w 0).getLsbD 2, trace := (w 0).getLsbD 1,
    enable := (w 0).getLsbD 0, hmask := (w 1).extractLsb' 32 32, hval := (w 1).setWidth 32,
    w2mask := (w 2).extractLsb' 32 32, w2val := (w 2).setWidth 32, w3mask := (w 3).extractLsb' 32 32,
    w3val := (w 3).setWidth 32, w4mask := (w 4).extractLsb' 32 32, w4val := (w 4).setWidth 32 }

/-- Tiles with an extra port (R29). -/
def hasExtra (t : TileId) : Bool := t == 0 || t == 7 || t == 56 || t == 63

/-- A block breaks a rule of R395. -/
def probeBad (p : Nat) (ws : List W64) : Bool :=
  let q := probeOf ws
  (quadOfTile q.tile).toNat != p / 8 || decide (6 ≤ q.port.toNat) || (q.port == 5 && !hasExtra q.tile) ||
    (ws.getD 0 0).extractLsb' 32 32 != 0 || (ws.getD 0 0).extractLsb' 17 7 != 0

/-- PROBE_SET (R395): the parameters take effect at the next beat boundary. -/
def execProbeSet (s : State) : Host.Outcome State Fault Refusal :=
  takeRequest s (· == 0x005) fun s t r =>
    if 32 ≤ t.cell.toNat ∨ !paramAddress t.value 5 then .next (answer s r stArgument [])
    else if !blockPlain s.mem (t.value.setWidth 48) 5 then unpredictable 146 s
    else
      let x := readParams s (t.value.setWidth 48) 5
      if probeBad t.cell.toNat x.2 then .next (answer x.1 r stArgument [])
      else
        let w := x.1.weave
        let p := mget Probe.idle w.probes t.cell.toNat
        let s1 := { x.1 with weave := { w with probes := mset Probe.idle w.probes t.cell.toNat { p with next := some (probeOf x.2) } } }
        .next (answer s1 r stOk [])

/-- A probe is enabled. -/
def probeEnabled (p : Probe) : Bool := match p.params with | some q => q.enable | none => false

/-- PROBE_DUMP (R399): the trace records leave, oldest first, and the buffer empties. -/
def execProbeDump (s : State) : Host.Outcome State Fault Refusal :=
  takeRequest s (· == 0x006) fun s t r =>
    if 32 ≤ t.cell.toNat ∨ t.value ≠ 0 then .next (answer s r stArgument [])
    else
      let p := mget Probe.idle s.weave.probes t.cell.toNat
      if !probeEnabled p then .next (answer s r stOk [])
      else
        let s1 := { s with weave := { s.weave with
          probes := mset Probe.idle s.weave.probes t.cell.toNat { p with trace := [] } } }
        .next (answer s1 r stOk p.trace)

/-! ## TABLEAU (R611, R619) -/

/-- A TABLEAU request raises a trigger; its status is sent once the trigger has been latched or ignored (R619). -/
def execTableauRequest (s : State) : Host.Outcome State Fault Refusal :=
  takeRequest s (· == 0x007) fun s t r =>
    if t.cell ≠ 0 ∨ t.value ≠ 0 then .next (answer s r stArgument [])
    else .next { s with tab := raiseTrigger s.tab 2, stw := { s.stw with tableau := s.stw.tableau ++ [r] } }

/-! ## SLEEP (R562, R565) -/

/-- Where a SLEEP's ARG8 leads. -/
def sleepTo (n : BitVec 8) : SleepTo := if n = 0 then .standby else if n = 1 then .hibernate else .tending

/-- A second SLEEP before the descent begins: which of the two is acted on is left open. -/
def eitherSleep (s : State) (old : Option SleepTo) (new : SleepTo) : Option SleepTo :=
  match old with
  | none => some new
  | some o => some (if (freeNow s).getLsbD 0 then o else new)

/-- SLEEP (R565): the descent begins at the next beat boundary; during an exhaustion grace it ends the grace (R562). -/
def execSleep (s : State) : Host.Outcome State Fault Refusal :=
  takeRequest s (· == 0x00F) fun s t r =>
    if t.value ≠ 0 ∨ 3 ≤ t.cell.toNat then .next (answer s r stArgument [])
    else if s.pwr.grace then
      .next { s with pwr := { s.pwr with graceSleep := eitherSleep s s.pwr.graceSleep (sleepTo t.cell) },
                     freeCounter := s.freeCounter + 1 }
    else
      .next { s with pwr := { s.pwr with sleepReq := eitherSleep s s.pwr.sleepReq (sleepTo t.cell) },
                     freeCounter := s.freeCounter + 1 }

/-! ## ALARM_SET (R105, R108) -/

/-- A target is due at a beat (R106). -/
def targetDue (now target : BitVec 48) : Bool := decide ((now - target).toNat < 2 ^ 47)

/-- A slot after an ALARM_SET (R105): a target already due with period 0 cancels it. A pending alarm stays (R108). -/
def setAlarm (now : BitVec 48) (a : Alarm) (target period : BitVec 48) (tag : W64) : Alarm :=
  if period = 0 ∧ targetDue now target then { Alarm.clear with pend := a.pend }
  else { a with set := true, armed := now, target := target, period := period, tag := tag }

/-- ALARM_SET (R105). -/
def execAlarmSet (s : State) : Host.Outcome State Fault Refusal :=
  let base := offsetBase s
  takeRequest s (· == 0x010) fun s t r =>
    if t.cell.extractLsb' 4 4 ≠ 0 ∨ !paramAddress t.value 3 then .next (answer s r stArgument [])
    else if !blockPlain s.mem (t.value.setWidth 48) 3 then unpredictable 146 s
    else
      let x := readParams s (t.value.setWidth 48) 3
      let w := fun (i : Nat) => x.2.getD i 0
      if (w 0).extractLsb' 48 16 ≠ 0 ∨ (w 1).extractLsb' 48 16 ≠ 0 then .next (answer x.1 r stArgument [])
      else if (w 2).extractLsb' 0 10 ≠ 0 then unpredictable 23 s
      else
        let target := if t.cell.getLsbD 3 then (w 0).setWidth 48 else base + (w 0).setWidth 48
        let k := (t.cell.extractLsb' 0 3).toNat
        let a := setAlarm x.1.time.beat (mget Alarm.clear x.1.time.alarms k) target ((w 1).setWidth 48) (w 2)
        let s1 := { x.1 with time := { x.1.time with alarms := mset Alarm.clear x.1.time.alarms k a } }
        .next (answer s1 r stOk [])

/-! ## RESUME (R203, R284) -/

/-- Two trap identifiers name one record: CELL, PAGE and GEN match (R284). -/
def sameTrap (a b : W64) : Bool := a.extractLsb' 42 22 == b.extractLsb' 42 22 && a.extractLsb' 20 8 == b.extractLsb' 20 8

/-- A flit that stores to a page. -/
def storesTo (page : BitVec 13) (f : Flit) : Bool :=
  match f.msg with
  | .write a _ _ _ _ => rangeOf a == .bank && a.extractLsb' 12 13 == page
  | _ => false

/-- A store to a parked record has not been served, or no load of the record has been served since (R284). -/
def recordUnsettled (s : State) (p : Parked) : Bool := p.dirty || s.weave.anyFlit (storesTo (trapPage p.trapId))

/-- RESUME (R284): a parked strand that it denotes will be restored; it is answered only when it denotes none. One sent
before the handler's last store is known to be served is unpredictable (Table 17-4). -/
def execResume (s : State) : Host.Outcome State Fault Refusal :=
  takeRequest s (· == 0x011) fun s t r =>
    if 2 ≤ t.cell.toNat then .next (answer s r stArgument [])
    else match s.stw.parked.find? (fun p => sameTrap t.value p.trapId) with
    | none => .next (answer s r stArgument [])
    | some p =>
      let c : CellId := p.trapId.extractLsb' 20 8
      let s1 := { s with stw := { s.stw with parked := s.stw.parked.erase p } }
      if recordUnsettled s p then unpredictable 284 s
      else .next (setCell s1 c { cellAt s1 c with resumed := (cellAt s1 c).resumed ++ [⟨p.trapId, t.cell == 1, false, []⟩] })

end Sys2Proof.Machine
end

