-- ==== Sys2Proof/Machine/Power.lean ====
section
/-! DEFINITION. Power domains, energy levels and limits, descents, wakes, and restarts (chapters 14 and 15). -/

namespace Sys2Proof.Machine

open Sys2Proof

/-! ## What a power domain loses (R334, R404, R567, R629) -/

/-- A tile, by number, lies in one of the quadrants of a mask. -/
def inQuads (qs : BitVec 4) (t : Nat) : Bool := qs.getLsbD (quadOfTile (BitVec.ofNat 6 t)).toNat

/-- A keyed collection without the keys that a test names. -/
def without {α : Type} (p : Nat → Bool) (m : List (Nat × α)) : List (Nat × α) := m.filter fun e => !p e.1

/-- Memory without the banks of a mask of quadrants: words cleared, PLAIN, without errors (R301). -/
def dropBanks (qs : BitVec 4) (m : Mem) : Mem :=
  let gone := fun (a : Nat) => decide (a < 0x2000000) && inQuads qs (a / 0x80000)
  { m with data := without gone m.data, pres := without (fun w => gone (8 * w)) m.pres,
           ecc := without (fun w => gone (8 * w)) m.ecc, banks := without (inQuads qs) m.banks }

/-- Lock units and mirrors without those of a mask of quadrants. -/
def dropLocks (qs : BitVec 4) (l : Locks) : Locks :=
  { units := without (fun q => qs.getLsbD q) l.units, mirror := without (inQuads qs) l.mirror,
    owed := without (inQuads qs) l.owed }

/-- The weave without the routers and probes of a mask of quadrants (R404). What the blocks at the extra ports offer waits
with them when their domains keep power. -/
def dropRouters (qs : BitVec 4) (faces : Bool) (w : Weave) : Weave :=
  { chans := without (fun k => inQuads qs (k / 48)) w.chans
    outs := without (fun k => inQuads qs (k / 8)) w.outs
    owed := without (fun k => inQuads qs (k / 48)) w.owed
    offers := without (fun k => inQuads qs (k / 2) && !(faces && k % 2 == 1)) w.offers
    probes := without (fun p => qs.getLsbD (p / 8)) w.probes }

/-- Everything that the quadrant domains of a mask hold is lost. -/
def dropQuads (qs : BitVec 4) (faces : Bool) (s : State) : State :=
  { s with cells := without (fun c => inQuads qs (c / 4)) s.cells, mem := dropBanks qs s.mem,
           locks := dropLocks qs s.locks, weave := dropRouters qs faces s.weave }

/-- PD1 loses power: steward, key block's session values, and the tableau collector's snapshot. The counts of the steward
and key-block groups are held in PD0 (R629). -/
def dropPd1 (s : State) : State :=
  let t := { s.tab with raised := [], due := [], held := none, dump := none, frozen := false }
  loseEvents { s with
    stw := { Steward.clear with sinkDiscards := s.stw.sinkDiscards }
    keys := { s.keys with session := 0 }
    tab := t
    time := { s.time with stale := 0, staleHold := false, progress := false, withholding := false, withholds := 0 } }
    isStewardEvent

/-- PD6 loses power. -/
def dropPd6 (s : State) : State := loseEvents { s with host := HostFace.clear } isHostEvent

/-- PD7 loses power, with SHUTTLE_RAW. -/
def dropPd7 (s : State) : State :=
  loseEvents { s with sh := Shuttle.clear
                      streams := { s.streams with shTake := [], shPut := [], last := mdrop 4 s.streams.last } } isShuttleEvent

/-- PD8 loses power, with the raw streams of both ports. -/
def dropPd8 (s : State) : State :=
  loseEvents { s with rowA := RowPort.clear, rowB := RowPort.clear
                      streams := { s.streams with rowTakeA := [], rowPutA := [], rowTakeB := [], rowPutB := [],
                                                  last := mdrop 2 (mdrop 3 s.streams.last) } }
    fun k => isRowEvent false k || isRowEvent true k

/-- PD9 loses power, with FIELD_IN and FIELD_OUT. The field die hears no more frames: its GOOD falls to 0 (R513). -/
def dropPd9 (s : State) : State :=
  loseEvents { s with sel := Sel.clear, fd := { s.fd with good := 0 }
                      streams := { s.streams with fieldIn := [], fieldOut := [], last := mdrop 0 (mdrop 1 s.streams.last) } }
    isFieldEvent

/-- An address of keep memory. -/
def inKeep (a : Nat) : Bool := decide (0x10000000 ≤ a) && decide (a < 0x10010000)

/-- Every word of keep memory is zero with valid check bits. -/
def zeroKeep (s : State) : State :=
  { s with mem := { s.mem with data := without inKeep s.mem.data, ecc := without (fun w => inKeep (8 * w)) s.mem.ecc } }

/-- PD10 loses power. -/
def dropPd10 (s : State) : State :=
  let s1 := zeroKeep s
  { s1 with mem := { s1.mem with keepScrub := 0, keepCorr := 0, keepUncorr := 0 } }

/-- PD11 loses power. -/
def dropPd11 (s : State) : State := { s with jtag := ⟨2, 0⟩ }

/-- A mask of power domains. -/
def pdMask (ds : List Nat) : BitVec 12 := ds.foldl (fun m d => m ||| (1#12 <<< d)) 0

/-- The state with power domains switched on. -/
def powerUp (s : State) (ds : List Nat) : State := { s with pwr := { s.pwr with pd := s.pwr.pd ||| pdMask ds } }

/-- Keep memory has held its contents up to now (R572). -/
def keepSoFar (s : State) : Bool :=
  match s.pwr.phase with
  | .cold _ => s.pwr.keepHeld
  | .sampling => s.pwr.keepHeld
  | .rails => s.pwr.keepHeld
  | .locking => s.pwr.keepHeld
  | .held => s.pwr.keepHeld
  | .faulted => s.pwr.keepHeld
  | .clockLost => s.pwr.keepHeld
  | _ => powered s 10

/-- MCLK stops: how far the present beat has come is not known, so the sub-beat phase is free (R95). -/
def stopClock (s : State) : State :=
  if s.pwr.clkok then
    bumpFree { s with time := { s.time with sub := BitVec.ofNat 17 ((freeNow s).toNat % 2 ^ beatExp s.straps) } }
  else s

/-- Every domain except PD0 and PD10 is removed, MCLK stops, CLKOK and STEADY fall (R553, R592, R593). -/
def goDark (s : State) : State :=
  let s1 := dropPd11 (dropPd9 (dropPd8 (dropPd7 (dropPd6 (dropPd1 (dropQuads 15 false (stopClock s)))))))
  { s1 with
    pwr := { s1.pwr with
      pd := s1.pwr.pd &&& pdMask [0, 10], clkok := false, steady := false, running := 0, clearing := 0, cleared := 0,
      fabricUp := false, started := false, wakeNew := false, grace := false, graceSleep := none, sleepReq := none,
      newLevel := none, conversions := [], enPhy := false, keepHeld := keepSoFar s }
    time := { s1.time with edge := 0, alarmSpace := 0 } }

/-- The enables fall, and with them the power-good inputs (R551, R553). -/
def enablesLow (p : Power) : Power :=
  { p with enPhy := false, enCore := false, enIo := false, pgIo := false, pgCore := false, vid := 10 }

/-! ## Energy levels and limits (R558, R559) -/

/-- T_A, T_B, T_W and T_X of a tier (Table 14-7). -/
def thresholds (tier : Nat) : Nat × Nat × Nat × Nat :=
  match tier with
  | 1 => (920, 880, 860, 820)
  | 2 => (900, 860, 840, 800)
  | 3 => (880, 840, 820, 780)
  | 4 => (860, 820, 800, 760)
  | 5 => (840, 800, 780, 740)
  | _ => (800, 760, 740, 700)

/-- T_W of a tier. -/
def tWarn (tier : Nat) : Nat := (thresholds tier).2.2.1
/-- T_X of a tier. -/
def tExhausted (tier : Nat) : Nat := (thresholds tier).2.2.2

/-- The level that a reading gives by the thresholds alone (R558); AMPLE under tier 0. -/
def levelOf (tier r : Nat) : BitVec 3 :=
  let t := thresholds tier
  if tier = 0 then 4
  else if t.1 ≤ r then 4
  else if t.2.1 ≤ r then 3
  else if t.2.2.1 ≤ r then 2
  else if t.2.2.2 ≤ r then 1
  else 0

/-- The level after a reading (R558): it falls at once, and rises only with 16 mV to spare. -/
def nextLevel (tier : Nat) (level : BitVec 3) (r : Nat) : BitVec 3 :=
  let down := levelOf tier r
  let up := levelOf tier (r - 16)
  if tier = 0 then 4
  else if down.toNat < level.toNat then down
  else if level.toNat < up.toNat then up
  else level

/-- The level's limit (Table 14-7): quadrants and rate. -/
def tierLimit (tier : Nat) (level : BitVec 3) : BitVec 3 × BitVec 2 :=
  match tier, level.toNat with
  | 2, 4 => (2, 2)
  | 3, 4 => (2, 1)
  | 3, 3 => (1, 1)
  | 4, 4 => (4, 1)
  | 4, 3 => (2, 2)
  | 5, 4 => (4, 0)
  | 5, 3 => (2, 1)
  | 6, 4 => (4, 0)
  | 6, 3 => (4, 1)
  | 0, _ => (4, 0)
  | _, _ => (1, 2)

/-- The limit in effect (R559); 1 quadrant at quarter rate during the exhaustion grace (R562). -/
def limitOf (x : Straps) (level : BitVec 3) (grace : Bool) : BitVec 3 × BitVec 2 :=
  let l := if grace then (1, 2) else tierLimit (energyTier x) level
  (if l.1.toNat < (strapQuads x).toNat then l.1 else strapQuads x,
   if l.2.toNat < (strapRate x).toNat then strapRate x else l.2)

/-- The state with the limit of its level in effect. -/
def setLimit (s : State) : State :=
  let l := limitOf s.straps s.pwr.level s.pwr.grace
  { s with pwr := { s.pwr with limitQuads := l.1, limitRate := l.2 } }

/-- The running set of a number of quadrants (Table 14-2). -/
def runningSet (quads : BitVec 3) : BitVec 4 := if quads = 4 then 15 else if quads = 2 then 12 else 8

/-- The VID code of a rate (Table 14-4). -/
def vidOf (rate : BitVec 2) : BitVec 5 := if rate = 0 then 25 else if rate = 1 then 15 else 10

/-! ## Quadrants stop and start (R560) -/

/-- RETRYs that stand before the cells of stopped quadrants go into the room that the cells reserved (R384). -/
def roomRetries (s : State) (t : TileId) : State :=
  let k := outKey t false 2
  (outAt s.weave k).foldl (fun s f =>
    match f.msg with
    | .retry r => intoRoom { s with weave := setOut s.weave k ((outAt s.weave k).erase f) } r.cell f.msg
    | _ => s) s

/-- The cell domains of quadrants outside a set stop (R560). -/
def stopCells (s : State) (keep : BitVec 4) : State :=
  let gone := s.pwr.running &&& ~~~keep
  (allTiles.filter fun t => inQuads gone t.toNat).foldl roomRetries
    { s with pwr := { s.pwr with running := s.pwr.running &&& keep } }

/-! ## Starts (Tables 14-12 and 15-3) -/

/-- A warm restart or a wake raises the rails (Table 14-12, step 3). PD10 has power from then on. -/
def beginRails (s : State) (cause : BitVec 4) (wakeFrom : BitVec 2) (keepLoad : Bool) : State :=
  let s1 := powerUp s [0, 10]
  { s1 with pwr := { s1.pwr with phase := .rails, enIo := true, wakeCause := cause, wakeFrom := wakeFrom,
                                 keepLoad := keepLoad, wakeLatch := 0, refused := 0 } }

/-- The lowest cause of a set (R568). -/
def lowestCause (m : BitVec 16) : BitVec 4 := BitVec.ofNat 4 (((List.range 16).find? m.getLsbD).getD 0)

/-- A wake from STANDBY or HIBERNATE proceeds (R568, R572). -/
def wakeGo (s : State) (hib : Bool) (cause : BitVec 4) : State :=
  let s1 := beginRails s cause (if hib then 1 else 2) hib
  { s1 with pwr := { s1.pwr with keepHeld := !hib, wakeNew := true } }

/-- The wake test begins, for every source that waits (R556, R568, R580). -/
def beginTest (s : State) (hib : Bool) (sources : BitVec 16) : State :=
  { s with pwr := { s.pwr with phase := .wakeTest hib (lowestCause sources), conversions := [], wakeLatch := sources,
                               wakeNew := true } }

/-- A wake from STANDBY or HIBERNATE is called for by a set of sources and those latched before (R568, R569). -/
def startWake (s : State) (hib : Bool) (sources : BitVec 16) : State :=
  let m := s.pwr.wakeLatch ||| sources
  if energyTier s.straps = 0 then wakeGo { s with pwr := { s.pwr with level := 4 } } hib (lowestCause m)
  else beginTest s hib m

/-- A source qualifies in STANDBY or HIBERNATE; one that has been refused waits for its next test. -/
def wakeAsleep (s : State) (hib : Bool) (cause : BitVec 4) : State :=
  if s.pwr.refused.getLsbD cause.toNat then s else startWake s hib (1#16 <<< cause.toNat)

/-- A wake from TENDING (R570): from step 7 on. -/
def wakeTending (s : State) (cause : BitVec 4) : State :=
  { s with pwr := { s.pwr with phase := .run, wakeCause := cause, wakeFrom := 3, keepHeld := true, keepLoad := false,
                               wakeLatch := 0, refused := 0, wakeNew := true } }

/-- A wake source that a descent latches (R569). -/
def latchedSource (cause : BitVec 4) : Bool := cause == 1 || cause == 2 || cause == 5
/-- A wake source effective in TENDING (Table 14-11). -/
def tendingSource (cause : BitVec 4) : Bool := cause == 1 || cause == 5 || cause == 7
/-- A wake source effective in STANDBY and HIBERNATE (Table 14-11). -/
def asleepSource (cause : BitVec 4) : Bool := decide (1 ≤ cause.toNat) && decide (cause.toNat ≤ 6)

/-- Of a cause and another that qualifies at the same tick, the lower (R568). -/
def lowerCause (s : State) (old cause : BitVec 4) : BitVec 4 :=
  if s.pwr.wakeNew && decide (cause.toNat < old.toNat) then cause else old

/-- A wake source is latched in PD0. -/
def latchSource (s : State) (cause : BitVec 4) : State :=
  { s with pwr := { s.pwr with wakeLatch := s.pwr.wakeLatch ||| (1#16 <<< cause.toNat) } }

/-- A wake that has begun, and a source that qualifies after it: at the same tick, the lower cause is recorded; later, it
adds no second wake (R568, R582). -/
def wakeAgain (s : State) (effective : BitVec 4 → Bool) (cause : BitVec 4) : State :=
  if effective cause then { s with pwr := { s.pwr with wakeCause := lowerCause s s.pwr.wakeCause cause } } else s

/-- A wake source qualifies (R568): what it does depends on where the device stands. -/
def wakeSource (s : State) (cause : BitVec 4) : State :=
  match s.pwr.phase with
  | .standby => if asleepSource cause then wakeAsleep s false cause else s
  | .hibernate => if asleepSource cause then wakeAsleep s true cause else s
  | .tending => if tendingSource cause then wakeTending s cause else s
  | .wakeTest hib c =>
    if asleepSource cause then
      let s1 := latchSource s cause
      { s1 with pwr := { s1.pwr with phase := .wakeTest hib (lowerCause s c cause) } }
    else s
  | .rails => wakeAgain s asleepSource cause
  | .run => wakeAgain s tendingSource cause
  | .descent _ => if latchedSource cause then latchSource s cause else s
  | .descentOff _ => if latchedSource cause then latchSource s cause else s
  | .descentCore _ => if latchedSource cause then latchSource s cause else s
  | .descentIo _ => if latchedSource cause then latchSource s cause else s
  | _ => s

/-- The latched wake sources act at the first tick after a state has been entered (R569); in TENDING, SH_WAKE_N is none
(R473). -/
def wakeLatched (s : State) : State :=
  let m := s.pwr.wakeLatch
  match s.pwr.phase with
  | .standby => if m = 0 then s else startWake s false 0
  | .hibernate => if m = 0 then s else startWake s true 0
  | .tending =>
    if m &&& 0x22 = 0 then { s with pwr := { s.pwr with wakeLatch := 0 } } else wakeTending s (lowestCause (m &&& 0x22))
  | _ => s

/-- The device takes the state of RESET_N asserted (R592): EN_PHY falls, and EN_CORE and EN_IO at the two next ticks. -/
def enterReset (s : State) : State :=
  let s1 := loseEvents (goDark s) isAlarmEvent
  { s1 with time := { s1.time with alarms := [] }
            streams := { s1.streams with alarm := [], last := mdrop 5 s1.streams.last }
            pwr := { s1.pwr with phase := .held, wakeLatch := 0, refused := 0 } }

/-- A warm restart begins when RESET_N and TAMPER_N are both high and the enables have fallen (R591, R592, R640, R651). -/
def leaveReset (s : State) : State :=
  let p := s.pwr
  if p.phase = .held ∧ p.resetN ∧ p.tamperN ∧ !p.enCore ∧ !p.enIo then beginRails s 8 3 false else s

/-- A tick while a reset holds the device: EN_CORE falls, then EN_IO (R551, R592); then the restart may begin. -/
def heldTick (s : State) : State :=
  if s.pwr.enCore then { s with pwr := { s.pwr with enCore := false, pgCore := false, vid := 10 } }
  else if s.pwr.enIo then { s with pwr := { s.pwr with enIo := false, pgIo := false } }
  else leaveReset s

/-- A cold start has not latched its straps: a reset waits until it has (R83, R592). -/
def beforeStraps (p : Power) : Bool :=
  match p.phase with
  | .cold _ => true
  | .sampling => true
  | _ => false

/-- A reset that waits for the straps is remembered among the wake sources as cause 8. -/
def resetWaits (s : State) : State := { s with pwr := { s.pwr with wakeLatch := s.pwr.wakeLatch ||| 0x100 } }

/-! ## VBAT (R548, R583) -/

/-- VBAT rises above its threshold: PD0 has power, and a cold start begins (R58, Table 15-1). -/
def execVbatPowerOn (s : State) : Host.Outcome State Fault Refusal :=
  if s.pwr.phase ≠ .off then .refused .wrongPhase
  else .next { s with pwr := { s.pwr with phase := .cold false, pd := pdMask [0] } }

/-- VBAT falls below its threshold: OFF at once. What stands outside the logic die's supply is kept: pins, flash, fuses,
and the field die. -/
def execVbatPowerOff (s : State) : Host.Outcome State Fault Refusal :=
  if s.pwr.phase = .off then .refused .wrongPhase
  else
    let z := State.reset
    .next { z with
      pending := s.pending, out := s.out, freeCounter := s.freeCounter
      mem := { z.mem with flashSize := s.mem.flashSize, flash := s.mem.flash }
      keys := { z.keys with slot0 := s.keys.slot0, slot1 := s.keys.slot1, slot2 := s.keys.slot2, device := s.keys.device }
      pwr := { z.pwr with resetN := s.pwr.resetN, tamperN := s.pwr.tamperN, perstN := s.pwr.perstN }
      fd := { s.fd with good := 0 } }

/-! ## Cold start (Table 15-1) -/

/-- Strap sampling begins, with PD1 and PD11 powered (R58). -/
def beginSampling (s : State) : State :=
  let s1 := powerUp s [1, 11]
  { s1 with pwr := { s1.pwr with phase := .sampling } }

/-- The synthesizer starts, with PD1 and PD11 powered (Table 14-12, step 5). -/
def beginLock (s : State) : State :=
  let s1 := powerUp s [1, 11]
  { s1 with pwr := { s1.pwr with phase := .locking } }

/-- The rails are good: the next power step proceeds (R551, R552). -/
def railsGood (s : State) : State :=
  match s.pwr.phase with
  | .cold false => if s.pwr.qualified && s.pwr.pgIo && s.pwr.pgCore then beginSampling s else s
  | .rails => if s.pwr.pgIo && s.pwr.pgCore then beginLock s else s
  | _ => s

/-- EN_IO rises at the first tick of a cold start (R552). -/
def execFirstTickEnIo (s : State) : Host.Outcome State Fault Refusal :=
  if s.pwr.phase ≠ .cold false ∨ s.pwr.enIo then .refused .wrongPhase
  else .next { s with pwr := { s.pwr with enIo := true } }

/-- PG_IO rises; EN_CORE rises at the next tick (R551). -/
def execPgIoRise (s : State) : Host.Outcome State Fault Refusal :=
  if !s.pwr.enIo || s.pwr.pgIo then .refused .wrongPhase
  else .next (railsGood { s with pwr := { s.pwr with pgIo := true, enCore := true, wakeNew := false } })

/-- PG_CORE rises (R551). -/
def execPgCoreRise (s : State) : Host.Outcome State Fault Refusal :=
  if !s.pwr.enCore || s.pwr.pgCore then .refused .wrongPhase
  else .next (railsGood { s with pwr := { s.pwr with pgCore := true } })

/-- The source is qualified (R85): strap sampling, or the warm restart after a clock loss (R87). -/
def execSourceQualified (s : State) : Host.Outcome State Fault Refusal :=
  if s.pwr.phase = .off ∨ s.pwr.qualified then .refused .wrongPhase
  else
    let s1 := { s with pwr := { s.pwr with qualified := true } }
    match s.pwr.phase with
    | .clockLost =>
      .next (beginLock { s1 with pwr := { s1.pwr with wakeCause := 9, wakeFrom := 3, keepLoad := false } })
    | _ => .next (railsGood s1)

/-- The codes of the 13 logic straps; a pin without four readings is out of window (R53). -/
def strapCodes (readings : List (List Nat)) : List (Option (BitVec 3)) :=
  (List.range 13).map fun i => pinCode (readings.getD i [])

/-- The last logic strap is latched (R57, R59); the beat counter takes its value (R587), and PD10 powers up, every keep
word zero (R58, R311; log 59). A reset that waited takes effect (R83). -/
def execStrapSamplingDone (readings : List (List Nat)) (s : State) : Host.Outcome State Fault Refusal :=
  if s.pwr.phase ≠ .sampling then .refused .wrongPhase
  else
    let x := latchStraps (strapCodes readings)
    let n := 32000 * s.time.preTicks
    let s1 := zeroKeep (powerUp s [10])
    let s2 := { s1 with straps := x
                        time := { s.time with beat := BitVec.ofNat 48 (n / 2 ^ beatExp x), sub := BitVec.ofNat 17 (n % 2 ^ beatExp x) }
                        pwr := { s1.pwr with phase := .locking } }
    .next (if s.pwr.wakeLatch.getLsbD 8 || !s.pwr.resetN || !s.pwr.tamperN then enterReset s2 else s2)

/-- The device is in a cold start, before CLKOK (Table 15-1). -/
def coldStart (p : Power) : Bool :=
  p.wakeCause == 0 && (match p.phase with
    | .cold _ => true
    | .sampling => true
    | .locking => true
    | _ => false)

/-- The beat counter after a tick of a qualified source while MCLK is stopped (R95, R587). -/
def tickTime (s : State) : Time :=
  let n := s.time.sub.toNat + 32000
  let e := 2 ^ beatExp s.straps
  let t := if coldStart s.pwr then { s.time with preTicks := s.time.preTicks + 1 } else s.time
  if s.straps.latched then { t with beat := t.beat + BitVec.ofNat 48 (n / e), sub := BitVec.ofNat 17 (n % e) } else t

/-- A tick (R94, R95, R587): beat 0 begins at the first after qualification, and the counter keeps time while MCLK is
stopped. Latched wake sources act (R569), and the enables of a reset fall (R592). -/
def execPd0Tick (s : State) : Host.Outcome State Fault Refusal :=
  let p := s.pwr
  let cold := match p.phase with | .cold _ => true | _ => false
  let t :=
    if p.clkok then s.time
    else if !s.time.begun then { s.time with begun := p.qualified }
    else if !p.qualified && !cold then s.time
    else tickTime s
  if p.phase = .off then .next s
  else
    let s1 := { s with time := t, pwr := { p with wakeNew := false } }
    .next (if p.phase = .held then heldTick s1 else wakeLatched s1)

/-- MCLK is locked (R588, Table 14-12, step 6). -/
def execClkokRise (s : State) : Host.Outcome State Fault Refusal :=
  if s.pwr.phase ≠ .locking ∨ !s.pwr.qualified then .refused .wrongPhase
  else
    let x := s.straps
    let s1 := powerUp (dropPd9 s) (if shutOn x then [7, 9] else [9])
    let wake := decide (1 ≤ s.pwr.wakeCause.toNat) && decide (s.pwr.wakeCause.toNat ≤ 6)
    .next (setLimit { s1 with time := { s1.time with edge := 0 }, pwr := { s1.pwr with
      phase := .run, clkok := true, rate := 2, vid := 10, running := 0, clearing := 0, cleared := 0, conversions := [],
      newLevel := none, wakeNew := false, enPhy := hostOn x || rowAOn x,
      level := if energyTier x = 0 then 4 else if wake then s.pwr.level else 2 } })

/-- The wait after EN_PHY ends (R551): PD6 and PD8 power up as strapped. PD6 power-up is CAUSE 3 of HOST_RESET
(Table 11-17). -/
def execPhyRailWaitDone (s : State) : Host.Outcome State Fault Refusal :=
  let x := s.straps
  let need := (hostOn x && !powered s 6) || (rowAOn x && !powered s 8)
  if !s.pwr.clkok || !s.pwr.enPhy || !need then .refused .wrongPhase
  else
    let s1 := if hostOn x && !powered s 6 then
        hostResetNotice { powerUp s [6] with host := { HostFace.clear with released := s.pwr.fabricUp } } 0 0 3 else s
    .next (if rowAOn x && !powered s 8 then powerUp s1 [8] else s1)

/-! ## Quadrants, fabric up and STEADY (Table 15-2) -/

/-- The quadrant to power up next: PD5, PD4, PD3, PD2. -/
def nextQuadrant (s : State) : Option Nat := [3, 2, 1, 0].find? fun q => !powered s (2 + q)

/-- The command that a boundary allows has been given (log 95). -/
def spendEdge (s : State) (i : Nat) : State :=
  { s with time := { s.time with edge := s.time.edge &&& ~~~(1#5 <<< i) } }

/-- The tile of a quadrant whose extra port serves a block (Table 01-2). -/
def cornerTile (q : Nat) : TileId := if q = 0 then 0 else if q = 1 then 7 else if q = 2 then 56 else 63

/-- A quadrant domain powers up and clears its banks (R301, R404, R588), at a boundary. After TENDING, PD9 powers up with
the first quadrant. The routers accept what the blocks at the extra port have offered meanwhile. -/
def execQuadrantPowerUp (s : State) : Host.Outcome State Fault Refusal :=
  if !s.pwr.clkok || s.pwr.phase ≠ .run || !s.time.edge.getLsbD 1 then .refused .wrongPhase
  else match nextQuadrant s with
  | none => .refused .wrongPhase
  | some q =>
    let s0 := if powered s 9 then s else powerUp (dropPd9 s) [9]
    let s1 := powerUp (dropQuads (1#4 <<< q) true s0) [2 + q]
    let s2 := { s1 with pwr := { s1.pwr with clearing := s1.pwr.clearing ||| (1#4 <<< q) } }
    .next (drain (spendEdge s2 1) (cornerTile q) true)

/-- A quadrant has cleared its banks (R301); it joins the running set from the next boundary on (R589). -/
def execBankClearDone (q : BitVec 2) (s : State) : Host.Outcome State Fault Refusal :=
  if !s.pwr.clkok || !s.pwr.clearing.getLsbD q.toNat then .refused .wrongPhase
  else .next (spendEdge { s with pwr := { s.pwr with clearing := s.pwr.clearing &&& ~~~(1#4 <<< q.toNat),
                                                     cleared := s.pwr.cleared ||| (1#4 <<< q.toNat) } } 0)

/-- The descriptors of contexts 0 to 15 as the steward writes them (R133). -/
def writeDescriptors (m : Mem) : Mem :=
  [0, 1, 2, 3, 4, 5].foldl (fun m c => writeWord m (64 * c) 0x8000000000000000) m

/-- The boot step begins (Table 15-4): the flash is read under boot sources 0, 1 and 5. -/
def beginBoot (s : State) : State :=
  let b := (bootSource s.straps).1
  let l : Load := ⟨none, [], none⟩
  if b = 0 ∨ b = 1 ∨ b = 5 then beginRead { s with stw := { s.stw with boot := .reading, load := some l } } l
  else { s with stw := { s.stw with boot := .done } }

/-- Row ports for which frames wait begin to train (R493). -/
def trainRows (s : State) : State := if powered s 8 then trainWaiting (trainWaiting s .a) .b else s

/-- Fabric up (R133, R412, R493, R588, R596). -/
def execFabricUp (s : State) : Host.Outcome State Fault Refusal :=
  if !s.pwr.clkok || s.pwr.phase ≠ .run || s.pwr.cleared ≠ 15 || s.pwr.fabricUp then .refused .wrongPhase
  else
    .next (beginBoot (trainRows { s with mem := writeDescriptors s.mem
                                         host := { s.host with released := powered s 6 }
                                         pwr := { s.pwr with fabricUp := true, started := true } }))

/-- STEADY rises at a boundary, once fabric up has occurred and the boot step has ended (R598); a flash image starts, and
the frames kept for STEADY are taken in (R50). -/
def execSteadyRise (s : State) : Host.Outcome State Fault Refusal :=
  if !s.pwr.clkok || s.pwr.phase ≠ .run || !s.pwr.fabricUp || s.stw.boot ≠ .done || s.pwr.steady || !s.time.edge.getLsbD 4 then
    .refused .wrongPhase
  else
    let s1 := spendEdge { s with pwr := { s.pwr with steady := true }, time := { s.time with steadyAt := s.time.beat } } 4
    .next (takeAllKept (takeAllKept (startGraph s1 s.time.beat) .a) .b)

/-! ## Clock loss and supply faults (R87, R553) -/

/-- The source is lost (R87, R593): EN_IO and EN_CORE stay high. -/
def execClockLost (s : State) : Host.Outcome State Fault Refusal :=
  if !s.pwr.clkok then .refused .wrongPhase
  else
    let s1 := goDark s
    .next { s1 with pwr := { s1.pwr with phase := .clockLost, qualified := false,
                                         clockLosses := satAdd s1.pwr.clockLosses 1, wakeLatch := 0 } }

/-- A power-good input fails as named (R553). -/
def supplyFails (p : Power) : PgFail → Bool
  | .late => (p.enIo && !p.pgIo) || (p.enCore && !p.pgCore)
  | .fellIo => p.enIo && p.pgIo
  | .fellCore => p.enCore && p.pgCore

/-- A supply fault (R553): the enables fall at once. At cold start it begins again with qualification. -/
def execSupplyFault (why : PgFail) (s : State) : Host.Outcome State Fault Refusal :=
  if !supplyFails s.pwr why then .refused .wrongPhase
  else
    let s1 := goDark s
    .next { s1 with pwr := { enablesLow s1.pwr with
      phase := if coldStart s.pwr then .cold true else .faulted
      supplyFaults := satAdd s1.pwr.supplyFaults 1 } }

/-- One second after a supply fault (R553); a reset that is asserted holds the device (R592). -/
def execSupplyFaultRestart (s : State) : Host.Outcome State Fault Refusal :=
  match s.pwr.phase with
  | .faulted => .next (if s.pwr.resetN && s.pwr.tamperN then beginRails s 9 3 false
                       else { s with pwr := { s.pwr with phase := .held } })
  | .cold true => .next { s with pwr := { s.pwr with phase := .cold false, qualified := false } }
  | _ => .refused .wrongPhase

/-! ## ESENSE, levels and limits (R556 to R564) -/

/-- The mean of conversions, truncated. -/
def meanOf (cs : List Nat) : Nat := cs.sum / cs.length

/-- TENDING is left for STANDBY at level EXHAUSTED (Table 14-6, R563). -/
def tendingExhausted (s : State) : State :=
  { s with pwr := { s.pwr with phase := .descent .standby, exhaustMark := true } }

/-- A conversion while MCLK runs: the reading is the mean of the last 16, and may set a level (R556, R558). -/
def takeConversion (s : State) (v : Nat) : State :=
  let p := s.pwr
  let cs := (p.conversions ++ [v]).drop (p.conversions.length - 15)
  let s1 := { s with pwr := { p with conversions := cs } }
  if cs.length < 16 then s1
  else
    let r := meanOf cs
    let l := nextLevel (energyTier s.straps) p.level r
    let s2 := { s1 with pwr := { s1.pwr with reading := BitVec.ofNat 12 r, newLevel := if l = p.level then none else some l } }
    if p.phase = .tending ∧ p.level = 0 ∧ l = 0 then tendingExhausted s2 else s2

/-- An ESENSE conversion (R556). -/
def execEsenseConversion (millivolts : Nat) (s : State) : Host.Outcome State Fault Refusal :=
  let v := min millivolts 1200
  match s.pwr.phase with
  | .wakeTest _ _ =>
    if 16 ≤ s.pwr.conversions.length then .refused .wrongPhase
    else .next { s with pwr := { s.pwr with conversions := s.pwr.conversions ++ [v] } }
  | _ => if s.pwr.clkok then .next (takeConversion s v) else .refused .wrongPhase

/-- The ENERGY_LOW notice's value (Table 14-8). -/
def energyLow (p : Power) (tableau : Bool) : W64 :=
  (0 : BitVec 20) ++ p.reading ++ (0 : BitVec 11) ++ p.limitRate ++ p.limitQuads ++ (0 : BitVec 3) ++
    BitVec.ofBool tableau ++ BitVec.ofBool (p.level == 0 && p.grace) ++ p.level ++ (0x0F : BitVec 8)

/-- The notice of a level is admitted at the boundary at which the level takes effect: it belongs to the beat before
(R561). -/
def noticeNow (s : State) (code : BitVec 12) (v : W64) : State :=
  { s with time := { s.time with held := s.time.held ++ [⟨s.time.beat - 1, 1, 0, false, .notice code v⟩] } }

/-- A new level takes effect in RUN or FULL (R561, R562). -/
def levelTakes (s : State) (l : BitVec 3) : State :=
  let notify := s.stw.started && energyTier s.straps != 0
  let grace := s.pwr.grace || (l == 0 && s.pwr.phase == .run)
  let s1 := setLimit { s with pwr := { s.pwr with level := l, newLevel := none, grace := grace } }
  let warn := notify && l == 1 && decide (1 < s.pwr.level.toNat)
  let latched := warn && s.tab.held.isNone
  let s2 := if latched then { s1 with tab := { s1.tab with due := s1.tab.due ++ [5] } }
            else if warn then { s1 with tab := ignoreTriggers s1.tab 1 } else s1
  if notify then noticeNow s2 0x081 (energyLow s2.pwr latched) else s2

/-- A new level takes effect at a boundary (R558, R561). In TENDING, level EXHAUSTED begins the descent to STANDBY. -/
def execLevelChange (s : State) : Host.Outcome State Fault Refusal :=
  if !s.pwr.clkok || !s.time.edge.getLsbD 3 then .refused .wrongPhase
  else match s.pwr.newLevel with
  | none => .refused .nothingWaiting
  | some l =>
    let s1 := spendEdge (levelTakes s l) 3
    .next (if s.pwr.phase = .tending ∧ l = 0 then tendingExhausted s1 else s1)

/-- The quadrant that joins the running set next (R559, R589): Q3, Q2, Q1, Q0. -/
def joinNext (p : Power) : Option Nat :=
  [3, 2, 1, 0].find? fun q => (runningSet p.limitQuads).getLsbD q && !p.running.getLsbD q && p.cleared.getLsbD q

/-- One step of a limit change (R550, R559): quadrants stop and the rate falls at once; then VID follows a fall; then the
rate rises by one, VID first; then a quadrant joins. -/
def limitStep (s : State) : Option State :=
  let p := s.pwr
  let set := runningSet p.limitQuads
  let put := fun (q : Power) => some { s with pwr := q }
  if p.running &&& ~~~set ≠ 0 ∨ p.rate.toNat < p.limitRate.toNat then
    let s1 := stopCells s set
    some { s1 with pwr := { s1.pwr with rate := if p.rate.toNat < p.limitRate.toNat then p.limitRate else p.rate } }
  else if p.limitRate.toNat < p.rate.toNat then
    if p.vid = vidOf (p.rate - 1) then put { p with rate := p.rate - 1 } else put { p with vid := vidOf (p.rate - 1) }
  else if p.vid ≠ vidOf p.rate then put { p with vid := vidOf p.rate }
  else (joinNext p).bind fun q => put { p with running := p.running ||| (1#4 <<< q) }

/-- A step of a limit change, at a boundary (R88, R90, R559). Where a descent begins, no further step is applied (R575). -/
def execLimitStep (s : State) : Host.Outcome State Fault Refusal :=
  if !s.pwr.clkok || s.pwr.phase ≠ .run || s.pwr.sleepReq.isSome || !s.time.edge.getLsbD 0 then .refused .wrongPhase
  else match limitStep s with
  | none => .refused .nothingWaiting
  | some t => .next (spendEdge t 0)

/-- Where the device descends after an exhaustion grace (R563). -/
def graceDest : Option SleepTo → SleepTo
  | some .hibernate => .hibernate
  | _ => .standby

/-- The exhaustion grace ends (R562, R563): the descent begins at this boundary, and the exhaustion mark is set. -/
def execExhaustionGraceEnd (s : State) : Host.Outcome State Fault Refusal :=
  if !s.pwr.grace || s.pwr.phase ≠ .run then .refused .wrongPhase
  else .next { s with
    pwr := { s.pwr with grace := false, graceSleep := none, exhaustMark := true, sleepReq := some (graceDest s.pwr.graceSleep) }
    time := { s.time with edge := s.time.edge ||| 4 } }

/-! ## Descents (Table 14-10) -/

/-- The dump in progress stops at D0 of a descent that powers PD1 down (R646). -/
def stopDump (s : State) : State :=
  let other := fun (o : RowOwn) => match o with | .dump _ => false | _ => true
  let noDump := fun (p : RowPort) => { p with own := p.own.filter other, ready := p.ready.filter other }
  if s.tab.dump.isNone then s
  else { s with tab := { s.tab with dump := none }, rowA := noDump s.rowA, rowB := noDump s.rowB
                host := { s.host with packet := s.host.packet.filter fun p => !p.dump } }

/-- The credits that the faces have granted, as they stand when the node ceases to grant (R357, R566). -/
def trackCredits (s : State) : State := trackRows (trackCredit (trackLimit s))

/-- D0 (R565, R566): STEADY falls, credits hold, cells stop, the rate falls to quarter, and the host face sends its last
LTR message (Table 11-14). -/
def execDescentBegin (s : State) : Host.Outcome State Fault Refusal :=
  if !s.pwr.clkok || s.pwr.phase ≠ .run || !s.time.edge.getLsbD 2 then .refused .wrongPhase
  else match s.pwr.sleepReq with
  | none => .refused .nothingWaiting
  | some d =>
    let s0 := trackCredits s
    let s1 := stopCells (if d = .tending then s0 else stopDump (ltrMessage s0 4)) 0
    .next { s1 with
      pwr := { s1.pwr with phase := .descent d, steady := false, rate := 2, safeSent := 0, sleepReq := none,
                           grace := false, graceSleep := none }
      time := { s1.time with edge := 0 } }

/-- The fourth SAFE_REQ frame has ended: PD9 powers down (R566). From TENDING it has no power. -/
def execDescentPd9PowerDown (s : State) : Host.Outcome State Fault Refusal :=
  match s.pwr.phase with
  | .descent d =>
    if powered s 9 && decide (s.pwr.safeSent < 4) then .refused .wrongPhase
    else
      let s1 := dropPd9 s
      .next { s1 with pwr := { s1.pwr with phase := .descentOff d, pd := s1.pwr.pd &&& ~~~pdMask [9] } }
  | _ => .refused .wrongPhase

/-- The graph is lost on entry to TENDING, and a load in progress with the memory that it filled (R571). -/
def loseGraph (s : State) : State :=
  { s with stw := { s.stw with started := false, image := none, stale := none, parked := [], boot := .idle, load := none
                               loadStatus := if s.stw.load.isSome then stSequence else s.stw.loadStatus }
           time := { s.time with stale := 0, staleHold := false, progress := false, withholding := false } }

/-- The quadrants power down, and the other domains with them unless TENDING is entered (R566, R567). -/
def execDescentDomainsOff (s : State) : Host.Outcome State Fault Refusal :=
  match s.pwr.phase with
  | .descentOff .tending =>
    let s1 := loseGraph (dropQuads 15 true s)
    .next { s1 with pwr := { s1.pwr with phase := .tending, pd := s1.pwr.pd &&& ~~~pdMask [2, 3, 4, 5], running := 0,
                                         clearing := 0, cleared := 0, fabricUp := false } }
  | .descentOff d =>
    let s1 := goDark s
    let s2 := if d = .hibernate then dropPd10 s1 else s1
    .next { s2 with pwr := { s2.pwr with phase := .descentCore d
                                         pd := if d = .hibernate then s2.pwr.pd &&& ~~~pdMask [10] else s2.pwr.pd } }
  | _ => .refused .wrongPhase

/-- EN_CORE falls (R566). -/
def execDescentEnCoreOff (s : State) : Host.Outcome State Fault Refusal :=
  match s.pwr.phase with
  | .descentCore d =>
    .next { s with pwr := { s.pwr with phase := .descentIo d, enCore := false, pgCore := false, vid := 10 } }
  | _ => .refused .wrongPhase

/-- EN_IO falls, and the state is entered (R566). -/
def execDescentEnIoOff (s : State) : Host.Outcome State Fault Refusal :=
  match s.pwr.phase with
  | .descentIo d =>
    .next { s with pwr := { s.pwr with phase := if d = .hibernate then .hibernate else .standby, enIo := false, pgIo := false } }
  | _ => .refused .wrongPhase

/-! ## Wake sources (Table 14-11) -/

/-- WAKE_N is low at two consecutive ticks. -/
def execWakeNAssert (s : State) : Host.Outcome State Fault Refusal :=
  if s.pwr.phase = .off then .next s else .next (wakeSource s 1)

/-- SH_WAKE_N is low at two consecutive ticks; it is heeded as CFG_SHUT says (R63, R473). -/
def execShWakeNAssert (s : State) : Host.Outcome State Fault Refusal :=
  if s.pwr.phase = .off then .next s
  else .next (if shutWake s.straps then wakeSource s 2 else s)

/-- Energy on a row line at 4 consecutive ticks; the detectors are powered as CFG_ROW says (R63, R498). -/
def execRowEnergyWake (port : RowId) (s : State) : Host.Outcome State Fault Refusal :=
  if s.pwr.phase = .off then .next s
  else .next (if rowWake s.straps && rowOn s.straps port then wakeSource s (if isB port then 4 else 3) else s)

/-- PERST_N is released (R568, R601). -/
def execPerstNRelease (s : State) : Host.Outcome State Fault Refusal :=
  let s1 := { s with pwr := { s.pwr with perstN := true } }
  .next (if !s.pwr.perstN && hostOn s.straps then wakeSource s1 6 else s1)

/-- A token for this node waits at a face, or a row neighbour wants credit (Table 14-11, R503). -/
def faceWaits (s : State) : Bool :=
  let port := fun (p : RowPort) => (p.usable && p.want) || p.kept != []
  s.time.held.any (fun e => isHostEvent e.kind || isShuttleEvent e.kind || isRowEvent false e.kind || isRowEvent true e.kind) ||
    port s.rowA || port s.rowB

/-- A token for this node at a face wakes the device from TENDING (R571). -/
def execFaceTokenWake (s : State) : Host.Outcome State Fault Refusal :=
  if s.pwr.phase ≠ .tending then .refused .wrongPhase
  else if !faceWaits s then .refused .nothingWaiting
  else .next (wakeSource s 7)

/-- The wake test ends (R568): the wake proceeds with the level of its reading (R590), or is refused. -/
def execWakeTestDone (s : State) : Host.Outcome State Fault Refusal :=
  match s.pwr.phase with
  | .wakeTest hib cause =>
    let tier := energyTier s.straps
    let r := meanOf s.pwr.conversions
    let need := (if s.pwr.exhaustMark then tWarn tier else tExhausted tier) + 16
    let s1 := { s with pwr := { s.pwr with reading := BitVec.ofNat 12 r, conversions := [] } }
    if s.pwr.conversions.length ≠ 16 then .refused .wrongPhase
    else if need ≤ r then
      .next (wakeGo { s1 with pwr := { s1.pwr with exhaustMark := false, level := levelOf tier r } } hib cause)
    else
      .next { s1 with pwr := { s1.pwr with phase := if hib then .hibernate else .standby, wakeLatch := 0
                                           refused := s.pwr.refused ||| s.pwr.wakeLatch
                                           wakeRefusals := satAdd s.pwr.wakeRefusals 1 } }
  | _ => .refused .wrongPhase

/-- The refused sources that persist (R568): WAKE_N, SH_WAKE_N and energy on a line last as their levels do, which is not
known here (log 96); an alarm and the release of PERST_N are kept. -/
def persisting (s : State) : BitVec 16 := s.pwr.refused &&& (0x60 ||| (freeNow s).setWidth 16)

/-- The refused sources that persist are tested again, 1 s later (R568, R580). -/
def execWakeRetest (s : State) : Host.Outcome State Fault Refusal :=
  let m := persisting s
  let s1 := bumpFree { s with pwr := { s.pwr with refused := 0 } }
  let go := fun (hib : Bool) => if m = 0 then s1 else startWake s1 hib m
  if s.pwr.refused = 0 then .refused .nothingWaiting
  else match s.pwr.phase with
  | .standby => .next (go false)
  | .hibernate => .next (go true)
  | _ => .refused .wrongPhase

/-! ## RESET_N, TAMPER_N and glitches (R592, R640, R641) -/

/-- A reset takes effect, or waits for the straps (R83, R592). -/
def resetNow (s : State) : State := if beforeStraps s.pwr then resetWaits s else enterReset s

/-- RESET_N is low at two consecutive ticks. In OFF only its level changes. -/
def execResetNAssert (s : State) : Host.Outcome State Fault Refusal :=
  let s1 := { s with pwr := { s.pwr with resetN := false } }
  .next (if s.pwr.phase = .off then s1 else resetNow s1)

/-- RESET_N is high at two consecutive ticks (R591). -/
def execResetNRelease (s : State) : Host.Outcome State Fault Refusal :=
  .next (leaveReset { s with pwr := { s.pwr with resetN := true } })

/-- TAMPER_N is low at two consecutive ticks (R640). In OFF only its level changes. -/
def execTamperNAssert (s : State) : Host.Outcome State Fault Refusal :=
  let s1 := { s with pwr := { s.pwr with tamperN := false } }
  if s.pwr.phase = .off then .next s1
  else
    let s2 := resetNow (zeroKeep { s1 with pwr := { s1.pwr with tampers := satAdd s.pwr.tampers 1 }
                                           keys := { s.keys with session := 0 } })
    .next { s2 with pwr := { s2.pwr with keepHeld := false } }

/-- TAMPER_N is high at two consecutive ticks (R640). -/
def execTamperNRelease (s : State) : Host.Outcome State Fault Refusal :=
  .next (leaveReset { s with pwr := { s.pwr with tamperN := true } })

/-- A glitch detector acts (R641): session values are zero, a load is abandoned, and the device restarts as after RESET_N. -/
def execGlitchDetect (s : State) : Host.Outcome State Fault Refusal :=
  if !powered s 1 then .next s
  else .next (resetNow { s with pwr := { s.pwr with glitches := satAdd s.pwr.glitches 1 }
                                keys := { s.keys with session := 0 } })

end Sys2Proof.Machine
end

