-- ==== Sys2Proof/Machine/Time.lean ====
section
/-! DEFINITION. Beats, admission, alarms and the deadline guard (chapter 3), withholding and stalemates (chapter 9), and
the end of a freeze (chapter 16). -/

namespace Sys2Proof.Machine

open Sys2Proof

/-! ## Alarms (R105 to R109) -/

/-- An alarm slot after one of its targets has fallen due: with one pending, the missed count rises (R107); a repeating
slot's next target follows (R106). -/
def alarmFalls (a : Alarm) (due : BitVec 48) : Alarm :=
  { a with
    pend := match a.pend with
      | some p => some { p with missed := satAdd p.missed 1 }
      | none => some ⟨due, 0, a.tag⟩
    set := a.period != 0
    armed := due
    target := a.target + a.period }

/-- The first beat at which a set slot is due (R106): its target, or the beat in which it was set with a target already
due. -/
def dueBeat (a : Alarm) : BitVec 48 := if targetDue a.armed a.target then a.armed else a.target

/-- An alarm slot falls due: it is stamped for admission at rank 8 (R106), and it is a wake source (R109). -/
def execAlarmDue (slot : BitVec 3) (s : State) : Host.Outcome State Fault Refusal :=
  let a := mget Alarm.clear s.time.alarms slot.toNat
  if s.pwr.phase = .off then .next s
  else if !a.set || !targetDue s.time.beat a.target then .refused .nothingWaiting
  else
    let due := dueBeat a
    let event : List OutEvent := if a.pend.isSome then [] else [⟨due, 8, slot.toNat, false, .alarm slot⟩]
    .next (wakeSource { s with time := { s.time with
      alarms := mset Alarm.clear s.time.alarms slot.toNat (alarmFalls a due)
      held := s.time.held ++ event } } 5)

/-- The ALARM stream word (Table 03-7). -/
def alarmWord (slot : BitVec 3) (p : PendingAlarm) : W64 := (0 : BitVec 5) ++ slot ++ p.missed ++ p.due

/-- The notice of an alarm (R106), and the state after its DL_OFFSET has been read. -/
def alarmToken (s : State) (slot : BitVec 3) (p : PendingAlarm) : State × Token :=
  let x := readDlOffset s (tagContext p.tag)
  (x.1, tokenTo p.tag (alarmWord slot p) (now20 s + x.2) 0 kindControl)

/-- A pending alarm is admitted: its word enters the ALARM port, its token goes to the slot's tag, if any (R106). -/
def admitAlarm (s : State) (slot : BitVec 3) (p : PendingAlarm) : State :=
  let a := mget Alarm.clear s.time.alarms slot.toNat
  let rest := { a with pend := none }
  let s1 := { s with
    streams := { s.streams with alarm := s.streams.alarm ++ [alarmWord slot p] }
    time := { s.time with alarms := mset Alarm.clear s.time.alarms slot.toNat (if a.set then rest else Alarm.clear)
                          alarmSpace := s.time.alarmSpace - 1 } }
  if p.tag = 0 then s1 else
    let x := alarmToken s1 slot p
    stewardSend x.1 x.2

/-- The steward's router port takes an alarm's notice now. -/
def alarmRoom (s : State) (p : PendingAlarm) : Bool := p.tag == 0 || portRoom s 63 true 0

/-- A word of the ALARM port is there for an alarm: one that was free at the boundary that began the present beat and has
not been taken since (R107). -/
def alarmSpace (s : State) : Bool := decide (0 < s.time.alarmSpace) && decide (s.streams.alarm.length < 8)

/-- The admission sequencer runs: STEADY is high, MCLK runs, and no freeze stands before it (R113, R599, R613). -/
def admitting (s : State) : Bool := s.pwr.clkok && s.pwr.steady && !halted s

/-- Slots whose alarm is pending with its event admitted already: it waits for a word of the ALARM port (R107). -/
def waitingSlots (s : State) : List (BitVec 3 × PendingAlarm) :=
  (List.range 8).filterMap fun i =>
    let k := BitVec.ofNat 3 i
    match (mget Alarm.clear s.time.alarms i).pend with
    | some p => if s.time.held.any (fun e => e.kind == .alarm k) then none else some (k, p)
    | none => none

/-- Beats since a stamp. -/
def ageOf (s : State) (stamp : BitVec 48) : Nat := (s.time.beat - stamp).toNat

/-- A kept alarm is admitted at the boundary after a word of the ALARM port has freed (R107): the oldest, then the lowest
slot. -/
def execAlarmPendingAdmit (s : State) : Host.Outcome State Fault Refusal :=
  if !admitting s then .refused .wrongPhase
  else match bestBy (fun x : BitVec 3 × PendingAlarm => ageOf s x.2.due) (waitingSlots s) with
  | none => .refused .nothingWaiting
  | some (k, p) => .next (if alarmSpace s && alarmRoom s p then admitAlarm s k p else s)

/-! ## Admission (R98 to R101, R121) -/

/-- How an event ranks for admission, greater first: stamp, then rank, then slot or port (R99); arrival order decides
between equals. -/
def admissionRank (s : State) (e : OutEvent) : Nat := ageOf s e.stamp * 256 + (15 - e.rank) * 16 + (15 - e.sub)

/-- The event that the sequencer admits next (R98). -/
def nextEvent (s : State) : Option OutEvent :=
  bestBy (admissionRank s) (s.time.held.filter fun e => decide (e.stamp ≠ s.time.beat))

/-- The state without an event. -/
def admitted (s : State) (e : OutEvent) : State := { s with time := { s.time with held := s.time.held.erase e } }

/-- The flags of a token admitted from a face (R121). -/
def faceFlags (f : BitVec 10) (late remote : Bool) : BitVec 10 :=
  (f &&& (kindSystem ||| flagPoison)) ||| (if late then flagLate else 0) ||| (if remote then flagRemote else 0)

/-- A deadline offset in this node's beats (R482). -/
def rescale (o : BitVec 20) (senderExp ownExp : Nat) : BitVec 20 :=
  if ownExp ≤ senderExp then
    BitVec.ofInt 20 (max (-2 ^ 18) (min (2 ^ 19 - 1) (o.toInt * 2 ^ (senderExp - ownExp))))
  else BitVec.ofInt 20 (o.toInt / 2 ^ (ownExp - senderExp))

/-- What a face token's admission leads to: it enters, it waits, or a rule breaks. -/
inductive Admission where
  | enters (s : State)
  | waits
  | illegal (rule : Nat)
  deriving DecidableEq, Repr

/-- A token of a face enters its router port at P2 (R98, R121, R389). Before START, a token to a graph context is answered with a
CONTEXT_LIMIT pair through the face's sink (R161); `pair` sends it, when there is room. -/
def admitToken (s : State) (t : Token) (tile : TileId) (o : Origin) (room : Bool) (pair : State → List Token → State) :
    Admission :=
  let f := { mkFlit s tile 2 o (.token t) with admitted := s.time.beat }
  if kindOf t.flags = 1 then .illegal 122
  else if !s.stw.started && decide (16 ≤ t.context.toNat) then
    (if room then .enters (pair (limitPair s t).2 (limitPair s t).1) else .waits)
  else if portRoom s tile true f.vn then .enters (produceExtra s tile f) else .waits

/-- A row token as it is admitted (R121, R482). -/
def rowToken (s : State) (t : Token) (beat : BitVec 3) (late : Bool) : Token :=
  { t with deadline := now20 s + rescale t.deadline (10 + beat.toNat) (beatExp s.straps), flags := faceFlags t.flags late true }

/-- A device token, with the state in which it was made, that the steward's port takes or that waits for it. -/
def admitOwn (x : State × Token) : Admission :=
  if portRoom x.1 63 true (msgVn (.token x.2)) then .enters (stewardSend x.1 x.2) else .waits

/-- A field notice (R533, R101), and the state after its DL_OFFSET has been read. -/
def fieldToken (s : State) (ctx : BitVec 14) (cell : BitVec 8) (iaddr : BitVec 14) (serial : BitVec 16) (v : W64) :
    State × Token :=
  let x := readDlOffset s ctx
  (x.1, { value := v, context := ctx, iteration := serial, port := 3, cell := cell, iaddr := iaddr, flags := kindControl,
          deadline := now20 s + x.2, flow := 0 })

/-- A word enters FIELD_IN; when it is full, the newest replaces the oldest and the overrun is counted (R41, R532). -/
def fieldIn (s : State) (v : W64) : State :=
  let q := s.streams.fieldIn
  if q.length < 32 then { s with streams := { s.streams with fieldIn := q ++ [v] } }
  else { s with streams := { s.streams with fieldIn := q.tail ++ [v] }
                sel := { s.sel with overruns := satAdd s.sel.overruns 1 } }

/-- ITERATION of the graph hook's tag. -/
def hookIteration (s : State) : BitVec 16 :=
  match s.stw.image with | some i => (unpackTag i.hook).iteration | none => 0

/-- A steward notice with the next notice serial (R145). -/
def noticeToken (s : State) (code : BitVec 12) (v : W64) : State × Token :=
  hookToken { s with stw := { s.stw with noticeSerial := s.stw.noticeSerial + 1 } } kindSystem s.stw.noticeSerial code v

/-- A stamped event is admitted (R98). -/
def admitKind (s : State) (e : OutEvent) : Admission :=
  match e.kind with
  | .notice code v => if s.stw.started then admitOwn (noticeToken s code v) else .enters s
  | .fieldWord v => .enters (fieldIn s v)
  | .fieldNotice ctx cell iaddr serial v => admitOwn (fieldToken s ctx cell iaddr serial v)
  | .tableau (some v) =>
    if s.stw.started then admitOwn (hookToken s kindControl (hookIteration s) 0 v) else .enters s
  | .tableau none => .enters s
  | .shuttle t =>
    admitToken { s with sh := { s.sh with u := s.sh.u + 1 } } { t with flags := faceFlags t.flags e.late false } 7 .shuttle
      (shuttleRoom s.sh 2) (fun s ts => { s with sh := { s.sh with tx := s.sh.tx ++ ts } })
  | .host t =>
    admitToken { s with host := { s.host with admitted := s.host.admitted + 1 } }
      { t with flags := faceFlags t.flags e.late false } 0 .host (stagingRoom s 2 || !s.host.bme) hostBound
  | .row b src t beat =>
    let r := portIdOf b
    admitToken s (rowToken s t beat e.late) 56 (.row b src) (sinkRoom (rowAt s r) 2)
      (fun s ts => ts.foldl (fun s t => queueOwn s r (.sink t)) s)
  | .alarm slot =>
    match (mget Alarm.clear s.time.alarms slot.toNat).pend with
    | none => .enters s
    | some p =>
      if !alarmSpace s then .enters s
      else if alarmRoom s p then .enters (admitAlarm s slot p) else .waits

/-- Room in the local receive buffer lets waiting records of the host be taken (R415). -/
def afterAdmission (s : State) (e : OutEvent) : Host.Outcome State Fault Refusal :=
  match e.kind with
  | .host _ => takingRecords s
  | _ => .next s

/-- The admission sequencer admits one stamped event, or waits at the port of its face (R98, R113). -/
def execAdmitEvent (s : State) : Host.Outcome State Fault Refusal :=
  if !admitting s || s.time.beat = s.time.steadyAt then .refused .wrongPhase
  else match nextEvent s with
  | none => .refused .nothingWaiting
  | some e =>
    match admitKind (admitted s e) e with
    | .enters t => afterAdmission t e
    | .waits => .next s
    | .illegal n => unpredictable n s

/-! ## The deadline guard (R104) -/

/-- δ of a deadline has fallen below −2^18. -/
def tooLate (now d : BitVec 20) : Bool := decide (delta d now < -2 ^ 18)
/-- A deadline as the guard leaves it. -/
def guardDeadline (now d : BitVec 20) : BitVec 20 := if tooLate now d then now - 0x40000 else d
/-- A token as the guard leaves it. -/
def guardToken (now : BitVec 20) (t : Token) : Token :=
  if tooLate now t.deadline then { t with deadline := guardDeadline now t.deadline, flags := t.flags ||| flagLate } else t
/-- An operand as the guard leaves it. -/
def guardOperand (now : BitVec 20) (o : Operand) : Operand :=
  if tooLate now o.deadline then { o with deadline := guardDeadline now o.deadline, flags := o.flags ||| flagLate } else o
/-- A TAG record with LATE set when its operand is present (R345). -/
def markLate (late : Bool) (w : W64) : W64 := if late && w.getLsbD 42 then w ||| 2 else w
/-- An operand record with LATE set. -/
def markOperand (late : Bool) (o : Operand) : Operand := if late then { o with flags := o.flags ||| flagLate } else o
/-- A firing in a token queue as the guard leaves it; a restored strand's operand records are marked as in its record. -/
def guardFiring (now : BitVec 20) (f : Firing) : Firing :=
  let op := fun (o : Operand) => markOperand (f.strand.isSome && tooLate now f.deadline) (guardOperand now o)
  { f with op0 := f.op0.map op, op1 := f.op1.map op, op2 := f.op2.map op, deadline := guardDeadline now f.deadline }
/-- A matching-store entry as the guard leaves it. -/
def guardEntry (now : BitVec 20) (e : MEntry) : MEntry :=
  { e with op0 := e.op0.map (guardOperand now), op1 := e.op1.map (guardOperand now), op2 := e.op2.map (guardOperand now) }
/-- A message that carries a held token, as the guard leaves it. -/
def guardMsg (now : BitVec 20) (m : Msg) : Msg :=
  match m with
  | .token t => .token (guardToken now t)
  | .slotWrite a t cause => .slotWrite a (guardToken now t) cause
  | .slotReturn c a t bad => .slotReturn c a (guardToken now t) bad
  | m => m
/-- A flit as the guard leaves it. -/
def guardFlit (now : BitVec 20) (f : Flit) : Flit := { f with msg := guardMsg now f.msg }
/-- A deferred entry as the guard leaves it: the answer it owes is marked. -/
def guardDeferred (now : BitVec 20) (d : Deferred) : Deferred :=
  if tooLate now d.req.dl then { d with req := { d.req with dl := guardDeadline now d.req.dl }, late := true } else d
/-- A held event as the guard leaves it. -/
def guardEvent (now : BitVec 20) (p : OutKind → Bool) (e : OutEvent) : OutEvent :=
  if !p e.kind then e
  else match e.kind with
  | .host t => if tooLate now t.deadline then
      { e with late := true, kind := .host { t with deadline := guardDeadline now t.deadline } } else e
  | .shuttle t => if tooLate now t.deadline then
      { e with late := true, kind := .shuttle { t with deadline := guardDeadline now t.deadline } } else e
  | _ => e

/-- The live slots of a page that the cells' chains hold. -/
def slotsOfPage (s : State) (page : BitVec 13) : List (BitVec 7) :=
  s.cells.flatMap fun e => (e.2.spill ++ e.2.hold).flatMap fun q =>
    if q.page = page then q.live.map (·.index) else []

/-- A token in a slot of a spill page as the guard leaves it. -/
def guardSlot (now : BitVec 20) (m : Mem) (a : Nat) : Mem :=
  writeBytes m a (tokenBytes (guardToken now (tokenOfBytes (readBytes m a 20))))

/-- The trap identifiers of the records that pages hold: parked strands and those whose RESUME has been taken. -/
def recordIds (s : State) : List W64 := s.stw.parked.map (·.trapId) ++ s.cells.flatMap fun e => e.2.resumed.map (·.trapId)

/-- A strand record as the guard leaves it: its firing deadline, and LATE in its operand records (Table 07-9). -/
def guardRecord (now : BitVec 20) (m : Mem) (a : Nat) : Mem :=
  let w := readWord m (a + 0x168)
  let d : BitVec 20 := w.setWidth 20
  if tooLate now d then
    let m1 := writeWord m (a + 0x168) ((w &&& ~~~(0xFFFFF : W64)) ||| (guardDeadline now d).setWidth 64)
    [38, 39, 40].foldl (fun m i => writeWord m (a + 8 * i) (markLate true (readWord m (a + 8 * i)))) m1
  else m

/-- A page as the guard leaves it. -/
def guardPage (s : State) (page : BitVec 13) : Mem :=
  let now := now20 s
  let base := (pageAddr page).toNat
  let m := (slotsOfPage s page).foldl (fun m i => guardSlot now m (base + 32 * i.toNat)) s.mem
  if (recordIds s).any (fun id => trapPage id == page) then guardRecord now m base else m

/-- A keyed list of flits with those of one tile as the guard leaves them; `per` keys belong to each tile. -/
def guardFlits (now : BitVec 20) (per : Nat) (t : TileId) (m : List (Nat × List Flit)) : List (Nat × List Flit) :=
  m.map fun e => if e.1 / per = t.toNat then (e.1, e.2.map (guardFlit now)) else e

/-- A tile's router as the guard leaves it, with the tokens offered to its ports and those in its cells' rooms. -/
def guardRouter (s : State) (t : TileId) : State :=
  let now := now20 s
  { s with
    weave := { s.weave with
      chans := guardFlits now 48 t s.weave.chans
      outs := guardFlits now 8 t s.weave.outs
      offers := s.weave.offers.map fun e =>
        if e.1 / 2 = t.toNat then (e.1, e.2.map fun o => { o with flit := guardFlit now o.flit }) else e }
    cells := s.cells.map fun e =>
      if e.1 / 4 = t.toNat then (e.1, { e.2 with room := e.2.room.map (guardMsg now) }) else e }

/-- What waits to be framed for a row port as the guard leaves it. -/
def guardOwn (now : BitVec 20) (o : RowOwn) : RowOwn :=
  match o with
  | .token d t => .token d (guardToken now t)
  | .answer d n ts => .answer d n (ts.map (guardToken now))
  | .sink t => .sink (guardToken now t)
  | o => o

/-- A token of a packet in progress as the guard leaves it: its bytes, when none of them is written yet. -/
def guardPacketToken (now : BitVec 20) (written : Nat) (x : Token × Nat) : List Byte :=
  tokenBytes (if written ≤ 16 + 20 * x.2 then guardToken now x.1 else x.1)

/-- The packet in progress as the guard leaves it: the tokens of a TOKENS packet that are not written yet are still in the
outbound packet staging (R104, R424). -/
def guardPacket (now : BitVec 20) (p : Packet) : Packet :=
  if p.dump then p
  else { p with bytes := p.bytes.take 16 ++
                  (tokensOfBytes 32 (p.bytes.drop 16)).zipIdx.flatMap (guardPacketToken now p.written) }

/-- A row port as the guard leaves it. -/
def guardPort (now : BitVec 20) (p : RowPort) : RowPort :=
  { p with own := p.own.map (guardOwn now), ready := p.ready.map (guardOwn now) }

/-- The guard's visit to a place. -/
def guardVisit (s : State) (place : GuardPlace) : State :=
  let now := now20 s
  match place with
  | .queue c => setCell s c { cellAt s c with queue := (cellAt s c).queue.map (guardFiring now) }
  | .mstore c => setCell s c { cellAt s c with mstore := (cellAt s c).mstore.map (guardEntry now) }
  | .spillPage page => { s with mem := guardPage s page }
  | .router t => guardRouter s t
  | .inbox => { s with stw := { s.stw with inbox := s.stw.inbox.map fun x => (guardToken now x.1, x.2) } }
  | .deferred b =>
    let k := bankAt s.mem b
    let k1 := { k with deferred := k.deferred.map (guardDeferred now),
                       answering := k.answering.map fun x => (guardDeferred now x.1, x.2) }
    { s with mem := setBank s.mem b k1 }
  | .hostInbound => { s with time := { s.time with held := s.time.held.map (guardEvent now isHostEvent) } }
  | .hostStaging =>
    { s with host := { s.host with staging := s.host.staging.map (guardToken now)
                                   packet := s.host.packet.map (guardPacket now) } }
  | .shuttleRx => { s with time := { s.time with held := s.time.held.map (guardEvent now isShuttleEvent) } }
  | .shuttleTx => { s with sh := { s.sh with tx := s.sh.tx.map (guardToken now) } }
  | .rowRx _ => s
  | .rowTx b =>
    let r := portIdOf b
    setRow s r (guardPort now (rowAt s r))

/-- The deadline guard visits one place (R104). Row tokens that wait for admission carry offsets and no absolute
deadline (R482), so a visit to a row receive buffer finds nothing to rewrite. -/
def execDeadlineGuardVisit (place : GuardPlace) (s : State) : Host.Outcome State Fault Refusal :=
  if !s.pwr.clkok || halted s then .next s else .next (guardVisit s place)

/-! ## Withholding (R356, R373, R374) -/

/-- The lock units of the four quadrants. -/
def quadUnits (s : State) : List LockUnit := [0, 1, 2, 3].map (unitAt s.locks)

/-- Withholding after the boundary (R356). -/
def withholds (s : State) : Bool :=
  (quadUnits s).any above75 || (s.time.withholding && !(quadUnits s).all (fun u => below50 u || pagesTotal u == 0))

/-! ## Stalemate (R360 to R365) -/

/-- The cells of which something holds, by number. -/
def cellsWhere (s : State) (p : CellId → Cell → Bool) : Nat :=
  (s.cells.filter fun e => p (BitVec.ofNat 8 e.1) e.2).length

/-- An instruction at which a stalled strand is blocked work (R361): SEND-class (R237), of Table 06-9, or PUT. -/
def blockingIns : Instr → Bool
  | .send _ _ _ _ => true
  | .sendc _ _ _ _ => true
  | .sends _ _ _ _ => true
  | .sendp _ _ _ _ => true
  | .ld _ _ _ _ => true
  | .ldw _ _ _ _ => true
  | .ldh _ _ _ _ => true
  | .ldb _ _ _ _ => true
  | .st _ _ _ _ => true
  | .stw _ _ _ _ => true
  | .sth _ _ _ _ => true
  | .stb _ _ _ _ => true
  | .iload _ _ _ _ => true
  | .istore _ _ _ _ => true
  | .iclear _ _ _ => true
  | .gather _ _ _ _ => true
  | .scatter _ _ _ _ => true
  | .bmov _ _ _ _ => true
  | .put _ _ _ _ => true
  | _ => false

/-- A strand stalls as R361 lists: an instruction of the list waits for its port to accept a flit (Table 16-4, causes 1 to
4). -/
def blockedStrand (c : CellId) (x : Cell) : Bool :=
  let e := x.engine
  e.phase == .running && decide (1 ≤ e.stall.toNat) && decide (e.stall.toNat ≤ 4) &&
    (match (fetchOf x c e.regs.pc).what with | .ins i _ => blockingIns i | .reserved _ => false)

/-- A stopped strand awaits a record page (R194). -/
def awaitsPage (_ : CellId) (x : Cell) : Bool := match x.engine.phase with | .stopped _ _ _ _ => true | _ => false

/-- A message of an I-read that is being re-issued (R361). -/
def retryingMsg (m : Msg) : Bool := match m with | .iread r => r.retry != 0 | .retry r => r.retry != 0 | _ => false
/-- A RETRY that has reached its cell. -/
def retryingRoom (m : Msg) : Bool := match m with | .retry _ => true | _ => retryingMsg m

/-- An I-read is being re-issued under R305 (R361). -/
def retrying (s : State) : Bool :=
  s.weave.anyFlit (fun f => retryingMsg f.msg) ||
  s.cells.any (fun e => e.2.room.any retryingRoom) ||
  s.mem.banks.any (fun e => e.2.deferred.any (fun d => d.req.retry != 0) ||
    e.2.answering.any (fun d => d.1.req.retry != 0))

/-- A flow-lock grant awaits acknowledgements. -/
def grantWaits (s : State) : Bool :=
  (quadUnits s).any fun u => match u.work with | .granting _ _ _ _ _ _ => true | _ => false

/-- Blocked work is present (R361). -/
def blockedWork (s : State) : Bool :=
  decide (0 < cellsWhere s (fun c x => x.refusing != [] || blockedStrand c x || awaitsPage c x || lockWaits s c)) ||
  retrying s || grantWaits s || s.time.withholding

/-- Detection runs: a started graph, in RUN or FULL (R362). -/
def detecting (s : State) : Bool := s.stw.started && decide (s.pwr.phase = .run)

/-- STALE_WIN, 256 when it is 0 (R362). -/
def staleWindow (s : State) : BitVec 16 :=
  match s.stw.image with | some i => if i.staleWin = 0 then 256 else i.staleWin | none => 256

/-- The counter at a boundary, whether it is held at 0, and whether a stalemate is declared (R362, R363). -/
def staleStep (s : State) : BitVec 16 × Bool × Bool :=
  let t := s.time
  if !detecting s then (0, t.staleHold && !t.progress, false)
  else if t.progress then (0, false, false)
  else if t.staleHold then (0, true, false)
  else if !blockedWork s then (0, false, false)
  else if t.stale + 1 = staleWindow s then (0, true, true)
  else (t.stale + 1, false, false)

/-- A flag for each quadrant. -/
def quadFlags (s : State) (p : LockUnit → Bool) : BitVec 4 :=
  BitVec.ofBool (p (unitAt s.locks 3)) ++ BitVec.ofBool (p (unitAt s.locks 2)) ++ BitVec.ofBool (p (unitAt s.locks 1)) ++
    BitVec.ofBool (p (unitAt s.locks 0))

/-- The value of the STALEMATE notice (Table 09-6). -/
def staleValue (s : State) (latched : Bool) : W64 :=
  (0 : BitVec 7) ++ BitVec.ofBool latched ++ BitVec.ofBool s.time.withholding ++ BitVec.ofBool (grantWaits s) ++
    BitVec.ofBool (retrying s) ++ BitVec.ofBool (decide (0 < cellsWhere s awaitsPage)) ++
    BitVec.ofNat 9 ((quadUnits s).map slotsHeld).sum ++ BitVec.ofNat 9 (cellsWhere s fun c _ => lockWaits s c) ++
    BitVec.ofNat 9 (cellsWhere s blockedStrand) ++ BitVec.ofNat 9 (cellsWhere s fun _ x => x.refusing != []) ++
    quadFlags s above75 ++ quadFlags s noFreePage ++ (0x0A : BitVec 8)

/-- The graph hook's cell can take or spill a notice (R365); a hook elsewhere takes it through its face. -/
def hookTakes (s : State) (t : Token) : Bool :=
  (tokenDest s t).2 ||
  (cellUp s t.cell &&
    match fateOf s t.cell t false with
    | .spill cause => (takeSlot (cellAt s t.cell) (useOf cause) t cause).isSome || !noFreePage (unitAt s.locks (quadOf t.cell))
    | .refuse => false
    | _ => true)

/-- The steward offers the STALEMATE notice that it keeps (R365). -/
def sendStale (s : State) : State :=
  match s.stw.stale with
  | none => s
  | some v =>
    let x := noticeToken s 0x080 v
    if hookTakes s x.2 then stewardSend { x.1 with stw := { x.1.stw with stale := none } } x.2 else s

/-! ## Pages are asked for again (R194, R325) -/

/-- A stopped strand that was refused a record page asks again. -/
def reaskRecord (s : State) (c : CellId) : State :=
  match (cellAt s c).engine.phase with
  | .stopped cause raised trapped false =>
    askPage (setEngine s c { engineAt s c with phase := .stopped cause raised trapped true }) c .record 5 none
  | _ => s

/-- The tokens that a cell refuses for want of a page are offered again. -/
def reaskChannels (c : CellId) : List Nat → State → Except Nat State
  | [], s => .ok s
  | ch :: r, s =>
    match takeChannel s c ch true with
    | none => reaskChannels c r s
    | some (.taken t) => reaskChannels c r t
    | some (.waits t) => reaskChannels c r t
    | some (.illegal n) => .error n

/-- A running cell at a boundary. -/
def reaskCell (s : State) (c : CellId) : Except Nat State :=
  if cellUp s c then
    reaskChannels c ([0, 1, 2, 3, 4].filter fun ch => mget 0 (cellAt s c).refusing ch == 2) (reaskRecord s c)
  else .ok s

/-- Cells at a boundary, in an order. -/
def reaskAll : List CellId → State → Except Nat State
  | [], s => .ok s
  | c :: r, s =>
    match reaskCell s c with
    | .ok t => reaskAll r t
    | .error n => .error n

/-- How late a cell comes in the turn order of its quadrant in a beat (R328), after the quadrants before it. -/
def turnRank (beat : BitVec 48) (c : CellId) : Nat :=
  256 * (quadOf c).toNat + (c - beat.setWidth 8 - 64 * (quadOf c).setWidth 8).toNat

/-- The cells in the turn order of their quadrants (R328). -/
def turnOrder (s : State) : List CellId :=
  (s.cells.foldl (fun m e => minsert (turnRank s.time.beat (BitVec.ofNat 8 e.1)) (BitVec.ofNat 8 e.1) m) []).map (·.2)

/-! ## The beat boundary -/

/-- A TABLEAU_N trigger that waits for its boundary (R611). -/
def isTableauN (e : OutEvent) : Bool := match e.kind with | .tableau none => true | _ => false

/-- The triggers that fall to a boundary: those raised, TABLEAU_N, and a stalemate (Table 16-1). -/
def boundaryTriggers (s : State) (stale : Bool) : List (BitVec 4) :=
  s.tab.raised ++ (s.time.held.filter isTableauN).map (fun _ => 0) ++ (if stale then [3] else [])

/-- TABLEAU_N events after their boundary: each is a notice that says whether its trigger was latched (R620). -/
def tableauNotices (s : State) (beat : BitVec 48) (latched : Bool) : List OutEvent :=
  s.time.held.filterMap fun e =>
    if isTableauN e then
      (if s.stw.started then some { e with kind := .tableau (some (BitVec.ofBool latched ++ (0 : BitVec 15) ++ beat)) } else none)
    else some e

/-- Events stamped two beats before a new beat are still held: admission has overrun (R99). -/
def overrun (s : State) (beat : BitVec 48) : Bool :=
  s.pwr.steady && s.time.held.any fun e =>
    e.stamp + 2 == beat && decide ((e.stamp - s.time.steadyAt).toNat < 2 ^ 47)

/-- A probe at a boundary takes the parameters that PROBE_SET left (R395). -/
def probeBoundary (p : Probe) : Probe :=
  match p.next with
  | none => p
  | some q =>
    let k := if q.clear then { Probe.idle with drop := p.drop } else p
    { k with params := some q, next := none, trace := [], seen := 0 }

/-- What a boundary allows until the next one (log 95): a limit step (R88, R90, R550), the next quadrant's power-up (R588),
D0 (R565), the new level (R558), the rise of STEADY (R598). -/
def boundaryEdge (s : State) : BitVec 5 :=
  let run := s.pwr.phase == .run
  BitVec.ofBool (run && s.pwr.fabricUp && s.stw.boot == .done && !s.pwr.steady) ++ BitVec.ofBool s.pwr.newLevel.isSome ++
    BitVec.ofBool s.pwr.sleepReq.isSome ++ BitVec.ofBool (run && (nextQuadrant s).isSome) ++ BitVec.ofBool run

/-- The beat counter, the admission overrun, withholding and the stalemate counter at a boundary, with what it allows. -/
def timeBoundary (s : State) (hold : Bool) (stale : BitVec 16) (latched : Bool) : Time :=
  let beat := s.time.beat + 1
  { s.time with
    beat := beat, held := tableauNotices s beat latched, overruns := satIf (overrun s beat) s.time.overruns,
    withholding := withholds s, withholds := satIf (withholds s && !s.time.withholding) s.time.withholds,
    stale := stale, staleHold := hold, progress := false, edge := boundaryEdge s,
    alarmSpace := 8 - s.streams.alarm.length }

/-- The collector at a boundary: its triggers are latched, or ignored while a snapshot is held (R611, R612). -/
def tabBoundary (t : Tab) (triggers : List (BitVec 4)) : Tab :=
  if t.held.isSome then ignoreTriggers { t with raised := [] } triggers.length else { t with raised := [], due := triggers }

/-- VID follows the rate in a descent, at the boundary after the rate has reached quarter (R550, R566). -/
def descentVid (p : Power) : BitVec 5 :=
  match p.phase with
  | .descent _ => 10
  | .descentOff _ => 10
  | .tending => 10
  | _ => p.vid

/-- TABLEAU requests whose triggers were ignored, or have been served, are answered (R619). -/
def answerTableau (s : State) (status : BitVec 8) : State :=
  s.stw.tableau.foldl (fun s r => answer s r status []) { s with stw := { s.stw with tableau := [] } }

/-- What waits for a boundary, or for the end of the freeze that begins there: the answers of COUNTERS, the STALEMATE
notice, and the pages asked for again. -/
def boundaryWork (s : State) : Host.Outcome State Fault Refusal :=
  let s1 := sendStale (flushAnswers (answerCounters s))
  match reaskAll (turnOrder s1) s1 with
  | .ok t => .next t
  | .error n => unpredictable n s

/-- Keep memory's scrubber reads one word, in ascending order (R310). -/
def scrubKeep (s : State) : Mem :=
  if powered s 10 then
    checkWord { s.mem with keepScrub := s.mem.keepScrub + 1 } .keep
      (BitVec.ofNat 48 (0x10000000 + 8 * s.mem.keepScrub.toNat))
  else s.mem

/-- A boundary up to the work that a freeze would put off: credits stand as they did when it is reached (R357). -/
def crossBoundary (s : State) : State :=
  let s := trackCredits s
  let st := staleStep s
  let triggers := boundaryTriggers s st.2.2
  let latched := s.tab.held.isNone
  let s1 := { s with
    time := timeBoundary s st.2.1 st.1 latched
    tab := tabBoundary s.tab triggers
    pwr := { s.pwr with vid := descentVid s.pwr, wakeNew := false }
    weave := { s.weave with probes := mmap Probe.idle probeBoundary s.weave.probes }
    mem := scrubKeep s }
  let s2 := if st.2.2 then { s1 with stw := { s1.stw with stale := some (staleValue s1 latched) } } else s1
  hostBoundary (if latched then s2 else answerTableau s2 stRefused)

/-- A beat boundary (R86, R98): the counter advances by 1, and everything that a boundary brings happens. A boundary
with triggers to latch is followed by the freeze (R613). -/
def execBeatBoundary (s : State) : Host.Outcome State Fault Refusal :=
  if !s.pwr.clkok then .next s
  else if halted s then .refused .wrongPhase
  else
    let t := crossBoundary s
    if t.tab.due.isEmpty then boundaryWork t else .next t

/-- The freeze ends at cycle 64 (R613): the requests that raised it are answered, what waited goes on, and an automatic
dump may begin (R616). -/
def execTableauFreezeEnd (s : State) : Host.Outcome State Fault Refusal :=
  if !s.pwr.clkok || !powered s 1 then .next s
  else if !s.tab.frozen then .refused .wrongPhase
  else boundaryWork (autoDump (answerTableau { s with tab := { s.tab with frozen := false } } stOk))

end Sys2Proof.Machine
end

