-- ==== Sys2Proof/Machine/Dispatch.lean ====
section
/-! DEFINITION. The meaning of each command: one arm per row of spec/opcode_table.json. -/

namespace Sys2Proof.Machine

def exec (i : Instr) (s : State) : Host.Outcome State Fault Refusal :=
  match i with
  | .nop c p => Sys2Proof.Machine.execNop c p s
  | .endStrand c p => Sys2Proof.Machine.execEndStrand c p s
  | .fbar c p => Sys2Proof.Machine.execFbar c p s
  | .lbrk c p => Sys2Proof.Machine.execLbrk c p s
  | .tableauInstr c p => Sys2Proof.Machine.execTableauInstr c p s
  | .retire c p => Sys2Proof.Machine.execRetire c p s
  | .jr c p rs => Sys2Proof.Machine.execJr c p rs s
  | .br c p target => Sys2Proof.Machine.execBr c p target s
  | .loop c p rs e => Sys2Proof.Machine.execLoop c p rs e s
  | .loopi c p count e => Sys2Proof.Machine.execLoopi c p count e s
  | .mov c p rd rs => Sys2Proof.Machine.execMov c p rd rs s
  | .add c p rd rs => Sys2Proof.Machine.execAdd c p rd rs s
  | .sub c p rd rs => Sys2Proof.Machine.execSub c p rd rs s
  | .adc c p rd rs => Sys2Proof.Machine.execAdc c p rd rs s
  | .sbc c p rd rs => Sys2Proof.Machine.execSbc c p rd rs s
  | .andOp c p rd rs => Sys2Proof.Machine.execAndOp c p rd rs s
  | .orOp c p rd rs => Sys2Proof.Machine.execOrOp c p rd rs s
  | .xor c p rd rs => Sys2Proof.Machine.execXor c p rd rs s
  | .notOp c p rd rs => Sys2Proof.Machine.execNotOp c p rd rs s
  | .neg c p rd rs => Sys2Proof.Machine.execNeg c p rd rs s
  | .shl c p rd rs => Sys2Proof.Machine.execShl c p rd rs s
  | .shr c p rd rs => Sys2Proof.Machine.execShr c p rd rs s
  | .sar c p rd rs => Sys2Proof.Machine.execSar c p rd rs s
  | .ror c p rd rs => Sys2Proof.Machine.execRor c p rd rs s
  | .clz c p rd rs => Sys2Proof.Machine.execClz c p rd rs s
  | .ctz c p rd rs => Sys2Proof.Machine.execCtz c p rd rs s
  | .popc c p rd rs => Sys2Proof.Machine.execPopc c p rd rs s
  | .shli c p rd rs imm => Sys2Proof.Machine.execShli c p rd rs imm s
  | .shri c p rd rs imm => Sys2Proof.Machine.execShri c p rd rs imm s
  | .sari c p rd rs imm => Sys2Proof.Machine.execSari c p rd rs imm s
  | .rori c p rd rs imm => Sys2Proof.Machine.execRori c p rd rs imm s
  | .addi c p rd rs imm => Sys2Proof.Machine.execAddi c p rd rs imm s
  | .andi c p rd rs imm => Sys2Proof.Machine.execAndi c p rd rs imm s
  | .ori c p rd rs imm => Sys2Proof.Machine.execOri c p rd rs imm s
  | .xori c p rd rs imm => Sys2Proof.Machine.execXori c p rd rs imm s
  | .movi32 c p rd imm => Sys2Proof.Machine.execMovi32 c p rd imm s
  | .movi c p rd imm => Sys2Proof.Machine.execMovi c p rd imm s
  | .mul c p rd rs => Sys2Proof.Machine.execMul c p rd rs s
  | .muls c p rd rs => Sys2Proof.Machine.execMuls c p rd rs s
  | .mulsu c p rd rs => Sys2Proof.Machine.execMulsu c p rd rs s
  | .productWrite c => Sys2Proof.Machine.execProductWrite c s
  | .divu c p rd rs => Sys2Proof.Machine.execDivu c p rd rs s
  | .divs c p rd rs => Sys2Proof.Machine.execDivs c p rd rs s
  | .divideComplete c => Sys2Proof.Machine.execDivideComplete c s
  | .cmpeq c p rd rs => Sys2Proof.Machine.execCmpeq c p rd rs s
  | .cmplt c p rd rs => Sys2Proof.Machine.execCmplt c p rd rs s
  | .cmpltu c p rd rs => Sys2Proof.Machine.execCmpltu c p rd rs s
  | .min c p rd rs => Sys2Proof.Machine.execMin c p rd rs s
  | .max c p rd rs => Sys2Proof.Machine.execMax c p rd rs s
  | .minu c p rd rs => Sys2Proof.Machine.execMinu c p rd rs s
  | .maxu c p rd rs => Sys2Proof.Machine.execMaxu c p rd rs s
  | .sel c p rd rs rt => Sys2Proof.Machine.execSel c p rd rs rt s
  | .bfx c p rd rs lsb widthMinus1 => Sys2Proof.Machine.execBfx c p rd rs lsb widthMinus1 s
  | .bfi c p rd rs lsb widthMinus1 => Sys2Proof.Machine.execBfi c p rd rs lsb widthMinus1 s
  | .bfxs c p rd rs lsb widthMinus1 => Sys2Proof.Machine.execBfxs c p rd rs lsb widthMinus1 s
  | .rdsr c p rd idx => Sys2Proof.Machine.execRdsr c p rd idx s
  | .wrsr c p idx rs => Sys2Proof.Machine.execWrsr c p idx rs s
  | .beat c p rd => Sys2Proof.Machine.execBeat c p rd s
  | .ld c p rd rs => Sys2Proof.Machine.execLd c p rd rs s
  | .ldw c p rd rs => Sys2Proof.Machine.execLdw c p rd rs s
  | .ldh c p rd rs => Sys2Proof.Machine.execLdh c p rd rs s
  | .ldb c p rd rs => Sys2Proof.Machine.execLdb c p rd rs s
  | .st c p rd rs => Sys2Proof.Machine.execSt c p rd rs s
  | .stw c p rd rs => Sys2Proof.Machine.execStw c p rd rs s
  | .sth c p rd rs => Sys2Proof.Machine.execSth c p rd rs s
  | .stb c p rd rs => Sys2Proof.Machine.execStb c p rd rs s
  | .iload c p rd rs => Sys2Proof.Machine.execIload c p rd rs s
  | .istore c p rd rs => Sys2Proof.Machine.execIstore c p rd rs s
  | .iclear c p rd => Sys2Proof.Machine.execIclear c p rd s
  | .gather c p rd rs => Sys2Proof.Machine.execGather c p rd rs s
  | .scatter c p rd rs => Sys2Proof.Machine.execScatter c p rd rs s
  | .bmov c p rd rs => Sys2Proof.Machine.execBmov c p rd rs s
  | .take c p rd port => Sys2Proof.Machine.execTake c p rd port s
  | .put c p port rs => Sys2Proof.Machine.execPut c p port rs s
  | .send c p rd rs => Sys2Proof.Machine.execSend c p rd rs s
  | .sendc c p rd rs => Sys2Proof.Machine.execSendc c p rd rs s
  | .sends c p rd rs => Sys2Proof.Machine.execSends c p rd rs s
  | .sendp c p rd rs => Sys2Proof.Machine.execSendp c p rd rs s
  | .facq c p rd rs => Sys2Proof.Machine.execFacq c p rd rs s
  | .frel c p rs => Sys2Proof.Machine.execFrel c p rs s
  | .fadd c p rd rs => Sys2Proof.Machine.execFadd c p rd rs s
  | .fsub c p rd rs => Sys2Proof.Machine.execFsub c p rd rs s
  | .fmul c p rd rs => Sys2Proof.Machine.execFmul c p rd rs s
  | .fdiv c p rd rs => Sys2Proof.Machine.execFdiv c p rd rs s
  | .fmin c p rd rs => Sys2Proof.Machine.execFmin c p rd rs s
  | .fmax c p rd rs => Sys2Proof.Machine.execFmax c p rd rs s
  | .fcmpeq c p rd rs => Sys2Proof.Machine.execFcmpeq c p rd rs s
  | .fcmplt c p rd rs => Sys2Proof.Machine.execFcmplt c p rd rs s
  | .fcmple c p rd rs => Sys2Proof.Machine.execFcmple c p rd rs s
  | .fcmpun c p rd rs => Sys2Proof.Machine.execFcmpun c p rd rs s
  | .fcvtf c p rd rs => Sys2Proof.Machine.execFcvtf c p rd rs s
  | .fcvti c p rd rs => Sys2Proof.Machine.execFcvti c p rd rs s
  | .fcvtiz c p rd rs => Sys2Proof.Machine.execFcvtiz c p rd rs s
  | .fcvtu c p rd rs => Sys2Proof.Machine.execFcvtu c p rd rs s
  | .icvtf c p rd rs => Sys2Proof.Machine.execIcvtf c p rd rs s
  | .ucvtf c p rd rs => Sys2Proof.Machine.execUcvtf c p rd rs s
  | .fneg c p rd rs => Sys2Proof.Machine.execFneg c p rd rs s
  | .fabs c p rd rs => Sys2Proof.Machine.execFabs c p rd rs s
  | .fma c p rd rs rt => Sys2Proof.Machine.execFma c p rd rs rt s
  | .fms c p rd rs rt => Sys2Proof.Machine.execFms c p rd rs rt s
  | .fnma c p rd rs rt => Sys2Proof.Machine.execFnma c p rd rs rt s
  | .tli c p rd rs rt kcode => Sys2Proof.Machine.execTli c p rd rs rt kcode s
  | .tlif c p rd rs rt kcode => Sys2Proof.Machine.execTlif c p rd rs rt kcode s
  | .fpComplete c k => Sys2Proof.Machine.execFpComplete c k s
  | .trapTokenSend c => Sys2Proof.Machine.execTrapTokenSend c s
  | .strandRestore c => Sys2Proof.Machine.execStrandRestore c s
  | .strandSelect c => Sys2Proof.Machine.execStrandSelect c s
  | .tokenArrival c net3 => Sys2Proof.Machine.execTokenArrival c net3 s
  | .spillReturn c => Sys2Proof.Machine.execSpillReturn c s
  | .pageRequest q => Sys2Proof.Machine.execPageRequest q s
  | .pageGrant c => Sys2Proof.Machine.execPageGrant c s
  | .pageRelease q => Sys2Proof.Machine.execPageRelease q s
  | .bankRead b => Sys2Proof.Machine.execBankRead b s
  | .bankWrite b => Sys2Proof.Machine.execBankWrite b s
  | .bankIread b => Sys2Proof.Machine.execBankIread b s
  | .bankIwrite b => Sys2Proof.Machine.execBankIwrite b s
  | .bankIclear b => Sys2Proof.Machine.execBankIclear b s
  | .spillSlotAccess b => Sys2Proof.Machine.execSpillSlotAccess b s
  | .deferredAnswer b => Sys2Proof.Machine.execDeferredAnswer b s
  | .retryReceive c => Sys2Proof.Machine.execRetryReceive c s
  | .elementAck c => Sys2Proof.Machine.execElementAck c s
  | .bankScrub b => Sys2Proof.Machine.execBankScrub b s
  | .keepAccess => Sys2Proof.Machine.execKeepAccess s
  | .flashWindowRead => Sys2Proof.Machine.execFlashWindowRead s
  | .streamTakeRequest port => Sys2Proof.Machine.execStreamTakeRequest port s
  | .streamPutRequest port => Sys2Proof.Machine.execStreamPutRequest port s
  | .tokenToHostSink net3 => Sys2Proof.Machine.execTokenToHostSink net3 s
  | .tokenToShuttleSink net3 => Sys2Proof.Machine.execTokenToShuttleSink net3 s
  | .tokenToRowFace net3 => Sys2Proof.Machine.execTokenToRowFace net3 s
  | .tokenToFieldSink net3 => Sys2Proof.Machine.execTokenToFieldSink net3 s
  | .sinkDiscard t net3 => Sys2Proof.Machine.execSinkDiscard t net3 s
  | .flitForward t outPort waited => Sys2Proof.Machine.execFlitForward t outPort waited s
  | .creditReturn t port vn vc => Sys2Proof.Machine.execCreditReturn t port vn vc s
  | .ageIncrement t port vn vc second => Sys2Proof.Machine.execAgeIncrement t port vn vc second s
  | .lockAcquireRequest q => Sys2Proof.Machine.execLockAcquireRequest q s
  | .lockNotice t => Sys2Proof.Machine.execLockNotice t s
  | .lockNoticeAck t q => Sys2Proof.Machine.execLockNoticeAck t q s
  | .lockAckReceive q => Sys2Proof.Machine.execLockAckReceive q s
  | .lockReleaseRequest q => Sys2Proof.Machine.execLockReleaseRequest q s
  | .unlockNotice t => Sys2Proof.Machine.execUnlockNotice t s
  | .iterBaseNotice t => Sys2Proof.Machine.execIterBaseNotice t s
  | .beatBoundary => Sys2Proof.Machine.execBeatBoundary s
  | .admitEvent => Sys2Proof.Machine.execAdmitEvent s
  | .deadlineGuardVisit place => Sys2Proof.Machine.execDeadlineGuardVisit place s
  | .alarmDue slot => Sys2Proof.Machine.execAlarmDue slot s
  | .alarmPendingAdmit => Sys2Proof.Machine.execAlarmPendingAdmit s
  | .tableauNAssert => Sys2Proof.Machine.execTableauNAssert s
  | .tableauFreeze => Sys2Proof.Machine.execTableauFreeze s
  | .tableauFreezeEnd => Sys2Proof.Machine.execTableauFreezeEnd s
  | .tableauDumpComplete => Sys2Proof.Machine.execTableauDumpComplete s
  | .loadChunk => Sys2Proof.Machine.execLoadChunk s
  | .loadTimeout => Sys2Proof.Machine.execLoadTimeout s
  | .start => Sys2Proof.Machine.execStart s
  | .describe => Sys2Proof.Machine.execDescribe s
  | .counters => Sys2Proof.Machine.execCounters s
  | .probeSet => Sys2Proof.Machine.execProbeSet s
  | .probeDump => Sys2Proof.Machine.execProbeDump s
  | .tableauRequest => Sys2Proof.Machine.execTableauRequest s
  | .tableauDump => Sys2Proof.Machine.execTableauDump s
  | .attachRing => Sys2Proof.Machine.execAttachRing s
  | .ringParamsReadDone status data => Sys2Proof.Machine.execRingParamsReadDone status data s
  | .detachRing => Sys2Proof.Machine.execDetachRing s
  | .xlateIn => Sys2Proof.Machine.execXlateIn s
  | .xlateOut => Sys2Proof.Machine.execXlateOut s
  | .fieldRelease => Sys2Proof.Machine.execFieldRelease s
  | .fieldReleaseTimeout => Sys2Proof.Machine.execFieldReleaseTimeout s
  | .energyQuery => Sys2Proof.Machine.execEnergyQuery s
  | .sleep => Sys2Proof.Machine.execSleep s
  | .alarmSet => Sys2Proof.Machine.execAlarmSet s
  | .resume => Sys2Proof.Machine.execResume s
  | .reservedSystemCode => Sys2Proof.Machine.execReservedSystemCode s
  | .bar0Write offset data poisoned => Sys2Proof.Machine.execBar0Write offset data poisoned s
  | .bar0Read offset len => Sys2Proof.Machine.execBar0Read offset len s
  | .bar23Read offset len => Sys2Proof.Machine.execBar23Read offset len s
  | .bar23Write offset data poisoned => Sys2Proof.Machine.execBar23Write offset data poisoned s
  | .expansionRomWrite offset data => Sys2Proof.Machine.execExpansionRomWrite offset data s
  | .configWrite offset data enables => Sys2Proof.Machine.execConfigWrite offset data enables s
  | .busMasterDisable => Sys2Proof.Machine.execBusMasterDisable s
  | .busMasterEnable => Sys2Proof.Machine.execBusMasterEnable s
  | .d3hotEntry => Sys2Proof.Machine.execD3hotEntry s
  | .d0Return => Sys2Proof.Machine.execD0Return s
  | .functionLevelReset => Sys2Proof.Machine.execFunctionLevelReset s
  | .flrComplete => Sys2Proof.Machine.execFlrComplete s
  | .hotReset => Sys2Proof.Machine.execHotReset s
  | .hostLinkDown => Sys2Proof.Machine.execHostLinkDown s
  | .perstNAssert => Sys2Proof.Machine.execPerstNAssert s
  | .perstNRelease => Sys2Proof.Machine.execPerstNRelease s
  | .hostLinkTrained width gen => Sys2Proof.Machine.execHostLinkTrained width gen s
  | .hostRequestIssue => Sys2Proof.Machine.execHostRequestIssue s
  | .hostCompletion tag status data => Sys2Proof.Machine.execHostCompletion tag status data s
  | .hostCompletionTimeout tag => Sys2Proof.Machine.execHostCompletionTimeout tag s
  | .ringPacketStart => Sys2Proof.Machine.execRingPacketStart s
  | .ringPacketComplete => Sys2Proof.Machine.execRingPacketComplete s
  | .consumedWordRead status value => Sys2Proof.Machine.execConsumedWordRead status value s
  | .aspmL1Entry => Sys2Proof.Machine.execAspmL1Entry s
  | .shuttleTokensFrame bytes => Sys2Proof.Machine.execShuttleTokensFrame bytes s
  | .shuttleRawFrame bytes => Sys2Proof.Machine.execShuttleRawFrame bytes s
  | .shuttleLinkFrame bytes => Sys2Proof.Machine.execShuttleLinkFrame bytes s
  | .shuttleInitFrame bytes => Sys2Proof.Machine.execShuttleInitFrame bytes s
  | .shuttleBadFrame bad => Sys2Proof.Machine.execShuttleBadFrame bad s
  | .shuttleReplayTimeout => Sys2Proof.Machine.execShuttleReplayTimeout s
  | .shuttleLinkFrameDue => Sys2Proof.Machine.execShuttleLinkFrameDue s
  | .shuttleAligned => Sys2Proof.Machine.execShuttleAligned s
  | .shuttleInitTimer => Sys2Proof.Machine.execShuttleInitTimer s
  | .shuttleAlignmentLost => Sys2Proof.Machine.execShuttleAlignmentLost s
  | .shuttleFrameSend => Sys2Proof.Machine.execShuttleFrameSend s
  | .shuttleRawMove => Sys2Proof.Machine.execShuttleRawMove s
  | .shWakeNAssert => Sys2Proof.Machine.execShWakeNAssert s
  | .rowTokensFrame port bytes => Sys2Proof.Machine.execRowTokensFrame port bytes s
  | .rowAnswerFrame port bytes => Sys2Proof.Machine.execRowAnswerFrame port bytes s
  | .rowUndeliverableFrame port bytes => Sys2Proof.Machine.execRowUndeliverableFrame port bytes s
  | .rowSinkFrame port bytes => Sys2Proof.Machine.execRowSinkFrame port bytes s
  | .rowLinkFrame port bytes => Sys2Proof.Machine.execRowLinkFrame port bytes s
  | .rowHelloFrame port bytes => Sys2Proof.Machine.execRowHelloFrame port bytes s
  | .rowRawFrame port bytes => Sys2Proof.Machine.execRowRawFrame port bytes s
  | .rowBadFrame port bytes => Sys2Proof.Machine.execRowBadFrame port bytes s
  | .rowForwardFrame port bytes good => Sys2Proof.Machine.execRowForwardFrame port bytes good s
  | .rowFrameSend port => Sys2Proof.Machine.execRowFrameSend port s
  | .rowLinkFrameDue port => Sys2Proof.Machine.execRowLinkFrameDue port s
  | .rowHelloTimer port => Sys2Proof.Machine.execRowHelloTimer port s
  | .rowPhyLinkUp port => Sys2Proof.Machine.execRowPhyLinkUp port s
  | .rowLinkLoss port => Sys2Proof.Machine.execRowLinkLoss port s
  | .rowGraceExpired port => Sys2Proof.Machine.execRowGraceExpired port s
  | .rowEnergyWake port => Sys2Proof.Machine.execRowEnergyWake port s
  | .downlinkFrame => Sys2Proof.Machine.execDownlinkFrame s
  | .fieldOutputWord => Sys2Proof.Machine.execFieldOutputWord s
  | .fieldReportWord => Sys2Proof.Machine.execFieldReportWord s
  | .fieldNotifyWord => Sys2Proof.Machine.execFieldNotifyWord s
  | .fieldSafeWord => Sys2Proof.Machine.execFieldSafeWord s
  | .fieldQueryWord => Sys2Proof.Machine.execFieldQueryWord s
  | .fieldNopWord => Sys2Proof.Machine.execFieldNopWord s
  | .fieldDownlinkReceive good => Sys2Proof.Machine.execFieldDownlinkReceive good s
  | .uplinkFrameSend levels readback lplusLow thermal => Sys2Proof.Machine.execUplinkFrameSend levels readback lplusLow thermal s
  | .uplinkFrameReceive good => Sys2Proof.Machine.execUplinkFrameReceive good s
  | .selvedgeLinkDown => Sys2Proof.Machine.execSelvedgeLinkDown s
  | .silenceTimeout => Sys2Proof.Machine.execSilenceTimeout s
  | .fieldSelfCheckFail => Sys2Proof.Machine.execFieldSelfCheckFail s
  | .lplusRise => Sys2Proof.Machine.execLplusRise s
  | .fieldStrapSamplingDone readings => Sys2Proof.Machine.execFieldStrapSamplingDone readings s
  | .lplusFall => Sys2Proof.Machine.execLplusFall s
  | .inputEdge ch position => Sys2Proof.Machine.execInputEdge ch position s
  | .wirebreakSet ch => Sys2Proof.Machine.execWirebreakSet ch s
  | .wirebreakClear ch => Sys2Proof.Machine.execWirebreakClear ch s
  | .outputCurrentLatch k => Sys2Proof.Machine.execOutputCurrentLatch k s
  | .outputThermalLatch k => Sys2Proof.Machine.execOutputThermalLatch k s
  | .vbatPowerOn => Sys2Proof.Machine.execVbatPowerOn s
  | .vbatPowerOff => Sys2Proof.Machine.execVbatPowerOff s
  | .firstTickEnIo => Sys2Proof.Machine.execFirstTickEnIo s
  | .pgIoRise => Sys2Proof.Machine.execPgIoRise s
  | .pgCoreRise => Sys2Proof.Machine.execPgCoreRise s
  | .sourceQualified => Sys2Proof.Machine.execSourceQualified s
  | .strapSamplingDone readings => Sys2Proof.Machine.execStrapSamplingDone readings s
  | .clkokRise => Sys2Proof.Machine.execClkokRise s
  | .pd0Tick => Sys2Proof.Machine.execPd0Tick s
  | .clockLost => Sys2Proof.Machine.execClockLost s
  | .supplyFault why => Sys2Proof.Machine.execSupplyFault why s
  | .supplyFaultRestart => Sys2Proof.Machine.execSupplyFaultRestart s
  | .phyRailWaitDone => Sys2Proof.Machine.execPhyRailWaitDone s
  | .quadrantPowerUp => Sys2Proof.Machine.execQuadrantPowerUp s
  | .bankClearDone q => Sys2Proof.Machine.execBankClearDone q s
  | .fabricUp => Sys2Proof.Machine.execFabricUp s
  | .flashReadDone => Sys2Proof.Machine.execFlashReadDone s
  | .imageVerifyDone => Sys2Proof.Machine.execImageVerifyDone s
  | .steadyRise => Sys2Proof.Machine.execSteadyRise s
  | .esenseConversion millivolts => Sys2Proof.Machine.execEsenseConversion millivolts s
  | .levelChange => Sys2Proof.Machine.execLevelChange s
  | .limitStep => Sys2Proof.Machine.execLimitStep s
  | .exhaustionGraceEnd => Sys2Proof.Machine.execExhaustionGraceEnd s
  | .descentBegin => Sys2Proof.Machine.execDescentBegin s
  | .descentPd9PowerDown => Sys2Proof.Machine.execDescentPd9PowerDown s
  | .descentDomainsOff => Sys2Proof.Machine.execDescentDomainsOff s
  | .descentEnCoreOff => Sys2Proof.Machine.execDescentEnCoreOff s
  | .descentEnIoOff => Sys2Proof.Machine.execDescentEnIoOff s
  | .wakeNAssert => Sys2Proof.Machine.execWakeNAssert s
  | .faceTokenWake => Sys2Proof.Machine.execFaceTokenWake s
  | .wakeTestDone => Sys2Proof.Machine.execWakeTestDone s
  | .wakeRetest => Sys2Proof.Machine.execWakeRetest s
  | .resetNAssert => Sys2Proof.Machine.execResetNAssert s
  | .resetNRelease => Sys2Proof.Machine.execResetNRelease s
  | .tamperNAssert => Sys2Proof.Machine.execTamperNAssert s
  | .tamperNRelease => Sys2Proof.Machine.execTamperNRelease s
  | .glitchDetect => Sys2Proof.Machine.execGlitchDetect s
  | .extest cells => Sys2Proof.Machine.execExtest cells s
  | .samplePreload cells => Sys2Proof.Machine.execSamplePreload cells s
  | .idcode => Sys2Proof.Machine.execIdcode s
  | .bypass code => Sys2Proof.Machine.execBypass code s
  | .dataReturn t extra => Sys2Proof.Machine.execDataReturn t extra s
  | .neighbourTrainingDetected port => Sys2Proof.Machine.execNeighbourTrainingDetected port s

end Sys2Proof.Machine
end

