-- ==== Sys2Proof/WellFormed.lean ====
section
/-! DEFINITION. Which commands name an event of the device: the ranges of operands that their types do not bound. The
outside world sends no other command, and what `exec` answers for one is said in log 97. -/

namespace Sys2Proof

/-- Strap readings of `n` pins, four each (R53). -/
def readingsOk (n : Nat) (rss : List (List Nat)) : Bool := rss.length == n && rss.all (fun r => r.length == 4)

/-- A PCI Express link of one, two or four lanes at the first, second or third rate (R412). -/
def linkOk (width gen : BitVec 4) : Bool :=
  (width == 1 || width == 2 || width == 4) && decide (1 ≤ gen.toNat) && decide (gen.toNat ≤ 3)

/-- The operands of a command name something that exists. -/
def wellFormed : Instr → Bool
  | .streamTakeRequest port => decide (port.toNat < 6)
  | .streamPutRequest port => decide (1 ≤ port.toNat) && decide (port.toNat ≤ 4)
  | .sinkDiscard t _ => t == 0 || t == 7 || t == 56
  | .flitForward _ outPort _ => decide (outPort.toNat < 6)
  | .creditReturn _ port _ _ => decide (port.toNat < 4)
  | .ageIncrement _ port _ _ _ => decide (port.toNat < 6)
  | .ringParamsReadDone status data => status != .ok || data.length == 64
  | .bar0Write offset data _ => data != [] && decide (offset.toNat + data.length ≤ 0x10000)
  | .bar0Read offset len => len != 0 && decide (offset.toNat + len ≤ 0x10000)
  | .bar23Read _ len => len != 0 && decide (len ≤ 4096)
  | .bar23Write _ data _ => data != []
  | .hostLinkTrained width gen => linkOk width gen
  | .fieldStrapSamplingDone readings => readingsOk 10 readings
  | .strapSamplingDone readings => readingsOk 13 readings
  | .inputEdge ch _ => decide (ch.toNat < 24)
  | .wirebreakSet ch => decide (ch.toNat < 24)
  | .wirebreakClear ch => decide (ch.toNat < 24)
  | .bypass code => decide (3 ≤ code.toNat)
  | _ => true

end Sys2Proof
end

