-- ==== Sys2Proof/Safety.lean ====
section
/-! DEFINITION. The terms that statements use: when a strand can issue an instruction, what an instruction leaves
unchanged, and what the outcome of a command is. -/

namespace Sys2Proof.Machine

open Sys2Proof

/-- The command completes: it answers a next state. -/
def Completes (c : Instr) (s : State) : Prop := ∃ t, exec c s = .next t

/-- The command answers a next state that has a property. -/
def Yields (c : Instr) (s : State) (post : State → Prop) : Prop := ∃ t, exec c s = .next t ∧ post t

/-- The outcome is one that the spec calls unpredictable with reach R6; what it leaves is said by `wreck`. -/
def Unpredictable (c : Instr) (s : State) (rule : Nat) : Prop := exec c s = .fault (.unpredictable rule (wreck s))

/-- Every byte outside `n` bytes from address `a` reads the same in both memories. -/
def SameOutside (m m' : Mem) (a n : Nat) : Prop := ∀ x, (x < a ∨ a + n ≤ x) → readByte m' x = readByte m x

/-- Every byte reads the same in both memories. -/
def SameBytes (m m' : Mem) : Prop := ∀ x, readByte m' x = readByte m x

/-! ## Operands and results of integer instructions, as Table 05-4 words them -/

/-- The operand as an unsigned number: bits [31:0] with W32. -/
def usedNat (p : Pfx) (x : W64) : Nat := if p.w32 then (x.extractLsb' 0 32).toNat else x.toNat
/-- The operand as a signed number: bits [31:0] with W32. -/
def usedInt (p : Pfx) (x : W64) : Int := if p.w32 then (x.extractLsb' 0 32).toInt else x.toInt
/-- The operand as a word, zeros above bit 31 with W32. -/
def usedWord (p : Pfx) (x : W64) : W64 := if p.w32 then (x.extractLsb' 0 32).setWidth 64 else x
/-- The operand as a word, copies of bit 31 above it with W32. -/
def usedSigned (p : Pfx) (x : W64) : W64 := if p.w32 then (x.extractLsb' 0 32).signExtend 64 else x
/-- The operand rotated right within its width. -/
def rotated (p : Pfx) (x : W64) (n : Nat) : W64 :=
  if p.w32 then ((x.extractLsb' 0 32).rotateRight n).setWidth 64 else x.rotateRight n
/-- A shift amount: bits [5:0], with W32 bits [4:0]. -/
def shiftAmount (p : Pfx) (x : W64) : Nat := if p.w32 then (x.extractLsb' 0 5).toNat else (x.extractLsb' 0 6).toNat
/-- A result as it is written: with W32 its bits [31:0], above them zeros or, with SX, copies of bit 31. -/
def cut (p : Pfx) (x : W64) : W64 :=
  if p.w32 then (if p.sx then (x.extractLsb' 0 32).signExtend 64 else (x.extractLsb' 0 32).setWidth 64) else x
/-- The carry out of an unsigned sum: bit 64, or bit 32 with W32 (R216). -/
def carryOut (p : Pfx) (n : Nat) : Bool := if p.w32 then n.testBit 32 else n.testBit 64
/-- A flag as a word. -/
def bit64 (b : Bool) : W64 := if b then 1 else 0

/-! ## Instructions of a strand -/

/-- The strand of cell `c` can issue instruction `i`, whose prefixes are `p` and whose opcode fixes `k`: its cell runs, its
strand runs and is in the middle of no other instruction (R177), the bytes at its program address spell `i` (R179 to R183),
they end inside the instruction store (R184), no word of them holds a double-bit error (R340), and no floating-point result
is still owed to the register its condition tests (Table 05-10). -/
def CanIssue (s : State) (i : Instr) (c : CellId) (p : Pfx) (k : Enc) : Prop :=
  strandForm i = some (c, p, k) ∧ cellUp s c = true ∧ (engineAt s c).phase = .running ∧ (engineAt s c).mid = .free ∧
  (engineAt s c).offered = false ∧ fetchAt s c = ⟨.ins i none, insLen k p⟩ ∧
  (engineAt s c).regs.pc.toNat + insLen k p ≤ 0x4000 ∧
  istoreDouble (cellAt s c) (fetchWords (engineAt s c).regs.pc (insLen k p)) = false ∧
  fpHazard (engineAt s c) (ccRegs p) = false

/-- The instruction can issue, its condition holds (R183), and no floating-point result is still owed to a general
register of `uses`, those it reads or writes (Table 05-10). -/
def Executes (s : State) (i : Instr) (c : CellId) (p : Pfx) (k : Enc) (uses : List Reg) : Prop :=
  CanIssue s i c p k ∧ ccHolds p (engineAt s c).regs = true ∧ fpHazard (engineAt s c) uses = false

/-- The strand of cell `c` stands in instruction `i`, begun before: its cell and its strand run, and the bytes at its program
address, inside the store, spell `i`. The checks that an instruction begins with are not made again. -/
def Continues (s : State) (i : Instr) (c : CellId) (p : Pfx) (k : Enc) : Prop :=
  strandForm i = some (c, p, k) ∧ cellUp s c = true ∧ (engineAt s c).phase = .running ∧
  fetchAt s c = ⟨.ins i none, insLen k p⟩ ∧ (engineAt s c).regs.pc.toNat + insLen k p ≤ 0x4000

/-- `s` after the strand of cell `c` has completed an instruction with registers `r`, a product of its own, and the
next address `a`; single-bit errors in the words fetched are corrected (R340). -/
def afterTo (s : State) (c : CellId) (p : Pfx) (k : Enc) (r : Regs) (own : Option (BitVec 128)) (a : BitVec 15) :
    State := complete (fetched s c (insLen k p)) c r own a

/-- `afterTo` with the address of the byte after the instruction. -/
def after (s : State) (c : CellId) (p : Pfx) (k : Enc) (r : Regs) : State :=
  afterTo s c p k r none ((engineAt s c).regs.pc + BitVec.ofNat 15 (insLen k p))

/-- `t` is `s` but for the engine of cell `c`, for the error marks of its instruction store and for its count of
corrected errors: every other cell, memory, and every other part of the device are the same. -/
def OnlyStrand (s t : State) (c : CellId) : Prop :=
  t = { s with cells := t.cells } ∧ (∀ d, d ≠ c → cellAt t d = cellAt s d) ∧
  cellAt t c = { cellAt s c with engine := engineAt t c, istoreEcc := (cellAt t c).istoreEcc,
                                 corrected := (cellAt t c).corrected }

/-- The port of the tile of cell `c` accepts a flit of this network now, and the strand has none waiting there (R392). -/
def PortReady (s : State) (c : CellId) (vn : BitVec 2) : Prop :=
  portRoom s (tileOf c) false vn = true ∧ stillOffered s c = false

/-- The port of the tile of cell `c` can accept no flit of this network (R392). -/
def PortBusy (s : State) (c : CellId) (vn : BitVec 2) : Prop := canEnter s (tileOf c) false vn = false

/-- `s` after the strand of cell `c` has offered a message of its own to its local port. -/
def offered (s : State) (c : CellId) (m : Msg) : State := produce s (tileOf c) false (strandOffer s c m)

/-- `s` after the strand of cell `c` has completed an instruction that emitted a message: the flit has entered the local
port, and no register but the program address has changed. -/
def afterFlit (s : State) (c : CellId) (p : Pfx) (k : Enc) (m : Msg) : State :=
  complete (offered (fetched s c (insLen k p)) c m) c (regsAt s c) none
    ((engineAt s c).regs.pc + BitVec.ofNat 15 (insLen k p))

/-- `s` after one iteration of a REP instruction whose elements have `size` bytes (R188, R189): the flit has entered the
local port, BS and BD have advanced, BC has decreased; after the last iteration the strand goes on at the next
instruction. -/
def afterIteration (s : State) (c : CellId) (p : Pfx) (k : Enc) (size : Nat) (m : Msg) : State :=
  let s1 := offered (fetched s c (insLen k p)) c m
  let r := regsAt s c
  let r1 := { r with bs := r.bs + BitVec.ofNat 48 size, bd := r.bd + BitVec.ofNat 48 size, bc := r.bc - 1 }
  if r.bc = 1 then complete s1 c r1 none (r.pc + BitVec.ofNat 15 (insLen k p))
  else setEngine s1 c { engineAt s1 c with regs := commitProduct r1, mid := .rep, stall := 0 }

/-- `s` after the strand of cell `c` has offered a message that its port cannot accept yet, and stalls with a cause
(R177, R190, Table 05-10): only a pending product has been written. -/
def waiting (s : State) (c : CellId) (cause : BitVec 4) (m : Msg) : State :=
  let t := offered s c m
  setEngine t c { engineAt t c with regs := commitProduct (engineAt t c).regs, offered := true, stall := cause }

/-- `t` is `s` but for what an instruction that emits a flit may change: the engine of cell `c`, its instruction store's
error marks and its count, the weave, the free values drawn, and the error marks and counts of the descriptors read to steer
a flit (R308). No byte of memory is among them. -/
def OnlyFlit (s t : State) (c : CellId) : Prop :=
  t = { s with cells := t.cells, weave := t.weave, mem := t.mem, freeCounter := t.freeCounter } ∧
  t.mem = { s.mem with ecc := t.mem.ecc, banks := t.mem.banks } ∧ (∀ d, d ≠ c → cellAt t d = cellAt s d) ∧
  cellAt t c = { cellAt s c with engine := engineAt t c, istoreEcc := (cellAt t c).istoreEcc,
                                 corrected := (cellAt t c).corrected }

/-- The address in a register: its bits [47:0] (R224), with the low `n` bits taken as zero (R225). -/
def accessAddr (n : Nat) (x : W64) : Addr := (x.extractLsb' 0 48 >>> n) <<< n

/-- A width of a special register (Table 05-2) that WRSR writes; 0 where it writes none. -/
def srWidth (i : BitVec 8) : Nat :=
  let n := i.toNat
  if n = 0 ∨ n = 1 then 64 else if n = 2 then 1 else if n = 3 then 5 else if n = 4 then 20 else if n = 5 then 12
  else if 0x08 ≤ n ∧ n ≤ 0x0F then 14 else if 0x10 ≤ n ∧ n ≤ 0x13 then 32
  else if n = 0x14 ∨ n = 0x15 then 48 else if n = 0x16 then 32 else 0

/-- Loop level `j` is the highest-numbered active one (R186). -/
def TopLoop (r : Regs) (j : Fin 4) : Prop := r.lc[j] ≠ 0 ∧ ∀ i : Fin 4, j < i → r.lc[i] = 0

/-- Loop level `j` is the lowest-numbered inactive one (R185). -/
def FreeLoop (r : Regs) (j : Fin 4) : Prop := r.lc[j] = 0 ∧ ∀ i : Fin 4, i < j → r.lc[i] ≠ 0

/-! ## Requests to context 0 (R141, R142) -/

/-- The steward can take the request at the head of its inbox, which has this code, this ARG8 in CELL, this ARG64 as its
value and EXT 0, and is to be answered as `r` says. -/
def Asks (s : State) (code : BitVec 12) (cell : BitVec 8) (v : W64) (r : Req) : Prop :=
  stewardUp s = true ∧ s.pwr.steady = true ∧ r.code = code ∧ r.taken = s.stw.taken ∧
  ∃ t b rest, s.stw.inbox = (t, r.origin, b) :: rest ∧
    t.flow = code ∧ t.iaddr = 0 ∧ t.cell = cell ∧ t.value = v ∧ t.iteration = r.serial

/-- `s` after the request at the head of the inbox has been taken. -/
def asked (s : State) : State := { s with stw := { s.stw with inbox := s.stw.inbox.tail, taken := s.stw.taken + 1 } }

/-- The command answers the request `r` with this status and these words, and does nothing else; how an answer leaves,
RequestsThatReport says. -/
def OnlyAnswers (c : Instr) (s : State) (r : Req) (status : BitVec 8) (data : List W64) : Prop :=
  exec c s = .next (answer (asked s) r status data)

/-- No token waits refused at a cell, so a boundary has nothing to offer again (R325). -/
def NoneRefused (s : State) : Prop := ∀ d, (cellAt s d).refusing = []

/-! ## Groups of instructions -/

/-- The cell and the destination of an instruction that writes one general register and, for some, CF. -/
def registerForm : Instr → Option (CellId × Reg)
  | .mov c _ d _ | .add c _ d _ | .sub c _ d _ | .adc c _ d _ | .sbc c _ d _ | .andOp c _ d _ | .orOp c _ d _
  | .xor c _ d _ | .notOp c _ d _ | .neg c _ d _ | .shl c _ d _ | .shr c _ d _ | .sar c _ d _ | .ror c _ d _
  | .clz c _ d _ | .ctz c _ d _ | .popc c _ d _ | .shli c _ d _ _ | .shri c _ d _ _ | .sari c _ d _ _ | .rori c _ d _ _
  | .addi c _ d _ _ | .andi c _ d _ _ | .ori c _ d _ _ | .xori c _ d _ _ | .movi32 c _ d _ | .movi c _ d _
  | .cmpeq c _ d _ | .cmplt c _ d _ | .cmpltu c _ d _ | .min c _ d _ | .max c _ d _ | .minu c _ d _ | .maxu c _ d _
  | .sel c _ d _ _ | .bfx c _ d _ _ _ | .bfi c _ d _ _ _ | .bfxs c _ d _ _ _ | .rdsr c _ d _ | .beat c _ d
  | .fneg c _ d _ | .fabs c _ d _ => some (c, d)
  | _ => none

/-- The instructions that write CF (Tables 06-3 and 06-4). -/
def writesCarry : Instr → Bool
  | .add .. | .sub .. | .adc .. | .sbc .. | .addi .. => true
  | _ => false

end Sys2Proof.Machine
end

