-- ==== Sys2Proof/Certificates/Slice0/Obligations.lean ====
section
/-! DEFINITION. The statements for the provers: what the spec says the commands do, and what it leaves the device with. -/

open Sys2Proof Sys2Proof.Machine

/-- A step takes the command at the front of the queue and runs it with the rest; with no command waiting the block idles
(the model's choice, log 1). [01_one_machine.md] -/
def Obligations.StepRunsTheFrontCommand : Prop :=
  (∀ (c : Instr) (s : State), step { s with pending := c :: s.pending } = exec c s) ∧
  (∀ s : State, s.pending = [] → step s = .next s)

/-- After reset: no supply, enables low, voltage code 10, nothing powered, no image, memory empty and in its canonical form.
[14_power_and_energy.md, 15_first_second.md, 08_bank_memory.md] -/
def Obligations.ResetLeavesOff : Prop :=
  let s := State.reset
  s.pending = [] ∧ s.pwr.phase = .off ∧ s.pwr.pd = 0 ∧ s.pwr.enIo = false ∧ s.pwr.enCore = false ∧
  s.pwr.enPhy = false ∧ s.pwr.clkok = false ∧ s.pwr.steady = false ∧ s.pwr.vid = 10 ∧ s.pwr.running = 0 ∧
  s.time.begun = false ∧ s.time.beat = 0 ∧ s.stw.started = false ∧ s.stw.image = none ∧ Memory.wf s.mem = true ∧
  (∀ a, readByte s.mem a = 0) ∧ (∀ a, presAt s.mem a = presPlain) ∧ (∀ c, (engineAt s c).phase = .idle)

/-- Every step keeps the canonical form of memory. [08_bank_memory.md] -/
def Obligations.EveryStepKeepsMemoryCanonical : Prop :=
  ∀ s t : State, Memory.wf s.mem = true → step s = .next t → Memory.wf t.mem = true

/-- An instruction that bytes can spell is read back from its bytes, whatever follows them: its opcode, registers,
immediate, prefixes and length. [05_strands.md, 06_instruction_reference.md] -/
def Obligations.InstructionsReadBackFromTheirBytes : Prop :=
  ∀ (i : Instr) (c : CellId) (p : Pfx) (k : Enc) (rest : List Byte), strandForm i = some (c, p, k) → encodable i = true →
  ∃ bs, encodeIns i = some bs ∧ bs.length = insLen k p ∧ decodeIns c (bs ++ rest) = ⟨.ins i none, bs.length⟩

/-- What an unpredictable outcome leaves: the straps, the keys, the pins, the supplies, flash, the test port, the field die
with its outputs, the pattern last commanded, and the commands that wait; memory in its canonical form. RESET_N and the
silence timer act from it as from any other state. [00_scope.md, 17_faults_and_unpredictable.md] -/
def Obligations.UnpredictableLeaves : Prop :=
  ∀ (n : Nat) (s : State), let u := wreck s
  let p := s.pwr
  unpredictable n s = .fault (.unpredictable n u) ∧ u.straps = s.straps ∧ u.keys = s.keys ∧ u.fd = s.fd ∧
  fieldOn u.fd = fieldOn s.fd ∧ u.sel.c = s.sel.c ∧ u.sel.down = s.sel.down ∧ u.jtag = s.jtag ∧ u.pending = s.pending ∧
  u.mem.flash = s.mem.flash ∧ u.mem.flashSize = s.mem.flashSize ∧ Memory.wf u.mem = true ∧ u.pwr.phase = p.phase ∧
  u.pwr.pd = p.pd ∧ u.pwr.enIo = p.enIo ∧ u.pwr.enCore = p.enCore ∧ u.pwr.enPhy = p.enPhy ∧ u.pwr.resetN = p.resetN ∧
  u.pwr.tamperN = p.tamperN ∧ u.pwr.perstN = p.perstN ∧
  (p.phase ≠ .off → beforeStraps p = false → Yields .resetNAssert u fun t => t.pwr.phase = .held ∧ t.pwr.resetN = false ∧
    t.pwr.pd = p.pd &&& 0x401 ∧ t.pwr.enPhy = false ∧ t.straps = s.straps ∧ t.keys.device = s.keys.device ∧ t.cells = [] ∧
    t.mem.flash = s.mem.flash ∧ t.fd = { s.fd with good := t.fd.good }) ∧
  (p.phase = .held → p.enCore = false → p.enIo = false → p.tamperN = true → Yields .resetNRelease u fun t =>
    t.pwr.phase = .rails ∧ t.pwr.enIo = true ∧ t.pwr.wakeCause = 8 ∧ t.straps = s.straps) ∧
  (s.fd.state = .operate → Yields .silenceTimeout u fun t => t = { u with fd := t.fd } ∧ t.fd.state = .safe ∧
    t.fd.cause = 1 ∧ fieldOn t.fd = safePattern s.fd.safeWord s.fd.pairWord &&& ~~~s.fd.latched)

/-- ADD, SUB, ADC, SBC and ADDI: the sum or difference, and CF the carry or borrow of the unsigned operation. [R216]
-/
def Obligations.SumsAndDifferences : Prop :=
  ∀ (s : State) (c : CellId) (p : Pfx) (rd rs : Reg) (imm : BitVec 32),
  let r := regsAt s c
  let a := getG r rd
  let b := getG r rs
  let i : W64 := if p.sx then imm.signExtend 64 else imm.setWidth 64
  (Executes s (.add c p rd rs) c p encBWS [rd, rs] →
    exec (.add c p rd rs) s = .next (after s c p encBWS
      { setG r rd (cut p (a + b)) with cf := carryOut p (usedNat p a + usedNat p b) })) ∧
  (Executes s (.adc c p rd rs) c p encBWS [rd, rs] →
    exec (.adc c p rd rs) s = .next (after s c p encBWS
      { setG r rd (cut p (a + b + bit64 r.cf)) with cf := carryOut p (usedNat p a + usedNat p b + r.cf.toNat) })) ∧
  (Executes s (.sub c p rd rs) c p encBWS [rd, rs] →
    exec (.sub c p rd rs) s = .next (after s c p encBWS
      { setG r rd (cut p (a - b)) with cf := decide (usedNat p a < usedNat p b) })) ∧
  (Executes s (.sbc c p rd rs) c p encBWS [rd, rs] →
    exec (.sbc c p rd rs) s = .next (after s c p encBWS
      { setG r rd (cut p (a - b - bit64 r.cf)) with cf := decide (usedNat p a < usedNat p b + r.cf.toNat) })) ∧
  (Executes s (.addi c p rd rs imm) c p encEWS [rd, rs] →
    exec (.addi c p rd rs imm) s = .next (after s c p encEWS
      { setG r rd (cut p (b + i)) with cf := carryOut p (usedNat p b + usedNat p i) }))

/-- MOV, AND, OR, XOR, NOT, NEG and their immediate forms, MOVI32 and MOVI write rd and nothing else.
[06_instruction_reference.md] -/
def Obligations.MovesAndLogic : Prop :=
  ∀ (s : State) (c : CellId) (p : Pfx) (rd rs : Reg) (imm : BitVec 32) (big : W64),
  let r := regsAt s c
  let a := getG r rd
  let b := getG r rs
  let i : W64 := if p.sx then imm.signExtend 64 else imm.setWidth 64
  (Executes s (.mov c p rd rs) c p encBWS [rd, rs] →
    exec (.mov c p rd rs) s = .next (after s c p encBWS (setG r rd (cut p b)))) ∧
  (Executes s (.andOp c p rd rs) c p encBWS [rd, rs] →
    exec (.andOp c p rd rs) s = .next (after s c p encBWS (setG r rd (cut p (a &&& b))))) ∧
  (Executes s (.orOp c p rd rs) c p encBWS [rd, rs] →
    exec (.orOp c p rd rs) s = .next (after s c p encBWS (setG r rd (cut p (a ||| b))))) ∧
  (Executes s (.xor c p rd rs) c p encBWS [rd, rs] →
    exec (.xor c p rd rs) s = .next (after s c p encBWS (setG r rd (cut p (a ^^^ b))))) ∧
  (Executes s (.notOp c p rd rs) c p encBWS [rd, rs] →
    exec (.notOp c p rd rs) s = .next (after s c p encBWS (setG r rd (cut p (~~~ b))))) ∧
  (Executes s (.neg c p rd rs) c p encBWS [rd, rs] →
    exec (.neg c p rd rs) s = .next (after s c p encBWS (setG r rd (cut p (0 - b))))) ∧
  (Executes s (.andi c p rd rs imm) c p encEWS [rd, rs] →
    exec (.andi c p rd rs imm) s = .next (after s c p encEWS (setG r rd (cut p (b &&& i))))) ∧
  (Executes s (.ori c p rd rs imm) c p encEWS [rd, rs] →
    exec (.ori c p rd rs imm) s = .next (after s c p encEWS (setG r rd (cut p (b ||| i))))) ∧
  (Executes s (.xori c p rd rs imm) c p encEWS [rd, rs] →
    exec (.xori c p rd rs imm) s = .next (after s c p encEWS (setG r rd (cut p (b ^^^ i))))) ∧
  (Executes s (.movi32 c p rd imm) c p encEX [rd] →
    exec (.movi32 c p rd imm) s = .next (after s c p encEX (setG r rd i))) ∧
  (Executes s (.movi c p rd big) c p encF [rd] →
    exec (.movi c p rd big) s = .next (after s c p encF (setG r rd big)))

/-- Shifts and rotates: amounts modulo the width; the 32-bit operand with W32. [06_instruction_reference.md] -/
def Obligations.ShiftsAndRotates : Prop :=
  ∀ (s : State) (c : CellId) (p : Pfx) (rd rs : Reg) (imm : BitVec 6),
  let r := regsAt s c
  let a := getG r rd
  let b := getG r rs
  let n := shiftAmount p b
  let m := shiftAmount p (imm.setWidth 64)
  (Executes s (.shl c p rd rs) c p encBWS [rd, rs] →
    exec (.shl c p rd rs) s = .next (after s c p encBWS (setG r rd (cut p (usedWord p a <<< n))))) ∧
  (Executes s (.shr c p rd rs) c p encBWS [rd, rs] →
    exec (.shr c p rd rs) s = .next (after s c p encBWS (setG r rd (cut p (usedWord p a >>> n))))) ∧
  (Executes s (.sar c p rd rs) c p encBWS [rd, rs] →
    exec (.sar c p rd rs) s = .next (after s c p encBWS (setG r rd (cut p ((usedSigned p a).sshiftRight n))))) ∧
  (Executes s (.ror c p rd rs) c p encBWS [rd, rs] →
    exec (.ror c p rd rs) s = .next (after s c p encBWS (setG r rd (cut p (rotated p a n))))) ∧
  (Executes s (.shli c p rd rs imm) c p encCWS [rd, rs] →
    exec (.shli c p rd rs imm) s = .next (after s c p encCWS (setG r rd (cut p (usedWord p b <<< m))))) ∧
  (Executes s (.shri c p rd rs imm) c p encCWS [rd, rs] →
    exec (.shri c p rd rs imm) s = .next (after s c p encCWS (setG r rd (cut p (usedWord p b >>> m))))) ∧
  (Executes s (.sari c p rd rs imm) c p encCWS [rd, rs] →
    exec (.sari c p rd rs imm) s = .next (after s c p encCWS (setG r rd (cut p ((usedSigned p b).sshiftRight m))))) ∧
  (Executes s (.rori c p rd rs imm) c p encCWS [rd, rs] →
    exec (.rori c p rd rs imm) s = .next (after s c p encCWS (setG r rd (cut p (rotated p b m)))))

/-- CLZ, CTZ and POPC count within 64 bits, or within 32 with W32; a zero operand counts the whole width.
[06_instruction_reference.md] -/
def Obligations.CountsOfBits : Prop :=
  ∀ (s : State) (c : CellId) (p : Pfx) (rd rs : Reg),
  let r := regsAt s c
  let b := usedWord p (getG r rs)
  let w := if p.w32 then 32 else 64
  (Executes s (.clz c p rd rs) c p encBW [rd, rs] →
    ∃ v : Nat, exec (.clz c p rd rs) s = .next (after s c p encBW (setG r rd (BitVec.ofNat 64 v))) ∧
      (b = 0 → v = w) ∧
      (b ≠ 0 → v < w ∧ b.getLsbD (w - 1 - v) = true ∧ ∀ j, w - 1 - v < j → b.getLsbD j = false)) ∧
  (Executes s (.ctz c p rd rs) c p encBW [rd, rs] →
    ∃ v : Nat, exec (.ctz c p rd rs) s = .next (after s c p encBW (setG r rd (BitVec.ofNat 64 v))) ∧
      (b = 0 → v = w) ∧
      (b ≠ 0 → v < w ∧ b.getLsbD v = true ∧ ∀ j, j < v → b.getLsbD j = false)) ∧
  (Executes s (.popc c p rd rs) c p encBW [rd, rs] →
    exec (.popc c p rd rs) s = .next (after s c p encBW
      (setG r rd (BitVec.ofNat 64 ((List.range w).countP (fun j => b.getLsbD j))))))

/-- Compares write 1 or 0 to all 64 bits of rd; MIN, MAX, MINU, MAXU and SEL choose an operand.
[06_instruction_reference.md] -/
def Obligations.CompareAndSelect : Prop :=
  ∀ (s : State) (c : CellId) (p : Pfx) (rd rs rt : Reg),
  let r := regsAt s c
  let a := getG r rd
  let b := getG r rs
  let lt : Prop := usedInt p a < usedInt p b
  let gt : Prop := usedInt p b < usedInt p a
  let ltu : Prop := usedNat p a < usedNat p b
  let gtu : Prop := usedNat p b < usedNat p a
  (Executes s (.cmpeq c p rd rs) c p encBW [rd, rs] →
    exec (.cmpeq c p rd rs) s = .next (after s c p encBW (setG r rd (if usedNat p a = usedNat p b then 1 else 0)))) ∧
  (Executes s (.cmplt c p rd rs) c p encBW [rd, rs] →
    exec (.cmplt c p rd rs) s = .next (after s c p encBW (setG r rd (if lt then 1 else 0)))) ∧
  (Executes s (.cmpltu c p rd rs) c p encBW [rd, rs] →
    exec (.cmpltu c p rd rs) s = .next (after s c p encBW (setG r rd (if ltu then 1 else 0)))) ∧
  (Executes s (.min c p rd rs) c p encBWS [rd, rs] →
    exec (.min c p rd rs) s = .next (after s c p encBWS (setG r rd (cut p (if gt then b else a))))) ∧
  (Executes s (.max c p rd rs) c p encBWS [rd, rs] →
    exec (.max c p rd rs) s = .next (after s c p encBWS (setG r rd (cut p (if lt then b else a))))) ∧
  (Executes s (.minu c p rd rs) c p encBWS [rd, rs] →
    exec (.minu c p rd rs) s = .next (after s c p encBWS (setG r rd (cut p (if gtu then b else a))))) ∧
  (Executes s (.maxu c p rd rs) c p encBWS [rd, rs] →
    exec (.maxu c p rd rs) s = .next (after s c p encBWS (setG r rd (cut p (if ltu then b else a))))) ∧
  (Executes s (.sel c p rd rs rt) c p encC [rd, rs, rt] →
    exec (.sel c p rd rs rt) s =
      .next (after s c p encC (if (getG r rt).getLsbD 0 then setG r rd b else r)))

/-- BFX, BFXS and BFI act on bits lsb + w - 1 to lsb, truncated at bit 63. [R222] -/
def Obligations.BitFields : Prop :=
  ∀ (s : State) (c : CellId) (p : Pfx) (rd rs : Reg) (lsb wm1 : BitVec 6),
  let r := regsAt s c
  let b := getG r rs
  let top := Nat.min 63 (lsb.toNat + wm1.toNat)
  (Executes s (.bfx c p rd rs lsb wm1) c p encD [rd, rs] →
    ∃ v : W64, exec (.bfx c p rd rs lsb wm1) s = .next (after s c p encD (setG r rd v)) ∧
      ∀ j < 64, v.getLsbD j = (decide (lsb.toNat + j ≤ top) && b.getLsbD (lsb.toNat + j))) ∧
  (Executes s (.bfxs c p rd rs lsb wm1) c p encD [rd, rs] →
    ∃ v : W64, exec (.bfxs c p rd rs lsb wm1) s = .next (after s c p encD (setG r rd v)) ∧
      ∀ j < 64, v.getLsbD j = (if lsb.toNat + j ≤ top then b.getLsbD (lsb.toNat + j) else b.getLsbD top)) ∧
  (Executes s (.bfi c p rd rs lsb wm1) c p encD [rd, rs] →
    ∃ v : W64, exec (.bfi c p rd rs lsb wm1) s = .next (after s c p encD (setG r rd v)) ∧
      ∀ j < 64, v.getLsbD j = (if lsb.toNat ≤ j ∧ j ≤ top then b.getLsbD (j - lsb.toNat) else (getG r rd).getLsbD j))

/-- MUL, MULS and MULSU form the 128-bit product of their operands, 32-bit operands with W32. [R218] -/
def Obligations.ProductsArePending : Prop :=
  ∀ (s : State) (c : CellId) (p : Pfx) (rd rs : Reg),
  let r := regsAt s c
  let a := getG r rd
  let b := getG r rs
  let next := r.pc + BitVec.ofNat 15 (insLen encBW p)
  let uu : BitVec 128 := BitVec.ofNat 128 (usedNat p a * usedNat p b)
  let ss : BitVec 128 := BitVec.ofInt 128 (usedInt p a * usedInt p b)
  let su : BitVec 128 := BitVec.ofInt 128 (usedInt p a * (usedNat p b : Int))
  (Executes s (.mul c p rd rs) c p encBW [rd, rs] →
    exec (.mul c p rd rs) s = .next (afterTo s c p encBW r (some uu) next)) ∧
  (Executes s (.muls c p rd rs) c p encBW [rd, rs] →
    exec (.muls c p rd rs) s = .next (afterTo s c p encBW r (some ss) next)) ∧
  (Executes s (.mulsu c p rd rs) c p encBW [rd, rs] →
    exec (.mulsu c p rd rs) s = .next (afterTo s c p encBW r (some su) next)) ∧
  (p.w32 = true → uu.extractLsb' 64 64 = 0 ∧
      (∀ j < 64, (ss.extractLsb' 64 64).getLsbD j = (ss.extractLsb' 0 64).getLsbD 63) ∧
      (∀ j < 64, (su.extractLsb' 64 64).getLsbD j = (su.extractLsb' 0 64).getLsbD 63)) ∧
  (∀ m : BitVec 128, cellUp s c = true → (engineAt s c).phase = .running → r.pend = some m →
    Yields (.productWrite c) s fun t =>
      regsAt t c = { r with pl := m.extractLsb' 0 64, ph := m.extractLsb' 64 64, pend := none } ∧ OnlyStrand s t c)

/-- DIVU and DIVS give the results of Table 06-6, of 32 bits with W32; DIVIDE_COMPLETE writes them to PL and PH.
[R219] -/
def Obligations.Divisions : Prop :=
  ∀ (s : State) (c : CellId) (p : Pfx) (rd rs : Reg),
  let r := regsAt s c
  let a := getG r rd
  let b := getG r rs
  let next := r.pc + BitVec.ofNat 15 (insLen encBWS p)
  let low : Int := if p.w32 then -(2 ^ 31) else -(2 ^ 63)
  (Executes s (.divu c p rd rs) c p encBWS [rd, rs] →
    (∃ q m : W64, (Yields (.divu c p rd rs) s fun t => OnlyStrand s t c ∧
        engineAt t c = { engineAt s c with phase := .dividing q m next, regs := commitProduct r, stall := 0 }) ∧
      (usedNat p b = 0 → q = cut p (BitVec.allOnes 64) ∧ m = cut p a) ∧
      (usedNat p b ≠ 0 → q = cut p (BitVec.ofNat 64 (usedNat p a / usedNat p b)) ∧
        m = cut p (BitVec.ofNat 64 (usedNat p a - usedNat p a / usedNat p b * usedNat p b))))) ∧
  (Executes s (.divs c p rd rs) c p encBWS [rd, rs] →
    (∃ q m : W64, (Yields (.divs c p rd rs) s fun t => OnlyStrand s t c ∧
        engineAt t c = { engineAt s c with phase := .dividing q m next, regs := commitProduct r, stall := 0 }) ∧
      (usedInt p b = 0 → q = cut p (BitVec.allOnes 64) ∧ m = cut p a) ∧
      (usedInt p a = low → usedInt p b = -1 → q = cut p (BitVec.ofInt 64 low) ∧ m = 0) ∧
      (usedInt p b ≠ 0 → ¬ (usedInt p a = low ∧ usedInt p b = -1) → ∃ x y : Int,
        q = cut p (BitVec.ofInt 64 x) ∧ m = cut p (BitVec.ofInt 64 y) ∧ usedInt p a = x * usedInt p b + y ∧
        y.natAbs < (usedInt p b).natAbs ∧ (y = 0 ∨ y.sign = (usedInt p a).sign)))) ∧
  (∀ q m a', cellUp s c = true → (engineAt s c).phase = .dividing q m a' →
    Yields (.divideComplete c) s fun t => OnlyStrand s t c ∧ (engineAt t c).phase = .running ∧
      regsAt t c = retire { r with pl := q, ph := m } none a')

/-- An instruction whose condition fails writes no register, emits nothing, traps and stalls on nothing but the register
that the condition tests. [05_strands.md] -/
def Obligations.ConditionFalseOnlyAdvances : Prop :=
  (∀ (s : State) (i : Instr) (c : CellId) (p : Pfx) (k : Enc), CanIssue s i c p k → ccHolds p (regsAt s c) = false →
    exec i s = .next (after s c p k (regsAt s c))) ∧
  (∀ (s : State) (i : Instr) (c : CellId) (p : Pfx) (k : Enc), Continues s i c p k → (engineAt s c).mid = .free →
    (engineAt s c).offered = false →
    istoreDouble (cellAt s c) (fetchWords (regsAt s c).pc (insLen k p)) = false →
    fpHazard (engineAt s c) (ccRegs p) = true →
    exec i s = .next (stalled (fetched s c (insLen k p)) c 6))

/-- The seven conditions of Table 05-6, on 64 bits or, with W32, on bits 31 to 0. [05_strands.md] -/
def Obligations.ConditionCodes : Prop :=
  ∀ (p : Pfx) (r : Regs) (reg : Reg),
  let at' := fun (cond : BitVec 3) => ccHolds { p with cc := some (cond, reg) } r
  (p.cc = none → ccHolds p r = true) ∧
  (at' 0 = true ↔ usedNat p (getG r reg) = 0) ∧ (at' 1 = true ↔ usedNat p (getG r reg) ≠ 0) ∧
  (at' 2 = true ↔ usedInt p (getG r reg) < 0) ∧ (at' 3 = true ↔ 0 ≤ usedInt p (getG r reg)) ∧
  (at' 4 = true ↔ r.cf = true) ∧ (at' 5 = true ↔ r.cf = false) ∧ (at' 6 = true ↔ usedNat p (getG r reg) % 2 = 1)

/-- What the bytes at the program address spell decides: reserved encodings, operands that break a rule, and code past the
store are unpredictable. [05_strands.md, 06_instruction_reference.md, 17_faults_and_unpredictable.md] -/
def Obligations.IllegalFormsAreUnpredictable : Prop :=
  (∀ (s : State) (i : Instr) (c : CellId) (p : Pfx) (k : Enc), strandForm i = some (c, p, k) →
    cellUp s c = true → (engineAt s c).phase = .running → (engineAt s c).mid = .free → (engineAt s c).offered = false →
    let f := fetchAt s c
    let past := 0x4000 < (regsAt s c).pc.toNat + f.len
    let double := istoreDouble (cellAt s c) (fetchWords (regsAt s c).pc f.len) = true
    (past → Unpredictable i s 184) ∧
    (¬ past → ¬ double → ∀ n, f.what = .reserved n → Unpredictable i s n) ∧
    (¬ past → ¬ double → ∀ j slack, f.what = .ins j slack → j ≠ i → exec i s = .refused .otherInstruction) ∧
    (¬ past → ¬ double → ∀ n, f = ⟨.ins i (some n), insLen k p⟩ → fpHazard (engineAt s c) (ccRegs p) = false →
      ccHolds p (regsAt s c) = true → (engineAt s c).fpOut = [] → Unpredictable i s n)) ∧
  (∀ (c : CellId) (op : Byte) (r : List Byte), op.toNat < 0xF0 →
    (∀ b : Byte, 0xF7 ≤ b.toNat → (decodeIns c (b :: r)).what = .reserved 179) ∧
    (∀ a b d e : Byte, a.toNat ≠ 0xF4 → b.toNat ≠ 0xF4 → d.toNat ≠ 0xF4 → 0xF0 ≤ a.toNat → 0xF0 ≤ b.toNat →
      0xF0 ≤ d.toNat → 0xF0 ≤ e.toNat → ∃ n ∈ [179, 180], (decodeIns c (a :: b :: d :: e :: r)).what = .reserved n) ∧
    (∀ b ∈ ([0xF0, 0xF1, 0xF2, 0xF3, 0xF5, 0xF6] : List Byte), (decodeIns c (b :: b :: r)).what = .reserved 180) ∧
    (decodeIns c (0xF1 :: 0xF2 :: op :: r)).what = .reserved (if (rowOf op).isSome then 180 else 181) ∧
    (∀ b : Byte, b.getLsbD 7 = true ∨ b.extractLsb' 4 3 = 7 ∨
      ((b.extractLsb' 4 3 = 4 ∨ b.extractLsb' 4 3 = 5) ∧ b.extractLsb' 0 4 ≠ 0) →
      (decodeIns c (0xF4 :: b :: r)).what = .reserved 183) ∧
    ((rowOf op).isNone = true → (decodeIns c (op :: r)).what = .reserved 181) ∧
    (∀ row, rowOf op = some row → (row.enc.w = false → (decodeIns c (0xF0 :: op :: r)).what = .reserved 180) ∧
      (row.enc.f = false → (decodeIns c (0xF1 :: op :: r)).what = .reserved 180 ∧
        (decodeIns c (0xF2 :: op :: r)).what = .reserved 180) ∧
      (row.enc.r = false → (decodeIns c (0xF3 :: op :: r)).what = .reserved 180) ∧
      (row.enc.x = false → (decodeIns c (0xF5 :: op :: r)).what = .reserved 180) ∧
      (row.enc.t = false → (decodeIns c (0xF6 :: op :: r)).what = .reserved 180))) ∧
  (∀ (s : State) (c : CellId) (p : Pfx) (rd rs rt : Reg) (n : BitVec 8) (kc : BitVec 4),
    (Executes s (.put c p n rs) c p encC [rs] → n.toNat = 0 ∨ 5 ≤ n.toNat → Unpredictable (.put c p n rs) s 147) ∧
    (Executes s (.take c p rd n) c p encC [rd] → 6 ≤ n.toNat → Unpredictable (.take c p rd n) s 147) ∧
    (Executes s (.tli c p rd rs rt kc) c p encC [rd, rs, rt] → 9 ≤ kc.toNat →
      Unpredictable (.tli c p rd rs rt kc) s 246) ∧
    (Executes s (.tlif c p rd rs rt kc) c p encCT [rd, rs, rt] → 9 ≤ kc.toNat →
      Unpredictable (.tlif c p rd rs rt kc) s 246))

/-- The end of an instruction changes its own strand and nothing else, and its registers as it says. [05_strands.md]
-/
def Obligations.InstructionEndsFrame : Prop :=
  ∀ (s : State) (c : CellId) (p : Pfx) (k : Enc) (r : Regs) (own : Option (BitVec 128)) (a : BitVec 15),
  let t := afterTo s c p k r own a
  let x := regsAt t c
  OnlyStrand s t c ∧ SameBytes s.mem t.mem ∧
  engineAt t c = { engineAt s c with regs := x, mid := .free, offered := false, stall := 0 } ∧
  x = { r with pc := x.pc, lc := x.lc, pend := own, pl := (commitProduct r).pl, ph := (commitProduct r).ph } ∧
  (∀ m, r.pend = some m → x.pl = m.extractLsb' 0 64 ∧ x.ph = m.extractLsb' 64 64) ∧
  (r.pend = none → x.pl = r.pl ∧ x.ph = r.ph)

/-- The loop check of R186 after every instruction. [R186] -/
def Obligations.LoopCheck : Prop :=
  (∀ (r : Regs) (own : Option (BitVec 128)) (a : BitVec 15),
    ((∀ i : Fin 4, r.lc[i] = 0) → retire r own a = { commitProduct r with pend := own, pc := a }) ∧
    ∀ j : Fin 4, TopLoop r j →
      (a ≠ r.le[j].setWidth 15 → retire r own a = { commitProduct r with pend := own, pc := a }) ∧
      (a = r.le[j].setWidth 15 → r.ls[j].setWidth 15 = a →
        retire r own a = retire { r with lc := r.lc.set j 0 } own a) ∧
      (a = r.le[j].setWidth 15 → r.ls[j].setWidth 15 ≠ a → 1 < r.lc[j].toNat →
        retire r own a = { commitProduct r with pend := own, pc := r.ls[j].setWidth 15,
                                                lc := r.lc.set j (r.lc[j] - 1) }) ∧
      (a = r.le[j].setWidth 15 → r.ls[j].setWidth 15 ≠ a → r.lc[j].toNat = 1 →
        retire r own a = retire { r with lc := r.lc.set j 0 } own a)) ∧
  (∀ (s : State) (c : CellId) (p : Pfx) (k : Enc) (r : Regs) (own : Option (BitVec 128)) (a : BitVec 15),
    regsAt (afterTo s c p k r own a) c = retire r own a) ∧
  (∀ (s : State) (i : Instr) (c : CellId) (p : Pfx) (k : Enc), CanIssue s i c p k → ccHolds p (regsAt s c) = false →
    Yields i s fun t => regsAt t c = retire (regsAt s c) none ((regsAt s c).pc + BitVec.ofNat 15 (insLen k p))) ∧
  (∀ (s : State) (c : CellId) (p : Pfx) (k : Enc) (size : Nat) (m : Msg), (regsAt s c).bc = 1 →
    regsAt (afterIteration s c p k size m) c =
      retire { regsAt s c with bs := (regsAt s c).bs + BitVec.ofNat 48 size,
                               bd := (regsAt s c).bd + BitVec.ofNat 48 size, bc := 0 } none
        ((regsAt s c).pc + BitVec.ofNat 15 (insLen k p)))

/-- What the register-writing instructions leave unchanged on every path to a next state. [05_strands.md,
06_instruction_reference.md] -/
def Obligations.RegisterInstructionsFrame : Prop :=
  ∀ (s t : State) (i : Instr) (c : CellId) (d : Reg), registerForm i = some (c, d) →
  (∀ w, mget Ecc.ok (cellAt s c).istoreEcc w ≠ .double) → exec i s = .next t →
  let r := regsAt s c
  let x := regsAt t c
  OnlyStrand s t c ∧ SameBytes s.mem t.mem ∧ (∀ j, j ≠ d → getG x j = getG r j) ∧
  (writesCarry i = false → x.cf = r.cf) ∧ x.fs = r.fs ∧ x.dl = r.dl ∧ x.fl = r.fl ∧ x.ls = r.ls ∧ x.le = r.le ∧
  x.bs = r.bs ∧ x.bd = r.bd ∧ x.bc = r.bc ∧ x.tag0 = r.tag0 ∧ x.tag1 = r.tag1 ∧ x.tag2 = r.tag2 ∧ x.tag3 = r.tag3 ∧
  x.pl = (commitProduct r).pl ∧ x.ph = (commitProduct r).ph

/-- RDSR, WRSR and BEAT: a write takes effect within its width, TAG and FEAT registers keep their contents. [R173]
-/
def Obligations.SpecialRegisters : Prop :=
  ∀ (s : State) (c : CellId) (p : Pfx) (rd rs : Reg) (idx : BitVec 8),
  let r := regsAt s c
  let v := getG r rs
  let x := s.straps
  (Executes s (.wrsr c p idx rs) c p encC [rs] → srReserved idx = false → ∃ r1 : Regs,
    exec (.wrsr c p idx rs) s = .next (after s c p encC r1) ∧ r1.g = r.g ∧ r1.pc = r.pc ∧ r1.pend = r.pend ∧
    (∀ j, srReserved j = false → j ≠ idx → readSr x r1 j = readSr x r j) ∧
    (0 < srWidth idx → readSr x r1 idx = (v.extractLsb' 0 (srWidth idx)).setWidth 64) ∧
    (0x18 ≤ idx.toNat → r1 = r)) ∧
  (Executes s (.wrsr c p idx rs) c p encC [rs] → srReserved idx = true → Unpredictable (.wrsr c p idx rs) s 172) ∧
  (Executes s (.rdsr c p rd idx) c p encC [rd] → srReserved idx = true → Unpredictable (.rdsr c p rd idx) s 172) ∧
  (Executes s (.rdsr c p rd 3) c p encC [rd] → (engineAt s c).fpOut ≠ [] →
    exec (.rdsr c p rd 3) s = .next (stalled (fetched s c (insLen encC p)) c 7)) ∧
  (Executes s (.rdsr c p rd idx) c p encC [rd] →
    srReserved idx = false → (idx = 3 → (engineAt s c).fpOut = []) →
    exec (.rdsr c p rd idx) s = .next (after s c p encC (setG r rd (readSr x r idx)))) ∧
  (Executes s (.beat c p rd) c p encB [rd] →
    exec (.beat c p rd) s = .next (after s c p encB (setG r rd (s.time.beat.setWidth 64)))) ∧
  (readSr x r 0x00 = r.pl ∧ readSr x r 0x01 = r.ph ∧ readSr x r 0x02 = bit64 r.cf ∧ readSr x r 0x03 = r.fs.setWidth 64 ∧
    readSr x r 0x04 = r.dl.setWidth 64 ∧ readSr x r 0x05 = r.fl.setWidth 64 ∧ readSr x r 0x14 = r.bs.setWidth 64 ∧
    readSr x r 0x15 = r.bd.setWidth 64 ∧ readSr x r 0x16 = r.bc.setWidth 64 ∧ readSr x r 0x18 = r.tag0 ∧
    readSr x r 0x19 = r.tag1 ∧ readSr x r 0x1A = r.tag2 ∧ readSr x r 0x1B = r.tag3) ∧
  (∀ i : Fin 4, readSr x r (BitVec.ofNat 8 (0x08 + i)) = r.ls[i].setWidth 64 ∧
    readSr x r (BitVec.ofNat 8 (0x0C + i)) = r.le[i].setWidth 64 ∧
    readSr x r (BitVec.ofNat 8 (0x10 + i)) = r.lc[i].setWidth 64)

/-- NOP, JR, BR, LBRK and LOOP: where the strand goes on, and which loop level is set. [R185] -/
def Obligations.BranchesAndLoops : Prop :=
  ∀ (s : State) (c : CellId) (p : Pfx) (rs : Reg) (a : BitVec 14) (n : BitVec 16),
  let r := regsAt s c
  (Executes s (.nop c p) c p encA [] →
    exec (.nop c p) s = .next (after s c p encA r)) ∧
  (Executes s (.lbrk c p) c p encA [] →
    ∀ j, TopLoop r j → exec (.lbrk c p) s = .next (after s c p encA { r with lc := r.lc.set j 0 })) ∧
  (Executes s (.lbrk c p) c p encA [] →
    (∀ i : Fin 4, r.lc[i] = 0) → exec (.lbrk c p) s = .next (after s c p encA r)) ∧
  (Executes s (.jr c p rs) c p encB [rs] →
    exec (.jr c p rs) s = .next (afterTo s c p encB r none (((getG r rs).extractLsb' 0 14).setWidth 15))) ∧
  (Executes s (.br c p a) c p encD [] →
    exec (.br c p a) s = .next (afterTo s c p encD r none (a.setWidth 15))) ∧
  (Executes s (.loop c p rs a) c p encD [rs] →
    let count := (getG r rs).extractLsb' 0 32
    let next := r.pc + BitVec.ofNat 15 (insLen encD p)
    (count = 0 → exec (.loop c p rs a) s = .next (afterTo s c p encD r none (a.setWidth 15))) ∧
    (∀ j, count ≠ 0 → FreeLoop r j → exec (.loop c p rs a) s = .next (afterTo s c p encD
      { r with ls := r.ls.set j (next.setWidth 14), le := r.le.set j a, lc := r.lc.set j count } none next)) ∧
    (count ≠ 0 → (∀ i : Fin 4, r.lc[i] ≠ 0) → Unpredictable (.loop c p rs a) s 185)) ∧
  (Executes s (.loopi c p n a) c p encE [] →
    let next := r.pc + BitVec.ofNat 15 (insLen encE p)
    (n = 0 → exec (.loopi c p n a) s = .next (afterTo s c p encE r none (a.setWidth 15))) ∧
    (∀ j, n ≠ 0 → FreeLoop r j → exec (.loopi c p n a) s = .next (afterTo s c p encE
      { r with ls := r.ls.set j (next.setWidth 14), le := r.le.set j a, lc := r.lc.set j (n.setWidth 32) } none next)) ∧
    (n ≠ 0 → (∀ i : Fin 4, r.lc[i] ≠ 0) → Unpredictable (.loopi c p n a) s 185))

/-- Loads, ILOAD, TAKE and PUT send one request with the aligned address and go on. [06_instruction_reference.md,
08_bank_memory.md] -/
def Obligations.LoadsAndStreamRequests : Prop :=
  ∀ (s : State) (c : CellId) (p : Pfx) (rd rs : Reg) (port : BitVec 8),
  let r := regsAt s c
  let a := fun (n : Nat) => accessAddr n (getG r rs)
  let reply := fun (n : BitVec 2) => (⟨getG r rd, r.dl, r.fl, n, p.sx⟩ : LoadReq)
  let tagGood := (getG r rd).extractLsb' 0 10 = 0
  (Executes s (.ld c p rd rs) c p encB [rd, rs] → PortReady s c 1 → tagGood → rangeOf (a 0) ≠ .none →
    exec (.ld c p rd rs) s = .next (afterFlit s c p encB (.read (a 3) (.load (reply 3)) r.tag0))) ∧
  (Executes s (.iload c p rd rs) c p encB [rd, rs] → PortReady s c 1 → tagGood → rangeOf (a 0) ≠ .none →
    exec (.iload c p rd rs) s =
      .next (afterFlit s c p encB (.iread ⟨a 3, getG r rd, r.dl, r.fl, 0, c, none, r.tag0⟩))) ∧
  (Executes s (.ldw c p rd rs) c p encBX [rd, rs] → PortReady s c 1 → tagGood → rangeOf (a 0) ≠ .none →
    exec (.ldw c p rd rs) s = .next (afterFlit s c p encBX (.read (a 2) (.load (reply 2)) r.tag0))) ∧
  (Executes s (.ldh c p rd rs) c p encBX [rd, rs] → PortReady s c 1 → tagGood → rangeOf (a 0) ≠ .none →
    exec (.ldh c p rd rs) s = .next (afterFlit s c p encBX (.read (a 1) (.load (reply 1)) r.tag0))) ∧
  (Executes s (.ldb c p rd rs) c p encBX [rd, rs] → PortReady s c 1 → tagGood → rangeOf (a 0) ≠ .none →
    exec (.ldb c p rd rs) s = .next (afterFlit s c p encBX (.read (a 0) (.load (reply 0)) r.tag0))) ∧
  (Executes s (.take c p rd port) c p encC [rd] → PortReady s c 1 → tagGood → port.toNat < 6 →
    exec (.take c p rd port) s = .next (afterFlit s c p encC (.take port (getG r rd) r.dl r.fl))) ∧
  (Executes s (.put c p port rs) c p encC [rs] → PortReady s c 1 → 1 ≤ port.toNat → port.toNat ≤ 4 →
    exec (.put c p port rs) s = .next (afterFlit s c p encC (.put port (getG r rs)))) ∧
  (∀ i k, (i = Instr.ld c p rd rs ∨ i = .iload c p rd rs ∨ i = .ldw c p rd rs ∨ i = .ldh c p rd rs ∨ i = .ldb c p rd rs) →
    Executes s i c p k [rd, rs] →
    (¬ tagGood → Unpredictable i s 23) ∧ (tagGood → rangeOf (a 0) = .none → Unpredictable i s 298))

/-- Stores without REP write rs at the aligned address in rd; ISTORE, ICLEAR and BMOV send their request.
[06_instruction_reference.md, 08_bank_memory.md] -/
def Obligations.StoresOnce : Prop :=
  ∀ (s : State) (c : CellId) (p : Pfx) (rd rs : Reg),
  let r := regsAt s c
  let dst := fun (n : Nat) => accessAddr n (getG r rd)
  let src := fun (n : Nat) => accessAddr n (getG r rs)
  let store := fun (n : Nat) => Msg.write (dst n) (BitVec.ofNat 8 (2 ^ 2 ^ n - 1) <<< ((dst n).toNat % 8))
    (getG r rs <<< (8 * ((dst n).toNat % 8))) .store r.tag0
  p.rep = false →
  (PortReady s c 1 → rangeOf (dst 0) ≠ .none →
    (Executes s (.st c p rd rs) c p encBR [rd, rs] →
      exec (.st c p rd rs) s = .next (afterFlit s c p encBR (store 3))) ∧
    (Executes s (.stw c p rd rs) c p encBR [rd, rs] →
      exec (.stw c p rd rs) s = .next (afterFlit s c p encBR (store 2))) ∧
    (Executes s (.sth c p rd rs) c p encBR [rd, rs] →
      exec (.sth c p rd rs) s = .next (afterFlit s c p encBR (store 1))) ∧
    (Executes s (.stb c p rd rs) c p encBR [rd, rs] →
      exec (.stb c p rd rs) s = .next (afterFlit s c p encBR (store 0))) ∧
    (Executes s (.istore c p rd rs) c p encBR [rd, rs] →
      exec (.istore c p rd rs) s = .next (afterFlit s c p encBR (.iwrite (dst 3) (getG r rs) none r.tag0))) ∧
    (Executes s (.iclear c p rd) c p encBR [rd] →
      exec (.iclear c p rd) s = .next (afterFlit s c p encBR (.iclear (dst 3) r.tag0))) ∧
    (Executes s (.bmov c p rd rs) c p encBR [rd, rs] → rangeOf (src 0) ≠ .none →
      exec (.bmov c p rd rs) s = .next (afterFlit s c p encBR (.read (src 3) (.bmov (dst 3)) r.tag0)))) ∧
  (rangeOf (dst 0) = .none →
    (∀ i ∈ [Instr.st c p rd rs, .stw c p rd rs, .sth c p rd rs, .stb c p rd rs, .istore c p rd rs, .bmov c p rd rs],
      Executes s i c p encBR [rd, rs] → Unpredictable i s 298) ∧
    (Executes s (.iclear c p rd) c p encBR [rd] → Unpredictable (.iclear c p rd) s 298)) ∧
  (rangeOf (src 0) = .none → Executes s (.bmov c p rd rs) c p encBR [rd, rs] → Unpredictable (.bmov c p rd rs) s 298)

/-- Under REP each command is one iteration at BD (BMOV from BS), the first and every later one; BC 0 runs none.
[05_strands.md, 06_instruction_reference.md] -/
def Obligations.StoresRepeated : Prop :=
  ∀ (s : State) (c : CellId) (p : Pfx) (rd rs : Reg),
  let r := regsAt s c
  let dst := fun (n : Nat) => (r.bd >>> n) <<< n
  let store := fun (n : Nat) => Msg.write (dst n) (BitVec.ofNat 8 (2 ^ 2 ^ n - 1) <<< ((dst n).toNat % 8))
    (getG r rs <<< (8 * ((dst n).toNat % 8))) .store r.tag0
  let begins := fun (i : Instr) (uses : List Reg) => Executes s i c p encBR uses ∨
    (Continues s i c p encBR ∧ (engineAt s c).mid = .rep ∧ (engineAt s c).offered = false)
  p.rep = true →
  (r.bc = 0 →
    (∀ i ∈ [Instr.st c p rd rs, .stw c p rd rs, .sth c p rd rs, .stb c p rd rs, .istore c p rd rs],
      Executes s i c p encBR [rs] → exec i s = .next (after s c p encBR r)) ∧
    (∀ i ∈ [Instr.iclear c p rd, .bmov c p rd rs], Executes s i c p encBR [] →
      exec i s = .next (after s c p encBR r))) ∧
  (r.bc ≠ 0 → PortReady s c 1 → rangeOf r.bd ≠ .none →
    (begins (.st c p rd rs) [rs] → exec (.st c p rd rs) s = .next (afterIteration s c p encBR 8 (store 3))) ∧
    (begins (.stw c p rd rs) [rs] → exec (.stw c p rd rs) s = .next (afterIteration s c p encBR 4 (store 2))) ∧
    (begins (.sth c p rd rs) [rs] → exec (.sth c p rd rs) s = .next (afterIteration s c p encBR 2 (store 1))) ∧
    (begins (.stb c p rd rs) [rs] → exec (.stb c p rd rs) s = .next (afterIteration s c p encBR 1 (store 0))) ∧
    (begins (.istore c p rd rs) [rs] → exec (.istore c p rd rs) s =
      .next (afterIteration s c p encBR 8 (.iwrite (dst 3) (getG r rs) none r.tag0))) ∧
    (begins (.iclear c p rd) [] → exec (.iclear c p rd) s =
      .next (afterIteration s c p encBR 8 (.iclear (dst 3) r.tag0))) ∧
    (begins (.bmov c p rd rs) [] → rangeOf r.bs ≠ .none → exec (.bmov c p rd rs) s =
      .next (afterIteration s c p encBR 8 (.read ((r.bs >>> 3) <<< 3) (.bmov (dst 3)) r.tag0))))

/-- GATHER and SCATTER take the lowest free tally, issue their sixteen elements in order, one a command while the port is
busy, and go on after element 15. [06_instruction_reference.md, 08_bank_memory.md] -/
def Obligations.GatherAndScatterIssue : Prop :=
  ∀ (s : State) (c : CellId) (p : Pfx) (rd rs : Reg),
  let r := regsAt s c
  let s0 := fetched s c (insLen encB p)
  let x := cellAt s0 c
  let index := fun (j : Nat) => (getG r (BitVec.ofNat 4 (4 + j / 4))).extractLsb' (16 * (j % 4)) 16
  let element := fun (base : W64) (j : Nat) =>
    (((base.extractLsb' 0 48 + BitVec.ofNat 48 (8 * (index j).toNat)) >>> 3) <<< 3 : Addr)
  let source := fun (j : Nat) => ((((getG r rs).extractLsb' 0 48 + BitVec.ofNat 48 (8 * j)) >>> 3) <<< 3 : Addr)
  let tag := fun (j : Nat) => (getG r rd).extractLsb' 50 14 ++ ((getG r rd).extractLsb' 34 16 + BitVec.ofNat 16 j) ++
    (getG r rd).extractLsb' 0 34
  let gather := fun (j : Nat) (tl : Option (BitVec 4)) =>
    Msg.iread ⟨element (getG r rs) j, tag j, r.dl, r.fl, 0, c, some ⟨c, tl, BitVec.ofNat 4 j, getG r rd⟩, r.tag0⟩
  let scatter := fun (j : Nat) (tl : Option (BitVec 4)) =>
    Msg.read (source j) (.scatter (element (getG r rd) j) ⟨c, tl, BitVec.ofNat 4 j, r.tag0⟩) r.tag0
  let legal := fun (sc : Bool) =>
    if sc then ∀ j < 16, rangeOf (element (getG r rd) j) ≠ .none ∧ rangeOf (source j) ≠ .none
    else (getG r rd).extractLsb' 0 10 = 0 ∧ ∀ j < 16, rangeOf (element (getG r rs) j) ≠ .none
  let ins := fun (sc : Bool) => if sc then Instr.scatter c p rd rs else Instr.gather c p rd rs
  let msg := fun (sc : Bool) => if sc then scatter else gather
  let at' := fun (u : State) (j : Nat) (tl : Option (BitVec 4)) =>
    setEngine u c { engineAt u c with mid := .elements j tl }
  ∀ sc : Bool, legal sc →
  (Executes s (ins sc) c p encB [rd, rs, 4, 5, 6, 7] → Completes (ins sc) s) ∧
  (Executes s (ins sc) c p encB [rd, rs, 4, 5, 6, 7] → PortBusy s c 1 →
    (∀ i : Nat, i < 16 → mget none x.tallies i = none → (∀ j < i, mget none x.tallies j ≠ none) →
      let taken : Tally := ⟨sc, 0, 0, [], if sc then r.tag0 else getG r rd, r.tag0⟩
      exec (ins sc) s = .next (waiting
        (at' (setCell s0 c { x with tallies := mset none x.tallies i (some taken) }) 0 (some (BitVec.ofNat 4 i))) c 3
        (msg sc 0 (some (BitVec.ofNat 4 i))))) ∧
    ((∀ i < 16, mget none x.tallies i ≠ none) → exec (ins sc) s =
      .next (waiting (at' (setCell s0 c { x with untallied := satAdd x.untallied 1 }) 0 none) c 3 (msg sc 0 none)))) ∧
  (∀ (j : Nat) (tl : Option (BitVec 4)), Continues s (ins sc) c p encB → (engineAt s c).mid = .elements j tl →
    (engineAt s c).offered = true →
    (stillOffered s c = true → j < 16 → exec (ins sc) s = .next (stalled s0 c 3)) ∧
    (stillOffered s c = false → j < 15 → PortBusy s c 1 → exec (ins sc) s =
      .next (waiting (at' s0 (j + 1) tl) c 3 (msg sc (j + 1) tl))) ∧
    (stillOffered s c = false → j = 15 → exec (ins sc) s = .next (after s c p encB r)))

/-- SEND, SENDC, SENDS, SENDP, RETIRE, FACQ and FREL: the message each sends. [05_strands.md,
06_instruction_reference.md] -/
def Obligations.TokenAndFlowInstructions : Prop :=
  ∀ (s : State) (c : CellId) (p : Pfx) (rd rs : Reg),
  let r := regsAt s c
  let token := fun (v : W64) (fl : BitVec 10) => Msg.token
    { value := v, context := (getG r rd).extractLsb' 50 14, iteration := (getG r rd).extractLsb' 34 16,
      cell := (getG r rd).extractLsb' 26 8, iaddr := (getG r rd).extractLsb' 12 14, port := (getG r rd).extractLsb' 10 2,
      flags := fl, deadline := r.dl, flow := r.fl }
  let mw := (engineAt s c).mode
  let f : BitVec 12 := (getG r rs).extractLsb' 0 12
  let tagGood := (getG r rd).extractLsb' 0 10 = 0
  (Executes s (.send c p rd rs) c p encB [rd, rs] → tagGood → PortReady s c 0 →
    exec (.send c p rd rs) s = .next (afterFlit s c p encB (token (getG r rs) 0))) ∧
  (Executes s (.sendc c p rd rs) c p encB [rd, rs] → tagGood → PortReady s c 0 →
    exec (.sendc c p rd rs) s = .next (afterFlit s c p encB (token (getG r rs) 0x010))) ∧
  (Executes s (.sendp c p rd rs) c p encB [rd, rs] → tagGood → PortReady s c 0 →
    exec (.sendp c p rd rs) s = .next (afterFlit s c p encB (token (getG r rs) 0x001))) ∧
  (Executes s (.sends c p rd rs) c p encB [rd, rs] → tagGood → PortReady s c 3 →
    exec (.sends c p rd rs) s = .next (afterFlit s c p encB (token (getG r rs) 0x018))) ∧
  (Executes s (.facq c p rd rs) c p encB [rd, rs] → tagGood →
    (PortReady s c 0 → f = 0 ∨ mwFlowhome mw = 2 →
      exec (.facq c p rd rs) s = .next (afterFlit s c p encB (token 0 0))) ∧
    (PortReady s c 1 → f ≠ 0 → mwFlowhome mw ≠ 2 → exec (.facq c p rd rs) s =
      .next (afterFlit s c p encB (.acquire (lockHome mw f) (tagContext r.tag0) f (getG r rd) r.dl r.fl)))) ∧
  (Executes s (.frel c p rs) c p encB [rs] →
    (f = 0 ∨ mwFlowhome mw = 2 → exec (.frel c p rs) s = .next (after s c p encB r)) ∧
    (PortReady s c 1 → f ≠ 0 → mwFlowhome mw ≠ 2 → exec (.frel c p rs) s =
      .next (afterFlit s c p encB (.release (lockHome mw f) (tagContext r.tag0) f)))) ∧
  (Executes s (.retire c p) c p encA [] → PortReady s c 3 →
    exec (.retire c p) s = .next (afterFlit s c p encA (.retire (tagContext r.tag0)))) ∧
  (∀ i ∈ [Instr.send c p rd rs, .sendc c p rd rs, .sends c p rd rs, .sendp c p rd rs, .facq c p rd rs],
    Executes s i c p encB [rd, rs] → ¬ tagGood → Unpredictable i s 23)

/-- An instruction that emits one message changes its strand and its local port only; a busy port stalls it, and it
completes when the port has accepted its message. [05_strands.md] -/
def Obligations.FlitInstructionsFrame : Prop :=
  (∀ (s : State) (c : CellId) (p : Pfx) (k : Enc) (m : Msg), let t := afterFlit s c p k m
    OnlyFlit s t c ∧ SameBytes s.mem t.mem ∧
    regsAt t c = retire (regsAt s c) none ((regsAt s c).pc + BitVec.ofNat 15 (insLen k p))) ∧
  (∀ (s : State) (c : CellId) (p : Pfx) (k : Enc) (n : Nat) (m : Msg), let t := afterIteration s c p k n m
    OnlyFlit s t c ∧ SameBytes s.mem t.mem ∧ (∀ j, getG (regsAt t c) j = getG (regsAt s c) j)) ∧
  (∀ (s : State) (c : CellId) (cause : BitVec 4) (m : Msg), let t := waiting s c cause m
    OnlyFlit s t c ∧ SameBytes s.mem t.mem ∧ regsAt t c = commitProduct (regsAt s c) ∧
    (engineAt t c).stall = cause ∧ (engineAt t c).offered = true) ∧
  (∀ (s : State) (c : CellId) (p : Pfx) (rd rs : Reg),
    let r := regsAt s c
    let s0 := fun k => fetched s c (insLen k p)
    let token := fun (fl : BitVec 10) => Msg.token
      { value := getG r rs, context := (getG r rd).extractLsb' 50 14, iteration := (getG r rd).extractLsb' 34 16,
        cell := (getG r rd).extractLsb' 26 8, iaddr := (getG r rd).extractLsb' 12 14,
        port := (getG r rd).extractLsb' 10 2, flags := fl, deadline := r.dl, flow := r.fl }
    (getG r rd).extractLsb' 0 10 = 0 →
    (PortBusy s c 0 →
      (Executes s (.send c p rd rs) c p encB [rd, rs] →
        exec (.send c p rd rs) s = .next (waiting (s0 encB) c 1 (token 0))) ∧
      (Executes s (.sendc c p rd rs) c p encB [rd, rs] →
        exec (.sendc c p rd rs) s = .next (waiting (s0 encB) c 1 (token 0x010))) ∧
      (Executes s (.sendp c p rd rs) c p encB [rd, rs] →
        exec (.sendp c p rd rs) s = .next (waiting (s0 encB) c 1 (token 0x001)))) ∧
    (PortBusy s c 3 → Executes s (.sends c p rd rs) c p encB [rd, rs] →
      exec (.sends c p rd rs) s = .next (waiting (s0 encB) c 1 (token 0x018))) ∧
    (PortBusy s c 1 → Executes s (.ld c p rd rs) c p encB [rd, rs] → rangeOf (accessAddr 0 (getG r rs)) ≠ .none →
      exec (.ld c p rd rs) s = .next (waiting (s0 encB) c 2
        (.read (accessAddr 3 (getG r rs)) (.load ⟨getG r rd, r.dl, r.fl, 3, p.sx⟩) r.tag0))) ∧
    (PortBusy s c 1 → Executes s (.st c p rd rs) c p encBR [rd, rs] → p.rep = false →
      rangeOf (accessAddr 0 (getG r rd)) ≠ .none → exec (.st c p rd rs) s = .next (waiting (s0 encBR) c 2
        (.write (accessAddr 3 (getG r rd)) 0xFF (getG r rs) .store r.tag0))) ∧
    (∀ i ∈ [Instr.send c p rd rs, .sendc c p rd rs, .sendp c p rd rs, .sends c p rd rs],
      Continues s i c p encB → (engineAt s c).mid = .free → (engineAt s c).offered = true →
      (stillOffered s c = true → exec i s = .next (stalled (s0 encB) c 1)) ∧
      (stillOffered s c = false → exec i s = .next (after s c p encB r))))

/-- END frees the engine, FBAR goes on, both wait and trap as R287 says; TABLEAU raises trigger 1. [05_strands.md,
07_arithmetic.md] -/
def Obligations.StrandEndBarrierAndTableau : Prop :=
  ∀ (s : State) (c : CellId) (p : Pfx), let r := regsAt s c; let e := engineAt s c
  let asking := setCell s c { cellAt s c with asks := (cellAt s c).asks ++ [(.record, 5)] }
  let traps := fun (t : State) => OnlyFlit asking t c ∧
    (engineAt t c).phase = .stopped true r.fs (r.fs &&& mwTrapen e.mode) true ∧ regsAt t c = r ∧ SameBytes s.mem t.mem
  (Executes s (.endStrand c p) c p encA [] →
    (e.fpOut = [] → r.fs &&& mwTrapen e.mode = 0 → Yields (.endStrand c p) s fun t =>
      t = { s with cells := t.cells, time := { s.time with progress := true } } ∧
      cellAt t c = { cellAt s c with engine := Engine.idle, istoreEcc := (cellAt t c).istoreEcc,
                                     corrected := (cellAt t c).corrected } ∧
      (∀ d, d ≠ c → cellAt t d = cellAt s d)) ∧
    (e.fpOut ≠ [] → exec (.endStrand c p) s = .next (stalled (fetched s c (insLen encA p)) c 7)) ∧
    (e.fpOut = [] → r.fs &&& mwTrapen e.mode ≠ 0 → Yields (.endStrand c p) s traps)) ∧
  (Executes s (.fbar c p) c p encA [] →
    (e.fpOut = [] → r.fs &&& mwTrapen e.mode = 0 → exec (.fbar c p) s = .next (after s c p encA r)) ∧
    (e.fpOut ≠ [] → exec (.fbar c p) s = .next (stalled (fetched s c (insLen encA p)) c 7)) ∧
    (e.fpOut = [] → r.fs &&& mwTrapen e.mode ≠ 0 → Yields (.fbar c p) s traps)) ∧
  (Executes s (.tableauInstr c p) c p encA [] → exec (.tableauInstr c p) s =
    .next { after s c p encA r with tab := { s.tab with raised := s.tab.raised ++ [1] } })

/-- A floating-point operation: in flight when imprecise, written or trapped at once when precise.
[07_arithmetic.md, 06_instruction_reference.md] -/
def Obligations.FloatingPointIssue : Prop :=
  ∀ (s : State) (c : CellId) (p : Pfx) (rd rs rt : Reg),
  let r := regsAt s c
  let e := engineAt s c
  let rm := mwRmode e.mode
  let f := fmtOf p
  let a := getG r rd
  let b := getG r rs
  let w := if p.w32 then 32 else 64
  let asking := setCell s c { cellAt s c with asks := (cellAt s c).asks ++ [(.record, 5)] }
  let done := fun (i : Instr) (k : Enc) (uses : List Reg) (x : W64 × BitVec 5) => Executes s i c p k uses →
    (mwPrecise e.mode = false → p.tr = false → Yields i s fun t => OnlyStrand s t c ∧
      engineAt t c = { (engineAt (after s c p k r) c) with fpOut := e.fpOut ++ [⟨rd, x.1, x.2⟩] }) ∧
    (mwPrecise e.mode = true ∨ p.tr = true → x.2 &&& mwTrapen e.mode = 0 →
      exec i s = .next (after s c p k { setG r rd x.1 with fs := r.fs ||| x.2 })) ∧
    (mwPrecise e.mode = true ∨ p.tr = true → x.2 &&& mwTrapen e.mode ≠ 0 → Yields i s fun t =>
      (engineAt t c).phase = .stopped false x.2 (x.2 &&& mwTrapen e.mode) true ∧ regsAt t c = r ∧
      OnlyFlit asking t c)
  let two := fun (i : Instr) (k : Enc) (x : W64 × BitVec 5) => done i k [rd, rs] x
  let int := fun (x : Int × BitVec 5) => (cut p (BitVec.ofInt 64 x.1), x.2)
  two (.fadd c p rd rs) encBFT (fpAdd f rm a b) ∧ two (.fsub c p rd rs) encBFT (fpSub f rm a b) ∧
  two (.fmul c p rd rs) encBFT (fpMul f rm a b) ∧ two (.fdiv c p rd rs) encBFT (fpDiv f rm a b) ∧
  two (.fmin c p rd rs) encBFT (fpMinMax f false a b) ∧ two (.fmax c p rd rs) encBFT (fpMinMax f true a b) ∧
  two (.fcmpeq c p rd rs) encBFT (fpCmp f false fpEq a b) ∧ two (.fcmplt c p rd rs) encBFT (fpCmp f true fpLt a b) ∧
  two (.fcmple c p rd rs) encBFT (fpCmp f true (fun x y => !fpLt y x) a b) ∧
  two (.fcmpun c p rd rs) encBFT (fpUnordered f a b) ∧
  two (.fcvtf c p rd rs) encBFT (if p.fs32 then fpConvert fmt64 fmt32 rm b else fpConvert fmt32 fmt64 rm b) ∧
  two (.fcvti c p rd rs) encBFTWS (int (fpToInt f rm (-(2 ^ (w - 1))) (2 ^ (w - 1) - 1) b)) ∧
  two (.fcvtiz c p rd rs) encBFTWS (int (fpToInt f 1 (-(2 ^ (w - 1))) (2 ^ (w - 1) - 1) b)) ∧
  two (.fcvtu c p rd rs) encBFTWS (int (fpToInt f rm 0 (2 ^ w - 1) b)) ∧
  two (.icvtf c p rd rs) encBFTW (intToFp f rm (usedInt p b)) ∧
  two (.ucvtf c p rd rs) encBFTW (intToFp f rm (usedNat p b)) ∧
  done (.fma c p rd rs rt) encCFT [rd, rs, rt] (fpFma f rm false false b (getG r rt) a) ∧
  done (.fms c p rd rs rt) encCFT [rd, rs, rt] (fpFma f rm false true b (getG r rt) a) ∧
  done (.fnma c p rd rs rt) encCFT [rd, rs, rt] (fpFma f rm true false b (getG r rt) a) ∧
  (∀ (k : BitVec 5) (o : FpOp), cellUp s c = true → e.fpOut[k.toNat]? = some o →
    Yields (.fpComplete c k) s fun t => OnlyStrand s t c ∧
      engineAt t c = { e with regs := { setG r o.rd o.value with fs := r.fs ||| o.flags }, fpOut := e.fpOut.eraseIdx k.toNat })

/-- FNEG inverts and FABS clears the sign bit; TLI and TLIF look a value up in the instruction store or read its entries
from fabric memory. [06_instruction_reference.md] -/
def Obligations.SignInstructionsAndLookups : Prop :=
  ∀ (s : State) (c : CellId) (p : Pfx) (rd rs rt : Reg) (kc : BitVec 4),
  let r := regsAt s c
  let e := engineAt s c
  let b := getG r rs
  let b1 : W64 := if p.fs32 then (b.extractLsb' 0 32).setWidth 64 else b
  let sign := if p.fs32 then 31 else 63
  (Executes s (.fneg c p rd rs) c p encBF [rd, rs] →
    ∃ v : W64, exec (.fneg c p rd rs) s = .next (after s c p encBF (setG r rd v)) ∧
      ∀ j < 64, v.getLsbD j = (if j = sign then !b1.getLsbD j else b1.getLsbD j)) ∧
  (Executes s (.fabs c p rd rs) c p encBF [rd, rs] →
    ∃ v : W64, exec (.fabs c p rd rs) s = .next (after s c p encBF (setG r rd v)) ∧
      ∀ j < 64, v.getLsbD j = (if j = sign then false else b1.getLsbD j)) ∧
  (let n := kc.toNat + 2
   let i := if b.toInt < 0 then 0 else if 2 ^ n ≤ (b >>> 16).toNat then 2 ^ n else (b >>> 16).toNat
   let two := decide (0 ≤ b.toInt) && decide ((b >>> 16).toNat < 2 ^ n)
   let frac := b.extractLsb' 0 16
   kc.toNat < 9 →
   (let base := (getG r rt).toNat % 0x4000 / 4 * 4
    let entry := fun (j : Nat) => BitVec.ofNat 32 (leNat ((List.range 4).map fun m => mget 0 (cellAt s c).istore (base + 4 * j + m)))
    let tli : W64 := if two then BitVec.ofInt 64 ((entry i).toInt +
      (((entry (i + 1)).toInt - (entry i).toInt) * frac.toNat + 32768) / 65536) else (entry i).signExtend 64
    let tlif := if two ∧ frac ≠ 0 then fpInterp (mwRmode e.mode) (entry i) (entry (i + 1)) frac else fpSingle (entry i)
    (getG r rt).getLsbD 63 = true →
    (Executes s (.tli c p rd rs rt kc) c p encC [rd, rs, rt] →
      0x4000 < base + 4 * (2 ^ n + 1) → Unpredictable (.tli c p rd rs rt kc) s 247) ∧
    (base + 4 * (2 ^ n + 1) ≤ 0x4000 → (∀ w, mget Ecc.ok (cellAt s c).istoreEcc w = .ok) →
      (Executes s (.tli c p rd rs rt kc) c p encC [rd, rs, rt] →
        exec (.tli c p rd rs rt kc) s = .next (after s c p encC (setG r rd tli))) ∧
      (Executes s (.tlif c p rd rs rt kc) c p encCT [rd, rs, rt] →
        (tlif.2 &&& mwTrapen e.mode = 0 ∨ (mwPrecise e.mode = false ∧ p.tr = false) →
          exec (.tlif c p rd rs rt kc) s =
            .next (after s c p encCT { setG r rd (tlif.1.setWidth 64) with fs := r.fs ||| tlif.2 })) ∧
        (tlif.2 &&& mwTrapen e.mode ≠ 0 → mwPrecise e.mode = true ∨ p.tr = true → Yields (.tlif c p rd rs rt kc) s fun t =>
          (engineAt t c).phase = .stopped false tlif.2 (tlif.2 &&& mwTrapen e.mode) true ∧ regsAt t c = r ∧
          SameBytes s.mem t.mem)))) ∧
   (let base := accessAddr 2 (getG r rt)
    let at' := fun (j : Nat) => base + BitVec.ofNat 48 (4 * j)
    let reads := fun (float : Bool) (k : Enc) => let s0 := fetched s c (insLen k p)
      let s1 := offered s0 c (.read (at' i) (.table c false) r.tag0)
      let s2 := if two then produce s1 (tileOf c) false (strandOffer s0 c (.read (at' (i + 1)) (.table c true) r.tag0)) else s1
      let waits : Lookup := ⟨float, rd, frac, two, p.tr, none, none, r.pc + BitVec.ofNat 15 (insLen k p)⟩
      setEngine s2 c { e with stall := 0, phase := .lookup waits }
    (getG r rt).getLsbD 63 = false → rangeOf (at' i) ≠ .none → (two = true → rangeOf (at' (i + 1)) ≠ .none) →
    (Executes s (.tli c p rd rs rt kc) c p encC [rd, rs, rt] →
      exec (.tli c p rd rs rt kc) s = .next (reads false encC)) ∧
    (Executes s (.tlif c p rd rs rt kc) c p encCT [rd, rs, rt] →
      exec (.tlif c p rd rs rt kc) s = .next (reads true encCT))))

/-- BANK_READ and BANK_WRITE: what a bank answers, stores and leaves under the presence states of Table 08-3.
[06_instruction_reference.md, 08_bank_memory.md] -/
def Obligations.BankPlainReadsAndWrites : Prop :=
  ∀ (s : State) (b : TileId) (f : Flit) (a : Addr) (tag0 : W64),
  let u := taken s b false f
  let w := a.toNat / 8 * 8
  let p := presAt s.mem a.toNat
  let held : W64 := if p = presEmpty ∨ p = presDeferred then 0 else readWord s.mem w
  bankUp s b = true → eccAt s.mem a.toNat = .ok →
  (∀ kind, takeHead s.weave b false 1 isBankRequest kind = some f → bankAccepts s b f = false →
    (kind = isRead → exec (.bankRead b) s = .next s) ∧ (kind = isWrite → exec (.bankWrite b) s = .next s)) ∧
  (∀ l : LoadReq, takeHead s.weave b false 1 isBankRequest isRead = some f → bankAccepts s b f = true →
    f.msg = .read a (.load l) tag0 →
    let n := 8 * 2 ^ l.size.toNat
    let o := 8 * (a.toNat % 8)
    ∃ v : W64, exec (.bankRead b) s =
        .next (noteRecord (placeSend u (.bank b) f.pri (.token (tokenTo l.tag v l.dl l.fl 0))) a false) ∧
      ∀ j < 64, v.getLsbD j = if j < n then held.getLsbD (o + j) else l.sx && held.getLsbD (o + n - 1)) ∧
  (∀ dst, takeHead s.weave b false 1 isBankRequest isRead = some f → bankAccepts s b f = true →
    f.msg = .read a (.bmov dst) tag0 →
    exec (.bankRead b) s = .next (placeSend u (.bank b) f.pri (.write dst 0xFF held .bmov tag0))) ∧
  (∀ (mask : BitVec 8) (v : W64) (wf : WriteFor), takeHead s.weave b false 1 isBankRequest isWrite = some f →
    bankAccepts s b f = true → f.msg = .write a mask v wf tag0 → pageUseAt s.locks a = none →
    (serialWrite s a mask = none → Yields (.bankWrite b) s fun t =>
      t = { u with mem := t.mem, stw := (noteRecord u a true).stw } ∧
      (∀ j < 64, (readWord t.mem w).getLsbD j = if mask.getLsbD (j / 8) then v.getLsbD j else held.getLsbD j) ∧
      SameOutside s.mem t.mem w 8 ∧ presAt t.mem a.toNat = presPlain ∧
      (∀ x, x / 8 ≠ a.toNat / 8 → presAt t.mem x = presAt s.mem x ∧ eccAt t.mem x = eccAt s.mem x) ∧
      let sent := if mask = 0xFF then
          (bankAt s.mem b).answering.map (fun x => if x.1.req.addr = wordAddr a then (x.1, v) else x)
        else (bankAt s.mem b).answering
      (p ≠ presDeferred → bankAt t.mem b = { bankAt s.mem b with answering := sent }) ∧
      (p = presDeferred →
        (bankAt t.mem b).deferred = (bankAt s.mem b).deferred.filter (fun d => d.req.addr != wordAddr a) ∧
        (bankAt t.mem b).answering = sent ++
          ((bankAt s.mem b).deferred.filter (fun d => d.req.addr == wordAddr a)).map (·, readWord t.mem w))) ∧
    (serialWrite s a mask ≠ none → Yields (.bankWrite b) s fun t => SameOutside s.mem t.mem w 8 ∧
      (∀ d, engineAt t d = engineAt s d) ∧ t.weave = u.weave ∧ t.locks = s.locks)) ∧
  (∀ mask v, takeHead s.weave b false 1 isBankRequest isWrite = some f → bankAccepts s b f = true →
    f.msg = .write a mask v .store tag0 → ∀ d, pageUseAt s.locks a = some d →
    (d.use ≠ .record → Unpredictable (.bankWrite b) s 337) ∧
    (d.use = .record → mask = 0xFF → a.toNat % 4096 < 0xB0 →
      (∃ r ∈ s.stw.parked, trapPage r.trapId = a.extractLsb' 12 13) → Completes (.bankWrite b) s))

/-- BANK_IREAD, BANK_IWRITE and BANK_ICLEAR: the presence transitions of Table 08-3. [08_bank_memory.md] -/
def Obligations.BankStructureAccesses : Prop :=
  ∀ (s : State) (b : TileId) (f : Flit),
  let u := taken s b false f
  bankUp s b = true → bankAccepts s b f = true →
  (∀ q : IReq, takeHead s.weave b false 1 isBankRequest isIread = some f → f.msg = .iread q → q.elem = none →
    eccAt s.mem q.addr.toNat = .ok →
    let p := presAt s.mem q.addr.toNat
    let bk := bankAt s.mem b
    (p = presFull ∨ p = presPlain → exec (.bankIread b) s = .next (placeSend u (.bank b) f.pri
        (.token (tokenTo q.tag (readWord s.mem (q.addr.toNat / 8 * 8)) q.dl q.fl 0)))) ∧
    (p = presEmpty ∨ p = presDeferred → bk.deferred.length + bk.answering.length < 1024 →
      Yields (.bankIread b) s fun t => t = { u with mem := t.mem } ∧ SameBytes s.mem t.mem ∧
        presAt t.mem q.addr.toNat = presDeferred ∧
        (bankAt t.mem b).deferred = bk.deferred ++ [⟨q, f.pri, false⟩] ∧ (bankAt t.mem b).answering = bk.answering) ∧
    (p = presEmpty ∨ p = presDeferred → 1024 ≤ bk.deferred.length + bk.answering.length →
      exec (.bankIread b) s = .next (placeSend
        { u with mem := setBank s.mem b { bk with retries := satAdd bk.retries 1 } } (.bank b) 3 (.retry q)))) ∧
  (∀ (a : Addr) (v tag0 : W64), takeHead s.weave b false 1 isBankRequest isIwrite = some f → f.msg = .iwrite a v none tag0 →
    eccAt s.mem a.toNat = .ok → pageUseAt s.locks a = none → serialWrite s a 0xFF = none →
    let p := presAt s.mem a.toNat
    let w := a.toNat / 8 * 8
    (p = presFull → exec (.bankIwrite b) s = .next (firingReport u tag0 fDouble 0x4 (wordAddr a))) ∧
    (p ≠ presFull → Yields (.bankIwrite b) s fun t => t = { u with mem := t.mem } ∧
      readWord t.mem w = v ∧ SameOutside s.mem t.mem w 8 ∧
      presAt t.mem a.toNat = (if p = presPlain then presPlain else presFull) ∧
      (p = presDeferred →
        (bankAt t.mem b).deferred = (bankAt s.mem b).deferred.filter (fun d => d.req.addr != wordAddr a) ∧
        (bankAt t.mem b).answering = (bankAt s.mem b).answering ++
          ((bankAt s.mem b).deferred.filter (fun d => d.req.addr == wordAddr a)).map (·, v)))) ∧
  (∀ (a : Addr) (tag0 : W64), takeHead s.weave b false 1 isBankRequest isIclear = some f → f.msg = .iclear a tag0 →
    eccAt s.mem a.toNat = .ok → pageUseAt s.locks a = none → serialWrite s a 0xFF = none →
    let p := presAt s.mem a.toNat
    let w := a.toNat / 8 * 8
    (p = presEmpty ∨ p = presDeferred → exec (.bankIclear b) s = .next u) ∧
    (p = presFull ∨ p = presPlain → Yields (.bankIclear b) s fun t => t = { u with mem := t.mem } ∧
      readWord t.mem w = 0 ∧ SameOutside s.mem t.mem w 8 ∧ presAt t.mem a.toNat = presEmpty))

/-- DEFERRED_ANSWER, RETRY_RECEIVE, BANK_SCRUB and SPILL_SLOT_ACCESS. [08_bank_memory.md, 04_tokens.md,
10_weave.md] -/
def Obligations.BankAnswersScrubsAndSlots : Prop :=
  ∀ (s : State) (b : TileId) (c : CellId) (f : Flit),
  (∀ d v rest, bankUp s b = true → (bankAt s.mem b).answering = (d, v) :: rest →
    (bankStuck s b = false → portRoom s b false 0 = true → exec (.deferredAnswer b) s =
      .next { placeSend { s with mem := setBank s.mem b { bankAt s.mem b with answering := rest } } (.bank b) d.pri
          (.token (tokenTo d.req.tag v d.req.dl d.req.fl (if d.late then 0x002 else 0))) with
        time := { s.time with progress := true } }) ∧
    (bankStuck s b = true ∨ portRoom s b false 0 = false → exec (.deferredAnswer b) s = .next s)) ∧
  (∀ r s1, cellUp s c = true → waitingRetry s c = some (r, s1) →
    let t := tileOf c
    (r.retry ≠ 4095 → chanRoom s.weave (chanKey t 4 1 0) = true → exec (.retryReceive c) s =
      .next (drain (offerEnters s1 t false ⟨(slotOf c).toNat, some (tagContext r.tag0),
        mkFlit s1 t 0 .strand (.iread { r with retry := r.retry + 1 })⟩) t false)) ∧
    (r.retry ≠ 4095 → chanRoom s.weave (chanKey t 4 1 0) = false → exec (.retryReceive c) s = .next s) ∧
    (r.retry = 4095 → r.elem = none → exec (.retryReceive c) s = .next (drain (firingReport
      (produce s1 t false ⟨(slotOf c).toNat, some (tagContext r.tag0),
        mkFlit s1 t 0 .strand (.token (tokenTo r.tag 0x11 r.dl r.fl flagPoison))⟩) r.tag0 0x11 0x1 r.addr) t false))) ∧
  (bankUp s b = true → let x := bankAt s.mem b; let a := b.toNat * 0x80000 + x.scrub.toNat * 8
    Yields (.bankScrub b) s fun t => t = { s with mem := t.mem } ∧ SameBytes s.mem t.mem ∧
      t.mem.pres = s.mem.pres ∧ (bankAt t.mem b).scrub = x.scrub + 1 ∧
      (eccAt s.mem a = .ok → t.mem.ecc = s.mem.ecc) ∧
      (∀ i, eccAt s.mem a = .single i → eccAt t.mem a = .ok ∧ (bankAt t.mem b).corrected = satAdd x.corrected 1) ∧
      (eccAt s.mem a = .double → t.mem.ecc = s.mem.ecc ∧ (bankAt t.mem b).uncorrect = satAdd x.uncorrect 1)) ∧
  (bankUp s b = true → bankAccepts s b f = true → takeHead s.weave b false 1 isBankRequest isSlot = some f →
    let u := taken s b false f
    (∀ a tok cause, f.msg = .slotWrite a tok cause → Yields (.spillSlotAccess b) s fun t =>
      t = { u with mem := t.mem } ∧ readBytes t.mem a.toNat 20 = tokenBytes tok ∧
      readByte t.mem (a.toNat + 20) = cause ∧ SameOutside s.mem t.mem a.toNat 32) ∧
    (∀ a next, f.msg = .slotLink a next → Yields (.spillSlotAccess b) s fun t =>
      t = { u with mem := t.mem } ∧ readBytes t.mem (a.toNat + 0x1C) 4 = leBytes 4 (next.toNat + 2 ^ 31) ∧
      SameOutside s.mem t.mem (a.toNat + 0x1C) 4) ∧
    (∀ d a, f.msg = .slotRead d a → let tok := tokenOfBytes (readBytes s.mem a.toNat 20)
      ((∀ x, eccAt s.mem x = .ok) → exec (.spillSlotAccess b) s =
        .next (placeSend u (.bank b) 3 (.slotReturn d a tok 0))) ∧
      (∀ i : BitVec 7, i.toNat < 64 → eccAt s.mem a.toNat = .ok → eccAt s.mem (a.toNat + 8) = .ok →
        eccAt s.mem (a.toNat + 16) = .single i → ∃ m, exec (.spillSlotAccess b) s = .next (placeSend { u with mem := m }
          (.bank b) 3 (.slotReturn d a (if i.toNat < 32 then { tok with flags := tok.flags ||| 0x080 } else tok) 0)) ∧
          SameBytes s.mem m)) ∧
    (∀ d a i, f.msg = .recordRead d a i → eccAt s.mem a.toNat = .ok → exec (.spillSlotAccess b) s =
      .next (placeSend u (.bank b) 3 (.recordReturn d i (some (readWord s.mem (a.toNat / 8 * 8)))))) ∧
    (∀ d a v, f.msg = .recordWrite d a v → Yields (.spillSlotAccess b) s fun t =>
      readWord t.mem a.toNat = v ∧ SameOutside s.mem t.mem a.toNat 8 ∧ t.weave = u.weave ∧
      (∀ page left id, (engineAt s d).phase = .recording page left id →
        (engineAt t d).phase = .recording page (left - 1) id)))

/-- KEEP_ACCESS and FLASH_WINDOW_READ: keep memory has no presence states, and the flash window is read only.
[08_bank_memory.md, 06_instruction_reference.md, 02_straps.md] -/
def Obligations.KeepMemoryAndFlash : Prop :=
  ∀ (s : State) (f : Flit) (a : Addr) (tag0 : W64),
  let u := taken s 63 true f
  let w := a.toNat / 8 * 8
  let o := w - 0x20000000
  tileUp s 63 = true →
  (takeHead s.weave 63 true 1 (keepTurn s) isKeep = some f → eccAt s.mem a.toNat = .ok →
    (∀ l : LoadReq, l.size = 3 → a.toNat % 8 = 0 → f.msg = .read a (.load l) tag0 → exec .keepAccess s =
      .next (placeSend u .keep f.pri (.token (tokenTo l.tag (readWord s.mem w) l.dl l.fl 0)))) ∧
    (∀ q : IReq, q.addr = a → q.elem = none → f.msg = .iread q → exec .keepAccess s =
      .next (placeSend u .keep f.pri (.token (tokenTo q.tag (readWord s.mem w) q.dl q.fl 0)))) ∧
    (∀ mask v wf, f.msg = .write a mask v wf tag0 → Yields .keepAccess s fun t => t = { u with mem := t.mem } ∧
      (∀ j < 64, (readWord t.mem w).getLsbD j = if mask.getLsbD (j / 8) then v.getLsbD j else (readWord s.mem w).getLsbD j) ∧
      SameOutside s.mem t.mem w 8 ∧ t.mem.pres = s.mem.pres) ∧
    (∀ v, f.msg = .iwrite a v none tag0 → Yields .keepAccess s fun t => t = { u with mem := t.mem } ∧
      readWord t.mem w = v ∧ SameOutside s.mem t.mem w 8 ∧ t.mem.pres = s.mem.pres) ∧
    (f.msg = .iclear a tag0 → exec .keepAccess s = .next u)) ∧
  (takeHead s.weave 63 true 1 (if flashOn s.straps then isFlash else keepTurn s) isFlash = some f →
    (s.stw.boot = .reading ∨ s.jtag.ir = 0 → exec .flashWindowRead s = .next s) ∧
    (s.stw.boot ≠ .reading → s.jtag.ir ≠ 0 →
      (∀ l : LoadReq, l.size = 3 → a.toNat % 8 = 0 → f.msg = .read a (.load l) tag0 → ∃ v : W64, ∃ command : List Out,
        exec .flashWindowRead s = .next (placeSend { u with out := command ++ s.out } (.extra 63) f.pri
          (.token (tokenTo l.tag v l.dl l.fl 0))) ∧
        (flashOn s.straps = false → v = BitVec.allOnes 64 ∧ command = []) ∧
        (flashOn s.straps = true → command = [.flashRead (flashMode s.straps).1 (flashMode s.straps).2.1
            (flashMode s.straps).2.2 (BitVec.ofNat 24 o) 8] ∧
          (o + 8 ≤ s.mem.flashSize → ∀ i < 8, v.extractLsb' (8 * i) 8 = mget 0 s.mem.flash (o + i)))) ∧
      (∀ mask v wf, f.msg = .write a mask v wf tag0 → exec .flashWindowRead s = .next u))) ∧
  (takeHead s.weave 63 true 1 (if flashOn s.straps then isFlash else keepTurn s) isFlash = none → romOpen s = true →
    s.stw.boot ≠ .reading → s.jtag.ir ≠ 0 → Yields .flashWindowRead s fun t =>
      t = { s with out := t.out, freeCounter := t.freeCounter })

/-- TOKEN_ARRIVAL and STRAND_SELECT: a token matches or fires, and the earliest firing becomes a strand.
[04_tokens.md, 05_strands.md, 09_scheduling_and_stalemate.md] -/
def Obligations.TokensBecomeFirings : Prop :=
  (∀ (s : State) (c : CellId) (net3 : Bool) (ch : Nat) (g : Flit) (t : Token),
    let x := cellAt s c
    let h := nodeHeader x t
    cellUp s c = true → (arrivalChannels s c net3).find? (fun k => (headToken s c k).isSome) = some ch →
    channelFlit s c ch = some g → g.msg = .token t → t.cell = c → t.context.toNat < ctxLimit s → 16 ≤ t.context.toNat →
    eccAt s.mem (descAddr t.context) = .ok → ctxValid s.mem t.context = true →
    descReserved s.mem t.context = false → x.istoreEcc = [] → h.extractLsb' 2 6 = 0 →
    let kept := fun (u : State) (y : Cell) =>
      cellAt u c = { y with refusing := mset 0 x.refusing ch 0 } ∧ (∀ d, d ≠ c → cellAt u d = cellAt s d) ∧
      u = { taken s (tileOf c) false g with cells := u.cells, time := { s.time with progress := true } }
    (h.setWidth 2 = (0 : BitVec 2) → t.port = 3 → x.queue.length + x.inFlight + x.resumed.length < 16 →
      Yields (.tokenArrival c net3) s fun u => ∃ f : Firing, f.op0 = some (operandOf t) ∧ f.op1 = none ∧ f.op2 = none ∧
        f.tag = packTag (tokenTag t) ∧ f.deadline = t.deadline ∧ f.flow = (if kindOf t.flags = 3 then 0 else t.flow) ∧
        f.strand = none ∧ kept u { x with queue := x.queue ++ [{ f with seq := x.nextSeq }], nextSeq := x.nextSeq + 1 }) ∧
    (h.setWidth 2 = (1 : BitVec 2) → t.port.toNat < 2 →
      (x.mstore.find? (fun e => sameTag e t) = none →
        (x.mstore.filter (fun e => e.set == setOf t)).length + returnedRivals x t < 8 →
        Yields (.tokenArrival c net3) s fun u => ∃ e : MEntry, sameTag e t = true ∧ portOp e t.port = some (operandOf t) ∧
          (∀ j, j ≠ t.port → portOp e j = none) ∧ kept u { x with mstore := x.mstore ++ [e] }) ∧
      (∀ e o, x.mstore.find? (fun e => sameTag e t) = some e → e.ecc = .ok → o.ecc = .ok →
        portOp e t.port = none → portOp e (1 - t.port) = some o → e.op2 = none → (o.flow = 0 ∨ t.flow = 0 ∨ o.flow = t.flow) →
        x.queue.length + x.inFlight + x.resumed.length < 16 →
        Yields (.tokenArrival c net3) s fun u => ∃ f : Firing,
          (if t.port = 0 then f.op0 = some (operandOf t) ∧ f.op1 = some o else f.op0 = some o ∧ f.op1 = some (operandOf t)) ∧
          f.op2 = none ∧ f.tag = packTag { tokenTag t with port := 0 } ∧ f.strand = none ∧
          kept u { x with mstore := x.mstore.erase e, queue := x.queue ++ [{ f with seq := x.nextSeq }],
                          nextSeq := x.nextSeq + 1 }))) ∧
  (∀ (s : State) (c : CellId) (f : Firing), let x := cellAt s c
    selected s c = some f →
    (f ∈ x.queue ∧ firingBlocked s c f = false ∧ ∀ g ∈ x.queue, firingBlocked s c g = false →
      delta f.deadline (now20 s) ≤ delta g.deadline (now20 s)) ∧
    (cellUp s c = true → x.engine.phase = .idle → f.ecc = .ok → f.strand = none →
      eccAt s.mem (descAddr (tagContext f.tag)) = .ok → (∀ o ∈ presentOps f.op0 f.op1 f.op2, o.ecc = .ok) →
      Yields (.strandSelect c) s fun u => let e := engineAt u c; let r := e.regs
        (cellAt u c).queue = x.queue.erase f ∧ e.phase = .running ∧ e.mid = .free ∧ e.offered = false ∧ e.fpOut = [] ∧
        e.mode = modeWord s.mem (tagContext f.tag) ∧ u.mem = s.mem ∧ (∀ d, d ≠ c → cellAt u d = cellAt s d) ∧
        getG r 0 = (f.op0.map (·.value)).getD 0 ∧ getG r 1 = (f.op1.map (·.value)).getD 0 ∧
        getG r 2 = (f.op2.map (·.value)).getD 0 ∧ (∀ j : Reg, 3 ≤ j.toNat → getG r j = 0) ∧
        r.dl = f.deadline ∧ r.fl = f.flow ∧ r.tag0 = f.tag ∧ r.fs = 0 ∧ r.cf = false ∧ r.pend = none ∧
        r.pc = (f.tag.extractLsb' 12 14).setWidth 15 + 1 ∧ (∀ j : Fin 4, r.lc[j] = 0)))

/-- PAGE_REQUEST, PAGE_GRANT and PAGE_RELEASE: the page directory, and what the cell of a stopped strand does with its
answer. [08_bank_memory.md, 05_strands.md] -/
def Obligations.PagesGrantedAndReturned : Prop :=
  ∀ (s : State) (q : BitVec 2) (f : Flit) (c : CellId),
  (tileUp s (lockTile q) = true → let u := unitAt s.locks q; let s1 := taken s (lockTile q) false f
    (∀ d use sub, takeHead s.weave (lockTile q) false 1 isPageFlit isPageRequest = some f → f.msg = .pageRequest d use sub →
      (u.free ≠ [] → ∃ p ∈ u.free, ∃ high,
        let u1 := { u with free := u.free.erase p, dir := u.dir ++ [⟨p, d, use, u.grants⟩], grants := u.grants + 1, high := high }
        exec (.pageRequest q) s = .next (unitSend { bumpFree s1 with locks := setUnit s.locks q u1 } q 3
          (.ackPage d use (some p) none))) ∧
      (u.free = [] → let say := sub.isSome && !u.latch
        exec (.pageRequest q) s = .next (unitSend
          { bumpFree s1 with locks := setUnit s.locks q { u with latch := u.latch || say },
                             tab := { s.tab with raised := s.tab.raised ++ (if say then [4] else []) } } q 3
          (.ackPage d use none (if say then sub else none))))) ∧
    (∀ p, takeHead s.weave (lockTile q) false 1 isPageFlit isPageRelease = some f → f.msg = .pageRelease p →
      Yields (.pageRelease q) s fun t => t = { s1 with locks := t.locks, time := { s.time with progress := true } } ∧
        unitAt t.locks q = { u with free := u.free ++ [p], dir := u.dir.filter (fun d => d.page != p), latch := false } ∧
        (∀ q', q' ≠ q → unitAt t.locks q' = unitAt s.locks q'))) ∧
  (∀ cause raised trapped asked, cellUp s c = true → (engineAt s c).phase = .stopped cause raised trapped asked →
    let x := cellAt s c
    let asks := x.asks.filter (fun a => a.1 != .record)
    (∀ p rep, x.room.find? isAckPage = some (.ackPage c .record (some p) rep) → Yields (.pageGrant c) s fun t =>
      (∃ id, (engineAt t c).phase = .recording p 46 id) ∧ (cellAt t c).gen = x.gen + 1 ∧
      (cellAt t c).asks = asks ∧ SameBytes s.mem t.mem ∧ (∀ d, d ≠ c → cellAt t d = cellAt s d)) ∧
    (∀ rep, x.room.find? isAckPage = some (.ackPage c .record none rep) → exec (.pageGrant c) s =
      .next (setCell s c { x with room := x.room.erase (.ackPage c .record none rep), asks := asks,
                                  engine := { x.engine with phase := .stopped cause raised trapped false } })))

/-- TRAP_TOKEN_SEND, STRAND_RESTORE and SPILL_RETURN: the trap token and where it goes, the reads of a record and the
strand it restores, and slots read back. [05_strands.md, 07_arithmetic.md, 08_bank_memory.md, 17_faults_and_unpredictable.md] -/
def Obligations.ParkedStrandsAndSpilledTokens : Prop :=
  ∀ (s : State) (c : CellId), let x := cellAt s c
  cellUp s c = true →
  (∀ page left id, x.engine.phase = .recording page left id →
    let s1 := { s with stw := { s.stw with parked := s.stw.parked ++ [⟨id, false⟩] } }
    let ctx := tagContext x.engine.regs.tag0
    let goes : W64 → BitVec 16 → BitVec 20 → Token := fun tag serial dl =>
      { value := id, context := tag.extractLsb' 50 14, iteration := serial, port := 3, cell := tag.extractLsb' 26 8,
        iaddr := tag.extractLsb' 12 14, flags := 0x008, deadline := now20 s + dl, flow := 0 }
    let send := fun (u : State) (t : Token) =>
      produce u (tileOf c) false ⟨(slotOf c).toNat, none, mkFlit u (tileOf c) 3 .strand (.token t)⟩
    let freed := fun (u : State) => { setEngine u c Engine.idle with time := { s.time with progress := true } }
    (left ≠ 0 → exec (.trapTokenSend c) s = .next s) ∧
    (left = 0 → s.stw.started = false → exec (.trapTokenSend c) s = .next (freed s1)) ∧
    (left = 0 → s.stw.started = true → contextRoute s ctx = true →
      let u := readForReport s1 ctx
      exec (.trapTokenSend c) s = .next (freed (send { u with mem := bumpSerial u.mem ctx }
        (goes (handlerFor s ctx) (ctxSerial s.mem ctx) (ctxDlOffset s.mem ctx))))) ∧
    (left = 0 → s.stw.started = true → contextRoute s ctx = false → tagInLimit s (defaultHandler s) = true →
      descBad s.mem ctx 1 = false → let u := bumpFree (readForReport s1 ctx)
      exec (.trapTokenSend c) s = .next (freed (send { u with stw := { u.stw with nodeSerial := s.stw.nodeSerial + 1 } }
        (goes (defaultHandler s) s.stw.nodeSerial (ctxDlOffset s.mem ctx)))))) ∧
  (∀ r rest, x.resumed = r :: rest →
    let a := fun (i : Nat) => (((trapPage r.trapId).setWidth 48 <<< 12) + BitVec.ofNat 48 (8 * i) : Addr)
    let r1 := gatherWords x r
    let w := fun (i : Nat) => (mget none r1.words i).getD 0
    let room := x.room.filter (fun m => !isRecordReturn m)
    (r.asked = false → exec (.strandRestore c) s = .next ((List.range 46).foldl
      (fun u i => cellSend u c (.recordRead c (a i) i)) (setCell s c { x with resumed := { r with asked := true } :: rest }))) ∧
    (r.asked = true → r1.words.length < 46 → exec (.strandRestore c) s =
      .next (setCell s c { x with room := room, resumed := r1 :: rest })) ∧
    (r.asked = true → 46 ≤ r1.words.length → (∀ e ∈ r1.words, e.2 ≠ none) → x.queue.length + x.inFlight < 16 →
      descBad s.mem (tagContext (w 37)) 0 = false → Yields (.strandRestore c) s fun t => ∃ (f : Firing) (g : Regs),
        (cellAt t c).resumed = rest ∧ (cellAt t c).room = room ∧ (cellAt t c).queue = x.queue ++ [f] ∧ f.seq = x.nextSeq ∧
        f.strand = some ⟨g, r.skip, modeWord s.mem (tagContext (w 37))⟩ ∧ f.tag = w 37 ∧
        f.deadline = (w 45).extractLsb' 0 20 ∧ f.flow = (w 45).extractLsb' 20 12 ∧
        (∀ j : Reg, getG g j = w j.toNat) ∧ g.pl = w 16 ∧ g.ph = w 17 ∧ g.cf = (w 18).getLsbD 0 ∧
        g.fs = (w 19).extractLsb' 0 5 ∧ g.dl = (w 20).extractLsb' 0 20 ∧ g.fl = (w 21).extractLsb' 0 12 ∧
        (∀ j : Fin 4, g.ls[j] = (w (22 + j)).extractLsb' 0 14 ∧ g.le[j] = (w (26 + j)).extractLsb' 0 14 ∧
          g.lc[j] = (w (30 + j)).extractLsb' 0 32) ∧
        g.bs = (w 34).extractLsb' 0 48 ∧ g.bd = (w 35).extractLsb' 0 48 ∧ g.bc = (w 36).extractLsb' 0 32 ∧
        g.tag0 = w 37 ∧ g.pc = ((w 41).extractLsb' 0 14).setWidth 15 ∧
        g.pend = (if (w 41).getLsbD 14 then some (w 43 ++ w 42) else none) ∧
        SameBytes s.mem t.mem ∧ (∀ d, d ≠ c → cellAt t d = cellAt s d)) ∧
    (r.asked = true → 46 ≤ r1.words.length → (∃ e ∈ r1.words, e.2 = none) →
      let v := recordReport (setCell s c { x with room := room, resumed := rest }) r1 (badWords r1)
      exec (.strandRestore c) s = .next { cellSend v c (.pageRelease (trapPage r.trapId)) with
        time := { v.time with progress := true } })) ∧
  (x.room.find? isSlotReturn = none → ∀ d, nextSlot x = some d →
    let x1 : Cell := { x with
      due := x.due.erase d, spill := markReading x.spill d, hold := markReading x.hold d, inFlight := x.inFlight + 1 }
    (x.queue.length + x.inFlight + x.resumed.length < 16 → exec (.spillReturn c) s =
      .next (cellSend (setCell s c x1) c (.slotRead c (slotAddr d.1 d.2)))) ∧
    (16 ≤ x.queue.length + x.inFlight + x.resumed.length → exec (.spillReturn c) s = .next s)) ∧
  (∀ d a tok, x.room.find? isSlotReturn = some (.slotReturn d a tok 2) → Yields (.spillReturn c) s fun t =>
    (cellAt t c).room = x.room.erase (.slotReturn d a tok 2) ∧ (cellAt t c).inFlight = x.inFlight - 1 ∧
    (cellAt t c).queue = x.queue ∧ t.tab.raised = s.tab.raised ++ [4] ∧ t.time = s.time)

/-- ELEMENT_ACK and DATA_RETURN: tallies, table entries and host reads. [06_instruction_reference.md, 08_bank_memory.md,
11_host_face.md] -/
def Obligations.ElementsAndReadDataReturn : Prop :=
  ∀ (s : State) (c : CellId), let x := cellAt s c
  (∀ (e : Elem) code (i : BitVec 4) (tl : Tally), cellUp s c = true → x.room.find? isAckElement = some (.ackElement e code) →
    e.tally = some i → mget none x.tallies i.toNat = some tl →
    let bit := 1#16 <<< e.j.toNat
    let left := { x with room := x.room.erase (.ackElement e code) }
    (tl.resolved ||| bit ≠ 0xFFFF → ∃ u : Tally, exec (.elementAck c) s =
        .next (setCell s c { left with tallies := mset none x.tallies i.toNat (some u) }) ∧
      u.resolved = tl.resolved ||| bit ∧ u.failed = (if code = 0 then tl.failed else tl.failed ||| bit) ∧
      u.scatter = tl.scatter ∧ u.base = tl.base ∧ u.tag0 = tl.tag0 ∧ (code ≠ 0 → mget 0 u.codes e.j.toNat = code)) ∧
    (tl.resolved ||| bit = 0xFFFF → tl.codes = [] →
      let s1 := setCell s c { left with tallies := mset none x.tallies i.toNat none }
      (code = 0 → exec (.elementAck c) s = .next s1) ∧
      (code ≠ 0 → exec (.elementAck c) s = .next (contextReport s1 (tagContext tl.tag0) code
        (if tl.scatter then 0x6 else 0x5) ((tl.failed ||| bit) ++ (0 : BitVec 32)) tl.base)))) ∧
  (∀ (d : CellId) (second : Bool) (v : Option (BitVec 32)) (l : Lookup), tileUp s (tileOf c) = true →
    tableCell s (tileOf c) = some (c, .tableData d second v) → x.engine.phase = .lookup l →
    let ends := fun (t : State) (r : Regs) => OnlyStrand (setCell s c { x with room := x.room.erase (.tableData d second v) }) t c ∧
      (engineAt t c).phase = .running ∧ regsAt t c = retire r none l.after
    let quiet := fun (y : W64 × BitVec 5) => (l.precise || mwPrecise x.engine.mode) = false ∨ y.2 &&& mwTrapen x.engine.mode = 0
    let wrote := fun (y : W64 × BitVec 5) => { setG x.engine.regs l.rd y.1 with fs := x.engine.regs.fs ||| y.2 }
    (∀ w, l.needTwo = false → second = false → v = some w →
      let y := lookupValue l.float (mwRmode x.engine.mode) l.frac w none
      quiet y → Yields (.dataReturn (tileOf c) false) s fun t => ends t (wrote y)) ∧
    (∀ w w', l.needTwo = true → second = true → v = some w' → l.first = some (some w) →
      let y := lookupValue l.float (mwRmode x.engine.mode) l.frac w (some w')
      quiet y → Yields (.dataReturn (tileOf c) false) s fun t => ends t (wrote y)) ∧
    (l.needTwo = true → second = false → l.second = none → exec (.dataReturn (tileOf c) false) s =
      .next (setCell s c { x with room := x.room.erase (.tableData d second v),
                                  engine := { x.engine with phase := .lookup { l with first := some v } } })) ∧
    (l.needTwo = false → second = false → v = none →
      Yields (.dataReturn (tileOf c) false) s fun t => ends t (setG x.engine.regs l.rd 0))) ∧
  (∀ (t0 : TileId) (f : Flit) (id v : W64) (r : HostRead), tileUp s t0 = true →
    takeHead s.weave t0 true 2 isHostData isHostData = some f → f.msg = .hostData id v false →
    s.host.reads.find? (fun r => r.number == id.toNat / 1024) = some r → r.words = [] → id.toNat % 1024 = 0 →
    r.len = 8 → r.addr.toNat % 8 = 0 → wordsSpanned r.addr r.len = 1 → 8 ≤ maxPayload s.host →
    Yields (.dataReturn t0 true) s fun t => t.mem = s.mem ∧ t.cells = s.cells ∧ t.host.reads = s.host.reads.erase r ∧
      t.out = .completion .ok (leBytes 8 v.toNat) :: s.out)

/-- STREAM_TAKE_REQUEST, STREAM_PUT_REQUEST and the sinks: words in order, UNDERRUN, and tokens to faces.
[04_tokens.md, 11_host_face.md, 12_shuttle_and_row_links.md] -/
def Obligations.StreamPortsAndSinks : Prop :=
  ∀ (s : State) (f : Flit), let st := s.streams
  (∀ (port : BitVec 8) tag dl fl, port.toNat < 6 → tileUp s (portTile port) = true →
    takeHead s.weave (portTile port) true 1 (isPortRequest port) (isTake port) = some f → f.msg = .take port tag dl fl →
    let u := taken s (portTile port) true f
    let answers := fun (t : State) (v : W64) (fl' : BitVec 10) =>
      placeSend t (.extra (portTile port)) f.pri (.token (tokenTo tag v dl fl fl'))
    (takeSide s port = [] → exec (.streamTakeRequest port) s = .next (answers u (mget 0 st.last port.toNat) 0x004)) ∧
    (∀ w rest, takeSide s port = w :: rest → port ≠ 2 → port ≠ 3 → ∃ x : Streams,
      exec (.streamTakeRequest port) s = .next (answers { u with streams := x } w 0) ∧
      x = { setTakeSide st port rest with last := mset 0 st.last port.toNat w } ∧
      takeSide { u with streams := x } port = rest) ∧
    (∀ w rest, takeSide s port = w :: rest → s.rowA.answers = [] → s.rowB.answers = [] →
      Yields (.streamTakeRequest port) s fun t => takeSide t port = rest ∧ mget 0 t.streams.last port.toNat = w)) ∧
  (∀ (port : BitVec 8) v, tileUp s (portTile port) = true →
    takeHead s.weave (portTile port) true 1 (isPortRequest port) (isPut port) = some f → f.msg = .put port v →
    let u := taken s (portTile port) true f
    (port = 1 → (st.fieldOut.length < 16 → exec (.streamPutRequest port) s =
        .next { u with streams := { st with fieldOut := st.fieldOut ++ [v] } }) ∧
      (16 ≤ st.fieldOut.length → exec (.streamPutRequest port) s = .next s)) ∧
    (port = 4 → shutOn s.straps = true → (st.shPut.length < 128 → exec (.streamPutRequest port) s =
        .next { u with streams := { st with shPut := st.shPut ++ [v] } }) ∧
      (128 ≤ st.shPut.length → exec (.streamPutRequest port) s = .next s)) ∧
    (port = 4 ∧ shutOn s.straps = false ∨ port = 2 ∧ rowAOn s.straps = false ∨ port = 3 ∧ rowBOn s.straps = false →
      exec (.streamPutRequest port) s =
        .next { u with stw := { s.stw with sinkDiscards := satAdd s.stw.sinkDiscards 1 } })) ∧
  (∀ (net3 : Bool) (u : Token) (t0 : TileId), f.msg = .token u → let vn := if net3 then (3 : BitVec 2) else 0
    (tileUp s 0 = true → hostUp s = true → takeHead s.weave 0 true vn (sinkOn s) (sinkOn s) = some f →
      ¬ (u.context = 0 ∧ u.flow = 0x009) →
      ((s.host.staging.length + 1) * 20 ≤ 8192 → s.host.bme = true → Yields (.tokenToHostSink net3) s fun t =>
        t = { taken s 0 true f with host := t.host } ∧ t.host = { s.host with staging := s.host.staging ++ [u], busy := t.host.busy }) ∧
      (8192 < (s.host.staging.length + 1) * 20 → s.host.bme = true → exec (.tokenToHostSink net3) s = .next s) ∧
      (s.host.bme = false → exec (.tokenToHostSink net3) s =
        .next { taken s 0 true f with host := { s.host with discards := satAdd s.host.discards 1 } })) ∧
    (tileUp s 7 = true → shuttleUp s = true → takeHead s.weave 7 true vn (sinkOn s) (sinkOn s) = some f →
      (s.sh.held.length < 8 → s.sh.tx.length < 4 → exec (.tokenToShuttleSink net3) s =
        .next { taken s 7 true f with sh := { s.sh with tx := s.sh.tx ++ [u] } }) ∧
      (8 ≤ s.sh.held.length ∨ 4 ≤ s.sh.tx.length → exec (.tokenToShuttleSink net3) s = .next s)) ∧
    (tileUp s 63 = true → selUp s = true → takeHead s.weave 63 true vn isFieldToken isFieldToken = some f →
      (st.fieldOut.length < 16 → exec (.tokenToFieldSink net3) s =
        .next { taken s 63 true f with streams := { st with fieldOut := st.fieldOut ++ [u.value] } }) ∧
      (16 ≤ st.fieldOut.length → exec (.tokenToFieldSink net3) s = .next s)) ∧
    (t0 = 0 ∨ t0 = 7 ∨ t0 = 56 → tileUp s t0 = true → takeHead s.weave t0 true vn (sinkOff s) (sinkOff s) = some f →
      exec (.sinkDiscard t0 net3) s =
        .next { taken s t0 true f with stw := { s.stw with sinkDiscards := satAdd s.stw.sinkDiscards 1 } }))

/-- FLIT_FORWARD, CREDIT_RETURN and AGE_INCREMENT: a router port moves its chosen flit on, and no flit is lost.
[10_weave.md] -/
def Obligations.RoutersMoveFlits : Prop :=
  ∀ (s : State) (t : TileId),
  tileUp s t = true →
  (∀ (port : BitVec 3) (waited : BitVec 5) (n : Nat) (f : Flit), port.toNat < 6 → chosen s t port.toNat = some (n, f) →
    (chanAt s.weave (chanOfNumber t n)).head? = some f ∧ routePort t f = port.toNat ∧
    downstreamRoom s t (n / 8) port.toNat f = true ∧
    (∀ m g, m < 48 → (chanAt s.weave (chanOfNumber t m)).head? = some g → routePort t g = port.toNat →
      downstreamRoom s t (m / 8) port.toNat g = true → urgency g ≤ urgency f) ∧
    (port.toNat < 4 → n < 32 → lockQuad t = none → Yields (.flitForward t port waited) s fun u =>
      let vc := nextVc t (n / 8) port.toNat f
      let there := chanKey (neighbour t port.toNat) (farPort port.toNat) f.vn vc
      u = { s with weave := u.weave } ∧
      chanAt u.weave (chanOfNumber t n) = (chanAt s.weave (chanOfNumber t n)).tail ∧
      mget 0 u.weave.owed (chanOfNumber t n) = mget 0 s.weave.owed (chanOfNumber t n) + 1 ∧
      chanAt u.weave there = chanAt s.weave there ++ [{ f with vc := vc, waits := 0 }] ∧
      u.weave.outs = s.weave.outs ∧ u.weave.offers = s.weave.offers ∧
      ∀ j, j ≠ chanOfNumber t n → j ≠ there → chanAt u.weave j = chanAt s.weave j) ∧
    (∀ q, port.toNat = 4 → n < 32 → lockQuad t = none → f.msg = .iread q → Yields (.flitForward t port waited) s fun u =>
      u = { s with weave := u.weave } ∧ outAt u.weave (outKey t false f.vn) = outAt s.weave (outKey t false f.vn) ++ [{ f with waits := 0 }] ∧
      chanAt u.weave (chanOfNumber t n) = (chanAt s.weave (chanOfNumber t n)).tail)) ∧
  (∀ (port : BitVec 3) (waited : BitVec 5), port.toNat < 6 → heads s.weave t port.toNat 0 ≠ [] →
    chosen s t port.toNat = none → exec (.flitForward t port waited) s = .next s) ∧
  (∀ (port : BitVec 3) (vn : BitVec 2) (vc : BitVec 1), let k := chanKey t port.toNat vn vc
    (port.toNat < 4 → mget 0 s.weave.owed k ≠ 0 → Yields (.creditReturn t port vn vc) s fun u =>
      u = { s with weave := { s.weave with owed := u.weave.owed } } ∧ mget 0 u.weave.owed k + 1 = mget 0 s.weave.owed k ∧
      ∀ j, j ≠ k → mget 0 u.weave.owed j = mget 0 s.weave.owed j) ∧
    (∀ f g, port.toNat < 6 →
      (∀ rest, chanAt s.weave k = f :: rest → Yields (.ageIncrement t port vn vc false) s fun u =>
        u = { s with weave := { s.weave with chans := u.weave.chans } } ∧ chanAt u.weave k =
          { f with age := if f.age = 63 then 63 else f.age + 1, waits := f.waits + 32 } :: rest) ∧
      (chanAt s.weave k = [g, f] → Yields (.ageIncrement t port vn vc true) s fun u =>
        u = { s with weave := { s.weave with chans := u.weave.chans } } ∧ chanAt u.weave k =
          [g, { f with age := if f.age = 63 then 63 else f.age + 1, waits := f.waits + 32 }])))

/-- Lock requests, notices and acknowledgements: grant, refusal, release and the flow mirrors; and the notice of a new
iteration base. [09_scheduling_and_stalemate.md, 04_tokens.md] -/
def Obligations.FlowLocks : Prop :=
  ∀ (s : State) (q : BitVec 2) (f : Flit), let u := unitAt s.locks q; let lt := lockTile q
  (tileUp s lt = true →
    let s1 := taken s lt false f
    let notices := fun (w : State) (m : Msg) => produceAll w lt false
      ((List.range 64).map fun n => ⟨6, none, mkNotice lt (BitVec.ofNat 6 n) m⟩)
    (∀ q' ctx fl tag dl tf, takeHead s.weave lt false 1 isLockRequest isAcquire = some f →
      f.msg = .acquire q' ctx fl tag dl tf →
      (u.work ≠ .none → exec (.lockAcquireRequest q) s = .next s) ∧
      (u.work = .none →
        (∀ i l, slotOfFlow u fl = some (i, l) → l.owner = ctx → exec (.lockAcquireRequest q) s =
          .next { unitSend s1 q f.pri (.token (tokenTo tag 0 dl tf 0)) with time := { s.time with progress := true } }) ∧
        ((∃ i l, slotOfFlow u fl = some (i, l) ∧ l.owner ≠ ctx) ∨ (slotOfFlow u fl = none ∧ freeSlot u = none) →
          exec (.lockAcquireRequest q) s =
            .next (unitSend { s1 with locks := setUnit s.locks q { u with refused := satAdd u.refused 1 } } q f.pri
              (.token (tokenTo tag 0x08 dl tf flagPoison)))) ∧
        (∀ i, slotOfFlow u fl = none → freeSlot u = some i → i < 64 ∧ mget none u.slots i = none ∧
          let u1 := { u with slots := mset none u.slots i (some ⟨fl, ctx⟩),
                             work := .granting (BitVec.ofNat 6 i) tag dl tf f.pri 0 }
          exec (.lockAcquireRequest q) s = .next (notices { s1 with locks := setUnit s.locks q u1 }
            (.lock q (BitVec.ofNat 6 i) fl ctx))))) ∧
    (∀ slot tag dl tf pri acks, takeHead s.weave lt false 2 isAckLock isAckLock = some f →
      u.work = .granting slot tag dl tf pri acks →
      (acks ≠ 63 → exec (.lockAckReceive q) s =
        .next { s1 with locks := setUnit s.locks q { u with work := .granting slot tag dl tf pri (acks + 1) } }) ∧
      (acks = 63 → exec (.lockAckReceive q) s =
        .next (unitSend { s1 with locks := setUnit s.locks q { u with work := .none },
                                  time := { s.time with progress := true } } q pri (.token (tokenTo tag 0 dl tf 0))))) ∧
    (∀ q' ctx fl i l, takeHead s.weave lt false 1 isLockRequest isRelease = some f → f.msg = .release q' ctx fl →
      (u.work ≠ .none → exec (.lockReleaseRequest q) s = .next s) ∧
      (u.work = .none → slotOfFlow u fl = some (i, l) →
        (l.owner ≠ ctx → exec (.lockReleaseRequest q) s = .next s1) ∧
        (l.owner = ctx → exec (.lockReleaseRequest q) s = .next (finishRelease
          (notices { s1 with locks := setUnit s.locks q { u with work := .releasing (BitVec.ofNat 6 i) } }
            (.unlock q (BitVec.ofNat 6 i))) lt))))) ∧
  (∀ (t0 : TileId) (r : BitVec 2) (slot : BitVec 6) fl owner, tileUp s t0 = true →
    let n := 64 * r.toNat + slot.toNat
    let s1 := taken s t0 false f
    (takeHead s.weave t0 false 3 isMirrorNotice isLock = some f → f.msg = .lock r slot fl owner →
      Yields (.lockNotice t0) s fun t =>
      mirrorAt t.locks t0 = minsert n ⟨fl, owner⟩ (mdrop n (mirrorAt s.locks t0)) ∧ t = { s1 with locks := t.locks } ∧
      mget [] t.locks.owed t0.toNat = mget [] s.locks.owed t0.toNat ++ [(r, ⟨fl, owner⟩)] ∧ t.locks.units = s.locks.units) ∧
    (takeHead s.weave t0 false 3 isMirrorNotice isUnlock = some f → f.msg = .unlock r slot →
      Yields (.unlockNotice t0) s fun t =>
      (∀ e ∈ mirrorAt t.locks t0, e.1 ≠ n) ∧ (∀ e, e.1 ≠ n → (e ∈ mirrorAt t.locks t0 ↔ e ∈ mirrorAt s.locks t0)) ∧
      t = { s1 with locks := t.locks } ∧ t.locks.units = s.locks.units ∧ t.locks.owed = s.locks.owed) ∧
    (∀ o, (mget [] s.locks.owed t0.toNat).find? (fun o => o.1 == r) = some o →
      ((∀ i : BitVec 2, runsBlocked s r o.2 (cellOf t0 i) = false) →
        let s2 := { s with locks := { s.locks with
          owed := mset [] s.locks.owed t0.toNat ((mget [] s.locks.owed t0.toNat).erase o) } }
        exec (.lockNoticeAck t0 r) s = .next (produceLocal s2 t0 5 (mkFlit s2 t0 3 .strand (.ackLock r)))) ∧
      ((∃ i : BitVec 2, runsBlocked s r o.2 (cellOf t0 i) = true) → exec (.lockNoticeAck t0 r) s = .next s)) ∧
    (∀ ctx base, takeHead s.weave t0 false 3 isIterBase isIterBase = some f → f.msg = .iterBase ctx base →
      eccAt s.mem (descAddr ctx) = .ok → Yields (.iterBaseNotice t0) s fun t => t = { s1 with cells := t.cells } ∧
        (∀ i : BitVec 2, mget none (cellAt t (cellOf t0 i)).bases ctx.toNat = some base ∧
          engineAt t (cellOf t0 i) = engineAt s (cellOf t0 i)) ∧ (∀ d, tileOf d ≠ t0 → cellAt t d = cellAt s d)))

/-- BEAT_BOUNDARY, ADMIT_EVENT and DEADLINE_GUARD_VISIT. [03_beat.md, 09_scheduling_and_stalemate.md] -/
def Obligations.BeatsAdmissionAndGuard : Prop :=
  (∀ s : State, s.pwr.clkok = true → halted s = false → NoneRefused s → Yields .beatBoundary s fun t =>
    t.time.beat = s.time.beat + 1 ∧ SameBytes s.mem t.mem ∧ t.time.withholding = withholds s ∧ t.time.progress = false ∧
    (s.time.progress = true → t.time.stale = 0) ∧ t.time.alarmSpace = 8 - s.streams.alarm.length ∧ t.stw.inbox = s.stw.inbox ∧
    (s.tab.held = none → ∀ x ∈ s.tab.raised, x ∈ t.tab.due) ∧ (∀ d, (cellAt t d).queue = (cellAt s d).queue)) ∧
  (∀ (s : State) (e : OutEvent), nextEvent s = some e →
    let s1 := { s with time := { s.time with held := s.time.held.erase e } }
    e ∈ s.time.held ∧ e.stamp ≠ s.time.beat ∧
    (∀ g ∈ s.time.held, g.stamp ≠ s.time.beat → (s.time.beat - g.stamp).toNat ≤ (s.time.beat - e.stamp).toNat ∧
      (g.stamp = e.stamp → g.rank ≤ 8 → e.rank ≤ g.rank)) ∧
    (admitting s = true → s.time.beat ≠ s.time.steadyAt →
      (∀ v, e.kind = .fieldWord v → Yields .admitEvent s fun t => ∃ old,
        t = { s1 with streams := t.streams, sel := t.sel } ∧
        t.streams = { s.streams with fieldIn := old ++ [v] } ∧
        (if s.streams.fieldIn.length < 32 then old = s.streams.fieldIn ∧ t.sel = s.sel
         else old = s.streams.fieldIn.tail ∧ t.sel = { s.sel with overruns := satAdd s.sel.overruns 1 })) ∧
      (∀ u, e.kind = .shuttle u → kindOf u.flags ≠ 1 → s.stw.started = true →
        let s2 := { s1 with sh := { s.sh with u := s.sh.u + 1 } }
        let u1 : Token := { u with flags := (u.flags &&& 0x19) ||| (if e.late then 2 else 0) }
        let f := { mkFlit s2 7 2 .shuttle (.token u1) with admitted := s.time.beat }
        (portRoom s2 7 true f.vn = true → exec .admitEvent s = .next (produceExtra s2 7 f)) ∧
        (portRoom s2 7 true f.vn = false → exec .admitEvent s = .next s)) ∧
      (∀ code v, e.kind = .notice code v →
        (s.stw.started = false → exec .admitEvent s = .next s1) ∧
        (s.stw.started = true → let x := noticeToken s1 code v
          (portRoom x.1 63 true (msgVn (.token x.2)) = true → exec .admitEvent s = .next (stewardSend x.1 x.2)) ∧
          x.2.value = v ∧ x.2.flow = code ∧ x.2.flags = 0x18 ∧ x.2.port = 3 ∧ x.2.iteration = s.stw.noticeSerial ∧
          x.1.stw = { s.stw with noticeSerial := s.stw.noticeSerial + 1 } ∧ x.1.time = s1.time ∧ SameBytes s.mem x.1.mem)))) ∧
  (∀ s : State, s.pwr.clkok = true → halted s = false →
    let far := fun (d : BitVec 20) => decide (delta d (now20 s) < -2 ^ 18)
    let g := fun (u : Token) => if far u.deadline then { u with deadline := now20 s - 0x40000, flags := u.flags ||| 2 } else u
    (∀ place, (∀ p, place ≠ .spillPage p) → Yields (.deadlineGuardVisit place) s fun t => SameBytes s.mem t.mem ∧ t.time.beat = s.time.beat) ∧
    (∀ p, Yields (.deadlineGuardVisit (.spillPage p)) s fun t => t = { s with mem := t.mem } ∧
      SameOutside s.mem t.mem (p.toNat * 4096) 4096) ∧
    (Yields (.deadlineGuardVisit .inbox) s fun t => t.stw = { s.stw with inbox := s.stw.inbox.map fun x => (g x.1, x.2) } ∧
      t = { s with stw := t.stw }) ∧
    (Yields (.deadlineGuardVisit .hostStaging) s fun t => t = { s with host := t.host } ∧
      t.host = { s.host with staging := s.host.staging.map g, packet := t.host.packet } ∧
      (s.host.packet = none → t.host.packet = none) ∧
      (∀ p, s.host.packet = some p → p.dump = true → t.host.packet = some p) ∧
      (∀ p hd (ts : List Token), s.host.packet = some p → p.dump = false → p.written = 0 → p.bytes = hd ++ ts.flatMap tokenBytes →
        hd.length = 16 → ts.length ≤ 32 →
        t.host.packet = some { p with bytes := hd ++ (ts.map g).flatMap tokenBytes })) ∧
    exec (.deadlineGuardVisit .shuttleTx) s = .next { s with sh := { s.sh with tx := s.sh.tx.map g } } ∧
    (∀ c, Yields (.deadlineGuardVisit (.queue c)) s fun t =>
      (cellAt t c).queue.map (·.deadline) =
        (cellAt s c).queue.map (fun f => if far f.deadline then now20 s - 0x40000 else f.deadline) ∧
      (∀ d, d ≠ c → cellAt t d = cellAt s d)))

/-- ALARM_SET, ALARM_DUE and ALARM_PENDING_ADMIT. [03_beat.md] -/
def Obligations.AlarmsFallDueAndAreAdmitted : Prop :=
  (∀ (s : State) (cell : BitVec 8) (v : W64) (r : Req) (b : BitVec 48), Asks s 0x010 cell v r →
    s.stw.inbox.head?.map (fun x => x.2.2) = some b → cell.extractLsb' 4 4 = 0 →
    paramAddress v 3 = true → blockPlain s.mem (v.setWidth 48) 3 = true → (∀ x, eccAt s.mem x = .ok) →
    let a : Addr := v.extractLsb' 0 48
    let w := fun (i : Nat) => wordAt s.mem (a + BitVec.ofNat 48 (8 * i))
    let slot := (cell.extractLsb' 0 3).toNat
    let target : BitVec 48 := if cell.getLsbD 3 then (w 0).extractLsb' 0 48
      else (if r.origin = .strand then s.time.beat else b) + (w 0).extractLsb' 0 48
    let period : BitVec 48 := (w 1).extractLsb' 0 48
    let old := mget Alarm.clear s.time.alarms slot
    let new : Alarm := if period = 0 ∧ (s.time.beat - target).toNat < 2 ^ 47 then { Alarm.clear with pend := old.pend }
      else ⟨true, s.time.beat, target, period, w 2, old.pend⟩
    (w 0).extractLsb' 48 16 = 0 → (w 1).extractLsb' 48 16 = 0 →
    ((w 2).extractLsb' 0 10 = 0 → exec .alarmSet s = .next (answer { asked s with
      time := { s.time with alarms := mset Alarm.clear s.time.alarms slot new } } r 0x00 [])) ∧
    ((w 2).extractLsb' 0 10 ≠ 0 → exec .alarmSet s = .fault (.unpredictable 23 (wreck (asked s))))) ∧
  (∀ (s : State) (slot : BitVec 3), let a := mget Alarm.clear s.time.alarms slot.toNat
    let due := if (a.armed - a.target).toNat < 2 ^ 47 then a.armed else a.target
    s.pwr.phase = .run → s.pwr.wakeNew = false → a.set = true → (s.time.beat - a.target).toNat < 2 ^ 47 →
    Yields (.alarmDue slot) s fun t => let x := mget Alarm.clear t.time.alarms slot.toNat
      t = { s with time := t.time } ∧ t.time.beat = s.time.beat ∧ x.set = (a.period != 0) ∧
      x.target = a.target + a.period ∧ x.tag = a.tag ∧
      (a.pend = none → x.pend = some ⟨due, 0, a.tag⟩ ∧
        t.time.held = s.time.held ++ [⟨due, 8, slot.toNat, false, .alarm slot⟩]) ∧
      (∀ p, a.pend = some p → x.pend = some { p with missed := satAdd p.missed 1 } ∧ t.time.held = s.time.held)) ∧
  (∀ (s : State) (slot : BitVec 3) (p : PendingAlarm), admitting s = true →
    bestBy (fun x : BitVec 3 × PendingAlarm => (s.time.beat - x.2.due).toNat) (waitingSlots s) = some (slot, p) →
    (s.time.alarmSpace = 0 ∨ 8 ≤ s.streams.alarm.length → exec .alarmPendingAdmit s = .next s) ∧
    (s.time.alarmSpace ≠ 0 → s.streams.alarm.length < 8 → p.tag = 0 → Yields .alarmPendingAdmit s fun t => ∃ w : W64,
      w.extractLsb' 0 48 = p.due ∧ w.extractLsb' 48 8 = p.missed ∧ w.extractLsb' 56 3 = slot ∧
      w.extractLsb' 59 5 = 0 ∧ t.streams = { s.streams with alarm := s.streams.alarm ++ [w] } ∧
      (mget Alarm.clear t.time.alarms slot.toNat).pend = none ∧ t = { s with streams := t.streams, time := t.time } ∧
      t.time = { s.time with alarms := t.time.alarms, alarmSpace := s.time.alarmSpace - 1 }))

/-- TABLEAU_N, the TABLEAU request, the freeze, its end, TABLEAU_DUMP and the end of a dump.
[16_tableau_probes_and_physical_access.md] -/
def Obligations.TableauTriggersFreezesAndDumps : Prop :=
  ∀ (s : State),
  (s.pwr.clkok = false → exec .tableauNAssert s = .next s) ∧
  (s.pwr.clkok = true → halted s = false → exec .tableauNAssert s =
    .next { s with time := { s.time with held := s.time.held ++ [⟨s.time.beat, 4, 0, false, .tableau none⟩] } }) ∧
  (s.pwr.clkok = true → halted s = true → Yields .tableauNAssert s fun t =>
    t.tab = { s.tab with ignored := satAdd s.tab.ignored 1, ignoredTotal := satAdd s.tab.ignoredTotal 1 } ∧
    t = { s with tab := t.tab, time := t.time }) ∧
  (∀ r, Asks s 0x007 0 0 r → exec .tableauRequest s = .next { asked s with
    tab := { s.tab with raised := s.tab.raised ++ [2] }, stw := { (asked s).stw with tableau := s.stw.tableau ++ [r] } }) ∧
  (s.pwr.clkok = true → powered s 1 = true →
    (s.tab.frozen = false → s.tab.due ≠ [] → Yields .tableauFreeze s fun t =>
      t.tab.frozen = true ∧ t.tab.due = [] ∧ t.tab.held.isSome = true ∧ t.tab.serial = s.tab.serial + 1 ∧
      t.tab.ignored = 0 ∧ t.tab.latched = satAdd s.tab.latched 1 ∧ t.mem = s.mem ∧ t.time = s.time ∧
      t.weave = s.weave ∧ t.locks = s.locks ∧ t.stw = s.stw) ∧
    (s.tab.frozen = true → NoneRefused s → Yields .tableauFreezeEnd s fun t => t.tab.frozen = false ∧ SameBytes s.mem t.mem ∧
      t.time.beat = s.time.beat ∧ t.tab.held = s.tab.held ∧ t.stw.tableau = [] ∧ t.stw.counters = []) ∧
    (∀ d bs, s.tab.dump = some d → s.tab.held = some bs → d.pos = bs.length → halted s = false →
      Yields .tableauDumpComplete s fun t =>
        t.tab = { s.tab with held := none, dump := none, dumps := satAdd s.tab.dumps 1 } ∧ t.stw.dumps = [] ∧
        SameBytes s.mem t.mem ∧ t.cells = s.cells)) ∧
  (∀ (sink : BitVec 8) r, Asks s 0x008 sink 0 r → 1 ≤ sink.toNat → sink.toNat ≤ 4 →
    (dumpSinkOn s.straps sink = false → OnlyAnswers .tableauDump s r 0x0D []) ∧
    (dumpSinkOn s.straps sink = true →
      (s.tab.dump.isSome = true → exec .tableauDump s =
        .next { asked s with stw := { (asked s).stw with dumps := s.stw.dumps ++ [(r, sink)] } }) ∧
      (s.tab.dump = none → s.tab.held = none → OnlyAnswers .tableauDump s r 0x0E []) ∧
      (s.tab.dump = none → s.tab.held.isSome = true → Yields .tableauDump s fun t =>
        t.tab = { s.tab with dump := some ⟨sink, 0, some r⟩ } ∧ SameBytes s.mem t.mem ∧ t.cells = s.cells ∧
        (sink.toNat ≤ 2 → t = { asked s with tab := t.tab }) ∧
        (graceGone (rowAt s (if sink = 3 then .a else .b)) = false →
          t = { asked s with tab := t.tab, rowA := t.rowA, rowB := t.rowB }))))

/-- How an answer leaves, in the order in which its face's requests were taken; DESCRIBE, COUNTERS, ENERGY_QUERY,
PROBE_SET, PROBE_DUMP and reserved codes. [04_tokens.md, 10_weave.md, 14_power_and_energy.md,
16_tableau_probes_and_physical_access.md] -/
def Obligations.RequestsThatReport : Prop :=
  ∀ (s : State) (r : Req) (cell : BitVec 8) (v : W64), let t := asked s
  (∀ (status : BitVec 8) (data : List W64), s.stw.ready = [] →
    ((∀ q ∈ openRequests s, sameFace q.origin r.origin = true → r.taken ≤ q.taken) →
      answer s r status data = sendAnswer s ⟨r, status, data⟩) ∧
    ((∃ q ∈ openRequests s, sameFace q.origin r.origin = true ∧ q.taken < r.taken) →
      answer s r status data = { s with stw := { s.stw with ready := [(r.taken, ⟨r, status, data⟩)] } })) ∧
  (∀ status : BitVec 8, r.origin ≠ .strand → ∃ o0 o1 t0 t1,
    sendAnswer s ⟨r, status, [v]⟩ = produce (produce s 63 true o0) 63 true o1 ∧ o0.flit.msg = .token t0 ∧
    o1.flit.msg = .token t1 ∧ o0.flit.dest = faceTile r.origin ∧ o1.flit.dest = faceTile r.origin ∧
    t0.value.extractLsb' 0 8 = status ∧ t0.value.extractLsb' 8 16 = 1 ∧ t1.value = v ∧ t0.iteration = r.serial ∧
    t1.iteration = r.serial + 1 ∧ t0.flow = r.code ∧ t1.flow = r.code ∧ t0.context = 0 ∧ t1.context = 0) ∧
  (Asks s 0x003 0 0 r → ∃ f0 f1 f2 f3 sw : W64,
    OnlyAnswers .describe s r 0x00 [f0, f1, f2, f3, s.time.beat.setWidth 64, imageId s, sw] ∧
    sw.getLsbD 8 = s.stw.started ∧ sw.extractLsb' 0 8 = s.stw.loadStatus) ∧
  (Asks s 0x003 cell v r → cell ≠ 0 ∨ v ≠ 0 → OnlyAnswers .describe s r 0x0D []) ∧
  (Asks s 0x00E 0 0 r → ∃ w : W64, OnlyAnswers .energyQuery s r 0x00 [w] ∧ w.extractLsb' 0 12 = s.pwr.reading ∧
    w.extractLsb' 12 3 = s.pwr.level ∧ w.extractLsb' 18 3 = s.pwr.limitQuads ∧ w.extractLsb' 21 2 = s.pwr.rate ∧
    w.extractLsb' 23 4 = s.pwr.running ∧ w.extractLsb' 27 5 = s.pwr.vid) ∧
  (Asks s 0x00E cell v r → cell ≠ 0 ∨ v ≠ 0 → OnlyAnswers .energyQuery s r 0x0D []) ∧
  (∀ code, Asks s code cell v r → code = 0 ∨ 0x012 ≤ code.toNat → OnlyAnswers .reservedSystemCode s r 0x0C []) ∧
  (Asks s 0x004 cell 0 r → cell.toNat ≤ 14 → exec .counters s =
    .next { t with stw := { t.stw with counters := s.stw.counters ++ [(r, cell)] } }) ∧
  (Asks s 0x004 cell v r → 14 < cell.toNat ∨ v ≠ 0 → OnlyAnswers .counters s r 0x0D []) ∧
  (Asks s 0x005 cell v r → cell.toNat < 32 → paramAddress v 5 = true →
    (blockPlain s.mem (v.setWidth 48) 5 = false → exec .probeSet s = .fault (.unpredictable 146 (wreck t))) ∧
    (blockPlain s.mem (v.setWidth 48) 5 = true → (∀ x, eccAt s.mem x = .ok) →
      let ws := (List.range 5).map fun i => wordAt s.mem ((v.extractLsb' 0 48 : Addr) + BitVec.ofNat 48 (8 * i))
      let p := mget Probe.idle s.weave.probes cell.toNat
      (probeBad cell.toNat ws = true → OnlyAnswers .probeSet s r 0x0D []) ∧
      (probeBad cell.toNat ws = false → exec .probeSet s = .next (answer { t with weave := { s.weave with
        probes := mset Probe.idle s.weave.probes cell.toNat { p with next := some (probeOf ws) } } } r 0x00 [])))) ∧
  (Asks s 0x006 cell 0 r → cell.toNat < 32 → let p := mget Probe.idle s.weave.probes cell.toNat
    (probeEnabled p = false → OnlyAnswers .probeDump s r 0x00 []) ∧
    (probeEnabled p = true → exec .probeDump s = .next (answer { t with weave := { s.weave with
      probes := mset Probe.idle s.weave.probes cell.toNat { p with trace := [] } } } r 0x00 p.trace))) ∧
  (Asks s 0x006 cell v r → 32 ≤ cell.toNat ∨ v ≠ 0 → OnlyAnswers .probeDump s r 0x0D [])

/-- XLATE_IN, XLATE_OUT, FIELD_RELEASE, SLEEP and RESUME. [05_strands.md, 07_arithmetic.md, 11_host_face.md, 13_selvedge.md,
14_power_and_energy.md] -/
def Obligations.RequestsThatSetAndAct : Prop :=
  ∀ (s : State) (r : Req) (cell : BitVec 8) (v : W64), let t := asked s
  (Asks s 0x00B cell v r → 16 ≤ cell.toNat ∨ xlateInBad v = true → OnlyAnswers .xlateIn s r 0x0D []) ∧
  (Asks s 0x00B cell v r → cell.toNat < 16 → xlateInBad v = false → hostUp s = true →
    (inbInUse s (mget 0 s.host.inb cell.toNat) = true → exec .xlateIn s = .fault (.unpredictable 454 (wreck t))) ∧
    (inbInUse s (mget 0 s.host.inb cell.toNat) = false →
      (∀ j, j < 16 → j ≠ cell.toNat → overlap v (mget 0 s.host.inb j) = false) →
      exec .xlateIn s = .next (answer { t with host := { s.host with inb := mset 0 s.host.inb cell.toNat v } } r 0x00 []))) ∧
  (Asks s 0x00C cell v r → 16 ≤ cell.toNat → OnlyAnswers .xlateOut s r 0x0D []) ∧
  (Asks s 0x00C cell v r → cell.toNat < 16 → v.extractLsb' 6 5 = 0 → 12 ≤ (v.extractLsb' 0 6).toNat →
    (v.extractLsb' 0 6).toNat ≤ 43 → hostUp s = true → outbInUse s.host cell.toNat = false →
    exec .xlateOut s = .next (answer { t with host := { s.host with outb := mset 0 s.host.outb cell.toNat v } } r 0x00 [])) ∧
  (Asks s 0x00F cell v r → v ≠ 0 ∨ 3 ≤ cell.toNat → OnlyAnswers .sleep s r 0x0D []) ∧
  (Asks s 0x00F cell 0 r → cell.toNat < 3 →
    let to' : SleepTo := if cell = 0 then .standby else if cell = 1 then .hibernate else .tending
    let drawn := { t with freeCounter := s.freeCounter + 1 }
    (s.pwr.grace = false → s.pwr.sleepReq = none → exec .sleep s = .next { drawn with pwr := { s.pwr with sleepReq := some to' } }) ∧
    (s.pwr.grace = true → s.pwr.graceSleep = none →
      exec .sleep s = .next { drawn with pwr := { s.pwr with graceSleep := some to' } })) ∧
  (Asks s 0x011 cell v r → 2 ≤ cell.toNat ∨ (∀ p ∈ s.stw.parked, sameTrap v p.trapId = false) →
    OnlyAnswers .resume s r 0x0D []) ∧
  (∀ p, Asks s 0x011 cell v r → cell.toNat < 2 → s.stw.parked.find? (fun p => sameTrap v p.trapId) = some p →
    let c : CellId := p.trapId.extractLsb' 20 8
    (recordUnsettled s p = true → exec .resume s = .fault (.unpredictable 284 (wreck t))) ∧
    (recordUnsettled s p = false → Yields .resume s fun u => u = { t with stw := u.stw, cells := u.cells } ∧
      u.stw = { t.stw with parked := s.stw.parked.erase p } ∧ (∀ d, d ≠ c → cellAt u d = cellAt s d) ∧
      cellAt u c = { cellAt s c with resumed := (cellAt s c).resumed ++ [⟨p.trapId, cell == 1, false, []⟩] })) ∧
  (Asks s 0x00D cell v r → cell ≠ 0 ∨ v ≠ 0 → OnlyAnswers .fieldRelease s r 0x0D []) ∧
  (Asks s 0x00D 0 0 r → selUp s = false ∨ s.sel.linkUp = false → OnlyAnswers .fieldRelease s r 0x0E []) ∧
  (∀ up, Asks s 0x00D 0 0 r → selUp s = true → s.sel.linkUp = true → s.sel.last = some up →
    (up.state = 2 → OnlyAnswers .fieldRelease s r 0x00 []) ∧
    (up.state ≠ 2 → exec .fieldRelease s = .next { t with
      sel := { s.sel with relLeft := 4 }, stw := { t.stw with release := s.stw.release ++ [(r, 0)] } })) ∧
  (stewardUp s = true → selUp s = true → (∃ x ∈ s.stw.release, 16 < x.2) → Yields .fieldReleaseTimeout s fun u =>
    u.stw.release = s.stw.release.filter (fun x => decide (x.2 ≤ 16)) ∧ SameBytes s.mem u.mem ∧
    ∀ q n, s.stw.release = [(q, n)] → u = answer { s with stw := { s.stw with release := [] } } q 0x0E [])

/-- LOAD, its timeout, flash reads, verification and START. [04_tokens.md, 15_first_second.md,
16_tableau_probes_and_physical_access.md, 17_faults_and_unpredictable.md] -/
def Obligations.LoadingAndStarting : Prop :=
  ∀ (s : State),
  (∀ (t : Token) (o : Origin) (b : BitVec 48) (rest : List (Token × Origin × BitVec 48)),
    let r : Req := ⟨t.iteration, 0x001, o, s.stw.taken⟩
    let i := t.iaddr.toNat * 65536 + t.iteration.toNat
    let x := (asked s).stw
    stewardUp s = true → s.pwr.steady = true → s.stw.inbox = (t, o, b) :: rest → t.flow = 0x001 →
    (faceAdmitted s.straps o = false → OnlyAnswers .loadChunk s r 0x0F []) ∧
    (faceAdmitted s.straps o = true → t.cell = 0 →
      (s.stw.started = true → OnlyAnswers .loadChunk s r 0x09 []) ∧
      (loadBusy s o = false → s.stw.load = none → i ≠ 0 → exec .loadChunk s =
        .next (answer { s with stw := { x with loadStatus := 0x0A } } r 0x0A [])) ∧
      (loadBusy s o = false → s.stw.load = none → i = 0 → exec .loadChunk s =
        .next { s with stw := { x with image := none, load := some ⟨some o, leBytes 8 t.value.toNat, some r⟩ } }) ∧
      (∀ l, loadBusy s o = false → s.stw.load = some l →
        (8 * i = l.bytes.length → l.bytes.length + 8 < 64 → exec .loadChunk s = .next { s with stw := { x with
          load := some { l with bytes := l.bytes ++ leBytes 8 t.value.toNat, req := some r } } }) ∧
        (i ≠ l.bytes.length / 8 → Yields .loadChunk s fun u => u.stw.load = none ∧ u.stw.loadStatus = 0x0A ∧
          u.stw.inbox = rest)))) ∧
  (∀ l f, stewardUp s = true → s.stw.load = some l → l.face = some f → verifying s = false →
    Yields .loadTimeout s fun u => u.stw.load = none ∧ u.stw.loadStatus = 0x0A ∧ u.stw.image = s.stw.image) ∧
  (∀ l, stewardUp s = true → s.stw.boot = .reading → s.stw.load = some l →
    (s.jtag.ir = 0 → exec .flashReadDone s = .next s) ∧
    (s.jtag.ir ≠ 0 → tableHere l.bytes = true →
      let new := (List.range (min 4096 (imgTotal l.bytes - l.bytes.length))).map fun i => flashByte s (l.bytes.length + i)
      Yields .flashReadDone s fun u => u.stw.load = some { l with bytes := l.bytes ++ new } ∧
        u.stw.boot = (if imageHere (l.bytes ++ new) then .verifying else .reading))) ∧
  (∀ l, stewardUp s = true → s.stw.load = some l → imageHere l.bytes = true →
    let bs := l.bytes.take (imgTotal l.bytes)
    (finalStatus s l = 0 → imageReserved s.keys bs = true → Unpredictable .imageVerifyDone s 23) ∧
    ((finalStatus s l = 0 → imageReserved s.keys bs = false) →
      Yields .imageVerifyDone s fun u => u.stw.load = none ∧ u.stw.loadStatus = finalStatus s l ∧
      (crcMatches bs = false → u.stw.loadStatus = 0x04) ∧
      (finalStatus s l = 0 → u.stw.image = some (imageOf s.keys bs) ∧
        ∀ q, (unitAt u.locks q).free = quadPages (imgPages bs) q ∧ (unitAt u.locks q).dir = []) ∧
      (finalStatus s l ≠ 0 → u.stw.image = s.stw.image ∧ u.keys.slot0 = s.keys.slot0 ∧ u.keys.slot1 = s.keys.slot1) ∧
      (s.keys.slot0.state = 2 → u.keys.slot0 = s.keys.slot0) ∧ (s.keys.slot1.state = 2 → u.keys.slot1 = s.keys.slot1) ∧
      u.keys.slot2 = s.keys.slot2 ∧ u.keys.device = s.keys.device)) ∧
  (∀ r, Asks s 0x002 0 0 r →
    (s.stw.started = true → OnlyAnswers .start s r 0x09 []) ∧
    (s.stw.started = false → s.stw.image = none → OnlyAnswers .start s r 0x0B []) ∧
    (∀ im b, s.stw.started = false → s.stw.image = some im → s.stw.inbox.head?.map (fun x => x.2.2) = some b →
      let s1 := { asked s with stw := { (asked s).stw with started := true } }
      let base := if r.origin = .strand then s.time.beat else b
      let os := im.init.map fun u => (⟨0, some u.context,
        mkFlit s1 63 0 .strand (.token { u with deadline := base.setWidth 20 + u.deadline })⟩ : Offer)
      exec .start s = .next (answer (produceAll s1 63 true os) r 0x00 [])))

/-- ATTACH_RING, the parameter read, packets, the consumed word and DETACH_RING. [11_host_face.md, 17_faults_and_unpredictable.md] -/
def Obligations.HostRingPackets : Prop :=
  ∀ (s : State) (r : Req) (cell : BitVec 8) (v : W64) (tag : BitVec 5) (g : Ring),
  (Asks s 0x009 cell v r → cell ≠ 0 → exec .attachRing s = .next (answer (bootAgain (asked s)) r 0x0D [])) ∧
  (Asks s 0x009 0 v r → s.host.ring.isSome = true → OnlyAnswers .attachRing s r 0x0E []) ∧
  (Asks s 0x009 0 v r → s.host.ring = none → s.stw.attach = none →
    (hostIssues s = false → exec .attachRing s = .next (answer (bootAgain (asked s)) r 0x0E [])) ∧
    (hostIssues s = true → freeTag s.host = some tag → exec .attachRing s = .next { s with
      out := .memRead tag v 64 :: s.out, stw := { (asked s).stw with attach := some r },
      host := { s.host with tags := mset none s.host.tags tag.toNat (some .params), busy := true } })) ∧
  (∀ data, hostUp s = true → stewardUp s = true → tagFor s.host .params = some tag → s.stw.attach = some r →
    let free := { s.host with tags := mset none s.host.tags tag.toNat none }
    let idle := { s.stw with attach := none }
    (data.length = 64 → paramsBad data = true → exec (.ringParamsReadDone .ok data) s =
      .next (answer { s with stw := idle, host := { free with bootUsed := false } } r 0x0D [])) ∧
    (data.length = 64 → paramsBad data = false → Yields (.ringParamsReadDone .ok data) s fun u => ∃ n : Ring,
      u.host.ring = some n ∧ n.base = BitVec.ofNat 64 (leNat (data.take 8)) ∧ n.produced = 0 ∧ n.consumed = 0 ∧
      n.seq = 0 ∧ n.credit = BitVec.ofNat 64 (leNat ((data.drop 16).take 8)) ∧
      n.consumAt = BitVec.ofNat 64 (leNat ((data.drop 24).take 8)) ∧ n.opened = (r.origin != .host) ∧
      u.stw.attach = none ∧ u.host.bootUsed = false ∧ mget none u.host.tags tag.toNat = none ∧
      (r.origin = .host → u = answer { s with stw := idle
                                              host := { free with ring := some n, bootUsed := false, lastWord := 0 } } r 0x00 [])) ∧
    (∀ st, st ≠ .ok → exec (.ringParamsReadDone st data) s = .next (answer { s with
      out := reportOf st ++ s.out, stw := idle
      host := { free with errors := satAdd s.host.errors 1, bootUsed := false } } r 0x0E []))) ∧
  (Asks s 0x00A 0 0 r → s.host.ring.isSome = true → s.stw.detach = none →
    exec .detachRing s = .next { s with stw := { (asked s).stw with detach := some r } }) ∧
  (let n := min 32 s.host.staging.length
   let length := 16 + 20 * n
   let fits := (length + 31) / 32 * 32 + 32 ≤ 2 ^ g.log2.toNat - (g.produced - g.consumed).toNat
   hostIssues s = true → s.host.ring = some g → g.opened = true → s.host.packet = none → s.stw.detach = none →
   hostDump s = none → s.host.staging ≠ [] →
   (fits → Yields .ringPacketStart s fun u => ∃ p : Packet,
      u = { s with host := { s.host with packet := some p, staging := s.host.staging.drop 32, busy := true,
                                         ring := some { g with asking := false, firsts := g.firsts - 32 } } } ∧
      p.dump = false ∧ p.last = false ∧ p.cut = false ∧ p.written = 0 ∧ p.bytes.length = length ∧
      p.bytes.take 4 = leBytes 4 length ∧ p.bytes.drop 16 = (s.host.staging.take 32).flatMap tokenBytes) ∧
   (¬ fits → Yields .ringPacketStart s fun u => u.host.ring = some { g with asking := true } ∧ (g.asking = true → u = s) ∧
      u.host.staging = s.host.staging ∧ u.host.packet = none)) ∧
  (∀ p, hostIssues s = true → s.host.ring = some g → s.host.packet = some p → p.dump = false →
    (p.cut = true → exec .ringPacketComplete s = .next s) ∧
    (p.cut = false → Yields .ringPacketComplete s fun u => u.host.packet = none ∧ SameBytes s.mem u.mem ∧
      u.host.staging = s.host.staging ∧
      (p.last = false → let n := g.produced + BitVec.ofNat 64 ((p.bytes.length + 31) / 32 * 32)
        u.host.ring = some { g with seq := g.seq + 1, produced := n, ends := g.ends ++ [n] }) ∧
      (p.last = true → u.host.ring = none ∧ u.stw.detach = none))) ∧
  (hostUp s = true → s.host.linkUp = true → tagFor s.host .consumed = some tag → s.host.ring = some g →
    let takes := fun (es : List W64) => Yields (.consumedWordRead .ok v) s fun u => u = { s with host := u.host } ∧
      u.host.ring = some { g with consumed := v, ends := es } ∧ mget none u.host.tags tag.toNat = none
    (v = g.consumed → takes g.ends) ∧
    (∀ l m, v ≠ g.consumed → g.ends = l ++ v :: m → v ∉ l → takes m) ∧
    (v ≠ g.consumed → v ∉ g.ends → Yields (.consumedWordRead .ok v) s fun u =>
      u = { s with host := u.host, time := u.time, freeCounter := s.freeCounter + 1 } ∧
      u.time = { s.time with held := u.time.held } ∧
      (∀ e, isHostEvent e.kind = false → (e ∈ u.time.held ↔ e ∈ s.time.held))))

/-- Host reads and writes of BAR0, BAR2/3, the ROM and configuration, and requests to host memory. [11_host_face.md,
17_faults_and_unpredictable.md] -/
def Obligations.HostAccessesAndRequests : Prop :=
  ∀ (s : State) (f : Flit) (tag : BitVec 5),
  (∀ offset data, exec (.expansionRomWrite offset data) s = .next s) ∧
  (∀ a bs, ∃ ps : List (CplStatus × List Byte),
    completions s a bs = { s with out := (ps.map fun p => Out.completion p.1 p.2).reverse ++ s.out } ∧
    ps.flatMap (·.2) = bs.map (·.1) ∧ ∀ p ∈ ps, 0 < p.2.length ∧ p.2.length ≤ 256) ∧
  (hostUp s = true → s.host.linkUp = true →
    (∀ offset data p,
      (hostAnswers s = false → exec (.bar0Write offset data p) s = .next (emit s (.report .unsupportedRequest))) ∧
      (hostAnswers s = true → exec (.bar0Write offset data true) s = .next (emit s (.report .poisoned)))) ∧
    (∀ offset data p,
      (hostAnswers s = false → exec (.bar23Write offset data p) s = .next (emit s (.report .unsupportedRequest))) ∧
      (hostAnswers s = true → exec (.bar23Write offset data true) s = .next (emit s (.report .poisoned)))) ∧
    (∀ offset data en, let d := offset.toNat / 4
      (s.host.released = false ∨ s.host.flr = true → exec (.configWrite offset data en) s = .next (emit s .retryStatus)) ∧
      (s.host.released = true → s.host.flr = false → Yields (.configWrite offset data en) s fun u =>
        (∀ j < 32, (cfgAt u.host d).getLsbD j = if (cfgMask s.straps d).getLsbD j && en.getLsbD (j / 8) then data.getLsbD j
          else (cfgAt s.host d).getLsbD j) ∧ (∀ e, e ≠ d → cfgAt u.host e = cfgAt s.host e) ∧ u.mem = s.mem)) ∧
    (∀ offset len, 0 < len → offset.toNat + len ≤ 0x10000 →
      (hostAnswers s = true →
        exec (.bar0Read offset len) s = .next (completions s offset.toNat (List.replicate len (0, false)))) ∧
      (hostAnswers s = false → exec (.bar0Read offset len) s = .next (emit s (.completion .ur []))))) ∧
  (hostAnswers s = true →
    (∀ (offset : BitVec 16) (data : List Byte), offset.toNat + data.length ≤ 0x10000 →
      (∃ k ∈ slotsWritten offset.toNat data.length, recordGranted s.host (slotNumber s.host k) = false) →
      exec (.bar0Write offset data false) s = .next (garbleRecords s)) ∧
    (∀ (offset : BitVec 16) (data : List Byte), s.host.bar0 = [] → offset.toNat = 32 * (s.host.nextSeq.toNat % 2048) →
      data.length = 32 → (data.drop 20).all (· == 0) = true → kindOf (tokenOfBytes data).flags ≠ 1 →
      recordGranted s.host s.host.nextSeq = true → (heldOf s isHostEvent).length < 256 →
      Yields (.bar0Write offset data false) s fun u => u.host.nextSeq = s.host.nextSeq + 1 ∧ u.host.bar0 = [] ∧
        u.time = { s.time with held := s.time.held ++ [⟨s.time.beat, 6, 0, false, .host (tokenOfBytes data)⟩] } ∧
        u.mem = s.mem ∧ u.weave = s.weave) ∧
    (∀ offset len, 0 < len → len ≤ 4096 →
      (windowAddr s offset len = none → exec (.bar23Read offset len) s = .next { s with
        out := .completion .ur [] :: s.out, host := { s.host with misses := satAdd s.host.misses 1 } }) ∧
      (∀ a ro, windowAddr s offset len = some (a, ro) →
        let s1 := { s with host := { s.host with reads := s.host.reads ++ [⟨s.host.readNo, a, len, []⟩]
                                                 readNo := s.host.readNo + 1 } }
        exec (.bar23Read offset len) s = .next (produceAll s1 0 true
          ((List.range ((a.toNat % 8 + len + 7) / 8)).map fun i => (⟨0, none, mkFlit s 0 2 .host
            (.read (BitVec.ofNat 48 (a.toNat / 8 * 8 + 8 * i)) .host
              (BitVec.ofNat 64 (s.host.readNo * 1024 + i)))⟩ : Offer))))) ∧
    (∀ offset data, data ≠ [] → let missed := { s with host := { s.host with misses := satAdd s.host.misses 1 } }
      (windowAddr s offset data.length = none → exec (.bar23Write offset data false) s =
        .next (emit missed (.report .unsupportedRequest))) ∧
      (∀ a, windowAddr s offset data.length = some (a, true) → exec (.bar23Write offset data false) s = .next missed) ∧
      (∀ a, windowAddr s offset data.length = some (a, false) → rangeOf a ≠ .flash → a.toNat % 8 + data.length ≤ 8 →
        ∃ (m : BitVec 8) (v : W64), exec (.bar23Write offset data false) s = .next (produce s 0 true
            ⟨0, none, mkFlit s 0 2 .host (.write (BitVec.ofNat 48 (a.toNat / 8 * 8)) m v .host 0)⟩) ∧
          (∀ j < 8, m.getLsbD j = (decide (a.toNat % 8 ≤ j) && decide (j < a.toNat % 8 + data.length))) ∧
          ∀ j < data.length, v.extractLsb' (8 * (a.toNat % 8 + j)) 8 = data.getD j 0))) ∧
  (tileUp s 0 = true → takeHead s.weave 0 true 1 isHostReq isHostReq = some f → let s1 := taken s 0 true f
    (∀ a tag0, f.msg = .iclear a tag0 → exec .hostRequestIssue s = .next s1) ∧
    (hostIssues s = false → (∀ a tag0, f.msg ≠ .iclear a tag0) →
      exec .hostRequestIssue s = .next (hostReqFails s1 f 0x04)) ∧
    (hostIssues s = true →
      (∀ a rf tag0, f.msg = .read a rf tag0 → xlate s.host a = none → exec .hostRequestIssue s =
        .next (hostReqFails { s1 with host := { s.host with tmisses := satAdd s.host.tmisses 1 } } f 0x01)) ∧
      (∀ a l tag0 ha, f.msg = .read a (.load l) tag0 → xlate s.host a = some ha →
        (freeTag s.host = none → exec .hostRequestIssue s = .next s) ∧
        (freeTag s.host = some tag → exec .hostRequestIssue s = .next { s1 with
          out := .memRead tag ha (2 ^ l.size.toNat) :: s.out,
          host := { s.host with tags := mset none s.host.tags tag.toNat (some (.read a (.load l) tag0 f.pri))
                                busy := true } })) ∧
      (∀ a v wf tag0 ha, f.msg = .write a 0xFF v wf tag0 → a.toNat % 8 = 0 → xlate s.host a = some ha →
        exec .hostRequestIssue s = .next (emit s1 (.memWrite ha (leBytes 8 v.toNat)))))) ∧
  (∀ a l tag0 pri, hostUp s = true → mget none s.host.tags tag.toNat = some (.read a (.load l) tag0 pri) →
    let h := { s.host with tags := mset none s.host.tags tag.toNat none }
    (∀ w, s.host.linkUp = true → l.size = 3 → a.toNat % 8 = 0 → exec (.hostCompletion tag .ok w) s =
      .next (placeSend { s with host := h } (.extra 0) pri (.token (tokenTo l.tag w l.dl l.fl 0)))) ∧
    (∀ st w, s.host.linkUp = true → st ≠ .ok → Yields (.hostCompletion tag st w) s fun u =>
      u.host = { h with errors := satAdd h.errors 1 } ∧ u.out = reportOf st ++ s.out ∧ SameOutside s.mem u.mem 0 0x100000) ∧
    (Yields (.hostCompletionTimeout tag) s fun u => u.host = { h with timeouts := satAdd h.timeouts 1 } ∧
      u.out = .report .completionTimeout :: s.out)) ∧
  (∀ st w, hostUp s = true → s.host.linkUp = true → mget none s.host.tags tag.toNat = none → tag ∉ s.host.abandoned →
    exec (.hostCompletion tag st w) s = .next (emit s (.report .unexpectedCompletion)))

/-- Bus Master Enable, D3hot, L1, link training and the resets of the host face. [11_host_face.md] -/
def Obligations.HostFaceModesAndResets : Prop :=
  ∀ (s : State), let h := s.host
  let off := fun (u : State) (cause : BitVec 2) => u.time = (if s.stw.started then { s.time with held := s.time.held ++
    [⟨s.time.beat, 1, 0, false, .notice 0x082 ((BitVec.ofNat 8 (tagsOut h) ++ (0 : BitVec 6) ++ cause : BitVec 16).setWidth 64)⟩] }
    else s.time)
  let cleared := fun (u : State) => u.host.bme = false ∧ u.host.d3hot = false ∧ u.host.ring = none ∧ u.host.packet = none ∧
    u.host.staging = [] ∧ u.host.inb = [] ∧ u.host.outb = h.outb ∧ u.host.tags = [] ∧ u.host.bar0 = [] ∧
    u.host.nextSeq = 0 ∧ u.host.reads = [] ∧ u.host.released = h.released
  (hostUp s = true → h.linkUp = true →
    (h.flr = true ∨ h.released = false → ∀ c ∈ ([.busMasterDisable, .busMasterEnable, .d3hotEntry, .d0Return,
      .functionLevelReset] : List Instr), exec c s = .next (emit s .retryStatus)) ∧
    (h.flr = false → h.released = true →
      (h.bme = false → exec .busMasterDisable s = .next s) ∧
      (h.bme = true → h.packet = none → Yields .busMasterDisable s fun u => off u 1 ∧
        u.host = { h with bme := false, staging := [], discards := satAdd h.discards h.staging.length } ∧
        u = { s with host := u.host, time := u.time }) ∧
      (∀ p g, h.bme = true → h.packet = some p → h.ring = some g → p.cut = false → Yields .busMasterDisable s fun u =>
        off u 1 ∧ u.host.bme = false ∧ u.host.staging = [] ∧ u.host.ring = some g ∧ u.mem = s.mem ∧
        ∃ n, u.host.packet = some { p with written := n, cut := true }) ∧
      (h.bme = true → exec .busMasterEnable s = .next s) ∧
      (h.bme = false → h.d3hot = true → exec .busMasterEnable s = .next { s with host := { h with bme := true } }) ∧
      (h.bme = false → h.d3hot = false →
        (h.ring = none → Yields .busMasterEnable s fun u => u.host.bme = true ∧ u.time = s.time ∧ u.mem = s.mem) ∧
        (∀ g, h.ring = some g →
          (h.packet = none → Yields .busMasterEnable s fun u => off u 0 ∧ u.host.bme = true ∧ u.host.ring = some g ∧
            u.mem = s.mem) ∧
          (∀ p, h.packet = some p → p.cut = true → Yields .busMasterEnable s fun u => off u 0 ∧ u.host.bme = true ∧
            u.host.packet = none ∧ u.mem = s.mem ∧ let n := g.produced + BitVec.ofNat 64 ((p.written + 31) / 32 * 32)
            u.host.ring = some { g with seq := g.seq + 1, produced := n, ends := g.ends ++ [n] }))) ∧
      (h.d3hot = true → exec .d3hotEntry s = .next s) ∧
      (h.d3hot = false → Yields .d3hotEntry s fun u => u.host.d3hot = true ∧ u.mem = s.mem ∧
        (h.packet = none → off u 2 ∧ u.host = { h with d3hot := true })) ∧
      (h.d3hot = false → exec .d0Return s = .next s) ∧
      (h.d3hot = true → h.packet = none → Yields .d0Return s fun u => u.host.d3hot = false ∧ u.host.bme = h.bme ∧
        u.time = s.time ∧ u.mem = s.mem ∧ (h.msiHeld = 0 → u = { s with host := { h with d3hot := false } })) ∧
      (Yields .functionLevelReset s fun u => cleared u ∧ u.host.flr = true ∧ u.host.linkUp = true)) ∧
    (Yields .hotReset s fun u => cleared u ∧ u.host.flr = false ∧ u.host.linkUp = true) ∧
    (Yields .hostLinkDown s fun u => cleared u ∧ u.host.flr = false ∧ u.host.linkUp = false) ∧
    ((cfgAt h 0x20).getLsbD 1 = true → tlpPending h = false → exec .aspmL1Entry s = .next (emit s .l1))) ∧
  (hostUp s = true →
    (Yields .perstNAssert s fun u => cleared u ∧ u.host.linkUp = false ∧ u.pwr = { s.pwr with perstN := false }) ∧
    (h.flr = true → exec .flrComplete s = .next { s with host := { h with flr := false } }) ∧
    (∀ w g : BitVec 4, s.pwr.perstN = true → h.linkUp = false → w = 1 ∨ w = 2 ∨ w = 4 → w.toNat ≤ (hostLimits s.straps.host).1 →
      1 ≤ g.toNat → g.toNat ≤ (hostLimits s.straps.host).2 → exec (.hostLinkTrained w g) s =
        .next { s with host := { h with linkUp := true, width := w, gen := g } })) ∧
  (hostUp s = false → exec .perstNAssert s = .next { s with pwr := { s.pwr with perstN := false } })

/-- The shuttle receiver: alignment, accepted, repeated, late and bad frames, INIT and loss of alignment. How many code
violations came before a frame is a free value (log 28). [12_shuttle_and_row_links.md] -/
def Obligations.ShuttleFramesReceived : Prop :=
  ∀ (s : State) (bs : List Byte), let x := s.sh
  let nak := (byteAt bs 6).getLsbD 0
  let d := (frameSeq bs - x.exp).toNat
  let good := frameGood bs = true ∧ frameReserved bs = false
  let only := fun (u : State) => u = { s with sh := u.sh, freeCounter := s.freeCounter + 1 }
  let acked := fun (u : State) => u.sh.held = stillHeld x.held (frameAck bs) ∧ u.sh.partner = frameCredit bs
  let taken' := fun (u : State) => acked u ∧ u.sh.exp = x.exp + 1 ∧ u.sh.owed = true ∧ u.sh.oweNak = false ∧
    u.sh.naked = false ∧ u.sh.next = x.next ∧ u.sh.tx = x.tx ∧ mget 0 u.sh.counts 1 = satAdd (mget 0 x.counts 1) 1
  let dropped := fun (u : State) => mget 0 u.sh.counts 2 = satAdd (mget 0 x.counts 2) 1 ∧ u.sh.exp = x.exp ∧ u.sh.tx = x.tx
  shuttleUp s = true →
  (x.aligned = false → exec .shuttleAligned s = .next { s with sh := { x with aligned := true } } ∧
    exec (.shuttleTokensFrame bs) s = .next s) ∧
  (∀ c ∈ ([.shuttleRawFrame bs, .shuttleLinkFrame bs, .shuttleInitFrame bs, .shuttleBadFrame (.whole bs)] : List Instr),
    exec c s = exec (.shuttleTokensFrame bs) s) ∧
  (x.aligned = true →
    (good → d = 0 → withinCredit s bs = true → nak = false →
      (byteAt bs 0 = 1 → (∀ t ∈ frameTokens bs, kindOf t.flags ≠ 1) → Yields (.shuttleTokensFrame bs) s fun u =>
        taken' u ∧ (u.time = { s.time with held := u.time.held } ∧ u.time.held = s.time.held ++
          (frameTokens bs).map fun t => ⟨s.time.beat, 5, 0, false, .shuttle t⟩) ∧ u.sh.raw = x.raw ∧
        (frameTokens bs).length = (byteAt bs 1).toNat ∧
        u = { s with sh := u.sh, time := u.time, freeCounter := s.freeCounter + 1 }) ∧
      (byteAt bs 0 = 2 → Yields (.shuttleRawFrame bs) s fun u => taken' u ∧ u.sh.raw = x.raw ++ payloadWords (framePayload bs) ∧
        (payloadWords (framePayload bs)).length = (byteAt bs 1).toNat ∧ only u)) ∧
    (good → d = 0 → withinCredit s bs = true → byteAt bs 0 = 1 → (∃ t ∈ frameTokens bs, kindOf t.flags = 1) →
      exec (.shuttleTokensFrame bs) s = .fault (.unpredictable 122 (wreck { s with
        sh := { x with counts := bumpCount x.counts 3 (freeNow s).toNat }, freeCounter := s.freeCounter + 1 }))) ∧
    (good → byteAt bs 0 = 4 →
      (nak = false → Yields (.shuttleLinkFrame bs) s fun u => acked u ∧ only u ∧ u.sh.exp = x.exp ∧ u.sh.owed = x.owed ∧
        u.sh.again = min x.again u.sh.held.length) ∧
      (nak = true → x.resends < 16 → Yields (.shuttleLinkFrame bs) s fun u => acked u ∧ only u ∧ u.sh.exp = x.exp ∧
        u.sh.again = u.sh.held.length) ∧
      (nak = true → 16 ≤ x.resends → stillHeld x.held (frameAck bs) = x.held → x.again < x.held.length →
        Yields (.shuttleLinkFrame bs) s fun u => u.sh.up = false ∧ u.sh.aligned = false ∧ u.sh.held = x.held)) ∧
    (Yields (.shuttleBadFrame .line) s fun u => dropped u ∧ only u ∧
      u.sh = { x with naked := true, oweNak := x.oweNak || !x.naked, counts := u.sh.counts }) ∧
    (frameGood bs = false → Yields (.shuttleBadFrame (.whole bs)) s fun u => dropped u ∧ only u ∧
      u.sh = { x with naked := true, oweNak := x.oweNak || !x.naked, counts := u.sh.counts }) ∧
    (good → byteAt bs 0 = 1 ∨ byteAt bs 0 = 2 →
      (d = 0 → withinCredit s bs = false → Yields (.shuttleBadFrame (.whole bs)) s fun u => dropped u ∧ only u ∧
        u.sh = { x with naked := true, oweNak := x.oweNak || !x.naked, counts := u.sh.counts }) ∧
      (248 ≤ d → nak = false → Yields (.shuttleBadFrame (.whole bs)) s fun u => dropped u ∧ only u ∧ acked u ∧
        u.sh.owed = true ∧ u.sh.oweNak = x.oweNak ∧ u.sh.naked = x.naked) ∧
      (0 < d → d < 248 → nak = false → Yields (.shuttleBadFrame (.whole bs)) s fun u => dropped u ∧ only u ∧ acked u ∧
        u.sh.naked = true ∧ u.sh.oweNak = (x.oweNak || !x.naked))) ∧
    (good → byteAt bs 0 = 5 →
      (x.up = true → Yields (.shuttleInitFrame bs) s fun u => u.sh.up = false ∧ u.sh.aligned = false ∧ u.sh.held = x.held ∧
        u.sh.tx = x.tx ∧ u.sh.raw = x.raw ∧ mget 0 u.sh.counts 6 = satAdd (mget 0 x.counts 6) 1) ∧
      (x.up = false → (byteAt bs 6).getLsbD 1 = false → Yields (.shuttleInitFrame bs) s fun u => acked u ∧
        only u ∧ u.sh.seen = true ∧ u.sh.up = (byteAt bs 6).getLsbD 2 ∧ u.sh.again = u.sh.held.length ∧
        u.sh.exp = x.exp ∧ u.sh.next = x.next) ∧
      (x.up = false → (byteAt bs 6).getLsbD 1 = true → Yields (.shuttleInitFrame bs) s fun u =>
        u.sh.seen = true ∧ u.sh.up = (byteAt bs 6).getLsbD 2 ∧ u.sh.exp = 0 ∧ u.sh.u = 0 ∧ u.sh.recv = 0 ∧ u.sh.credit = 0 ∧
        u.sh.sent = 0 ∧ u.sh.partner = frameCredit bs ∧ u.sh.held.map ShFrame.payload = x.held.map ShFrame.payload ∧
        u.sh.again = x.held.length ∧ u.sh.next = BitVec.ofNat 8 x.held.length ∧
        mget 0 u.sh.counts 7 = satAdd (mget 0 x.counts 7) 1 ∧
        ∀ i f, u.sh.held[i]? = some f → f.seq = BitVec.ofNat 8 i)) ∧
    (Yields .shuttleAlignmentLost s fun u => u.sh.aligned = false ∧ u.sh.seen = false ∧ u.sh.up = false ∧
      u.sh.held = x.held ∧ u.sh.tx = x.tx ∧ u.sh.exp = x.exp ∧ u.sh.naked = x.naked ∧
      mget 0 u.sh.counts 6 = satAdd (mget 0 x.counts 6) x.up.toNat))

/-- The shuttle sender: INIT, LINK and NAK, replay, new frames within credit, and raw words that move on (type
order: log 20). [12_shuttle_and_row_links.md] -/
def Obligations.ShuttleFramesSent : Prop :=
  ∀ (s : State), let x := s.sh
  shuttleUp s = true →
  (x.aligned = true → x.up = false → Yields .shuttleInitTimer s fun u => ∃ ctl : Byte, ctl.getLsbD 0 = false ∧
    ctl.getLsbD 1 = x.fresh ∧ ctl.getLsbD 2 = x.seen ∧ ctl >>> 3 = 0 ∧ u.out = .shuttle (frameBytes s 5 0 0 ctl []) :: s.out ∧
    u = { s with out := u.out, sh := u.sh } ∧ u.sh.held = x.held ∧ u.sh.exp = x.exp) ∧
  (x.up = true →
    let link := fun (u : State) => u.out = .shuttle (frameBytes s 4 0 0 (if x.oweNak then 1 else 0) []) :: s.out ∧
      u = { s with out := u.out, sh := { x with owed := false, oweNak := false, credit := grantedCredit s, counts := u.sh.counts } }
    (linkOwed s = true → Yields .shuttleLinkFrameDue s link) ∧
    (x.held ≠ [] →
      (x.again ≠ 0 → exec .shuttleReplayTimeout s = .next s) ∧
      (x.again = 0 → x.resends < 16 → Yields .shuttleReplayTimeout s fun u =>
        u = { s with sh := { x with again := x.held.length, counts := u.sh.counts } } ∧
        mget 0 u.sh.counts 5 = satAdd (mget 0 x.counts 5) 1) ∧
      (x.again = 0 → 16 ≤ x.resends → Yields .shuttleReplayTimeout s fun u => u.sh.up = false ∧ u.sh.aligned = false ∧
        u.sh.held = x.held ∧ u.sh.tx = x.tx ∧ u.sh.raw = x.raw)) ∧
    (x.oweNak = true → Yields .shuttleFrameSend s link) ∧
    (x.oweNak = false →
      (∀ f, x.again ≠ 0 → x.held[x.held.length - x.again]? = some f →
        (x.uncounted < x.again → Yields .shuttleFrameSend s fun u =>
          u.out = .shuttle (frameBytes s f.ftype f.count f.seq 0 f.payload) :: s.out ∧ u.sh.held = x.held ∧
          u.sh.again = x.again - 1 ∧ u.sh.next = x.next ∧ u.sh.sent = x.sent ∧
          u.sh.resends = (if x.again = x.held.length then x.resends + 1 else x.resends) ∧
          u = { s with out := u.out, sh := u.sh }) ∧
        (x.again ≤ x.uncounted → unitsAdmitted x < frameUnits f.ftype f.count → exec .shuttleFrameSend s = .next s)) ∧
      (x.again = 0 → 8 ≤ x.held.length → exec .shuttleFrameSend s = .next s) ∧
      (x.again = 0 → x.held.length < 8 → x.turn = 0 → x.tx ≠ [] → unitsAdmitted x ≠ 0 →
        let n := min (min 4 (unitsAdmitted x)) x.tx.length
        let bs := (x.tx.take n).flatMap tokenBytes
        Yields .shuttleFrameSend s fun u => u.out = .shuttle (frameBytes s 1 (BitVec.ofNat 8 n) x.next 0 bs) :: s.out ∧
          u.sh.held = x.held ++ [⟨1, BitVec.ofNat 8 n, x.next, bs⟩] ∧ u.sh.next = x.next + 1 ∧ u.sh.tx = x.tx.drop n ∧
          u.sh.sent = x.sent + BitVec.ofNat 16 n ∧ u = { s with out := u.out, sh := u.sh }) ∧
      (x.again = 0 → x.held.length < 8 → x.turn = 1 → s.streams.shPut ≠ [] → unitsAdmitted x ≠ 0 →
        let n := min (min 8 (unitsAdmitted x)) s.streams.shPut.length
        let bs := (s.streams.shPut.take n).flatMap fun w => leBytes 8 w.toNat
        Yields .shuttleFrameSend s fun u => u.out = .shuttle (frameBytes s 2 (BitVec.ofNat 8 n) x.next 0 bs) :: s.out ∧
          u.sh.held = x.held ++ [⟨2, BitVec.ofNat 8 n, x.next, bs⟩] ∧ u.sh.next = x.next + 1 ∧ u.sh.tx = x.tx ∧
          u.sh.sent = x.sent + BitVec.ofNat 16 n ∧ u.streams = { s.streams with shPut := s.streams.shPut.drop n } ∧
          u = { s with out := u.out, sh := u.sh, streams := u.streams }))) ∧
  (∀ w r, x.raw = w :: r →
    (s.streams.shTake.length < 128 → exec .shuttleRawMove s = .next { s with
      sh := { x with raw := r, u := x.u + 1 }, streams := { s.streams with shTake := s.streams.shTake ++ [w] } }) ∧
    (128 ≤ s.streams.shTake.length → exec .shuttleRawMove s = .next s))

/-- The row receiver: TOKENS, ANSWER, UNDELIVERABLE, SINK, LINK, HELLO, raw, bad and forwarded frames.
[12_shuttle_and_row_links.md, 17_faults_and_unpredictable.md] -/
def Obligations.RowFramesReceived : Prop :=
  ∀ (s : State) (p : RowId) (bs : List Byte), let P := rowAt s p
  let count := fun (u : State) (i n : Nat) => mget 0 (rowAt u p).counts i = satAdd (mget 0 P.counts i) n
  let quiet := fun (u : State) => SameBytes s.mem u.mem ∧ u.cells = s.cells ∧ u.out = s.out ∧ u.host = s.host ∧ u.sh = s.sh
  let heard := fun (u : State) => quiet u ∧ count u 0 1 ∧ (rowAt u p).nLcredit = half bs 22 ∧
    (rowAt u p).nFcredit = half bs 24 ∧ (rowAt u p).lr = half bs 26 ∧ (rowAt u p).fr = half bs 28
  let alone := fun (u : State) => heard u ∧ rowAt u (otherRow p) = rowAt s (otherRow p)
  let O := rowAt s (otherRow p)
  rowUp s p = true → P.phyUp = true →
  (∀ c ∈ ([.rowAnswerFrame p bs, .rowUndeliverableFrame p bs, .rowSinkFrame p bs, .rowLinkFrame p bs, .rowHelloFrame p bs,
    .rowRawFrame p bs, .rowForwardFrame p bs true] : List Instr), exec c s = exec (.rowTokensFrame p bs) s) ∧
  (formatGood bs = true → reservedSet bs = true → Unpredictable (.rowTokensFrame p bs) s 23) ∧
  (formatGood bs = true → reservedSet bs = false →
    (forThisNode s bs = true → rfType bs = 1 ∨ rfType bs = 2 ∨ rfType bs = 3 →
      (fitsLocal s p bs = false → exec (.rowTokensFrame p bs) s = .fault (.unpredictable 485 (wreck (hopTaken s p bs)))) ∧
      (fitsLocal s p bs = true →
        (rfType bs = 1 → (∀ t ∈ rfTokens bs, kindOf t.flags ≠ 1) →
          Yields (.rowTokensFrame p bs) s fun u => alone u ∧ (u.time = { s.time with held := u.time.held } ∧
            u.time.held = s.time.held ++ (rfTokens bs).map fun t =>
              ⟨s.time.beat, 7, (isB p).toNat, false, .row (isB p) (rfSrc bs) t ((rfFlags bs).extractLsb' 4 3)⟩) ∧
            (rfTokens bs).length = rfLen bs / 20 ∧ u.streams = s.streams) ∧
        (rfType bs = 1 → (∃ t ∈ rfTokens bs, kindOf t.flags = 1) →
          exec (.rowTokensFrame p bs) s = .fault (.unpredictable 122 (wreck (hopTaken s p bs)))) ∧
        (rfType bs = 2 ∨ rfType bs = 3 → s.pwr.steady = false → Yields (.rowAnswerFrame p bs) s fun u => alone u ∧
          (rowAt u p).kept = P.kept ++ [answerWords s bs] ∧ u.time = s.time ∧ u.streams = s.streams ∧ u.weave = s.weave) ∧
        (rfType bs = 2 → s.pwr.steady = true → P.answers = [] →
          Yields (.rowAnswerFrame p bs) s fun u => alone u ∧ u.time = s.time ∧
            (rawFits s p (rawWords s 2 bs).length = true → (rowAt u p).answers = [] ∧
              rawTake u p = rawTake s p ++ rawWords s 2 bs) ∧
            (rawFits s p (rawWords s 2 bs).length = false → (rowAt u p).answers.length = 1 ∧ u.streams = s.streams)) ∧
        (rfType bs = 3 → s.pwr.steady = true → Yields (.rowUndeliverableFrame p bs) s fun u => alone u ∧
          count u 7 (if s.stw.started then (rfTokens bs).length else 0) ∧
          u.time = s.time ∧ u.streams = s.streams ∧ (s.stw.started = false → u.weave = s.weave ∧ u.stw = s.stw) ∧
          (s.stw.started = true → tagInLimit s (defaultHandler s) = true →
            u.stw.nodeSerial = s.stw.nodeSerial + BitVec.ofNat 16 (rfTokens bs).length)))) ∧
    (rfType bs = 4 → Yields (.rowSinkFrame p bs) s fun u => alone u ∧ u.time = s.time ∧
      (rawFits s p (rawWords s 1 bs).length = true → rawTake u p = rawTake s p ++ rawWords s 1 bs) ∧
      (rawFits s p (rawWords s 1 bs).length = false → u.streams = s.streams ∧ count u 4 1)) ∧
    (rfType bs = 5 → Yields (.rowLinkFrame p bs) s fun u => heard u ∧ u = setRow s p (rowAt u p) ∧
      (rowAt u p).own = P.own ∧ (rowAt u p).fwd = P.fwd ∧ (rowAt u p).usable = P.usable) ∧
    (rfType bs = 6 → Yields (.rowHelloFrame p bs) s fun u => heard u ∧ u = setRow s p (rowAt u p) ∧
      (rowAt u p).heard = true ∧ (rowAt u p).neighbor = some (rfSrc bs) ∧ (rowAt u p).own = P.own ∧
      (rowAt u p).usable = (P.usable || (rfFlags bs).getLsbD 1) ∧
      ((rfFlags bs).getLsbD 1 = true → (rowAt u p).everUp = true ∧ (rowAt u p).grace = false)) ∧
    (forThisNode s bs = false → rfType bs = 1 ∨ rfType bs = 2 ∨ rfType bs = 3 →
      (rowOn s.straps (otherRow p) = false → Yields (.rowForwardFrame p bs true) s fun u => alone u ∧ count u 3 1 ∧
        u.time = s.time) ∧
      (rowOn s.straps (otherRow p) = true → fitsForward s p bs = true → O.graceOver = false ∨ O.usable = true →
        Yields (.rowForwardFrame p bs true) s fun u => heard u ∧ (rowAt u (otherRow p)).fwd = O.fwd ++ [bs] ∧
          (rowAt u (otherRow p)).own = O.own ∧ u.time = s.time) ∧
      (rowOn s.straps (otherRow p) = true → fitsForward s p bs = false →
        exec (.rowForwardFrame p bs true) s = .fault (.unpredictable 485 (wreck (hopTaken s p bs)))))) ∧
  (sizeGood bs = true → isTokenFrame bs = false → Yields (.rowRawFrame p bs) s fun u => quiet u ∧ count u 0 1 ∧
    u.time = s.time ∧ (rowAt u p).nLcredit = P.nLcredit ∧
    (rawFits s p (rawWords s 0 bs).length = true → rawTake u p = rawTake s p ++ rawWords s 0 bs) ∧
    (rawFits s p (rawWords s 0 bs).length = false → u.streams = s.streams ∧ count u 4 1)) ∧
  (exec (.rowForwardFrame p bs false) s = exec (.rowBadFrame p bs) s) ∧
  (Yields (.rowBadFrame p bs) s fun u => count u 1 1 ∧ rowAt u p = { P with counts := (rowAt u p).counts } ∧
    (rowAt u (otherRow p)).fwd = O.fwd ∧ (rowAt u (otherRow p)).own = O.own ∧ u.time = s.time ∧ u.mem = s.mem ∧
    u.weave = s.weave ∧ (forThisNode s bs = true ∨ isTokenFrame bs = false →
      u = { setRow s p (rowAt u p) with freeCounter := s.freeCounter + 1 }))

/-- The row sender: tokens that reach the face, HELLO, LINK, own and forwarded frames, link start and loss, grace.
[12_shuttle_and_row_links.md] -/
def Obligations.RowFramesSentAndLinks : Prop :=
  ∀ (s : State) (p : RowId) (f : Flit) (t : Token), let P := rowAt s p
  let me := nodeId s.straps
  let count := fun (u : State) (i n : Nat) => mget 0 (rowAt u p).counts i = satAdd (mget 0 P.counts i) n
  let hop := fun (u : State) (w : List Byte) => u.out = .row (isB p) w true :: s.out ∧ half w 22 = grantLocal s p ∧
    half w 24 = grantForward s p ∧ half w 26 = (rowAt u p).lnext ∧ half w 28 = (rowAt u p).fnext ∧ u.mem = s.mem ∧
    u.weave = s.weave ∧ rowAt u (otherRow p) = rowAt s (otherRow p)
  (∀ net3, let vn : BitVec 2 := if net3 then 3 else 0
    tileUp s 56 = true →
    (takeHead s.weave 56 true vn (rowTakesNow s) (rowTakesNow s) = none →
      (outAt s.weave (outKey 56 true vn)).any (rowTakes s) = true → exec (.tokenToRowFace net3) s = .next s) ∧
    (takeHead s.weave 56 true vn (rowTakesNow s) (rowTakesNow s) = some f → f.msg = .token t →
      let stays := fun (u : State) => u.weave = (taken s 56 true f).weave ∧ u.mem = s.mem ∧ u.stw = s.stw
      (P.graceOver = false ∨ P.usable = true →
        (sinkPort t.context = some p → Yields (.tokenToRowFace net3) s fun u => stays u ∧ (rowAt u p).own = P.own ++ [.sink t]) ∧
        (sinkPort t.context = none → f.origin = .strand → nodeUnassigned s.straps = false → rowOn s.straps p = true →
          (if p = .b then me < f.home else f.home < me) →
          Yields (.tokenToRowFace net3) s fun u => stays u ∧ (rowAt u p).own = P.own ++ [.token f.home t]) ∧
        (∀ node, t.context = 0 → f.origin = .row (isB p) node → P.own = [] → Yields (.tokenToRowFace net3) s fun u =>
          stays u ∧ (rowAt u p).own = [.answer node (t.value.extractLsb' 8 16).toNat [t]])) ∧
      (sinkPort t.context = none → f.origin = .strand → f.home = me → s.stw.started = true →
        tagInLimit s (defaultHandler s) = true → Yields (.tokenToRowFace net3) s fun u =>
          u.stw.nodeSerial = s.stw.nodeSerial + 1 ∧ u.rowA = s.rowA ∧ u.rowB = s.rowB))) ∧
  (rowUp s p = true →
    (P.phyUp = true →
      (P.helloDue = true → Yields (.rowFrameSend p) s fun u => ∃ w, hop u w ∧ rfType w = 6 ∧ rfNoDst w = true ∧ rfSrc w = me ∧
        (rfFlags w).getLsbD 1 = P.heard ∧ w.length = 60 ∧ (rowAt u p).helloDue = false ∧ (rowAt u p).lnext = P.lnext ∧
        (rowAt u p).fnext = P.fnext) ∧
      (P.helloDue = false → P.usable = true →
        (P.linkDue = true ∨ grantAdvanced s p = true → Yields (.rowFrameSend p) s fun u => ∃ w, hop u w ∧ rfType w = 5 ∧
          (rowAt u p).linkDue = false ∧ (rowAt u p).lnext = P.lnext ∧ (rowAt u p).own = P.own ∧ (rowAt u p).fwd = P.fwd) ∧
        (P.linkDue = false → grantAdvanced s p = false →
          (∀ d, P.fwd = [] → P.own = [.token d t] → P.ready = [.token d t] → tokensAdmitted P d ≠ 0 →
            Yields (.rowFrameSend p) s fun u => ∃ w, hop u w ∧ rfType w = 1 ∧ rfDst w = d ∧ rfSrc w = me ∧
              (rfFlags w).getLsbD 0 = wantsCredit P ∧
              rfTokens w = [{ t with deadline := offsetOf s t.deadline }] ∧ (rowAt u p).own = [] ∧
              (chargedLocal P d = true → (rowAt u p).lnext = P.lnext + 1 ∧ (rowAt u p).fnext = P.fnext) ∧
              (chargedLocal P d = false → (rowAt u p).lnext = P.lnext ∧ (rowAt u p).fnext = P.fnext + 1)) ∧
          (∀ g, P.fwd = [] → P.own = [.undeliverable g] → P.ready = [.undeliverable g] → 60 ≤ g.length →
            addressedReady P g = true → Yields (.rowFrameSend p) s fun u => ∃ w, hop u w ∧ w.take 15 = g.take 15 ∧
              (rfFlags w).getLsbD 0 = wantsCredit P ∧ w.drop 30 = g.drop 30 ∧ (rowAt u p).own = []) ∧
          (∀ g, P.fwd = [g] → P.ready = [] → 60 ≤ g.length → addressedReady P g = true →
            Yields (.rowFrameSend p) s fun u => ∃ w, hop u w ∧ w.take 22 = g.take 22 ∧ w.drop 30 = g.drop 30 ∧
              (rowAt u p).fwd = [] ∧ count u 2 1))) ∧
      (exec (.rowHelloTimer p) s = .next (setRow s p { P with helloDue := true })) ∧
      (Yields (.rowLinkLoss p) s fun u => (rowAt u p).phyUp = false ∧ (rowAt u p).usable = false ∧
        (rowAt u p).heard = false ∧ (rowAt u p).own = P.own ∧ (rowAt u p).fwd = P.fwd ∧
        (rowAt u p).grace = (P.grace || P.usable) ∧ count u 6 P.usable.toNat ∧
        rowAt u (otherRow p) = rowAt s (otherRow p) ∧
        (P.usable = false → s.stw.load = none → u = setRow s p (rowAt u p)))) ∧
    (P.usable = true → exec (.rowLinkFrameDue p) s = .next (setRow s p { P with linkDue := true })) ∧
    (P.phyUp = false →
      (s.pwr.started = true → exec (.neighbourTrainingDetected p) s = .next (setRow s p { P with training := true })) ∧
      (P.training = true → Yields (.rowPhyLinkUp p) s fun u => u = setRow s p (rowAt u p) ∧ (rowAt u p).phyUp = true ∧
        (rowAt u p).heard = false ∧ (rowAt u p).lnext = 0 ∧ (rowAt u p).fnext = 0 ∧ (rowAt u p).lr = 0 ∧
        (rowAt u p).fr = 0 ∧ (rowAt u p).own = P.own ∧ (rowAt u p).fwd = P.fwd)) ∧
    (P.grace = true → P.usable = false → P.fwd = [] → (∀ o ∈ P.own, ∃ d v, o = .token d v) →
      Yields (.rowGraceExpired p) s fun u => (rowAt u p).own = [] ∧ (rowAt u p).graceOver = true ∧ (rowAt u p).grace = false ∧
        count u 7 (if s.stw.started then P.own.length else 0) ∧ SameBytes s.mem u.mem ∧
        (s.stw.started = false → u.weave = s.weave) ∧
        (s.stw.started = true → tagInLimit s (defaultHandler s) = true → u.stw.nodeSerial = s.stw.nodeSerial +
          BitVec.ofNat 16 (P.own.length + if P.everUp then 0 else 1))))

/-- The logic side of the selvedge: FIELD_OUT words, downlink frames, uplink frames taken, and loss of the link (where the
frames that have not come end a run of good ones: log 92). [13_selvedge.md] -/
def Obligations.FieldWordsAndFrames : Prop :=
  ∀ (s : State), let x := s.sel
  let word := fun (rank : Nat) (w : W64) => (⟨s.time.beat, rank, 0, false, .fieldWord w⟩ : OutEvent)
  let held := fun (u : State) (es : List OutEvent) => u.time = { s.time with held := s.time.held ++ es }
  let reports := s.stw.started = true ∧ tagInLimit s (defaultHandler s) = true
  selUp s = true →
  (∀ w rest, s.streams.fieldOut = w :: rest →
    (∀ e ∈ ([(.fieldOutputWord, 1), (.fieldReportWord, 2), (.fieldNotifyWord, 3), (.fieldSafeWord, 4), (.fieldQueryWord, 5),
        (.fieldNopWord, 0)] : List (Instr × BitVec 4)), wordType w = e.2 →
      (4 ≤ x.applied → exec e.1 s = .next s) ∧ (x.applied < 4 → wordReserved w = true → Unpredictable e.1 s 23)) ∧
    (x.applied < 4 → wordReserved w = false →
      let went := fun (y : Sel) =>
        ({ s with streams := { s.streams with fieldOut := rest }, sel := { y with applied := x.applied + 1 } } : State)
      (wordType w = 1 → Yields .fieldOutputWord s fun u => u = went { x with c := u.sel.c } ∧
        ∀ k < 16, u.sel.c.getLsbD k = if w.getLsbD (16 + k) then w.getLsbD k else x.c.getLsbD k) ∧
      (wordType w = 2 → Yields .fieldReportWord s fun u =>
        u = went { x with period := w.extractLsb' 24 4, mask := w.extractLsb' 0 24 }) ∧
      (wordType w = 3 → Yields .fieldNotifyWord s fun u =>
        u = went { x with nctx := w.extractLsb' 46 14, ncell := w.extractLsb' 38 8, niaddr := w.extractLsb' 24 14,
                          nmask := w.extractLsb' 0 24 }) ∧
      (wordType w = 4 → Yields .fieldSafeWord s fun u => u = went { x with safeWord := true }) ∧
      (wordType w = 5 → Yields .fieldQueryWord s fun u => u = went { x with query := true }) ∧
      (wordType w = 0 → Yields .fieldNopWord s fun u => u = went x) ∧
      (6 ≤ (wordType w).toNat → Yields .fieldNopWord s fun u => u = went { x with wordErrs := satAdd x.wordErrs 1 }))) ∧
  (restReserved s = true → Unpredictable .downlinkFrame s 23) ∧
  (restReserved s = false → let ws := s.streams.fieldOut.take (4 - x.applied)
    Yields .downlinkFrame s fun u => u.sel.down = some ⟨x.frame.setWidth 16, u.sel.c,
        decide (0 < x.safeLeft) || warmRestart s.pwr || inDescent s.pwr || x.safeWord || ws.any (fun w => wordType w == 4),
        decide (0 < x.relLeft)⟩ ∧
      (ws = [] → u.sel.c = x.c) ∧ u.sel.frame = x.frame + 1 ∧ u.sel.applied = 0 ∧ u.sel.safeWord = false ∧
      u.sel.relLeft = x.relLeft - 1 ∧ u.sel.safeLeft = x.safeLeft - 1 ∧ u.sel.inputs = x.inputs ∧
      u.sel.wins = (if (x.frame.toNat + 1) % 2 ^ x.winPeriod.toNat = 0 then x.wins ++ [(x.frame, x.winPeriod, x.winMask)]
        else x.wins) ∧
      u.streams = { s.streams with fieldOut := s.streams.fieldOut.drop (4 - x.applied) } ∧ u.fd = s.fd ∧ u.mem = s.mem ∧
      u.time = s.time ∧ u.weave = s.weave) ∧
  (∀ f, x.up = some f → let frame := windowOfEcho x f.echo
    (Yields (.uplinkFrameReceive false) s fun u => u.sel = { x with up := none, failing := satAdd x.failing 1, goodRun := 0 } ∧
      SameBytes s.mem u.mem ∧ u.time = s.time ∧ (x.goodRun < 16 → u.weave = s.weave ∧ u.stw = s.stw) ∧
      (16 ≤ x.goodRun → reports → u.stw.nodeSerial = s.stw.nodeSerial + 1)) ∧
    (f.inputs.length = 24 → Yields (.uplinkFrameReceive true) s fun u => u.sel.linkUp = true ∧ u.sel.last = some f ∧
      u.sel.up = none ∧ u.sel.good = satAdd x.good 1 ∧ u.sel.c = x.c ∧ u.sel.frame = x.frame ∧ SameBytes s.mem u.mem ∧
      u.fd = s.fd ∧ u.streams = s.streams ∧ u.sel.wins = x.wins.filter (fun w => !windowPast frame w) ∧
      (f.state = 2 → u.stw.release = []) ∧ (f.state ≠ 2 → u.stw.release = s.stw.release) ∧
      (∀ i < 24, let a := mget SelInput.clear u.sel.inputs i
        let b := mget SelInput.clear x.inputs i
        let n := (f.inputs.getD i UpInput.clear).count
        a.prev = n ∧ a.cum = if x.linkUp then b.cum + (n - b.prev).setWidth 24 else b.cum) ∧
      (x.query = false → x.nctx = 0 → let st := statusOf f f.state
        (x.wins.filter (windowPast frame) = [] →
          (x.linkUp = false → held u [word 2 st, word 2 (strapWord f)]) ∧
          (∀ v, x.linkUp = true → x.last = some v → statusDiffers v f = true → held u [word 2 st]) ∧
          (∀ v, x.linkUp = true → x.last = some v → statusDiffers v f = false → held u [])) ∧
        (∀ v, x.linkUp = true → x.last = some v → statusDiffers v f = false → ∃ css : List (List W64),
          let due := css.zip (x.wins.filter (windowPast frame))
          css.length = (x.wins.filter (windowPast frame)).length ∧
          (∀ e ∈ due, e.1.length = ((List.range 24).filter e.2.2.2.getLsbD).length) ∧
          held u (due.flatMap fun e => word 3 (headerWord frame s.time.beat) :: word 3 st :: e.1.map (word 3)))))) ∧
  (∀ v, x.linkUp = true → x.last = some v → Yields .selvedgeLinkDown s fun u => u.sel.linkUp = false ∧ u.sel.goodRun = 0 ∧
    u.sel.inputs = x.inputs ∧ u.sel.c = x.c ∧ u.sel.wins = x.wins ∧ SameBytes s.mem u.mem ∧
    (x.nctx = 0 → held u [word 2 (statusOf v 0)]) ∧
    (v.state ≠ 2 → x.goodRun < 16 → u.stw = s.stw ∧ u.weave = s.weave) ∧
    (reports → u.stw.nodeSerial = s.stw.nodeSerial + (if 16 ≤ x.goodRun then 1 else 0) + (if v.state = 2 then 1 else 0)))

/-- The field die: straps, states, inputs, wire break, latches, and its frames. Whether its self-check has passed again is
free (log 91). [02_straps.md, 13_selvedge.md] -/
def Obligations.FieldDieStates : Prop :=
  ∀ (s : State), let x := s.fd
  let only := fun (u : State) => u = { s with fd := u.fd }
  (x.state = .unpowered → exec .lplusRise s = .next { s with fd := { Field.clear with state := .sampling } }) ∧
  (x.state ≠ .unpowered → exec .lplusFall s = .next { s with fd := Field.clear }) ∧
  (∀ rs, wfReadings 10 rs = true → x.state = .sampling → let cs := rs.map pinCode
    fsafeLed x = true ∧
    Yields (.fieldStrapSamplingDone rs) s fun u => only u ∧ u.fd.state = .safe ∧ u.fd.cause = 0 ∧ u.fd.c = x.c ∧
      fsafeLed u.fd = true ∧
      (∀ i < 6, ∀ k < 3, u.fd.safeWord.getLsbD (3 * i + k) = (fieldBits cs i).getLsbD k) ∧
      (∀ i < 3, ∀ k < 3, u.fd.pairWord.getLsbD (3 * i + k) = (fieldBits cs (6 + i)).getLsbD k) ∧ u.fd.types = fieldBits cs 9 ∧
      (∀ i < 10, u.fd.oow.getLsbD i = (cs.getD i none).isNone)) ∧
  (x.state ≠ .unpowered → ∀ (ch : BitVec 5) pos, ch.toNat < 24 → let v := mget UpInput.clear x.inputs ch.toNat
    Yields (.inputEdge ch pos) s fun u => u = { s with fd := { x with inputs := u.fd.inputs } } ∧
      mget UpInput.clear u.fd.inputs ch.toNat = { v with count := v.count + 1, first := some (v.first.getD pos) } ∧
      ∀ i, i ≠ ch.toNat → mget UpInput.clear u.fd.inputs i = mget UpInput.clear x.inputs i) ∧
  (fieldUp x = true →
    (∀ f, s.sel.down = some f →
      let judged := fun (u : State) =>
        u = { s with fd := u.fd, sel := { s.sel with down := none }, freeCounter := u.freeCounter } ∧
        (checkHolds x = false → u.freeCounter = s.freeCounter) ∧
        u.fd.answering = some (f.frame, x.inputs) ∧ u.fd.latched = x.latched &&& ~~~x.offWin ∧
        fsafeLed u.fd = (u.fd.state == .safe) ∧
        (mwf UpInput.clear x.inputs = true →
          ∀ i, (mget UpInput.clear u.fd.inputs i).count = (mget UpInput.clear x.inputs i).count)
      (Yields (.fieldDownlinkReceive true) s fun u => judged u ∧ u.fd.c = f.cmd ∧ u.fd.last = some f.frame ∧ u.fd.dlbad = x.dlbad ∧
        (x.last = some (f.frame - 1) → u.fd.good.toNat = min 63 (x.good.toNat + 1)) ∧
        (x.last ≠ some (f.frame - 1) → u.fd.good = 1) ∧
        (x.state = .safe → u.fd.cause = x.cause ∧
          (u.fd.state = .operate → f.release = true ∧ f.safeReq = false ∧ 16 ≤ x.good.toNat) ∧
          (checkHolds x = false → f.release = true → f.safeReq = false → 16 ≤ x.good.toNat → u.fd.state = .operate)) ∧
        (x.state = .operate → f.safeReq = true → u.fd.state = .safe ∧ u.fd.cause = 2) ∧
        (x.state = .operate → f.safeReq = false → u.fd.state = .operate ∧ u.fd.cause = x.cause)) ∧
      (Yields (.fieldDownlinkReceive false) s fun u => judged u ∧ u.fd.c = x.c ∧ u.fd.last = x.last ∧ u.fd.good = 0 ∧
        u.fd.dlbad = x.dlbad + 1 ∧ u.fd.state = x.state)) ∧
    (∀ echo win lv rb low hot, x.answering = some (echo, win) → Yields (.uplinkFrameSend lv rb low hot) s fun u => ∃ f : Uplink,
      u = { s with fd := { x with answering := none }, sel := { s.sel with up := some f } } ∧ f.echo = echo ∧ f.read = rb ∧
      f.latched = x.latched ∧ f.state = (if x.state = .operate then 2 else 1) ∧ f.cause = x.cause ∧ f.good = x.good ∧
      f.on = fieldOn x ∧ f.lplusLow = low ∧ f.thermal = hot ∧ f.dlbad = x.dlbad ∧ f.inputs.length = 24 ∧
      ∀ i < 24, let a := f.inputs.getD i UpInput.clear; let b := mget UpInput.clear win i
        a.count = b.count ∧ a.first = b.first ∧ a.level = lv.getLsbD i ∧ a.broke = (b.broke && x.types.getLsbD (i / 8))) ∧
    (Yields .silenceTimeout s fun u => only u ∧ u.fd.good = 0 ∧ u.fd.c = x.c ∧ u.fd.latched = x.latched ∧ u.fd.state = .safe ∧
      fsafeLed u.fd = true ∧ u.fd.cause = if x.state = .operate then 1 else x.cause) ∧
    (x.state = .operate → Yields .fieldSelfCheckFail s fun u => only u ∧ u.fd.state = .safe ∧ u.fd.cause = 3 ∧
      u.fd.checkBad = true ∧ u.fd.good = x.good ∧ u.fd.c = x.c ∧ u.fd.latched = x.latched) ∧
    (x.state = .safe → exec .fieldSelfCheckFail s = .next { s with fd := { x with checkBad := true } }) ∧
    (∀ ch : BitVec 5, ch.toNat < 24 → let v := mget UpInput.clear x.inputs ch.toNat
      let became := fun (u : State) (w : UpInput) => u = { s with fd := { x with inputs := u.fd.inputs } } ∧
        mget UpInput.clear u.fd.inputs ch.toNat = w ∧
        ∀ i, i ≠ ch.toNat → mget UpInput.clear u.fd.inputs i = mget UpInput.clear x.inputs i
      (x.types.getLsbD (ch.toNat / 8) = true → Yields (.wirebreakSet ch) s (became · { v with broke := true }) ∧
        Yields (.wirebreakClear ch) s (became · { v with broke := false })) ∧
      (x.types.getLsbD (ch.toNat / 8) = false → exec (.wirebreakSet ch) s = .next s ∧ exec (.wirebreakClear ch) s = .next s)) ∧
    (∀ k : BitVec 4, let latches := fun (u : State) => u = { s with fd := { x with latched := u.fd.latched } } ∧
        ∀ j < 16, u.fd.latched.getLsbD j =
          (x.latched.getLsbD j || decide (j = k.toNat) || (paired x.pairWord k.toNat && decide (j / 2 = k.toNat / 2)))
      ((fieldOn x).getLsbD k.toNat = true → Yields (.outputCurrentLatch k) s latches) ∧
      Yields (.outputThermalLatch k) s latches))

/-- VBAT, the rails, the source, the straps, MCLK, domains, fabric up and STEADY. [02_straps.md, 03_beat.md, 08_bank_memory.md,
14_power_and_energy.md, 15_first_second.md] -/
def Obligations.PoweringUp : Prop :=
  ∀ (s : State), let p := s.pwr
  let only := fun (u : State) (q : Power) => u = { s with pwr := q }
  (p.phase = .off → exec .vbatPowerOn s = .next { s with pwr := { p with phase := .cold false, pd := 0x001 } }) ∧
  (p.phase ≠ .off → Yields .vbatPowerOff s fun u => u.pwr.phase = .off ∧ u.pwr.pd = 0 ∧ u.pwr.clkok = false ∧
    u.straps.latched = false ∧ u.mem.flash = s.mem.flash ∧ u.mem.data = [] ∧ u.keys.slot0 = s.keys.slot0 ∧
    u.keys.device = s.keys.device ∧ u.fd = { s.fd with good := 0 } ∧ u.pwr.resetN = p.resetN ∧ u.time.beat = 0) ∧
  (p.phase = .cold false → p.enIo = false → exec .firstTickEnIo s = .next { s with pwr := { p with enIo := true } }) ∧
  (p.enIo = true → p.pgIo = false → p.pgCore = false →
    exec .pgIoRise s = .next { s with pwr := { p with pgIo := true, enCore := true, wakeNew := false } }) ∧
  (p.enCore = true → p.pgCore = false →
    (p.phase = .rails → p.pgIo = true → exec .pgCoreRise s =
      .next { s with pwr := { p with pgCore := true, phase := .locking, pd := p.pd ||| 0x802 } }) ∧
    (p.phase = .cold false → exec .pgCoreRise s = .next { s with pwr := if p.qualified && p.pgIo then
      { p with pgCore := true, phase := .sampling, pd := p.pd ||| 0x802 } else { p with pgCore := true } })) ∧
  (p.qualified = false →
    (p.phase = .cold false → exec .sourceQualified s = .next { s with pwr := if p.pgIo && p.pgCore then
      { p with qualified := true, phase := .sampling, pd := p.pd ||| 0x802 } else { p with qualified := true } }) ∧
    (p.phase = .clockLost → Yields .sourceQualified s fun u =>
      only u { p with qualified := true, phase := .locking, pd := p.pd ||| 0x802, wakeCause := 9, wakeFrom := 3,
                      keepLoad := false })) ∧
  (∀ rs, wfReadings 13 rs = true → p.phase = .sampling → p.wakeLatch.getLsbD 8 = false → p.resetN = true → p.tamperN = true →
    let cs := rs.map pinCode
    Yields (.strapSamplingDone rs) s fun u => let x := u.straps
      x.latched = true ∧ x.sec = codeAt cs 0 ∧ x.rate = codeAt cs 1 ∧ x.energy = codeAt cs 2 ∧ x.beat = codeAt cs 3 ∧
      x.flash = codeAt cs 4 ∧ x.boot = codeAt cs 5 ∧ x.host = codeAt cs 6 ∧ x.shut = codeAt cs 7 ∧ x.row = codeAt cs 8 ∧
      x.node0 = codeAt cs 9 ∧ x.node1 = codeAt cs 10 ∧ x.node2 = codeAt cs 11 ∧ x.node3 = codeAt cs 12 ∧
      u.pwr = { p with phase := .locking, pd := p.pd ||| 0x400 } ∧
      (∀ a, readByte u.mem a = if inKeep a then 0 else readByte s.mem a) ∧
      u.time.beat = BitVec.ofNat 48 (32000 * s.time.preTicks / 2 ^ (10 + x.beat.toNat))) ∧
  (p.phase ≠ .off → p.phase ≠ .held → p.clkok = false → p.wakeLatch = 0 → p.qualified = true → s.straps.latched = true →
    let ticked := { p with wakeNew := false }
    (s.time.begun = true → let n := s.time.sub.toNat + 32000
      Yields .pd0Tick s fun u => u = { s with time := u.time, pwr := ticked } ∧ u.time.held = s.time.held ∧
        u.time.beat = s.time.beat + BitVec.ofNat 48 (n / 2 ^ (10 + s.straps.beat.toNat)) ∧
        u.time.sub = BitVec.ofNat 17 (n % 2 ^ (10 + s.straps.beat.toNat))) ∧
    (s.time.begun = false → exec .pd0Tick s = .next { s with time := { s.time with begun := true }, pwr := ticked })) ∧
  (p.phase = .locking → p.qualified = true → Yields .clkokRise s fun u => u.pwr.phase = .run ∧ u.pwr.clkok = true ∧
    u.pwr.rate = 2 ∧ u.pwr.vid = 10 ∧ u.pwr.running = 0 ∧ u.pwr.pd = p.pd ||| (if shutOn s.straps then 0x280 else 0x200) ∧
    u.pwr.enPhy = (hostOn s.straps || rowAOn s.straps) ∧ u.mem = s.mem ∧ u.cells = s.cells ∧ u.straps = s.straps ∧
    (energyTier s.straps = 0 → u.pwr.level = 4)) ∧
  (p.clkok = true →
    (p.enPhy = true → let h := hostOn s.straps && !powered s 6
      let r := rowAOn s.straps && !powered s 8
      h = true ∨ r = true → Yields .phyRailWaitDone s fun u => u.mem = s.mem ∧ u.cells = s.cells ∧
        u.pwr = { p with pd := p.pd ||| (if h then 0x40 else 0) ||| (if r then 0x100 else 0) } ∧
        (h = true → u.host = { HostFace.clear with released := p.fabricUp }) ∧ (h = false → u.host = s.host)) ∧
    (∀ q : BitVec 2, p.clearing.getLsbD q.toNat = true → Yields (.bankClearDone q) s fun u =>
      u = { s with time := { s.time with edge := s.time.edge &&& 0x1E }
                   pwr := { p with clearing := u.pwr.clearing, cleared := u.pwr.cleared } } ∧ ∀ j < 4,
        u.pwr.clearing.getLsbD j = (p.clearing.getLsbD j && decide (j ≠ q.toNat)) ∧
        u.pwr.cleared.getLsbD j = (p.cleared.getLsbD j || decide (j = q.toNat))) ∧
    (p.phase = .run →
      (∀ q : BitVec 2, s.time.edge.getLsbD 1 = true → powered s (2 + q.toNat) = false →
        (∀ r < 4, q.toNat < r → powered s (2 + r) = true) →
        powered s 9 = true → Yields .quadrantPowerUp s fun u => u.pwr.pd = p.pd ||| (4#12 <<< q.toNat) ∧
          u.pwr.clearing = p.clearing ||| (1#4 <<< q.toNat) ∧ u.pwr.running = p.running ∧
          u.time = { s.time with edge := s.time.edge &&& 0x1D } ∧
          ∀ a, readByte u.mem a = if a < 0x2000000 ∧ quadOfTile (BitVec.ofNat 6 (a / 0x80000)) = q then 0
            else readByte s.mem a) ∧
      (p.cleared = 15 → p.fabricUp = false → Yields .fabricUp s fun u =>
        u.pwr = { p with fabricUp := true, started := true } ∧
        (∀ c < 6, readWord u.mem (64 * c) = 0x8000000000000000) ∧
        (∀ a, (∀ c < 6, a < 64 * c ∨ 64 * c + 8 ≤ a) → readByte u.mem a = readByte s.mem a) ∧
        u.host.released = powered s 6 ∧ (let b := (bootSource s.straps).1
          u.stw.boot = if b = 0 ∨ b = 1 ∨ b = 5 then .reading else .done)) ∧
      (p.fabricUp = true → s.stw.boot = .done → p.steady = false → s.time.edge.getLsbD 4 = true →
        let risen := { s.time with steadyAt := s.time.beat, edge := s.time.edge &&& 0xF }
        (s.stw.image = none → s.rowA.kept = [] → s.rowB.kept = [] → exec .steadyRise s =
          .next { s with pwr := { p with steady := true }, time := risen }) ∧
        (∀ i, s.stw.image = some i → Yields .steadyRise s fun u => u.pwr = { p with steady := true } ∧
          u.stw.started = true ∧ u.stw.image = some i ∧ u.time = risen ∧ SameBytes s.mem u.mem ∧ u.rowA.kept = [] ∧
          u.rowB.kept = []))))

/-- ESENSE readings, energy levels, limit steps, the exhaustion grace, and a descent step by step. [14_power_and_energy.md] -/
def Obligations.LevelsLimitsAndDescents : Prop :=
  ∀ (s : State), let p := s.pwr
  let x := s.straps
  let spent := fun (m : BitVec 5) => { s.time with edge := s.time.edge &&& m }
  let bankGone := fun (u : State) => ∀ a < 0x2000000, readByte u.mem a = 0
  let keepSame := fun (u : State) => ∀ a, inKeep a = true → readByte u.mem a = readByte s.mem a
  (∀ mv, let v := min mv 1200
    (∀ hib c, p.phase = .wakeTest hib c → p.conversions.length < 16 →
      exec (.esenseConversion mv) s = .next { s with pwr := { p with conversions := p.conversions ++ [v] } }) ∧
    (p.phase = .run → p.clkok = true →
      (p.conversions.length < 15 →
        exec (.esenseConversion mv) s = .next { s with pwr := { p with conversions := p.conversions ++ [v] } }) ∧
      (p.conversions.length = 15 → let r := (p.conversions ++ [v]).sum / 16
        Yields (.esenseConversion mv) s fun u => u = { s with pwr := u.pwr } ∧ u.pwr.reading = BitVec.ofNat 12 r ∧
          u.pwr.level = p.level ∧ u.pwr.conversions = p.conversions ++ [v] ∧
          (energyTier x ≠ 0 →
            ((levelOf (energyTier x) r).toNat < p.level.toNat → u.pwr.newLevel = some (levelOf (energyTier x) r)) ∧
            (p.level.toNat < (levelOf (energyTier x) (r - 16)).toNat →
              u.pwr.newLevel = some (levelOf (energyTier x) (r - 16))) ∧
            (p.level.toNat ≤ (levelOf (energyTier x) r).toNat → (levelOf (energyTier x) (r - 16)).toNat ≤ p.level.toNat →
              u.pwr.newLevel = none))))) ∧
  (∀ l, p.clkok = true → p.newLevel = some l → s.time.edge.getLsbD 3 = true →
    (p.phase = .run → Yields .levelChange s fun u => u.pwr.level = l ∧ u.pwr.newLevel = none ∧
      u.pwr.grace = (p.grace || l == 0) ∧ (u.pwr.limitQuads, u.pwr.limitRate) = limitOf x l u.pwr.grace ∧
      u.pwr.phase = .run ∧ u.pwr.rate = p.rate ∧ u.mem = s.mem ∧ u.cells = s.cells ∧
      (s.stw.started = false → u = { s with pwr := u.pwr, time := spent 0x17 }) ∧
      (s.stw.started = true → energyTier x ≠ 0 → ∃ w, u.time = { spent 0x17 with held := s.time.held ++ [w] } ∧ w.rank = 1 ∧
        w.stamp = s.time.beat - 1 ∧ ∃ v : W64, w.kind = .notice 0x081 v ∧ v.extractLsb' 0 8 = 0x0F ∧ v.extractLsb' 8 3 = l)) ∧
    (p.phase = .tending → l = 0 → Yields .levelChange s fun u => u.pwr.phase = .descent .standby ∧
      u.pwr.exhaustMark = true ∧ u.mem = s.mem)) ∧
  (p.clkok = true → p.phase = .run → p.sleepReq = none → s.time.edge.getLsbD 0 = true → let set := runningSet p.limitQuads
    let steps := fun (q : Power) => exec .limitStep s = .next { s with pwr := q, time := spent 0x1E }
    (p.running &&& ~~~set ≠ 0 ∨ p.rate.toNat < p.limitRate.toNat → Yields .limitStep s fun u =>
      u.pwr = { p with running := p.running &&& set, rate := u.pwr.rate } ∧ u.mem = s.mem ∧ u.time = spent 0x1E ∧
      u.pwr.rate.toNat = max p.rate.toNat p.limitRate.toNat) ∧
    (p.running &&& ~~~set = 0 →
      (p.limitRate.toNat < p.rate.toNat → p.vid = vidOf (p.rate - 1) → steps { p with rate := p.rate - 1 }) ∧
      (p.limitRate.toNat < p.rate.toNat → p.vid ≠ vidOf (p.rate - 1) → steps { p with vid := vidOf (p.rate - 1) }) ∧
      (p.limitRate = p.rate → p.vid ≠ vidOf p.rate → steps { p with vid := vidOf p.rate }) ∧
      (∀ q < 4, p.limitRate = p.rate → p.vid = vidOf p.rate → set.getLsbD q = true → p.running.getLsbD q = false →
        p.cleared.getLsbD q = true → (∀ j < 4, q < j → p.running.getLsbD j = true) →
        steps { p with running := p.running ||| (1#4 <<< q) }))) ∧
  (p.grace = true → p.phase = .run → let d : SleepTo := if p.graceSleep = some .hibernate then .hibernate else .standby
    exec .exhaustionGraceEnd s = .next { s with time := { s.time with edge := s.time.edge ||| 4 }, pwr := { p with
      grace := false, graceSleep := none, exhaustMark := true, sleepReq := some d } }) ∧
  (∀ d, p.clkok = true → p.phase = .run → p.sleepReq = some d → s.time.edge.getLsbD 2 = true →
    Yields .descentBegin s fun u => u.pwr.phase = .descent d ∧
    u.pwr.steady = false ∧ u.pwr.running = 0 ∧ u.pwr.rate = 2 ∧ u.pwr.safeSent = 0 ∧ u.pwr.sleepReq = none ∧
    u.pwr.pd = p.pd ∧ u.mem = s.mem ∧ u.time = spent 0) ∧
  (∀ d, p.clkok = true → halted s = false → NoneRefused s → p.phase = .descent d →
    Yields .beatBoundary s fun u => u.pwr = { p with vid := 10, wakeNew := false }) ∧
  (∀ d, p.phase = .descent d → (powered s 9 = true → 4 ≤ p.safeSent) → Yields .descentPd9PowerDown s fun u =>
    u.pwr = { p with phase := .descentOff d, pd := p.pd &&& 0xDFF } ∧ u.sel = Sel.clear ∧ u.streams.fieldIn = [] ∧
    u.streams.fieldOut = [] ∧ u.fd = { s.fd with good := 0 } ∧ u.mem = s.mem ∧ u.cells = s.cells) ∧
  (p.phase = .descentOff .tending → Yields .descentDomainsOff s fun u => u.pwr.phase = .tending ∧ u.pwr.pd = p.pd &&& 0xFC3 ∧
    u.pwr.clkok = p.clkok ∧ u.stw.started = false ∧ u.stw.image = none ∧ bankGone u ∧ keepSame u ∧ u.host = s.host ∧
    u.rowA = s.rowA ∧ u.rowB = s.rowB ∧ u.sh = s.sh ∧ u.time.held = s.time.held) ∧
  (∀ d, p.phase = .descentOff d → d ≠ .tending → Yields .descentDomainsOff s fun u => u.pwr.phase = .descentCore d ∧
    u.pwr.clkok = false ∧ u.pwr.pd = p.pd &&& (if d = .hibernate then 0x001 else 0x401) ∧ bankGone u ∧
    u.time.beat = s.time.beat ∧ u.straps = s.straps ∧ (d = .standby → keepSame u) ∧
    (d = .hibernate → ∀ a, inKeep a = true → readByte u.mem a = 0)) ∧
  (∀ d, p.phase = .descentCore d → exec .descentEnCoreOff s =
    .next { s with pwr := { p with phase := .descentIo d, enCore := false, pgCore := false, vid := 10 } }) ∧
  (∀ d, p.phase = .descentIo d → Yields .descentEnIoOff s fun u =>
    u = { s with pwr := { p with phase := u.pwr.phase, enIo := false, pgIo := false } } ∧
    u.pwr.phase = if d = .hibernate then .hibernate else .standby)

/-- Wake sources and the wake test; RESET_N, TAMPER_N, glitches, clock loss and supply faults. Which refused sources persist
is free (log 96). [03_beat.md, 14_power_and_energy.md, 15_first_second.md, 16_tableau_probes_and_physical_access.md] -/
def Obligations.WakesResetsAndFaults : Prop :=
  ∀ (s : State), let p := s.pwr
  let tier := energyTier s.straps
  let only := fun (u : State) => u = { s with pwr := u.pwr }
  let dark := fun (u : State) => u.pwr.pd = p.pd &&& 0x401 ∧ u.pwr.clkok = false ∧ u.pwr.steady = false ∧ u.pwr.running = 0 ∧
    u.cells = [] ∧ u.straps = s.straps ∧ u.time.beat = s.time.beat ∧ u.mem.flash = s.mem.flash ∧ u.fd.state = s.fd.state ∧
    u.pwr.enPhy = false
  let keepSame := fun (u : State) => ∀ a, inKeep a = true → readByte u.mem a = readByte s.mem a
  let rails := fun (u : State) (cause : BitVec 4) (from' : BitVec 2) => u.pwr.phase = .rails ∧ u.pwr.enIo = true ∧
    u.pwr.wakeCause = cause ∧ u.pwr.wakeFrom = from' ∧ u.pwr.wakeLatch = 0 ∧ u.pwr.refused = 0
  let wakes := fun (u : State) (hib : Bool) (m : BitVec 16) =>
    (tier = 0 → rails u (lowestCause m) (if hib then 1 else 2) ∧ u.pwr.keepHeld = !hib ∧ u.pwr.keepLoad = hib ∧
      u.pwr.pd = p.pd ||| 0x401) ∧
    (tier ≠ 0 → u.pwr.phase = .wakeTest hib (lowestCause m) ∧ u.pwr.conversions = [] ∧ u.pwr.wakeLatch = m ∧ u.pwr.pd = p.pd)
  let with' := fun (cause : BitVec 4) => p.wakeLatch ||| (1#16 <<< cause.toNat)
  let back := fun (u : State) (cause : BitVec 4) => u = { s with pwr := { p with
    phase := .run, wakeCause := cause, wakeFrom := 3, keepHeld := true, keepLoad := false, wakeLatch := 0, refused := 0,
    wakeNew := true } }
  (∀ e ∈ ([(.wakeNAssert, 1, true), (.shWakeNAssert, 2, shutWake s.straps),
      (.rowEnergyWake .a, 3, rowWake s.straps && rowAOn s.straps),
      (.rowEnergyWake .b, 4, rowWake s.straps && rowBOn s.straps)] : List (Instr × BitVec 4 × Bool)),
    (p.phase = .off ∨ e.2.2 = false → exec e.1 s = .next s) ∧
    (e.2.2 = true →
      (p.refused.getLsbD e.2.1.toNat = false →
        (p.phase = .standby → Yields e.1 s fun u => only u ∧ wakes u false (with' e.2.1)) ∧
        (p.phase = .hibernate → Yields e.1 s fun u => only u ∧ wakes u true (with' e.2.1))) ∧
      (p.refused.getLsbD e.2.1.toNat = true → p.phase = .standby ∨ p.phase = .hibernate → exec e.1 s = .next s) ∧
      (p.phase = .run → p.wakeNew = false → exec e.1 s = .next s) ∧
      (p.phase = .rails → exec e.1 s = .next { s with pwr := { p with wakeCause :=
        if p.wakeNew = true ∧ e.2.1.toNat < p.wakeCause.toNat then e.2.1 else p.wakeCause } }) ∧
      (∀ d, p.phase = .descent d → exec e.1 s =
        .next (if e.2.1.toNat < 3 then { s with pwr := { p with wakeLatch := with' e.2.1 } } else s)))) ∧
  (hostOn s.straps = false ∨ p.perstN = true ∨ p.phase = .run →
    exec .perstNRelease s = .next { s with pwr := { p with perstN := true } }) ∧
  (p.perstN = false → hostOn s.straps = true → p.phase = .standby → p.refused.getLsbD 6 = false →
    Yields .perstNRelease s fun u => u.pwr.perstN = true ∧ wakes u false (with' 6) ∧ only u) ∧
  (p.phase = .tending → Yields .wakeNAssert s (back · 1) ∧ (faceWaits s = true → Yields .faceTokenWake s (back · 7))) ∧
  (∀ hib c, p.phase = .wakeTest hib c → p.conversions.length = 16 → let r := p.conversions.sum / 16
    let need := (if p.exhaustMark then tWarn tier else tExhausted tier) + 16
    (need ≤ r → Yields .wakeTestDone s fun u => only u ∧ u.pwr.level = levelOf tier r ∧
      rails u c (if hib then 1 else 2) ∧ u.pwr.exhaustMark = false ∧ u.pwr.keepHeld = !hib) ∧
    (r < need → Yields .wakeTestDone s fun u => only u ∧ u.pwr.wakeLatch = 0 ∧ u.pwr.pd = p.pd ∧
      u.pwr.phase = (if hib then .hibernate else .standby) ∧ u.pwr.refused = p.refused ||| p.wakeLatch ∧
      u.pwr.wakeRefusals = satAdd p.wakeRefusals 1)) ∧
  (∀ hib : Bool, p.refused ≠ 0 → p.phase = (if hib then .hibernate else .standby) → Yields .wakeRetest s fun u =>
    u = { s with pwr := u.pwr, freeCounter := s.freeCounter + 1 } ∧ ∃ m : BitVec 16, m &&& ~~~p.refused = 0 ∧
      p.refused &&& 0x60 &&& ~~~m = 0 ∧ (m = 0 → u.pwr = { p with refused := 0 }) ∧
      (m ≠ 0 → u.pwr.refused = 0 ∧ wakes u hib (p.wakeLatch ||| m))) ∧
  (let waits := fun (u : State) => u.pwr.phase = p.phase ∧ u.pwr.pd = p.pd ∧ u.cells = s.cells ∧ u.pwr.wakeLatch = p.wakeLatch ||| 0x100
   let held := fun (u : State) => dark u ∧ u.pwr.phase = .held ∧ u.pwr.enCore = p.enCore ∧ u.pwr.enIo = p.enIo ∧ u.time.alarms = []
   (p.phase = .off → exec .resetNAssert s = .next { s with pwr := { p with resetN := false } }) ∧
   (p.phase ≠ .off →
     (beforeStraps p = true → Yields .resetNAssert s fun u => waits u ∧ u.pwr.resetN = false ∧ only u) ∧
     (beforeStraps p = false → Yields .resetNAssert s fun u => held u ∧ u.pwr.resetN = false ∧ keepSame u ∧
       u.keys.device = s.keys.device) ∧
     (Yields .tamperNAssert s fun u => u.keys.session = 0 ∧ u.pwr.tamperN = false ∧ u.pwr.tampers = satAdd p.tampers 1 ∧
       u.pwr.keepHeld = false ∧ (∀ a, inKeep a = true → readByte u.mem a = 0) ∧ (beforeStraps p = true → waits u) ∧
       (beforeStraps p = false → held u))) ∧
   (p.phase = .held →
     (p.enCore = true → Yields .pd0Tick s fun u => u.pwr.phase = .held ∧ u.pwr.enCore = false ∧ u.pwr.pgCore = false ∧
       u.pwr.enIo = p.enIo ∧ u.pwr.vid = 10) ∧
     (p.enCore = false → p.enIo = true → Yields .pd0Tick s fun u => u.pwr.phase = .held ∧ u.pwr.enIo = false ∧
       u.pwr.pgIo = false) ∧
     (p.enCore = false → p.enIo = false →
       (p.resetN = true → p.tamperN = true → Yields .pd0Tick s (rails · 8 3)) ∧
       (p.tamperN = true → Yields .resetNRelease s (rails · 8 3)) ∧
       (p.resetN = true → Yields .tamperNRelease s (rails · 8 3)))) ∧
   (p.phase ≠ .held ∨ p.tamperN = false → exec .resetNRelease s = .next { s with pwr := { p with resetN := true } }) ∧
   (p.phase ≠ .held ∨ p.resetN = false → exec .tamperNRelease s = .next { s with pwr := { p with tamperN := true } }) ∧
   (powered s 1 = true → Yields .glitchDetect s fun u => u.keys.session = 0 ∧ u.pwr.glitches = satAdd p.glitches 1 ∧
     (beforeStraps p = true → waits u) ∧ (beforeStraps p = false → held u ∧ keepSame u)) ∧
   (p.clkok = true → Yields .clockLost s fun u => dark u ∧ keepSame u ∧ u.pwr.phase = .clockLost ∧ u.pwr.qualified = false ∧
     u.pwr.enIo = p.enIo ∧ u.pwr.enCore = p.enCore ∧ u.pwr.clockLosses = satAdd p.clockLosses 1) ∧
   (∀ why, supplyFails p why = true → Yields (.supplyFault why) s fun u => dark u ∧ u.pwr.enIo = false ∧ u.pwr.enCore = false ∧
     keepSame u ∧ u.pwr.supplyFaults = satAdd p.supplyFaults 1 ∧
     u.pwr.phase = if coldStart p then .cold true else .faulted)) ∧
  (p.phase = .faulted →
    (p.resetN = true → p.tamperN = true → Yields .supplyFaultRestart s (rails · 9 3)) ∧
    (p.resetN = false ∨ p.tamperN = false → exec .supplyFaultRestart s = .next { s with pwr := { p with phase := .held } })) ∧
  (p.phase = .cold true → exec .supplyFaultRestart s = .next { s with pwr := { p with phase := .cold false, qualified := false } })

/-- EXTEST, SAMPLE/PRELOAD, IDCODE and BYPASS. [16_tableau_probes_and_physical_access.md] -/
def Obligations.TestAccessPort : Prop :=
  ∀ (s : State) (cells : BitVec 8) (code : BitVec 4),
  (jtagUp s = true →
    exec (.extest cells) s = .next { s with jtag := { ir := 0, drive := cells } } ∧
    exec (.samplePreload cells) s = .next { s with jtag := { ir := 1, drive := cells } } ∧
    (Yields .idcode s fun u => ∃ w : BitVec 32, u = { s with jtag := { s.jtag with ir := 2 }, out := .tdo w :: s.out } ∧
      w.getLsbD 0 = true ∧ w.extractLsb' 1 11 = Config.manufacturer ∧ w.extractLsb' 12 16 = 0x4840 ∧
      w.extractLsb' 28 4 = Config.revMajor) ∧
    (2 < code.toNat → exec (.bypass code) s = .next { s with jtag := { s.jtag with ir := 15 } })) ∧
  (jtagUp s = false → exec (.extest cells) s = .next s ∧ exec (.samplePreload cells) s = .next s ∧
    exec .idcode s = .next s ∧ exec (.bypass code) s = .next s)
end

