-- ==== Sys2Proof/Laws/Keyed.lean ====
section
/-! SUPPORT. The laws of keyed collections: reading what was set, and the canonical form that setting keeps. -/

namespace Sys2Proof.Machine

variable {α : Type}

theorem mget_minsert_same (d : α) (k : Nat) (v : α) (m : List (Nat × α)) : mget d (minsert k v (mdrop k m)) k = v := by
  induction m with
  | nil => simp [mdrop, minsert, mget]
  | cons e r ih =>
    obtain ⟨k', v'⟩ := e
    by_cases hk : k' = k
    · simpa [mdrop, hk] using ih
    · have hr : mdrop k ((k', v') :: r) = (k', v') :: mdrop k r := by simp [mdrop, hk]
      rw [hr, minsert]
      split
      · simp [mget]
      · simpa [mget, hk] using ih

theorem mget_minsert_other (d : α) {j k : Nat} (h : k ≠ j) (v : α) (m : List (Nat × α)) :
    mget d (minsert k v m) j = mget d m j := by
  induction m with
  | nil => simp [minsert, mget, h]
  | cons e r ih =>
    obtain ⟨k', v'⟩ := e
    rw [minsert]
    split
    · simp [mget, h]
    · simp only [mget]; split
      · rfl
      · exact ih

theorem mget_mdrop_same (d : α) (k : Nat) (m : List (Nat × α)) : mget d (mdrop k m) k = d := by
  induction m with
  | nil => rfl
  | cons e r ih =>
    obtain ⟨k', v'⟩ := e
    by_cases hk : k' = k
    · simpa [mdrop, hk] using ih
    · have hr : mdrop k ((k', v') :: r) = (k', v') :: mdrop k r := by simp [mdrop, hk]
      rw [hr]; simpa [mget, hk] using ih

theorem mget_mdrop_other (d : α) {j k : Nat} (h : k ≠ j) (m : List (Nat × α)) : mget d (mdrop k m) j = mget d m j := by
  induction m with
  | nil => rfl
  | cons e r ih =>
    obtain ⟨k', v'⟩ := e
    by_cases hk : k' = k
    · have hr : mdrop k ((k', v') :: r) = mdrop k r := by simp [mdrop, hk]
      have hj : k' ≠ j := hk ▸ h
      rw [hr, ih]; simp [mget, hj]
    · have hr : mdrop k ((k', v') :: r) = (k', v') :: mdrop k r := by simp [mdrop, hk]
      rw [hr]; simp only [mget]; split
      · rfl
      · exact ih

variable [DecidableEq α]

/-- A key reads what it was set to. -/
@[simp] theorem mget_mset_same (d : α) (m : List (Nat × α)) (k : Nat) (v : α) : mget d (mset d m k v) k = v := by
  unfold mset; split
  · rename_i h; rw [h]; exact mget_mdrop_same d k m
  · exact mget_minsert_same d k v m

/-- Setting a key leaves every other as it was. -/
theorem mget_mset_other (d : α) (m : List (Nat × α)) {j k : Nat} (h : k ≠ j) (v : α) :
    mget d (mset d m k v) j = mget d m j := by
  unfold mset; split
  · exact mget_mdrop_other d h m
  · rw [mget_minsert_other d h, mget_mdrop_other d h]

/-- A keyed list after one key was set, read anywhere. -/
theorem mget_mset (d : α) (m : List (Nat × α)) (j k : Nat) (v : α) :
    mget d (mset d m k v) j = if k = j then v else mget d m j := by
  split
  · rename_i h; subst h; exact mget_mset_same d m k v
  · rename_i h; exact mget_mset_other d m h v

/-! ## The canonical form -/

@[simp] theorem mwf_nil (d : α) : mwf d ([] : List (Nat × α)) = true := rfl

theorem mem_minsert (k : Nat) (v : α) (m : List (Nat × α)) (e : Nat × α) :
    e ∈ minsert k v m ↔ e = (k, v) ∨ e ∈ m := by
  induction m with
  | nil => simp [minsert]
  | cons x r ih =>
    obtain ⟨k', v'⟩ := x
    rw [minsert]; split
    · simp
    · simp only [List.mem_cons, ih]; tauto

theorem mwf_cons (d : α) (k : Nat) (v : α) (r : List (Nat × α)) :
    mwf d ((k, v) :: r) = true ↔ v ≠ d ∧ (∀ e ∈ r, k < e.1) ∧ mwf d r = true := by
  simp [mwf, and_assoc]

theorem mwf_mdrop (d : α) (k : Nat) {m : List (Nat × α)} (h : mwf d m = true) : mwf d (mdrop k m) = true := by
  induction m with
  | nil => rfl
  | cons e r ih =>
    obtain ⟨k', v'⟩ := e
    rw [mwf_cons] at h
    by_cases hk : k' = k
    · have hr : mdrop k ((k', v') :: r) = mdrop k r := by simp [mdrop, hk]
      rw [hr]; exact ih h.2.2
    · have hr : mdrop k ((k', v') :: r) = (k', v') :: mdrop k r := by simp [mdrop, hk]
      rw [hr, mwf_cons]
      exact ⟨h.1, fun e he => h.2.1 e (List.mem_of_mem_filter he), ih h.2.2⟩

theorem mwf_minsert (d : α) {k : Nat} {v : α} (hv : v ≠ d) {m : List (Nat × α)} (h : mwf d m = true)
    (hk : ∀ e ∈ m, e.1 ≠ k) : mwf d (minsert k v m) = true := by
  induction m with
  | nil => simp [minsert, mwf, hv]
  | cons e r ih =>
    obtain ⟨k', v'⟩ := e
    have h' := (mwf_cons d k' v' r).mp h
    rw [minsert]; split
    · rename_i hlt
      rw [mwf_cons]
      refine ⟨hv, ?_, h⟩
      intro e he
      rcases List.mem_cons.mp he with rfl | he
      · exact hlt
      · exact lt_trans hlt (h'.2.1 e he)
    · rename_i hge
      rw [mwf_cons]
      refine ⟨h'.1, ?_, ih h'.2.2 (fun e he => hk e (List.mem_cons_of_mem _ he))⟩
      intro e he
      rcases (mem_minsert k v r e).mp he with rfl | he
      · have hne := hk (k', v') (List.mem_cons_self ..)
        simp only at hne ⊢; omega
      · exact h'.2.1 e he

/-- Setting a key keeps the canonical form. -/
theorem mwf_mset (d : α) {m : List (Nat × α)} (k : Nat) (v : α) (h : mwf d m = true) : mwf d (mset d m k v) = true := by
  unfold mset; split
  · exact mwf_mdrop d k h
  · rename_i hv
    refine mwf_minsert d hv (mwf_mdrop d k h) ?_
    intro e he
    simpa [mdrop] using (List.mem_filter.mp he).2

/-- Filtering keeps the canonical form. -/
theorem mwf_filter (d : α) (p : Nat × α → Bool) {m : List (Nat × α)} (h : mwf d m = true) :
    mwf d (m.filter p) = true := by
  induction m with
  | nil => rfl
  | cons e r ih =>
    obtain ⟨k', v'⟩ := e
    rw [mwf_cons] at h
    rw [List.filter_cons]; split
    · rw [mwf_cons]
      exact ⟨h.1, fun e he => h.2.1 e (List.mem_of_mem_filter he), ih h.2.2⟩
    · exact ih h.2.2

end Sys2Proof.Machine
end

