-- ==== Sys2Proof/Laws/Memory.lean ====
section
/-! SUPPORT. The laws of bank and keep memory: a read after a write, every other byte as it was, and the canonical form
that every memory operation keeps. -/

namespace Sys2Proof.Machine

open Sys2Proof

/-! ## One byte -/

@[simp] theorem readByte_writeByte_same (m : Mem) (a : Nat) (b : Byte) : readByte (writeByte m a b) a = b :=
  mget_mset_same ..

theorem readByte_writeByte_other (m : Mem) {a x : Nat} (h : a ≠ x) (b : Byte) :
    readByte (writeByte m a b) x = readByte m x := mget_mset_other 0 m.data h b

/-! ## Bytes in order -/

theorem mget_putBytes_below (bs : List Byte) (d : List Host.Cell) (a x : Nat) (h : x < a) :
    mget 0 (putBytes d a bs) x = mget 0 d x := by
  induction bs generalizing d a with
  | nil => rfl
  | cons b r ih => rw [putBytes, ih _ _ (by omega), mget_mset_other 0 d (by omega)]

theorem mget_putBytes_above (bs : List Byte) (d : List Host.Cell) (a x : Nat) (h : a + bs.length ≤ x) :
    mget 0 (putBytes d a bs) x = mget 0 d x := by
  induction bs generalizing d a with
  | nil => rfl
  | cons b r ih =>
    rw [List.length_cons] at h
    rw [putBytes, ih _ _ (by omega), mget_mset_other 0 d (by omega)]

theorem mget_putBytes_at (bs : List Byte) (d : List Host.Cell) (a i : Nat) (h : i < bs.length) :
    mget 0 (putBytes d a bs) (a + i) = bs[i] := by
  induction bs generalizing d a i with
  | nil => simp at h
  | cons b r ih =>
    rw [putBytes]
    cases i with
    | zero =>
      rw [mget_putBytes_below r _ _ _ (by omega)]
      exact mget_mset_same 0 d a b
    | succ j =>
      have hj : j < r.length := by simpa using h
      have := ih (mset 0 d a b) (a + 1) j hj
      rw [show a + (j + 1) = a + 1 + j by omega, this]; rfl

/-- Every byte outside the bytes written reads as before. -/
theorem readByte_writeBytes_outside (m : Mem) (a x : Nat) (bs : List Byte) (h : x < a ∨ a + bs.length ≤ x) :
    readByte (writeBytes m a bs) x = readByte m x := by
  rcases h with h | h
  · exact mget_putBytes_below bs m.data a x h
  · exact mget_putBytes_above bs m.data a x h

/-- Byte i of what was written reads at its place. -/
theorem readByte_writeBytes_at (m : Mem) (a i : Nat) (bs : List Byte) (h : i < bs.length) :
    readByte (writeBytes m a bs) (a + i) = bs[i] := mget_putBytes_at bs m.data a i h

@[simp] theorem leBytes_length (n x : Nat) : (leBytes n x).length = n := by
  induction n generalizing x with
  | zero => rfl
  | succ k ih => simp [leBytes, ih]

/-- The number that a number's bytes spell. -/
theorem leNat_leBytes (n x : Nat) : leNat (leBytes n x) = x % 256 ^ n := by
  induction n generalizing x with
  | zero => simp [leBytes, leNat, Nat.mod_one]
  | succ k ih =>
    simp only [leBytes, leNat, ih, BitVec.toNat_ofNat]
    show x % 256 + 256 * (x / 256 % 256 ^ k) = x % 256 ^ (k + 1)
    rw [Nat.pow_succ, Nat.mul_comm (256 ^ k) 256, Nat.mod_mul]

theorem readBytes_writeBytes (m : Mem) (a : Nat) (bs : List Byte) :
    readBytes (writeBytes m a bs) a bs.length = bs := by
  have key : ∀ (k i : Nat), i + k = bs.length → readBytes (writeBytes m a bs) (a + i) k = bs.drop i := by
    intro k
    induction k with
    | zero => intro i hi; rw [List.drop_of_length_le (by omega)]; rfl
    | succ k ih =>
      intro i hi
      have hlt : i < bs.length := by omega
      rw [readBytes, readByte_writeBytes_at m a i bs hlt, show a + i + 1 = a + (i + 1) by omega,
        ih (i + 1) (by omega), ← List.drop_eq_getElem_cons hlt]
  simpa using key bs.length 0 (by omega)

/-- A word reads as it was written (R12). -/
@[simp] theorem readWord_writeWord (m : Mem) (a : Nat) (v : W64) : readWord (writeWord m a v) a = v := by
  have h := readBytes_writeBytes m a (leBytes 8 v.toNat)
  rw [leBytes_length] at h
  rw [readWord, writeWord, h, leNat_leBytes]
  apply BitVec.eq_of_toNat_eq
  have := v.isLt
  rw [BitVec.toNat_ofNat, Nat.mod_eq_of_lt (a := v.toNat) (by omega), Nat.mod_eq_of_lt this]

/-- A word written leaves every other byte as it was. -/
theorem readByte_writeWord_outside (m : Mem) (a x : Nat) (v : W64) (h : x < a ∨ a + 8 ≤ x) :
    readByte (writeWord m a v) x = readByte m x :=
  readByte_writeBytes_outside m a x _ (by rwa [leBytes_length])

theorem readByte_writeWords_outside (vs : List W64) (m : Mem) (a x : Nat) (h : x < a ∨ a + 8 * vs.length ≤ x) :
    readByte (writeWords m a vs) x = readByte m x := by
  induction vs generalizing m a with
  | nil => rfl
  | cons v r ih =>
    rw [List.length_cons] at h
    rw [writeWords, ih _ _ (by omega), readByte_writeWord_outside _ _ _ _ (by omega)]

/-! ## What a write of bytes leaves alone -/

@[simp] theorem writeBytes_pres (m : Mem) (a : Nat) (bs : List Byte) : (writeBytes m a bs).pres = m.pres := rfl
@[simp] theorem writeBytes_ecc (m : Mem) (a : Nat) (bs : List Byte) : (writeBytes m a bs).ecc = m.ecc := rfl
@[simp] theorem writeBytes_banks (m : Mem) (a : Nat) (bs : List Byte) : (writeBytes m a bs).banks = m.banks := rfl
@[simp] theorem writeWord_pres (m : Mem) (a : Nat) (v : W64) : (writeWord m a v).pres = m.pres := rfl
@[simp] theorem writeWord_ecc (m : Mem) (a : Nat) (v : W64) : (writeWord m a v).ecc = m.ecc := rfl
@[simp] theorem writeWord_banks (m : Mem) (a : Nat) (v : W64) : (writeWord m a v).banks = m.banks := rfl
@[simp] theorem readByte_setPres (m : Mem) (a x : Nat) (p : BitVec 2) : readByte (setPres m a p) x = readByte m x := rfl
@[simp] theorem readByte_setEcc (m : Mem) (a x : Nat) (e : Ecc) : readByte (setEcc m a e) x = readByte m x := rfl
@[simp] theorem readByte_setBank (m : Mem) (t : TileId) (b : Bank) (x : Nat) :
    readByte (setBank m t b) x = readByte m x := rfl

/-- The presence state of a word after one was set (Table 08-2). -/
theorem presAt_setPres (m : Mem) (a x : Nat) (p : BitVec 2) :
    presAt (setPres m a p) x = if a / 8 = x / 8 then p else presAt m x := mget_mset ..

@[simp] theorem bankAt_setBank_same (m : Mem) (t : TileId) (b : Bank) : bankAt (setBank m t b) t = b :=
  mget_mset_same ..

theorem bankAt_setBank_other (m : Mem) {t u : TileId} (h : t ≠ u) (b : Bank) :
    bankAt (setBank m t b) u = bankAt m u :=
  mget_mset_other _ _ (fun e => h (BitVec.eq_of_toNat_eq e)) _

/-! ## The canonical form -/

theorem Memory.wf_iff (m : Mem) : Memory.wf m = true ↔
    mwf 0 m.data = true ∧ mwf 3 m.pres = true ∧ mwf Ecc.ok m.ecc = true ∧ mwf Bank.clear m.banks = true := by
  simp [Memory.wf, and_assoc]

theorem mwf_putBytes (bs : List Byte) (d : List Host.Cell) (a : Nat) (h : mwf 0 d = true) :
    mwf 0 (putBytes d a bs) = true := by
  induction bs generalizing d a with
  | nil => exact h
  | cons b r ih => exact ih _ _ (mwf_mset 0 a b h)

/-- Writing a byte keeps the canonical form. -/
theorem writeByte_wf {m : Mem} (h : Memory.wf m = true) (a : Nat) (b : Byte) : Memory.wf (writeByte m a b) = true := by
  rw [Memory.wf_iff] at *; exact ⟨mwf_mset 0 a b h.1, h.2⟩

/-- Writing bytes keeps the canonical form. -/
theorem writeBytes_wf {m : Mem} (h : Memory.wf m = true) (a : Nat) (bs : List Byte) :
    Memory.wf (writeBytes m a bs) = true := by
  rw [Memory.wf_iff] at *; exact ⟨mwf_putBytes bs m.data a h.1, h.2⟩

/-- Writing a word keeps the canonical form. -/
theorem writeWord_wf {m : Mem} (h : Memory.wf m = true) (a : Nat) (v : W64) : Memory.wf (writeWord m a v) = true :=
  writeBytes_wf h a _

/-- Writing words keeps the canonical form. -/
theorem writeWords_wf (vs : List W64) {m : Mem} (h : Memory.wf m = true) (a : Nat) :
    Memory.wf (writeWords m a vs) = true := by
  induction vs generalizing m a with
  | nil => exact h
  | cons v r ih => exact ih (writeWord_wf h a v) _

/-- Setting a presence state keeps the canonical form. -/
theorem setPres_wf {m : Mem} (h : Memory.wf m = true) (a : Nat) (p : BitVec 2) : Memory.wf (setPres m a p) = true := by
  rw [Memory.wf_iff] at *; exact ⟨h.1, mwf_mset 3 (a / 8) p h.2.1, h.2.2⟩

/-- Setting an error mark keeps the canonical form. -/
theorem setEcc_wf {m : Mem} (h : Memory.wf m = true) (a : Nat) (e : Ecc) : Memory.wf (setEcc m a e) = true := by
  rw [Memory.wf_iff] at *; exact ⟨h.1, h.2.1, mwf_mset Ecc.ok (a / 8) e h.2.2.1, h.2.2.2⟩

/-- Replacing a bank keeps the canonical form. -/
theorem setBank_wf {m : Mem} (h : Memory.wf m = true) (t : TileId) (b : Bank) : Memory.wf (setBank m t b) = true := by
  rw [Memory.wf_iff] at *; exact ⟨h.1, h.2.1, h.2.2.1, mwf_mset Bank.clear t.toNat b h.2.2.2⟩

/-- Raising a fault serial keeps the canonical form. -/
theorem bumpSerial_wf {m : Mem} (h : Memory.wf m = true) (c : BitVec 14) : Memory.wf (bumpSerial m c) = true :=
  writeBytes_wf h _ _

/-- Raising an iteration base keeps the canonical form. -/
theorem bumpIterBase_wf {m : Mem} (h : Memory.wf m = true) (c : BitVec 14) : Memory.wf (bumpIterBase m c) = true :=
  writeBytes_wf h _ _

/-- Memory at reset has the canonical form. -/
theorem reset_memory_wf : Memory.wf State.reset.mem = true := rfl

end Sys2Proof.Machine
end

