-- ==== Sys2Proof/Laws/State.lean ====
section
/-! SUPPORT. What each named update of the state sets and what it leaves alone: one lemma for each field. -/

namespace Sys2Proof.Machine

open Sys2Proof

/-! ## setCell -/

@[simp] theorem setCell_pending (s : State) (c : CellId) (x : Cell) : (setCell s c x).pending = s.pending := rfl
@[simp] theorem setCell_out (s : State) (c : CellId) (x : Cell) : (setCell s c x).out = s.out := rfl
@[simp] theorem setCell_freeCounter (s : State) (c : CellId) (x : Cell) : (setCell s c x).freeCounter = s.freeCounter := rfl
@[simp] theorem setCell_straps (s : State) (c : CellId) (x : Cell) : (setCell s c x).straps = s.straps := rfl
@[simp] theorem setCell_pwr (s : State) (c : CellId) (x : Cell) : (setCell s c x).pwr = s.pwr := rfl
@[simp] theorem setCell_time (s : State) (c : CellId) (x : Cell) : (setCell s c x).time = s.time := rfl
@[simp] theorem setCell_mem (s : State) (c : CellId) (x : Cell) : (setCell s c x).mem = s.mem := rfl
@[simp] theorem setCell_locks (s : State) (c : CellId) (x : Cell) : (setCell s c x).locks = s.locks := rfl
@[simp] theorem setCell_weave (s : State) (c : CellId) (x : Cell) : (setCell s c x).weave = s.weave := rfl
@[simp] theorem setCell_stw (s : State) (c : CellId) (x : Cell) : (setCell s c x).stw = s.stw := rfl
@[simp] theorem setCell_keys (s : State) (c : CellId) (x : Cell) : (setCell s c x).keys = s.keys := rfl
@[simp] theorem setCell_tab (s : State) (c : CellId) (x : Cell) : (setCell s c x).tab = s.tab := rfl
@[simp] theorem setCell_streams (s : State) (c : CellId) (x : Cell) : (setCell s c x).streams = s.streams := rfl
@[simp] theorem setCell_host (s : State) (c : CellId) (x : Cell) : (setCell s c x).host = s.host := rfl
@[simp] theorem setCell_sh (s : State) (c : CellId) (x : Cell) : (setCell s c x).sh = s.sh := rfl
@[simp] theorem setCell_rowA (s : State) (c : CellId) (x : Cell) : (setCell s c x).rowA = s.rowA := rfl
@[simp] theorem setCell_rowB (s : State) (c : CellId) (x : Cell) : (setCell s c x).rowB = s.rowB := rfl
@[simp] theorem setCell_sel (s : State) (c : CellId) (x : Cell) : (setCell s c x).sel = s.sel := rfl
@[simp] theorem setCell_fd (s : State) (c : CellId) (x : Cell) : (setCell s c x).fd = s.fd := rfl
@[simp] theorem setCell_jtag (s : State) (c : CellId) (x : Cell) : (setCell s c x).jtag = s.jtag := rfl

/-! ## setEngine -/

@[simp] theorem setEngine_pending (s : State) (c : CellId) (e : Engine) : (setEngine s c e).pending = s.pending := rfl
@[simp] theorem setEngine_out (s : State) (c : CellId) (e : Engine) : (setEngine s c e).out = s.out := rfl
@[simp] theorem setEngine_freeCounter (s : State) (c : CellId) (e : Engine) : (setEngine s c e).freeCounter = s.freeCounter := rfl
@[simp] theorem setEngine_straps (s : State) (c : CellId) (e : Engine) : (setEngine s c e).straps = s.straps := rfl
@[simp] theorem setEngine_pwr (s : State) (c : CellId) (e : Engine) : (setEngine s c e).pwr = s.pwr := rfl
@[simp] theorem setEngine_time (s : State) (c : CellId) (e : Engine) : (setEngine s c e).time = s.time := rfl
@[simp] theorem setEngine_mem (s : State) (c : CellId) (e : Engine) : (setEngine s c e).mem = s.mem := rfl
@[simp] theorem setEngine_locks (s : State) (c : CellId) (e : Engine) : (setEngine s c e).locks = s.locks := rfl
@[simp] theorem setEngine_weave (s : State) (c : CellId) (e : Engine) : (setEngine s c e).weave = s.weave := rfl
@[simp] theorem setEngine_stw (s : State) (c : CellId) (e : Engine) : (setEngine s c e).stw = s.stw := rfl
@[simp] theorem setEngine_keys (s : State) (c : CellId) (e : Engine) : (setEngine s c e).keys = s.keys := rfl
@[simp] theorem setEngine_tab (s : State) (c : CellId) (e : Engine) : (setEngine s c e).tab = s.tab := rfl
@[simp] theorem setEngine_streams (s : State) (c : CellId) (e : Engine) : (setEngine s c e).streams = s.streams := rfl
@[simp] theorem setEngine_host (s : State) (c : CellId) (e : Engine) : (setEngine s c e).host = s.host := rfl
@[simp] theorem setEngine_sh (s : State) (c : CellId) (e : Engine) : (setEngine s c e).sh = s.sh := rfl
@[simp] theorem setEngine_rowA (s : State) (c : CellId) (e : Engine) : (setEngine s c e).rowA = s.rowA := rfl
@[simp] theorem setEngine_rowB (s : State) (c : CellId) (e : Engine) : (setEngine s c e).rowB = s.rowB := rfl
@[simp] theorem setEngine_sel (s : State) (c : CellId) (e : Engine) : (setEngine s c e).sel = s.sel := rfl
@[simp] theorem setEngine_fd (s : State) (c : CellId) (e : Engine) : (setEngine s c e).fd = s.fd := rfl
@[simp] theorem setEngine_jtag (s : State) (c : CellId) (e : Engine) : (setEngine s c e).jtag = s.jtag := rfl

/-! ## emit -/

@[simp] theorem emit_pending (s : State) (o : Out) : (emit s o).pending = s.pending := rfl
@[simp] theorem emit_freeCounter (s : State) (o : Out) : (emit s o).freeCounter = s.freeCounter := rfl
@[simp] theorem emit_straps (s : State) (o : Out) : (emit s o).straps = s.straps := rfl
@[simp] theorem emit_pwr (s : State) (o : Out) : (emit s o).pwr = s.pwr := rfl
@[simp] theorem emit_time (s : State) (o : Out) : (emit s o).time = s.time := rfl
@[simp] theorem emit_mem (s : State) (o : Out) : (emit s o).mem = s.mem := rfl
@[simp] theorem emit_cells (s : State) (o : Out) : (emit s o).cells = s.cells := rfl
@[simp] theorem emit_locks (s : State) (o : Out) : (emit s o).locks = s.locks := rfl
@[simp] theorem emit_weave (s : State) (o : Out) : (emit s o).weave = s.weave := rfl
@[simp] theorem emit_stw (s : State) (o : Out) : (emit s o).stw = s.stw := rfl
@[simp] theorem emit_keys (s : State) (o : Out) : (emit s o).keys = s.keys := rfl
@[simp] theorem emit_tab (s : State) (o : Out) : (emit s o).tab = s.tab := rfl
@[simp] theorem emit_streams (s : State) (o : Out) : (emit s o).streams = s.streams := rfl
@[simp] theorem emit_host (s : State) (o : Out) : (emit s o).host = s.host := rfl
@[simp] theorem emit_sh (s : State) (o : Out) : (emit s o).sh = s.sh := rfl
@[simp] theorem emit_rowA (s : State) (o : Out) : (emit s o).rowA = s.rowA := rfl
@[simp] theorem emit_rowB (s : State) (o : Out) : (emit s o).rowB = s.rowB := rfl
@[simp] theorem emit_sel (s : State) (o : Out) : (emit s o).sel = s.sel := rfl
@[simp] theorem emit_fd (s : State) (o : Out) : (emit s o).fd = s.fd := rfl
@[simp] theorem emit_jtag (s : State) (o : Out) : (emit s o).jtag = s.jtag := rfl

/-! ## bumpFree -/

@[simp] theorem bumpFree_pending (s : State) : (bumpFree s).pending = s.pending := rfl
@[simp] theorem bumpFree_out (s : State) : (bumpFree s).out = s.out := rfl
@[simp] theorem bumpFree_straps (s : State) : (bumpFree s).straps = s.straps := rfl
@[simp] theorem bumpFree_pwr (s : State) : (bumpFree s).pwr = s.pwr := rfl
@[simp] theorem bumpFree_time (s : State) : (bumpFree s).time = s.time := rfl
@[simp] theorem bumpFree_mem (s : State) : (bumpFree s).mem = s.mem := rfl
@[simp] theorem bumpFree_cells (s : State) : (bumpFree s).cells = s.cells := rfl
@[simp] theorem bumpFree_locks (s : State) : (bumpFree s).locks = s.locks := rfl
@[simp] theorem bumpFree_weave (s : State) : (bumpFree s).weave = s.weave := rfl
@[simp] theorem bumpFree_stw (s : State) : (bumpFree s).stw = s.stw := rfl
@[simp] theorem bumpFree_keys (s : State) : (bumpFree s).keys = s.keys := rfl
@[simp] theorem bumpFree_tab (s : State) : (bumpFree s).tab = s.tab := rfl
@[simp] theorem bumpFree_streams (s : State) : (bumpFree s).streams = s.streams := rfl
@[simp] theorem bumpFree_host (s : State) : (bumpFree s).host = s.host := rfl
@[simp] theorem bumpFree_sh (s : State) : (bumpFree s).sh = s.sh := rfl
@[simp] theorem bumpFree_rowA (s : State) : (bumpFree s).rowA = s.rowA := rfl
@[simp] theorem bumpFree_rowB (s : State) : (bumpFree s).rowB = s.rowB := rfl
@[simp] theorem bumpFree_sel (s : State) : (bumpFree s).sel = s.sel := rfl
@[simp] theorem bumpFree_fd (s : State) : (bumpFree s).fd = s.fd := rfl
@[simp] theorem bumpFree_jtag (s : State) : (bumpFree s).jtag = s.jtag := rfl

/-! ## taken -/

@[simp] theorem taken_pending (s : State) (t : TileId) (extra : Bool) (f : Flit) : (taken s t extra f).pending = s.pending := rfl
@[simp] theorem taken_out (s : State) (t : TileId) (extra : Bool) (f : Flit) : (taken s t extra f).out = s.out := rfl
@[simp] theorem taken_freeCounter (s : State) (t : TileId) (extra : Bool) (f : Flit) : (taken s t extra f).freeCounter = s.freeCounter := rfl
@[simp] theorem taken_straps (s : State) (t : TileId) (extra : Bool) (f : Flit) : (taken s t extra f).straps = s.straps := rfl
@[simp] theorem taken_pwr (s : State) (t : TileId) (extra : Bool) (f : Flit) : (taken s t extra f).pwr = s.pwr := rfl
@[simp] theorem taken_time (s : State) (t : TileId) (extra : Bool) (f : Flit) : (taken s t extra f).time = s.time := rfl
@[simp] theorem taken_mem (s : State) (t : TileId) (extra : Bool) (f : Flit) : (taken s t extra f).mem = s.mem := rfl
@[simp] theorem taken_cells (s : State) (t : TileId) (extra : Bool) (f : Flit) : (taken s t extra f).cells = s.cells := rfl
@[simp] theorem taken_locks (s : State) (t : TileId) (extra : Bool) (f : Flit) : (taken s t extra f).locks = s.locks := rfl
@[simp] theorem taken_stw (s : State) (t : TileId) (extra : Bool) (f : Flit) : (taken s t extra f).stw = s.stw := rfl
@[simp] theorem taken_keys (s : State) (t : TileId) (extra : Bool) (f : Flit) : (taken s t extra f).keys = s.keys := rfl
@[simp] theorem taken_tab (s : State) (t : TileId) (extra : Bool) (f : Flit) : (taken s t extra f).tab = s.tab := rfl
@[simp] theorem taken_streams (s : State) (t : TileId) (extra : Bool) (f : Flit) : (taken s t extra f).streams = s.streams := rfl
@[simp] theorem taken_host (s : State) (t : TileId) (extra : Bool) (f : Flit) : (taken s t extra f).host = s.host := rfl
@[simp] theorem taken_sh (s : State) (t : TileId) (extra : Bool) (f : Flit) : (taken s t extra f).sh = s.sh := rfl
@[simp] theorem taken_rowA (s : State) (t : TileId) (extra : Bool) (f : Flit) : (taken s t extra f).rowA = s.rowA := rfl
@[simp] theorem taken_rowB (s : State) (t : TileId) (extra : Bool) (f : Flit) : (taken s t extra f).rowB = s.rowB := rfl
@[simp] theorem taken_sel (s : State) (t : TileId) (extra : Bool) (f : Flit) : (taken s t extra f).sel = s.sel := rfl
@[simp] theorem taken_fd (s : State) (t : TileId) (extra : Bool) (f : Flit) : (taken s t extra f).fd = s.fd := rfl
@[simp] theorem taken_jtag (s : State) (t : TileId) (extra : Bool) (f : Flit) : (taken s t extra f).jtag = s.jtag := rfl

/-! ## Offers that enter the weave -/

/-- A read of a descriptor changes the error marks and counts of memory only. -/
theorem readDescriptor_shape (m : Mem) (c : BitVec 14) (w : Nat) :
    readDescriptor m c w = { m with ecc := (readDescriptor m c w).ecc, banks := (readDescriptor m c w).banks } := by
  unfold readDescriptor checkWord
  split
  · rfl
  · split <;> rfl

/-- Two memories differ in error marks and bank registers only: no byte and no presence state is among them. -/
def MarksOnly (m m' : Mem) : Prop := m' = { m with ecc := m'.ecc, banks := m'.banks }

theorem MarksOnly.refl (m : Mem) : MarksOnly m m := rfl

theorem MarksOnly.trans {a b c : Mem} (h : MarksOnly a b) (g : MarksOnly b c) : MarksOnly a c := by
  unfold MarksOnly at *; rw [g, h]

theorem MarksOnly.readByte {m m' : Mem} (h : MarksOnly m m') (a : Nat) : readByte m' a = readByte m a := by
  rw [h]; rfl

theorem MarksOnly.presAt {m m' : Mem} (h : MarksOnly m m') (a : Nat) : presAt m' a = presAt m a := by
  rw [h]; rfl

/-- Reads of descriptors change error marks and bank registers only. -/
theorem marksOnly_reads (w : Nat) (cs : List (BitVec 14)) (m : Mem) :
    MarksOnly m (cs.foldl (fun m c => readDescriptor m c w) m) := by
  induction cs generalizing m with
  | nil => rfl
  | cons c r ih => exact MarksOnly.trans (readDescriptor_shape m c w) (ih _)

/-- What an offer that enters leaves as it was: everything but the weave, error marks and counts, and free values. -/
structure Enters (s t : State) : Prop where
  shape : t = { s with weave := t.weave, mem := t.mem, freeCounter := t.freeCounter }
  mem : MarksOnly s.mem t.mem

theorem Enters.refl (s : State) : Enters s s := ⟨rfl, rfl⟩

theorem Enters.trans {a b c : State} (h : Enters a b) (g : Enters b c) : Enters a c :=
  ⟨by rw [g.shape, h.shape], h.mem.trans g.mem⟩

theorem offerEnters_enters (s : State) (w : Weave) (t : TileId) (extra : Bool) (o : Offer) :
    Enters s (offerEnters { s with weave := w } t extra o) := ⟨rfl, marksOnly_reads ..⟩

theorem drainPort_enters (t : TileId) (extra : Bool) (n : Nat) (s : State) : Enters s (drainPort t extra n s) := by
  induction n generalizing s with
  | zero => exact Enters.refl s
  | succ n ih =>
    rw [drainPort]
    split
    · exact Enters.refl s
    · exact (offerEnters_enters ..).trans (ih _)

/-- A port that accepts what it can changes the weave, error marks and counts, and the free values drawn. -/
theorem drain_enters (s : State) (t : TileId) (extra : Bool) : Enters s (drain s t extra) := by
  unfold drain
  split
  · exact drainPort_enters ..
  · exact Enters.refl s

/-- So does a block that offers a flit. -/
theorem produce_enters (s : State) (t : TileId) (extra : Bool) (o : Offer) : Enters s (produce s t extra o) :=
  Enters.trans (b := { s with weave := setOffers s.weave (offerKey t extra) (offersAt s.weave (offerKey t extra) ++ [o]) })
    ⟨rfl, rfl⟩ (drain_enters _ t extra)

/-- So does one that offers several. -/
theorem produceAll_enters (t : TileId) (extra : Bool) (os : List Offer) (s : State) :
    Enters s (produceAll s t extra os) := by
  induction os generalizing s with
  | nil => exact Enters.refl s
  | cons o r ih => exact (produce_enters s t extra o).trans (ih _)

theorem Enters.pending {s t : State} (h : Enters s t) : t.pending = s.pending := by rw [h.shape]
theorem Enters.out {s t : State} (h : Enters s t) : t.out = s.out := by rw [h.shape]
theorem Enters.straps {s t : State} (h : Enters s t) : t.straps = s.straps := by rw [h.shape]
theorem Enters.pwr {s t : State} (h : Enters s t) : t.pwr = s.pwr := by rw [h.shape]
theorem Enters.time {s t : State} (h : Enters s t) : t.time = s.time := by rw [h.shape]
theorem Enters.cells {s t : State} (h : Enters s t) : t.cells = s.cells := by rw [h.shape]
theorem Enters.locks {s t : State} (h : Enters s t) : t.locks = s.locks := by rw [h.shape]
theorem Enters.stw {s t : State} (h : Enters s t) : t.stw = s.stw := by rw [h.shape]
theorem Enters.keys {s t : State} (h : Enters s t) : t.keys = s.keys := by rw [h.shape]
theorem Enters.tab {s t : State} (h : Enters s t) : t.tab = s.tab := by rw [h.shape]
theorem Enters.streams {s t : State} (h : Enters s t) : t.streams = s.streams := by rw [h.shape]
theorem Enters.host {s t : State} (h : Enters s t) : t.host = s.host := by rw [h.shape]
theorem Enters.sh {s t : State} (h : Enters s t) : t.sh = s.sh := by rw [h.shape]
theorem Enters.rowA {s t : State} (h : Enters s t) : t.rowA = s.rowA := by rw [h.shape]
theorem Enters.rowB {s t : State} (h : Enters s t) : t.rowB = s.rowB := by rw [h.shape]
theorem Enters.sel {s t : State} (h : Enters s t) : t.sel = s.sel := by rw [h.shape]
theorem Enters.fd {s t : State} (h : Enters s t) : t.fd = s.fd := by rw [h.shape]
theorem Enters.jtag {s t : State} (h : Enters s t) : t.jtag = s.jtag := by rw [h.shape]

/-! ## produce -/

@[simp] theorem produce_pending (s : State) (t : TileId) (extra : Bool) (o : Offer) : (produce s t extra o).pending = s.pending := (produce_enters s t extra o).pending
@[simp] theorem produce_out (s : State) (t : TileId) (extra : Bool) (o : Offer) : (produce s t extra o).out = s.out := (produce_enters s t extra o).out
@[simp] theorem produce_straps (s : State) (t : TileId) (extra : Bool) (o : Offer) : (produce s t extra o).straps = s.straps := (produce_enters s t extra o).straps
@[simp] theorem produce_pwr (s : State) (t : TileId) (extra : Bool) (o : Offer) : (produce s t extra o).pwr = s.pwr := (produce_enters s t extra o).pwr
@[simp] theorem produce_time (s : State) (t : TileId) (extra : Bool) (o : Offer) : (produce s t extra o).time = s.time := (produce_enters s t extra o).time
@[simp] theorem produce_cells (s : State) (t : TileId) (extra : Bool) (o : Offer) : (produce s t extra o).cells = s.cells := (produce_enters s t extra o).cells
@[simp] theorem produce_locks (s : State) (t : TileId) (extra : Bool) (o : Offer) : (produce s t extra o).locks = s.locks := (produce_enters s t extra o).locks
@[simp] theorem produce_stw (s : State) (t : TileId) (extra : Bool) (o : Offer) : (produce s t extra o).stw = s.stw := (produce_enters s t extra o).stw
@[simp] theorem produce_keys (s : State) (t : TileId) (extra : Bool) (o : Offer) : (produce s t extra o).keys = s.keys := (produce_enters s t extra o).keys
@[simp] theorem produce_tab (s : State) (t : TileId) (extra : Bool) (o : Offer) : (produce s t extra o).tab = s.tab := (produce_enters s t extra o).tab
@[simp] theorem produce_streams (s : State) (t : TileId) (extra : Bool) (o : Offer) : (produce s t extra o).streams = s.streams := (produce_enters s t extra o).streams
@[simp] theorem produce_host (s : State) (t : TileId) (extra : Bool) (o : Offer) : (produce s t extra o).host = s.host := (produce_enters s t extra o).host
@[simp] theorem produce_sh (s : State) (t : TileId) (extra : Bool) (o : Offer) : (produce s t extra o).sh = s.sh := (produce_enters s t extra o).sh
@[simp] theorem produce_rowA (s : State) (t : TileId) (extra : Bool) (o : Offer) : (produce s t extra o).rowA = s.rowA := (produce_enters s t extra o).rowA
@[simp] theorem produce_rowB (s : State) (t : TileId) (extra : Bool) (o : Offer) : (produce s t extra o).rowB = s.rowB := (produce_enters s t extra o).rowB
@[simp] theorem produce_sel (s : State) (t : TileId) (extra : Bool) (o : Offer) : (produce s t extra o).sel = s.sel := (produce_enters s t extra o).sel
@[simp] theorem produce_fd (s : State) (t : TileId) (extra : Bool) (o : Offer) : (produce s t extra o).fd = s.fd := (produce_enters s t extra o).fd
@[simp] theorem produce_jtag (s : State) (t : TileId) (extra : Bool) (o : Offer) : (produce s t extra o).jtag = s.jtag := (produce_enters s t extra o).jtag

/-! ## produceAll -/

@[simp] theorem produceAll_pending (s : State) (t : TileId) (extra : Bool) (os : List Offer) : (produceAll s t extra os).pending = s.pending := (produceAll_enters t extra os s).pending
@[simp] theorem produceAll_out (s : State) (t : TileId) (extra : Bool) (os : List Offer) : (produceAll s t extra os).out = s.out := (produceAll_enters t extra os s).out
@[simp] theorem produceAll_straps (s : State) (t : TileId) (extra : Bool) (os : List Offer) : (produceAll s t extra os).straps = s.straps := (produceAll_enters t extra os s).straps
@[simp] theorem produceAll_pwr (s : State) (t : TileId) (extra : Bool) (os : List Offer) : (produceAll s t extra os).pwr = s.pwr := (produceAll_enters t extra os s).pwr
@[simp] theorem produceAll_time (s : State) (t : TileId) (extra : Bool) (os : List Offer) : (produceAll s t extra os).time = s.time := (produceAll_enters t extra os s).time
@[simp] theorem produceAll_cells (s : State) (t : TileId) (extra : Bool) (os : List Offer) : (produceAll s t extra os).cells = s.cells := (produceAll_enters t extra os s).cells
@[simp] theorem produceAll_locks (s : State) (t : TileId) (extra : Bool) (os : List Offer) : (produceAll s t extra os).locks = s.locks := (produceAll_enters t extra os s).locks
@[simp] theorem produceAll_stw (s : State) (t : TileId) (extra : Bool) (os : List Offer) : (produceAll s t extra os).stw = s.stw := (produceAll_enters t extra os s).stw
@[simp] theorem produceAll_keys (s : State) (t : TileId) (extra : Bool) (os : List Offer) : (produceAll s t extra os).keys = s.keys := (produceAll_enters t extra os s).keys
@[simp] theorem produceAll_tab (s : State) (t : TileId) (extra : Bool) (os : List Offer) : (produceAll s t extra os).tab = s.tab := (produceAll_enters t extra os s).tab
@[simp] theorem produceAll_streams (s : State) (t : TileId) (extra : Bool) (os : List Offer) : (produceAll s t extra os).streams = s.streams := (produceAll_enters t extra os s).streams
@[simp] theorem produceAll_host (s : State) (t : TileId) (extra : Bool) (os : List Offer) : (produceAll s t extra os).host = s.host := (produceAll_enters t extra os s).host
@[simp] theorem produceAll_sh (s : State) (t : TileId) (extra : Bool) (os : List Offer) : (produceAll s t extra os).sh = s.sh := (produceAll_enters t extra os s).sh
@[simp] theorem produceAll_rowA (s : State) (t : TileId) (extra : Bool) (os : List Offer) : (produceAll s t extra os).rowA = s.rowA := (produceAll_enters t extra os s).rowA
@[simp] theorem produceAll_rowB (s : State) (t : TileId) (extra : Bool) (os : List Offer) : (produceAll s t extra os).rowB = s.rowB := (produceAll_enters t extra os s).rowB
@[simp] theorem produceAll_sel (s : State) (t : TileId) (extra : Bool) (os : List Offer) : (produceAll s t extra os).sel = s.sel := (produceAll_enters t extra os s).sel
@[simp] theorem produceAll_fd (s : State) (t : TileId) (extra : Bool) (os : List Offer) : (produceAll s t extra os).fd = s.fd := (produceAll_enters t extra os s).fd
@[simp] theorem produceAll_jtag (s : State) (t : TileId) (extra : Bool) (os : List Offer) : (produceAll s t extra os).jtag = s.jtag := (produceAll_enters t extra os s).jtag

@[simp] theorem readByte_produce (s : State) (t : TileId) (extra : Bool) (o : Offer) (a : Nat) :
    readByte (produce s t extra o).mem a = readByte s.mem a := (produce_enters s t extra o).mem.readByte a
@[simp] theorem readByte_produceAll (s : State) (t : TileId) (extra : Bool) (os : List Offer) (a : Nat) :
    readByte (produceAll s t extra os).mem a = readByte s.mem a := (produceAll_enters t extra os s).mem.readByte a
@[simp] theorem presAt_produce (s : State) (t : TileId) (extra : Bool) (o : Offer) (a : Nat) :
    presAt (produce s t extra o).mem a = presAt s.mem a := (produce_enters s t extra o).mem.presAt a
@[simp] theorem cellAt_produce (s : State) (t : TileId) (extra : Bool) (o : Offer) (c : CellId) :
    cellAt (produce s t extra o) c = cellAt s c := by rw [cellAt, produce_cells, cellAt]
@[simp] theorem engineAt_produce (s : State) (t : TileId) (extra : Bool) (o : Offer) (c : CellId) :
    engineAt (produce s t extra o) c = engineAt s c := by rw [engineAt, cellAt_produce, engineAt]

/-! ## setShuttle -/

@[simp] theorem setShuttle_pending (s : State) (x : Shuttle) : (setShuttle s x).pending = s.pending := rfl
@[simp] theorem setShuttle_out (s : State) (x : Shuttle) : (setShuttle s x).out = s.out := rfl
@[simp] theorem setShuttle_freeCounter (s : State) (x : Shuttle) : (setShuttle s x).freeCounter = s.freeCounter := rfl
@[simp] theorem setShuttle_straps (s : State) (x : Shuttle) : (setShuttle s x).straps = s.straps := rfl
@[simp] theorem setShuttle_pwr (s : State) (x : Shuttle) : (setShuttle s x).pwr = s.pwr := rfl
@[simp] theorem setShuttle_time (s : State) (x : Shuttle) : (setShuttle s x).time = s.time := rfl
@[simp] theorem setShuttle_mem (s : State) (x : Shuttle) : (setShuttle s x).mem = s.mem := rfl
@[simp] theorem setShuttle_cells (s : State) (x : Shuttle) : (setShuttle s x).cells = s.cells := rfl
@[simp] theorem setShuttle_locks (s : State) (x : Shuttle) : (setShuttle s x).locks = s.locks := rfl
@[simp] theorem setShuttle_weave (s : State) (x : Shuttle) : (setShuttle s x).weave = s.weave := rfl
@[simp] theorem setShuttle_stw (s : State) (x : Shuttle) : (setShuttle s x).stw = s.stw := rfl
@[simp] theorem setShuttle_keys (s : State) (x : Shuttle) : (setShuttle s x).keys = s.keys := rfl
@[simp] theorem setShuttle_tab (s : State) (x : Shuttle) : (setShuttle s x).tab = s.tab := rfl
@[simp] theorem setShuttle_streams (s : State) (x : Shuttle) : (setShuttle s x).streams = s.streams := rfl
@[simp] theorem setShuttle_host (s : State) (x : Shuttle) : (setShuttle s x).host = s.host := rfl
@[simp] theorem setShuttle_rowA (s : State) (x : Shuttle) : (setShuttle s x).rowA = s.rowA := rfl
@[simp] theorem setShuttle_rowB (s : State) (x : Shuttle) : (setShuttle s x).rowB = s.rowB := rfl
@[simp] theorem setShuttle_sel (s : State) (x : Shuttle) : (setShuttle s x).sel = s.sel := rfl
@[simp] theorem setShuttle_fd (s : State) (x : Shuttle) : (setShuttle s x).fd = s.fd := rfl
@[simp] theorem setShuttle_jtag (s : State) (x : Shuttle) : (setShuttle s x).jtag = s.jtag := rfl

/-! ## setSel -/

@[simp] theorem setSel_pending (s : State) (x : Sel) : (setSel s x).pending = s.pending := rfl
@[simp] theorem setSel_out (s : State) (x : Sel) : (setSel s x).out = s.out := rfl
@[simp] theorem setSel_freeCounter (s : State) (x : Sel) : (setSel s x).freeCounter = s.freeCounter := rfl
@[simp] theorem setSel_straps (s : State) (x : Sel) : (setSel s x).straps = s.straps := rfl
@[simp] theorem setSel_pwr (s : State) (x : Sel) : (setSel s x).pwr = s.pwr := rfl
@[simp] theorem setSel_time (s : State) (x : Sel) : (setSel s x).time = s.time := rfl
@[simp] theorem setSel_mem (s : State) (x : Sel) : (setSel s x).mem = s.mem := rfl
@[simp] theorem setSel_cells (s : State) (x : Sel) : (setSel s x).cells = s.cells := rfl
@[simp] theorem setSel_locks (s : State) (x : Sel) : (setSel s x).locks = s.locks := rfl
@[simp] theorem setSel_weave (s : State) (x : Sel) : (setSel s x).weave = s.weave := rfl
@[simp] theorem setSel_stw (s : State) (x : Sel) : (setSel s x).stw = s.stw := rfl
@[simp] theorem setSel_keys (s : State) (x : Sel) : (setSel s x).keys = s.keys := rfl
@[simp] theorem setSel_tab (s : State) (x : Sel) : (setSel s x).tab = s.tab := rfl
@[simp] theorem setSel_streams (s : State) (x : Sel) : (setSel s x).streams = s.streams := rfl
@[simp] theorem setSel_host (s : State) (x : Sel) : (setSel s x).host = s.host := rfl
@[simp] theorem setSel_sh (s : State) (x : Sel) : (setSel s x).sh = s.sh := rfl
@[simp] theorem setSel_rowA (s : State) (x : Sel) : (setSel s x).rowA = s.rowA := rfl
@[simp] theorem setSel_rowB (s : State) (x : Sel) : (setSel s x).rowB = s.rowB := rfl
@[simp] theorem setSel_fd (s : State) (x : Sel) : (setSel s x).fd = s.fd := rfl
@[simp] theorem setSel_jtag (s : State) (x : Sel) : (setSel s x).jtag = s.jtag := rfl

/-! ## setField -/

@[simp] theorem setField_pending (s : State) (x : Field) : (setField s x).pending = s.pending := rfl
@[simp] theorem setField_out (s : State) (x : Field) : (setField s x).out = s.out := rfl
@[simp] theorem setField_freeCounter (s : State) (x : Field) : (setField s x).freeCounter = s.freeCounter := rfl
@[simp] theorem setField_straps (s : State) (x : Field) : (setField s x).straps = s.straps := rfl
@[simp] theorem setField_pwr (s : State) (x : Field) : (setField s x).pwr = s.pwr := rfl
@[simp] theorem setField_time (s : State) (x : Field) : (setField s x).time = s.time := rfl
@[simp] theorem setField_mem (s : State) (x : Field) : (setField s x).mem = s.mem := rfl
@[simp] theorem setField_cells (s : State) (x : Field) : (setField s x).cells = s.cells := rfl
@[simp] theorem setField_locks (s : State) (x : Field) : (setField s x).locks = s.locks := rfl
@[simp] theorem setField_weave (s : State) (x : Field) : (setField s x).weave = s.weave := rfl
@[simp] theorem setField_stw (s : State) (x : Field) : (setField s x).stw = s.stw := rfl
@[simp] theorem setField_keys (s : State) (x : Field) : (setField s x).keys = s.keys := rfl
@[simp] theorem setField_tab (s : State) (x : Field) : (setField s x).tab = s.tab := rfl
@[simp] theorem setField_streams (s : State) (x : Field) : (setField s x).streams = s.streams := rfl
@[simp] theorem setField_host (s : State) (x : Field) : (setField s x).host = s.host := rfl
@[simp] theorem setField_sh (s : State) (x : Field) : (setField s x).sh = s.sh := rfl
@[simp] theorem setField_rowA (s : State) (x : Field) : (setField s x).rowA = s.rowA := rfl
@[simp] theorem setField_rowB (s : State) (x : Field) : (setField s x).rowB = s.rowB := rfl
@[simp] theorem setField_sel (s : State) (x : Field) : (setField s x).sel = s.sel := rfl
@[simp] theorem setField_jtag (s : State) (x : Field) : (setField s x).jtag = s.jtag := rfl

/-! ## What was set -/

@[simp] theorem emit_out (s : State) (o : Out) : (emit s o).out = o :: s.out := rfl
@[simp] theorem bumpFree_freeCounter (s : State) : (bumpFree s).freeCounter = s.freeCounter + 1 := rfl
@[simp] theorem setShuttle_sh (s : State) (x : Shuttle) : (setShuttle s x).sh = x := rfl
@[simp] theorem setSel_sel (s : State) (x : Sel) : (setSel s x).sel = x := rfl
@[simp] theorem setField_fd (s : State) (x : Field) : (setField s x).fd = x := rfl
@[simp] theorem taken_weave (s : State) (t : TileId) (extra : Bool) (f : Flit) : (taken s t extra f).weave =
    setOut s.weave (outKey t extra f.vn) ((outAt s.weave (outKey t extra f.vn)).erase f) := rfl
@[simp] theorem rowAt_setRow_same (s : State) (r : RowId) (p : RowPort) : rowAt (setRow s r p) r = p := by cases r <;> rfl
@[simp] theorem rowAt_setRow_other (s : State) (r : RowId) (p : RowPort) : rowAt (setRow s r p) (otherRow r) = rowAt s (otherRow r) := by
  cases r <;> rfl

/-! ## What an unpredictable outcome leaves (R6, R7, R20) -/

@[simp] theorem wreck_pending (s : State) : (wreck s).pending = s.pending := rfl
@[simp] theorem wreck_straps (s : State) : (wreck s).straps = s.straps := rfl
@[simp] theorem wreck_keys (s : State) : (wreck s).keys = s.keys := rfl
@[simp] theorem wreck_fd (s : State) : (wreck s).fd = s.fd := rfl
@[simp] theorem wreck_jtag (s : State) : (wreck s).jtag = s.jtag := rfl
@[simp] theorem wreck_command (s : State) : (wreck s).sel.c = s.sel.c := rfl
@[simp] theorem wreck_phase (s : State) : (wreck s).pwr.phase = s.pwr.phase := rfl
@[simp] theorem wreck_pd (s : State) : (wreck s).pwr.pd = s.pwr.pd := rfl
@[simp] theorem wreck_resetN (s : State) : (wreck s).pwr.resetN = s.pwr.resetN := rfl
@[simp] theorem wreck_tamperN (s : State) : (wreck s).pwr.tamperN = s.pwr.tamperN := rfl
@[simp] theorem wreck_flash (s : State) : (wreck s).mem.flash = s.mem.flash := rfl

/-! ## Cells -/

@[simp] theorem cellAt_setCell_same (s : State) (c : CellId) (x : Cell) : cellAt (setCell s c x) c = x :=
  mget_mset_same ..

/-- Replacing a cell leaves every other as it was. -/
theorem cellAt_setCell_other (s : State) {c d : CellId} (h : c ≠ d) (x : Cell) :
    cellAt (setCell s c x) d = cellAt s d :=
  mget_mset_other _ _ (fun e => h (BitVec.eq_of_toNat_eq e)) _

@[simp] theorem engineAt_setCell_same (s : State) (c : CellId) (x : Cell) : engineAt (setCell s c x) c = x.engine := by
  rw [engineAt, cellAt_setCell_same]

@[simp] theorem cellAt_setEngine_same (s : State) (c : CellId) (e : Engine) :
    cellAt (setEngine s c e) c = { cellAt s c with engine := e } := cellAt_setCell_same ..

@[simp] theorem engineAt_setEngine_same (s : State) (c : CellId) (e : Engine) : engineAt (setEngine s c e) c = e := by
  rw [engineAt, cellAt_setEngine_same]

theorem cellAt_setEngine_other (s : State) {c d : CellId} (h : c ≠ d) (e : Engine) :
    cellAt (setEngine s c e) d = cellAt s d := cellAt_setCell_other s h _

/-! ## General registers (R172) -/

@[simp] theorem getG_setG_same (r : Regs) (i : Reg) (v : W64) : getG (setG r i v) i = v := by
  simp [getG, setG]

/-- Writing a register leaves every other as it was. -/
theorem getG_setG_other (r : Regs) {i j : Reg} (h : i ≠ j) (v : W64) : getG (setG r i v) j = getG r j := by
  have : i.toNat ≠ j.toNat := fun e => h (BitVec.eq_of_toNat_eq e)
  simp [getG, setG, this]

@[simp] theorem setG_pl (r : Regs) (i : Reg) (v : W64) : (setG r i v).pl = r.pl := rfl
@[simp] theorem setG_ph (r : Regs) (i : Reg) (v : W64) : (setG r i v).ph = r.ph := rfl
@[simp] theorem setG_cf (r : Regs) (i : Reg) (v : W64) : (setG r i v).cf = r.cf := rfl
@[simp] theorem setG_fs (r : Regs) (i : Reg) (v : W64) : (setG r i v).fs = r.fs := rfl
@[simp] theorem setG_dl (r : Regs) (i : Reg) (v : W64) : (setG r i v).dl = r.dl := rfl
@[simp] theorem setG_fl (r : Regs) (i : Reg) (v : W64) : (setG r i v).fl = r.fl := rfl
@[simp] theorem setG_ls (r : Regs) (i : Reg) (v : W64) : (setG r i v).ls = r.ls := rfl
@[simp] theorem setG_le (r : Regs) (i : Reg) (v : W64) : (setG r i v).le = r.le := rfl
@[simp] theorem setG_lc (r : Regs) (i : Reg) (v : W64) : (setG r i v).lc = r.lc := rfl
@[simp] theorem setG_bs (r : Regs) (i : Reg) (v : W64) : (setG r i v).bs = r.bs := rfl
@[simp] theorem setG_bd (r : Regs) (i : Reg) (v : W64) : (setG r i v).bd = r.bd := rfl
@[simp] theorem setG_bc (r : Regs) (i : Reg) (v : W64) : (setG r i v).bc = r.bc := rfl
@[simp] theorem setG_tag0 (r : Regs) (i : Reg) (v : W64) : (setG r i v).tag0 = r.tag0 := rfl
@[simp] theorem setG_tag1 (r : Regs) (i : Reg) (v : W64) : (setG r i v).tag1 = r.tag1 := rfl
@[simp] theorem setG_tag2 (r : Regs) (i : Reg) (v : W64) : (setG r i v).tag2 = r.tag2 := rfl
@[simp] theorem setG_tag3 (r : Regs) (i : Reg) (v : W64) : (setG r i v).tag3 = r.tag3 := rfl
@[simp] theorem setG_pc (r : Regs) (i : Reg) (v : W64) : (setG r i v).pc = r.pc := rfl
@[simp] theorem setG_pend (r : Regs) (i : Reg) (v : W64) : (setG r i v).pend = r.pend := rfl

end Sys2Proof.Machine
end

