-- ==== Sys2Proof/Laws/Port.lean ====
section
/-! SUPPORT. A flit that a strand offers enters at once where its port has room for it, and stays where the port has none
(R392). -/

namespace Sys2Proof.Machine

open Sys2Proof

/-! ## Choosing -/

theorem bestBy_mem {α : Type} (rank : α → Nat) {l : List α} {x : α} (h : bestBy rank l = some x) : x ∈ l := by
  induction l generalizing x with
  | nil => cases h
  | cons y r ih =>
    rw [bestBy] at h
    split at h
    · simp_all
    · rename_i z hz
      split at h
      · cases h; exact List.mem_cons_of_mem _ (ih hz)
      · cases h; simp

theorem bestBy_isSome {α : Type} (rank : α → Nat) {l : List α} {x : α} (h : x ∈ l) : (bestBy rank l).isSome = true := by
  cases l with
  | nil => cases h
  | cons y r =>
    rw [bestBy]
    split
    · rfl
    · split <;> rfl

theorem inTurn_cons (extra : Bool) (seen : List (Nat × BitVec 2)) (x : Offer) (r : List Offer) : ∃ b : Bool,
    inTurn extra seen (x :: r) =
      (if b then inTurn extra seen r else x :: inTurn extra ((x.req, x.flit.vn) :: seen) r) ∧
    (x.req ≠ 4 → b = seen.contains (x.req, x.flit.vn)) :=
  ⟨_, rfl, fun h => by simp [h]⟩

/-- An offer that comes behind no other of its requester's flits of its network is in turn. -/
theorem inTurn_mem {extra : Bool} {o : Offer} (ho : o.req ≠ 4) {seen : List (Nat × BitVec 2)}
    (hs : (o.req, o.flit.vn) ∉ seen) {os : List Offer} (h : o ∈ os)
    (hu : ∀ x ∈ os, x ≠ o → (x.req, x.flit.vn) ≠ (o.req, o.flit.vn)) : o ∈ inTurn extra seen os := by
  induction os generalizing seen with
  | nil => cases h
  | cons x r ih =>
    have hr : ∀ y ∈ r, y ≠ o → (y.req, y.flit.vn) ≠ (o.req, o.flit.vn) := fun y hy => hu y (List.mem_cons_of_mem _ hy)
    obtain ⟨b, hb, hk⟩ := inTurn_cons extra seen x r
    rw [hb]
    by_cases hx : x = o
    · subst hx; simp [hk ho, hs]
    · have hm : o ∈ r := (List.mem_cons.1 h).resolve_left (Ne.symm hx)
      have hne := hu x List.mem_cons_self hx
      cases b with
      | true => simpa using ih hs hm hr
      | false =>
        refine List.mem_cons_of_mem _ (ih ?_ hm hr)
        intro hc
        rcases List.mem_cons.1 hc with hc | hc
        · exact hne hc.symm
        · exact hs hc

theorem inTurn_sub {extra : Bool} {seen : List (Nat × BitVec 2)} {os : List Offer} {o : Offer}
    (h : o ∈ inTurn extra seen os) : o ∈ os := by
  induction os generalizing seen with
  | nil => cases h
  | cons x r ih =>
    obtain ⟨b, hb, -⟩ := inTurn_cons extra seen x r
    rw [hb] at h
    cases b with
    | true => exact List.mem_cons_of_mem _ (ih (by simpa using h))
    | false =>
      rcases List.mem_cons.1 (by simpa using h) with h | h
      · subst h; exact List.mem_cons_self
      · exact List.mem_cons_of_mem _ (ih h)

/-! ## One offer enters -/

theorem steer_vn (s : State) (f : Flit) : (steer s f).vn = f.vn := by unfold steer; split <;> rfl

@[simp] theorem settled_vn (s : State) (o : Offer) : (settled s o).vn = o.flit.vn := steer_vn s o.flit

theorem chanKey_ne (t : TileId) (port : Nat) {vn vn' : BitVec 2} (h : vn ≠ vn') (vc vc' : BitVec 1) :
    chanKey t port vn vc ≠ chanKey t port vn' vc' := by
  have : vn.toNat ≠ vn'.toNat := fun e => h (BitVec.eq_of_toNat_eq e)
  have := vc.isLt
  have := vc'.isLt
  unfold chanKey
  omega

/-- An offer that enters leaves the room for flits of another network as it was. -/
theorem canEnter_offerEnters (s : State) (t : TileId) (extra : Bool) (os : List Offer) (o : Offer) {vn : BitVec 2}
    (h : o.flit.vn ≠ vn) :
    canEnter (offerEnters { s with weave := setOffers s.weave (offerKey t extra) os } t extra o) t extra vn =
      canEnter s t extra vn := by
  have hk := chanKey_ne t (portNum extra) (vn' := vn) h
    (settled { s with weave := setOffers s.weave (offerKey t extra) os } o).vc 0
  have hc : chanAt (offerEnters { s with weave := setOffers s.weave (offerKey t extra) os } t extra o).weave
      (chanKey t (portNum extra) vn 0) = chanAt s.weave (chanKey t (portNum extra) vn 0) := by
    show mget [] (mset [] _ _ _) _ = _
    rw [mget_mset_other]
    · rfl
    · simpa using hk
  rw [canEnter, canEnter]
  congr 1
  show decide (_ < 2) = decide (_ < 2)
  rw [hc]
  rfl

theorem offers_offerEnters (s : State) (t : TileId) (extra : Bool) (os : List Offer) (o : Offer) :
    offersAt (offerEnters { s with weave := setOffers s.weave (offerKey t extra) os } t extra o).weave (offerKey t extra) =
      os := mget_mset_same ..

/-- A port that drains never gains an offer. -/
theorem drainPort_offers_sub (t : TileId) (extra : Bool) (n : Nat) (s : State) {o : Offer}
    (h : o ∈ offersAt (drainPort t extra n s).weave (offerKey t extra)) : o ∈ offersAt s.weave (offerKey t extra) := by
  induction n generalizing s with
  | zero => exact h
  | succ n ih =>
    rw [drainPort] at h
    split at h
    · exact h
    · have := ih _ h
      rw [offers_offerEnters] at this
      exact List.mem_of_mem_erase this

/-- An offer that is the only one of its network and of its requester enters where its network has room. -/
theorem drainPort_enters_offer (t : TileId) (extra : Bool) (n : Nat) (s : State) (o : Offer) (ho : o.req ≠ 4)
    (hn : (offersAt s.weave (offerKey t extra)).length ≤ n)
    (hc : canEnter s t extra o.flit.vn = true)
    (hu : ∀ x ∈ (offersAt s.weave (offerKey t extra)).erase o, x.req ≠ o.req ∧ x.flit.vn ≠ o.flit.vn) :
    ∀ x ∈ offersAt (drainPort t extra n s).weave (offerKey t extra), x.req ≠ o.req := by
  induction n generalizing s with
  | zero =>
    intro x hx
    have hx' : x ∈ offersAt s.weave (offerKey t extra) := hx
    rw [List.eq_nil_of_length_eq_zero (Nat.le_zero.1 hn)] at hx'
    cases hx'
  | succ n ih =>
    by_cases hm : o ∈ offersAt s.weave (offerKey t extra)
    · have hne : ∀ x ∈ offersAt s.weave (offerKey t extra), x ≠ o → x.req ≠ o.req ∧ x.flit.vn ≠ o.flit.vn :=
        fun x hx hxo => hu x ((List.mem_erase_of_ne hxo).2 hx)
      have hin : o ∈ (inTurn extra [] (offersAt s.weave (offerKey t extra))).filter
          (fun o => canEnter s t extra o.flit.vn) := by
        rw [List.mem_filter]
        refine ⟨inTurn_mem ho (by simp) hm ?_, hc⟩
        intro x hx hxo he
        exact (hne x hx hxo).1 (congrArg Prod.fst he)
      have hs := bestBy_isSome (offerRank s t) hin
      rw [drainPort]
      split
      · rename_i hb; simp [hb] at hs
      · rename_i y hb
        have hy := List.mem_filter.1 (bestBy_mem _ hb)
        have hym := inTurn_sub hy.1
        by_cases hyo : y = o
        · subst hyo
          intro x hx
          have hx' := drainPort_offers_sub _ _ _ _ hx
          rw [offers_offerEnters] at hx'
          exact (hu x hx').1
        · have hv := (hne y hym hyo).2
          apply ih
          · rw [offers_offerEnters, List.length_erase_of_mem hym]; omega
          · rw [canEnter_offerEnters _ _ _ _ _ hv]; exact hc
          · rw [offers_offerEnters]
            intro x hx
            apply hu
            rw [List.erase_comm] at hx
            exact List.mem_of_mem_erase hx
    · intro x hx hxr
      have hx' := drainPort_offers_sub _ _ _ _ hx
      rw [List.erase_of_not_mem hm] at hu
      exact (hu x hx').1 hxr

/-- An offer of a network without room stays. -/
theorem drainPort_keeps_offer (t : TileId) (extra : Bool) (n : Nat) (s : State) (o : Offer)
    (hc : canEnter s t extra o.flit.vn = false) (hm : o ∈ offersAt s.weave (offerKey t extra)) :
    o ∈ offersAt (drainPort t extra n s).weave (offerKey t extra) := by
  induction n generalizing s with
  | zero => exact hm
  | succ n ih =>
    rw [drainPort]
    split
    · exact hm
    · rename_i y hb
      have hy := (List.mem_filter.1 (bestBy_mem _ hb)).2
      have hv : y.flit.vn ≠ o.flit.vn := by
        intro e
        rw [e, hc] at hy
        cases hy
      have hyo : y ≠ o := fun e => hv (by rw [e])
      apply ih
      · rw [canEnter_offerEnters _ _ _ _ _ hv]; exact hc
      · rw [offers_offerEnters]
        exact (List.mem_erase_of_ne (Ne.symm hyo)).2 hm

/-! ## A strand's flit (R177) -/

theorem strandReq_ne_bank (c : CellId) : strandReq c ≠ 4 := by unfold strandReq; omega

@[simp] theorem strandOffer_req (s : State) (c : CellId) (m : Msg) : (strandOffer s c m).req = strandReq c := rfl

theorem strandOffer_vn (s : State) (c : CellId) (m : Msg) : (strandOffer s c m).flit.vn = msgVn m := by
  show (steer s _).vn = _
  rw [steer_vn]

/-- A flit that the port can accept has entered at once. -/
theorem stillOffered_offered {s : State} {c : CellId} {m : Msg} (hp : powered s (2 + (quadOfTile (tileOf c)).toNat) = true)
    (h : PortReady s c (msgVn m)) : stillOffered (offered s c m) c = false := by
  obtain ⟨hr, hf⟩ := h
  rw [portRoom, Bool.and_eq_true] at hr
  obtain ⟨hr, hv⟩ := hr
  have hno : ∀ x ∈ offersAt s.weave (offerKey (tileOf c) false), x.req ≠ strandReq c ∧ x.flit.vn ≠ msgVn m := by
    intro x hx
    constructor
    · have := List.any_eq_false.1 hf x hx; simpa using this
    · have := List.all_eq_true.1 hv x hx; simpa using this
  have hoffers : offersAt (setOffers s.weave (offerKey (tileOf c) false)
      (offersAt s.weave (offerKey (tileOf c) false) ++ [strandOffer s c m])) (offerKey (tileOf c) false) =
      offersAt s.weave (offerKey (tileOf c) false) ++ [strandOffer s c m] := mget_mset_same ..
  have hnot : strandOffer s c m ∉ offersAt s.weave (offerKey (tileOf c) false) := fun h => (hno _ h).1 rfl
  rw [stillOffered, List.any_eq_false]
  intro x hx
  rw [offered, produce, drain] at hx
  rw [if_pos (by exact hp)] at hx
  have := drainPort_enters_offer (tileOf c) false _ _ (strandOffer s c m) (strandReq_ne_bank c) (Nat.le_refl _)
    (by rw [strandOffer_vn]; exact hr)
    (by
      show ∀ x ∈ (offersAt (setOffers s.weave _ _) _).erase _, _
      rw [hoffers, List.erase_append_right _ hnot]
      intro x hx
      have hx' : x ∈ offersAt s.weave (offerKey (tileOf c) false) := by simpa using hx
      rw [strandOffer_vn]
      exact hno x hx') x hx
  simpa using this

/-- A flit whose network the port has no room for stays offered. -/
theorem stillOffered_busy {s : State} {c : CellId} {m : Msg} (h : PortBusy s c (msgVn m)) :
    stillOffered (offered s c m) c = true := by
  have hm : strandOffer s c m ∈ offersAt (setOffers s.weave (offerKey (tileOf c) false)
      (offersAt s.weave (offerKey (tileOf c) false) ++ [strandOffer s c m])) (offerKey (tileOf c) false) := by
    rw [offersAt, setOffers]; simp [mget_mset_same]
  rw [stillOffered, List.any_eq_true]
  refine ⟨strandOffer s c m, ?_, by simp⟩
  rw [offered, produce, drain]
  split
  · exact drainPort_keeps_offer _ _ _ _ _ (by rw [strandOffer_vn]; exact h) hm
  · exact hm

end Sys2Proof.Machine
end

