-- ==== Sys2Proof/Laws/Strand.lean ====
section
/-! SUPPORT. What the checks before an instruction answer, and what an instruction's end leaves alone. -/

namespace Sys2Proof.Machine

open Sys2Proof

/-! ## The checks -/

/-- An instruction that executes passes every check. -/
theorem before_of_executes {s : State} {i : Instr} {c : CellId} {p : Pfx} {k : Enc} {uses : List Reg}
    (h : Executes s i c p k uses) (bad : Option Nat) (sends many : Bool) :
    before s i c p k bad uses sends many = (match bad with | some n => .illegal n | none => .go) := by
  obtain ⟨⟨-, h1, h2, h3, h4, h5, h6, h7, h8⟩, h10, h11⟩ := h
  have hlt : ¬ 0x4000 < (engineAt s c).regs.pc.toNat + insLen k p := by omega
  cases bad <;> simp [before, canContinue, h1, h2, h3, h4, h5, hlt, h7, h8, h10, h11]

/-- An instruction that executes, with legal operands, has its own effect on the state after the fetch. -/
theorem issue_of_executes {s : State} {i : Instr} {c : CellId} {p : Pfx} {k : Enc} {uses : List Reg}
    (h : Executes s i c p k uses) {bad : Option Nat} (hb : bad = none) (sends many : Bool) (f : State → State) :
    issue s i c p k bad uses sends many f = .next (f (fetched s c (insLen k p))) := by
  rw [issue, before_of_executes h, hb]

/-- An instruction that executes with operands that break a rule is unpredictable by it. -/
theorem issue_of_bad {s : State} {i : Instr} {c : CellId} {p : Pfx} {k : Enc} {uses : List Reg}
    (h : Executes s i c p k uses) {bad : Option Nat} {n : Nat} (hb : bad = some n) (sends many : Bool) (f : State → State) :
    issue s i c p k bad uses sends many f = unpredictable n s := by
  rw [issue, before_of_executes h, hb]

/-- An instruction that can issue and whose condition is false only goes on to the next address (R183). -/
theorem issue_of_condition_false {s : State} {i : Instr} {c : CellId} {p : Pfx} {k : Enc} {uses : List Reg}
    (h : CanIssue s i c p k) (hc : ccHolds p (engineAt s c).regs = false) (bad : Option Nat) (sends many : Bool)
    (f : State → State) :
    issue s i c p k bad uses sends many f =
      .next (complete (fetched s c (insLen k p)) c (engineAt s c).regs none
        ((engineAt s c).regs.pc + BitVec.ofNat 15 (insLen k p))) := by
  obtain ⟨-, h1, h2, h3, h4, h5, h6, h7, h8⟩ := h
  have hlt : ¬ 0x4000 < (engineAt s c).regs.pc.toNat + insLen k p := by omega
  simp [issue, before, canContinue, h1, h2, h3, h4, h5, hlt, h7, h8, hc]

/-! ## The fetch -/

/-- Correcting errors in the instruction store changes nothing else in the cell. -/
theorem istoreCorrect_shape (ws : List Nat) (x : Cell) :
    istoreCorrect x ws = { x with istoreEcc := (istoreCorrect x ws).istoreEcc,
                                  corrected := (istoreCorrect x ws).corrected } := by
  induction ws generalizing x with
  | nil => rfl
  | cons w r ih =>
    rw [istoreCorrect]
    split
    · rw [ih]
    · exact ih x

@[simp] theorem istoreCorrect_engine (ws : List Nat) (x : Cell) : (istoreCorrect x ws).engine = x.engine := by
  rw [istoreCorrect_shape]

@[simp] theorem engineAt_fetched (s : State) (c : CellId) (n : Nat) : engineAt (fetched s c n) c = engineAt s c := by
  rw [fetched, engineAt_setCell_same, istoreCorrect_engine, engineAt]

@[simp] theorem regsAt_fetched (s : State) (c : CellId) (n : Nat) : regsAt (fetched s c n) c = regsAt s c := by
  rw [regsAt, engineAt_fetched, regsAt]

theorem fetched_fields (s : State) (c : CellId) (n : Nat) : fetched s c n = { s with cells := (fetched s c n).cells } := rfl

@[simp] theorem fetched_mem (s : State) (c : CellId) (n : Nat) : (fetched s c n).mem = s.mem := rfl
@[simp] theorem fetched_weave (s : State) (c : CellId) (n : Nat) : (fetched s c n).weave = s.weave := rfl
@[simp] theorem fetched_time (s : State) (c : CellId) (n : Nat) : (fetched s c n).time = s.time := rfl
@[simp] theorem fetched_straps (s : State) (c : CellId) (n : Nat) : (fetched s c n).straps = s.straps := rfl
@[simp] theorem fetched_tab (s : State) (c : CellId) (n : Nat) : (fetched s c n).tab = s.tab := rfl

/-! ## The end of an instruction -/

theorem complete_fields (s : State) (c : CellId) (r : Regs) (own : Option (BitVec 128)) (a : BitVec 15) :
    complete s c r own a = { s with cells := (complete s c r own a).cells } := rfl

@[simp] theorem engineAt_complete (s : State) (c : CellId) (r : Regs) (own : Option (BitVec 128)) (a : BitVec 15) :
    engineAt (complete s c r own a) c = (engineAt s c).at (retire r own a) := by
  rw [complete, engineAt_setEngine_same]

@[simp] theorem regsAt_complete (s : State) (c : CellId) (r : Regs) (own : Option (BitVec 128)) (a : BitVec 15) :
    regsAt (complete s c r own a) c = retire r own a := by
  rw [regsAt, engineAt_complete]; rfl

/-- An instruction's end changes its cell's engine and nothing else. -/
theorem onlyStrand_afterTo (s : State) (c : CellId) (p : Pfx) (k : Enc) (r : Regs) (own : Option (BitVec 128))
    (a : BitVec 15) : OnlyStrand s (afterTo s c p k r own a) c := by
  refine ⟨rfl, ?_, ?_⟩
  · intro d hd
    rw [afterTo, complete, cellAt_setEngine_other _ (Ne.symm hd), fetched, cellAt_setCell_other _ (Ne.symm hd)]
  · rw [afterTo, complete, engineAt_setEngine_same, cellAt_setEngine_same, fetched, cellAt_setCell_same,
      istoreCorrect_shape]

/-! ## Loops (R185, R186) -/

/-- With no loop active, the next address stands. -/
theorem loopCheck_no_loop (n : Nat) {r : Regs} (h : topLevel r = none) (a : BitVec 15) :
    loopCheck n r a = { r with pc := a } := by
  cases n with
  | zero => rfl
  | succ k => rw [loopCheck, h]

@[simp] theorem commitProduct_lc (r : Regs) : (commitProduct r).lc = r.lc := by unfold commitProduct; split <;> rfl
@[simp] theorem commitProduct_g (r : Regs) : (commitProduct r).g = r.g := by unfold commitProduct; split <;> rfl
@[simp] theorem commitProduct_ls (r : Regs) : (commitProduct r).ls = r.ls := by unfold commitProduct; split <;> rfl
@[simp] theorem commitProduct_le (r : Regs) : (commitProduct r).le = r.le := by unfold commitProduct; split <;> rfl

/-- A loop check changes the program address and loop counts only. -/
theorem loopCheck_shape (n : Nat) (r : Regs) (a : BitVec 15) :
    loopCheck n r a = { r with pc := (loopCheck n r a).pc, lc := (loopCheck n r a).lc } := by
  induction n generalizing r with
  | zero => rfl
  | succ k ih =>
    rw [loopCheck]
    split
    · rfl
    · split
      · rfl
      · split
        · rw [ih]; rfl
        · split
          · rfl
          · rw [ih]; rfl

/-- What the end of an instruction does to the registers it was given. -/
theorem retire_shape (r : Regs) (own : Option (BitVec 128)) (a : BitVec 15) :
    retire r own a = { commitProduct r with pend := own, pc := (retire r own a).pc, lc := (retire r own a).lc } := by
  rw [retire, loopCheck_shape]

/-- The general registers stand as the instruction left them. -/
@[simp] theorem getG_retire (r : Regs) (own : Option (BitVec 128)) (a : BitVec 15) (i : Reg) :
    getG (retire r own a) i = getG r i := by
  rw [retire_shape, getG, getG]; simp

/-! ## The forms of instructions -/

/-- An instruction that maps registers to registers, when it executes. -/
theorem regIns_of_executes {s : State} {i : Instr} {c : CellId} {p : Pfx} {k : Enc} {uses : List Reg}
    (h : Executes s i c p k uses) {bad : Option Nat} (hb : bad = none) (f : Regs → Regs) :
    regIns s i c p k bad uses f = .next (after s c p k (f (regsAt s c))) := by
  rw [regIns, issue_of_executes h hb]
  simp [after, afterTo, nextAddr, regsAt]

@[simp] theorem engineAt_offered (s : State) (c d : CellId) (m : Msg) : engineAt (offered s c m) d = engineAt s d :=
  engineAt_produce ..
@[simp] theorem regsAt_offered (s : State) (c d : CellId) (m : Msg) : regsAt (offered s c m) d = regsAt s d := by
  rw [regsAt, engineAt_offered, regsAt]

theorem mdrop_mset {α : Type} [DecidableEq α] (d v : α) (m : List (Nat × α)) (k : Nat) :
    mdrop k (mset d m k v) = mdrop k m := by
  have hf : mdrop k (mdrop k m) = mdrop k m := by simp [mdrop]
  have hi : ∀ l : List (Nat × α), mdrop k (minsert k v l) = mdrop k l := by
    intro l
    induction l with
    | nil => simp [minsert, mdrop]
    | cons e r ih =>
      rw [minsert]
      split
      · simp [mdrop]
      · have h1 := ih
        unfold mdrop at h1 ⊢
        rw [List.filter_cons, List.filter_cons, h1]
  unfold mset
  split
  · exact hf
  · rw [hi, hf]

/-- Replacing a cell twice is replacing it once. -/
theorem setCell_setCell (s : State) (c : CellId) (x y : Cell) : setCell (setCell s c x) c y = setCell s c y := by
  have : cellsSet (cellsSet s.cells c x) c y = cellsSet s.cells c y := by
    show mset _ (mset _ _ _ _) _ _ = mset _ _ _ _
    conv_lhs => rw [mset]
    rw [mdrop_mset]
    rfl
  rw [setCell, setCell, this, setCell]

/-- Replacing an engine twice is replacing it once. -/
theorem setEngine_setEngine (s : State) (c : CellId) (e e' : Engine) :
    setEngine (setEngine s c e) c e' = setEngine s c e' := by
  rw [setEngine, cellAt_setEngine_same, setEngine, setCell_setCell, setEngine]

/-- An instruction's end does not depend on whether its flit was offered. -/
theorem complete_setEngine (s : State) (c : CellId) (b : Bool) (r : Regs) (own : Option (BitVec 128)) (a : BitVec 15) :
    complete (setEngine s c { engineAt s c with offered := b }) c r own a = complete s c r own a := by
  rw [complete, complete, setEngine_setEngine, engineAt_setEngine_same]
  rfl

/-- A cell that runs stands in a powered quadrant. -/
theorem powered_of_cellUp {s : State} {c : CellId} (h : cellUp s c = true) :
    powered s (2 + (quadOfTile (tileOf c)).toNat) = true := by
  simp [cellUp, tileUp] at h; exact h.1.1.2

@[simp] theorem fetched_pwr (s : State) (c : CellId) (n : Nat) : (fetched s c n).pwr = s.pwr := rfl

/-- A flit that the port accepts at once: the instruction goes on. -/
theorem emitThen_ready {s : State} {c : CellId} {m : Msg} (ho : (engineAt s c).offered = false)
    (hp : powered s (2 + (quadOfTile (tileOf c)).toNat) = true) (hr : PortReady s c (msgVn m)) (cause : BitVec 4)
    (fin : State → State) :
    emitThen s c cause m fin =
      fin (setEngine (offered s c m) c { engineAt (offered s c m) c with offered := false }) := by
  have h := stillOffered_offered hp hr
  rw [offered] at h
  simp only [emitThen, ho, Bool.false_eq_true, if_false, h, offered]

/-- A flit whose network has no room at the port: the strand stalls with its flit offered. -/
theorem emitThen_busy {s : State} {c : CellId} {m : Msg} (ho : (engineAt s c).offered = false)
    (hr : PortBusy s c (msgVn m)) (cause : BitVec 4) (fin : State → State) :
    emitThen s c cause m fin =
      stalled (setEngine (offered s c m) c { engineAt (offered s c m) c with offered := true }) c cause := by
  have h := stillOffered_busy hr
  rw [offered] at h
  simp only [emitThen, ho, Bool.false_eq_true, if_false, h, if_true, offered]

/-- An instruction that emits one message, when it executes and the port accepts the message. -/
theorem sendIns_of_executes {s : State} {i : Instr} {c : CellId} {p : Pfx} {k : Enc} {uses : List Reg}
    (h : Executes s i c p k uses) {bad : Option Nat} (hb : bad = none) (cause : BitVec 4) (msg : State → Regs → Msg)
    (hr : PortReady (fetched s c (insLen k p)) c (msgVn (msg (fetched s c (insLen k p)) (regsAt s c)))) :
    sendIns s i c p k bad uses cause msg =
      .next (afterFlit s c p k (msg (fetched s c (insLen k p)) (regsAt s c))) := by
  have ho : (engineAt (fetched s c (insLen k p)) c).offered = false := by rw [engineAt_fetched]; exact h.1.2.2.2.2.1
  have hu : powered (fetched s c (insLen k p)) (2 + (quadOfTile (tileOf c)).toNat) = true :=
    powered_of_cellUp (s := s) h.1.2.1
  rw [sendIns, issue_of_executes h hb]
  have hm : (engineAt (fetched s c (insLen k p)) c).regs = regsAt s c := by rw [engineAt_fetched]; rfl
  show Host.Outcome.next (emitThen _ c cause (msg _ (engineAt (fetched s c (insLen k p)) c).regs) _) = _
  rw [hm, emitThen_ready ho hu hr, engineAt_setEngine_same, complete_setEngine, engineAt_offered, engineAt_fetched]
  rfl

/-- A repeatable instruction without REP, when it executes and the port accepts its message. -/
theorem repIns_once {s : State} {i : Instr} {c : CellId} {p : Pfx} {k : Enc} {uses : List Reg}
    (h : Executes s i c p k uses) (hp : p.rep = false) (cause : BitVec 4) (size : Nat) {bad : Option Nat}
    (hb : bad = none) (src dst : Regs → Addr) (msg : State → Regs → Addr → Addr → Msg)
    (hr : PortReady (fetched s c (insLen k p)) c
      (msgVn (msg (fetched s c (insLen k p)) (regsAt s c) (src (regsAt s c)) (dst (regsAt s c))))) :
    repIns s i c p k uses cause size bad src dst msg = .next (afterFlit s c p k
      (msg (fetched s c (insLen k p)) (regsAt s c) (src (regsAt s c)) (dst (regsAt s c)))) := by
  have ho : (engineAt (fetched s c (insLen k p)) c).offered = false := by rw [engineAt_fetched]; exact h.1.2.2.2.2.1
  have hu : powered (fetched s c (insLen k p)) (2 + (quadOfTile (tileOf c)).toNat) = true :=
    powered_of_cellUp (s := s) h.1.2.1
  have hm : (engineAt (fetched s c (insLen k p)) c).regs = regsAt s c := by rw [engineAt_fetched]; rfl
  rw [repIns, issue_of_executes h hb]
  simp only [hp, hm, Bool.not_false, if_true]
  rw [emitThen_ready ho hu hr, engineAt_setEngine_same, complete_setEngine, engineAt_offered, engineAt_fetched]
  rfl

/-- A repeatable instruction with REP and no iteration left. -/
theorem repIns_zero {s : State} {i : Instr} {c : CellId} {p : Pfx} {k : Enc} {uses : List Reg}
    (h : Executes s i c p k uses) (hp : p.rep = true) (hz : (regsAt s c).bc = 0) (cause : BitVec 4) (size : Nat)
    {bad : Option Nat} (hb : bad = none) (src dst : Regs → Addr) (msg : State → Regs → Addr → Addr → Msg) :
    repIns s i c p k uses cause size bad src dst msg = .next (after s c p k (regsAt s c)) := by
  have hz' : (engineAt s c).regs.bc = 0 := hz
  rw [repIns, issue_of_executes h hb]
  simp [hp, hz', after, afterTo, nextAddr, regsAt]

/-- One iteration of a repeatable instruction with REP, when it executes and the port accepts its message. -/
theorem repIns_iteration {s : State} {i : Instr} {c : CellId} {p : Pfx} {k : Enc} {uses : List Reg}
    (h : Executes s i c p k uses) (hp : p.rep = true) (hz : (regsAt s c).bc ≠ 0) (cause : BitVec 4) (size : Nat)
    {bad : Option Nat} (hb : bad = none) (src dst : Regs → Addr) (msg : State → Regs → Addr → Addr → Msg)
    (hr : PortReady (fetched s c (insLen k p)) c
      (msgVn (msg (fetched s c (insLen k p)) (regsAt s c) (regsAt s c).bs (regsAt s c).bd))) :
    repIns s i c p k uses cause size bad src dst msg = .next (afterIteration s c p k size
      (msg (fetched s c (insLen k p)) (regsAt s c) (regsAt s c).bs (regsAt s c).bd)) := by
  have ho : (engineAt (fetched s c (insLen k p)) c).offered = false := by rw [engineAt_fetched]; exact h.1.2.2.2.2.1
  have hu : powered (fetched s c (insLen k p)) (2 + (quadOfTile (tileOf c)).toNat) = true :=
    powered_of_cellUp (s := s) h.1.2.1
  have hm : (engineAt (fetched s c (insLen k p)) c).regs = regsAt s c := by rw [engineAt_fetched]; rfl
  have hz1 : ((regsAt s c).bc - 1 = 0) ↔ ((regsAt s c).bc = 1) := by rw [sub_eq_zero]
  have hoff : (engineAt (fetched s c (insLen k p)) c) =
      { engineAt (fetched s c (insLen k p)) c with offered := false } := by rw [← ho]
  rw [repIns, issue_of_executes h hb]
  simp only [hp, hm, Bool.not_true, Bool.false_eq_true, if_false, hz]
  rw [emitThen_ready ho hu hr]
  rw [engineAt_setEngine_same, complete_setEngine, setEngine_setEngine, engineAt_offered, ← hoff, hm]
  simp only [hz1, afterIteration, nextAddr, engineAt_offered]

end Sys2Proof.Machine
end

