-- ==== Sys2Proof/Tests/Slice0.lean ====
section
/-! SUPPORT. Tests and witnesses: for every statement, states and operands that meet its hypotheses, clause by clause, and
what the command does there. -/

namespace Sys2Proof.Tests

open Sys2Proof Sys2Proof.Machine

set_option Elab.async false

/-- A running device: every domain powered, every quadrant running, every face strapped on, no graph. -/
def on : State :=
  { State.reset with
    straps := { Straps.clear with latched := true, sec := 0, rate := 0, energy := 0, beat := 0, flash := 1, boot := 2,
                                  host := 5, shut := 1, row := 3, node0 := 5, node1 := 0, node2 := 0, node3 := 0 }
    pwr := { Power.off with phase := .run, pd := 0xFFF, enIo := true, enCore := true, enPhy := true, pgIo := true,
                            pgCore := true, clkok := true, steady := true, running := 15, cleared := 15, qualified := true,
                            fabricUp := true, started := true, limitQuads := 4, limitRate := 0, rate := 0, vid := 25, level := 4 }
    time := { Time.clear with begun := true, beat := 100, edge := 0x1F } }

/-- The outcome is a next state with a property. -/
def gives (o : Host.Outcome State Fault Refusal) (p : State → Bool) : Bool :=
  match o with
  | .next t => p t
  | _ => false

/-- The outcome is the fault of an unpredictable behaviour by this rule. -/
def faults (o : Host.Outcome State Fault Refusal) (n : Nat) : Bool :=
  match o with
  | .fault (.unpredictable m _) => m == n
  | _ => false

/-- Registers with g1 to g5 as given. -/
def rg (a b c d e : W64) : Regs :=
  { Regs.zero with g := ((((Regs.zero.g.set 1 a).set 2 b).set 3 c).set 4 d).set 5 e }

/-- `on` with a strand running in cell 0 with these registers. -/
def run (r : Regs) : State := setEngine on 0 { Engine.idle with phase := .running, regs := r }

/-- A state whose cell 0 holds an instruction's bytes at its strand's program address. -/
def has (s : State) (i : Instr) : State :=
  let pc := (regsAt s 0).pc.toNat
  setCell s 0 { cellAt s 0 with istore :=
    (((encodeIns i).getD []).zipIdx).foldl (fun m x => mset 0 m (pc + x.2) x.1) (cellAt s 0).istore }

/-- The outcome of an instruction whose bytes stand at cell 0's program address. -/
def does (i : Instr) (s : State) : Host.Outcome State Fault Refusal := exec i (has s i)

/-- Each instruction, with the registers named beside it, executes once its bytes stand at cell 0's program address. -/
def Runs (s : State) (is : List (Instr × List Reg)) : Prop :=
  ∀ x ∈ is, ∃ c p k, Executes (has s x.1) x.1 c p k x.2

/-- `Executes` as a check. -/
def executes (s : State) (i : Instr) (uses : List Reg) : Bool :=
  match strandForm i with
  | none => false
  | some (c, p, k) =>
    cellUp s c && (engineAt s c).phase == .running && (engineAt s c).mid == .free && !(engineAt s c).offered &&
    fetchAt s c == ⟨.ins i none, insLen k p⟩ && decide ((engineAt s c).regs.pc.toNat + insLen k p ≤ 0x4000) &&
    !istoreDouble (cellAt s c) (fetchWords (engineAt s c).regs.pc (insLen k p)) && !fpHazard (engineAt s c) (ccRegs p) &&
    ccHolds p (engineAt s c).regs && !fpHazard (engineAt s c) uses

/-- What the check finds holds. -/
theorem runs {s : State} {is : List (Instr × List Reg)} (h : (is.all fun x => executes (has s x.1) x.1 x.2) = true) :
    Runs s is := by
  intro x hx
  have e := List.all_eq_true.1 h x hx
  unfold executes at e
  cases f : strandForm x.1 with
  | none => rw [f] at e; cases e
  | some y =>
    rw [f] at e
    simp only [Bool.and_eq_true, Bool.not_eq_true', beq_iff_eq, decide_eq_true_eq] at e
    obtain ⟨⟨⟨⟨⟨⟨⟨⟨⟨a, b⟩, d⟩, o⟩, g⟩, q⟩, u⟩, v⟩, w⟩, z⟩ := e
    exact ⟨y.1, y.2.1, y.2.2, ⟨f, a, b, d, o, g, q, u, v⟩, w, z⟩

/-- A general register of cell 0 after a command. -/
def reg (o : Host.Outcome State Fault Refusal) (i : Reg) : Option W64 :=
  match o with
  | .next t => some (getG (regsAt t 0) i)
  | _ => none

/-- CF of cell 0 after a command. -/
def cfOf (o : Host.Outcome State Fault Refusal) : Option Bool :=
  match o with
  | .next t => some (regsAt t 0).cf
  | _ => none

/-- The local port of tile 0 accepts no flit of a network. -/
def busy (s : State) (vn : BitVec 2) : State :=
  { s with weave := { s.weave with owed := mset 0 s.weave.owed (chanKey 0 4 vn 0) 2 } }

/-- The message that a command has put into tile 0's local port. -/
def sent (o : Host.Outcome State Fault Refusal) (vn : BitVec 2) : Option Msg :=
  match o with
  | .next t => (chanAt t.weave (chanKey 0 4 vn 0)).head?.map (·.msg)
  | _ => none

/-- No prefix but W32. -/
def w32 : Pfx := { Pfx.none with w32 := true }
/-- No prefix but REP. -/
def rep : Pfx := { Pfx.none with rep := true }

/-- StepRunsTheFrontCommand has no hypothesis; here a command runs and the queue's rest stays. -/
theorem test_step_takes_the_front :
    gives (step { on with pending := [.idcode, .tableauNAssert] }) (fun t => decide (t.pending = [.tableauNAssert])) = true ∧
    gives (step on) (fun t => decide (t = on)) = true := by
  and_intros <;> decide

/-- Hypotheses of EveryStepKeepsMemoryCanonical. -/
theorem witness_every_step_keeps_memory :
    Memory.wf (writeByte on.mem 5 7) = true ∧
    gives (step { on with mem := writeByte on.mem 5 7, pending := [.beatBoundary] }) (fun t => readByte t.mem 5 == 7) = true := by
  and_intros <;> decide

/-- All ones, 2, the top bit, and CF. -/
def sums : State := run { rg 0xFFFFFFFFFFFFFFFF 2 0x8000000000000000 0 0 with cf := true }

/-- Hypotheses of SumsAndDifferences, with the carries of Table 06-3. -/
theorem witness_sums :
    Runs sums [(.add 0 Pfx.none 1 2, [1, 2]), (.adc 0 Pfx.none 1 2, [1, 2]), (.sub 0 Pfx.none 2 1, [2, 1]),
      (.sbc 0 Pfx.none 2 2, [2, 2]), (.addi 0 Pfx.none 1 2 0xFFFFFFFF, [1, 2]), (.add 0 w32 1 2, [1, 2])] ∧
    reg (does (.add 0 Pfx.none 1 2) sums) 1 = some 1 ∧
    cfOf (does (.add 0 Pfx.none 1 2) sums) = some true ∧
    reg (does (.adc 0 Pfx.none 1 2) sums) 1 = some 2 ∧
    reg (does (.sub 0 Pfx.none 2 1) sums) 2 = some 3 ∧
    cfOf (does (.sub 0 Pfx.none 2 1) sums) = some true ∧
    reg (does (.sbc 0 Pfx.none 2 2) sums) 2 = some 0xFFFFFFFFFFFFFFFF ∧
    cfOf (does (.sbc 0 Pfx.none 2 2) sums) = some true ∧
    reg (does (.addi 0 Pfx.none 1 2 0xFFFFFFFF) sums) 1 = some 0x100000001 ∧
    reg (does (.addi 0 { Pfx.none with sx := true } 1 2 0xFFFFFFFF) sums) 1 = some 1 ∧
    reg (does (.add 0 w32 1 2) sums) 1 = some 1 := by
  and_intros <;> first | decide +kernel | exact runs (by decide +kernel)

/-- Two patterns and a small number. -/
def bits : State := run (rg 0xF0F0 0xFF00 33 0 0x8000000080000000)

/-- Hypotheses of MovesAndLogic. -/
theorem witness_moves_and_logic :
    Runs bits [(.mov 0 Pfx.none 1 2, [1, 2]), (.andOp 0 Pfx.none 1 2, [1, 2]), (.orOp 0 Pfx.none 1 2, [1, 2]),
      (.xor 0 Pfx.none 1 2, [1, 2]), (.notOp 0 w32 1 2, [1, 2]), (.neg 0 Pfx.none 1 3, [1, 3]),
      (.andi 0 Pfx.none 1 2 0xF000, [1, 2]), (.ori 0 Pfx.none 1 2 0x8000000F, [1, 2]),
      (.xori 0 { Pfx.none with sx := true } 1 3 0xFFFFFFFF, [1, 3]), (.movi32 0 Pfx.none 1 0x80000000, [1]),
      (.movi 0 Pfx.none 1 0x123456789ABCDEF0, [1])] ∧
    reg (does (.mov 0 Pfx.none 1 2) bits) 1 = some 0xFF00 ∧
    reg (does (.andOp 0 Pfx.none 1 2) bits) 1 = some 0xF000 ∧
    reg (does (.orOp 0 Pfx.none 1 2) bits) 1 = some 0xFFF0 ∧
    reg (does (.xor 0 Pfx.none 1 2) bits) 1 = some 0x0FF0 ∧
    reg (does (.notOp 0 w32 1 2) bits) 1 = some 0xFFFF00FF ∧
    reg (does (.neg 0 Pfx.none 1 3) bits) 1 = some (-33) ∧
    reg (does (.andi 0 Pfx.none 1 2 0xF000) bits) 1 = some 0xF000 ∧
    reg (does (.ori 0 Pfx.none 1 2 0x8000000F) bits) 1 = some 0x8000FF0F ∧
    reg (does (.xori 0 { Pfx.none with sx := true } 1 3 0xFFFFFFFF) bits) 1 = some (~~~33) ∧
    reg (does (.movi32 0 { Pfx.none with sx := true } 1 0x80000000) bits) 1 = some 0xFFFFFFFF80000000 ∧
    reg (does (.movi 0 Pfx.none 1 0x123456789ABCDEF0) bits) 1 = some 0x123456789ABCDEF0 := by
  and_intros <;> first | decide +kernel | exact runs (by decide +kernel)

/-- Hypotheses of ShiftsAndRotates; amounts are taken modulo the width. -/
theorem witness_shifts :
    Runs bits [(.shl 0 Pfx.none 1 3, [1, 3]), (.shr 0 Pfx.none 1 3, [1, 3]), (.sar 0 Pfx.none 1 3, [1, 3]),
      (.ror 0 Pfx.none 1 3, [1, 3]), (.shli 0 w32 1 2 31, [1, 2]), (.shri 0 Pfx.none 1 5 63, [1, 5]),
      (.sari 0 { w32 with sx := true } 1 5 4, [1, 5]), (.rori 0 w32 1 2 8, [1, 2])] ∧
    reg (does (.shl 0 Pfx.none 1 3) bits) 1 = some 0x1E1E000000000 ∧
    reg (does (.shl 0 w32 1 3) bits) 1 = some 0x1E1E0 ∧
    reg (does (.shr 0 w32 5 3) bits) 5 = some 0x40000000 ∧
    reg (does (.sar 0 w32 5 3) bits) 5 = some 0xC0000000 ∧
    reg (does (.sar 0 Pfx.none 5 3) bits) 5 = some 0xFFFFFFFFC0000000 ∧
    reg (does (.ror 0 Pfx.none 1 3) bits) 1 = some 0x0000787800000000 ∧
    reg (does (.shli 0 w32 1 2 31) bits) 1 = some 0 ∧
    reg (does (.shri 0 Pfx.none 1 5 63) bits) 1 = some 1 ∧
    reg (does (.sari 0 { w32 with sx := true } 1 5 4) bits) 1 = some 0xFFFFFFFFF8000000 ∧
    reg (does (.rori 0 w32 1 2 8) bits) 1 = some 0xFF := by
  and_intros <;> first | decide +kernel | exact runs (by decide +kernel)

/-- Hypotheses of CountsOfBits; a zero operand counts the whole width. -/
theorem witness_counts :
    Runs bits [(.clz 0 Pfx.none 1 2, [1, 2]), (.ctz 0 Pfx.none 1 2, [1, 2]), (.popc 0 Pfx.none 1 2, [1, 2])] ∧
    reg (does (.clz 0 Pfx.none 1 2) bits) 1 = some 48 ∧
    reg (does (.clz 0 w32 1 4) bits) 1 = some 32 ∧
    reg (does (.ctz 0 Pfx.none 1 2) bits) 1 = some 8 ∧
    reg (does (.ctz 0 Pfx.none 1 4) bits) 1 = some 64 ∧
    reg (does (.popc 0 w32 1 5) bits) 1 = some 1 ∧
    reg (does (.popc 0 Pfx.none 1 5) bits) 1 = some 2 := by
  and_intros <;> first | decide +kernel | exact runs (by decide +kernel)

/-- Hypotheses of CompareAndSelect: g1 is −1, g2 is 2, g3 is the most negative number. -/
theorem witness_compares :
    Runs sums [(.cmpeq 0 Pfx.none 3 1, [3, 1]), (.cmplt 0 Pfx.none 3 1, [3, 1]), (.cmpltu 0 Pfx.none 3 1, [3, 1]),
      (.min 0 Pfx.none 3 1, [3, 1]), (.max 0 Pfx.none 3 1, [3, 1]), (.minu 0 Pfx.none 3 1, [3, 1]),
      (.maxu 0 Pfx.none 3 1, [3, 1]), (.sel 0 Pfx.none 3 2 1, [3, 2, 1])] ∧
    reg (does (.cmpeq 0 w32 3 4) sums) 3 = some 1 ∧
    reg (does (.cmplt 0 Pfx.none 3 1) sums) 3 = some 1 ∧
    reg (does (.cmpltu 0 Pfx.none 3 2) sums) 3 = some 0 ∧
    reg (does (.min 0 Pfx.none 1 2) sums) 1 = some 0xFFFFFFFFFFFFFFFF ∧
    reg (does (.max 0 Pfx.none 1 2) sums) 1 = some 2 ∧
    reg (does (.minu 0 Pfx.none 1 2) sums) 1 = some 2 ∧
    reg (does (.maxu 0 w32 1 2) sums) 1 = some 0xFFFFFFFF ∧
    reg (does (.sel 0 Pfx.none 3 2 1) sums) 3 = some 2 ∧
    reg (does (.sel 0 Pfx.none 3 1 2) sums) 3 = some 0x8000000000000000 := by
  and_intros <;> first | decide +kernel | exact runs (by decide +kernel)

/-- Hypotheses of BitFields; a field that would pass bit 63 is cut there (R222). -/
theorem witness_bit_fields :
    Runs bits [(.bfx 0 Pfx.none 1 5 60 7, [1, 5]), (.bfxs 0 Pfx.none 1 5 60 7, [1, 5]),
      (.bfi 0 Pfx.none 1 5 60 7, [1, 5])] ∧
    reg (does (.bfx 0 Pfx.none 1 5 60 7) bits) 1 = some 8 ∧
    reg (does (.bfxs 0 Pfx.none 1 5 60 7) bits) 1 = some 0xFFFFFFFFFFFFFFF8 ∧
    reg (does (.bfi 0 Pfx.none 1 2 4 7) bits) 1 = some 0xF000 := by
  and_intros <;> first | decide +kernel | exact runs (by decide +kernel)

/-- A product waits to be written. -/
def owing : State := run { rg 3 5 0 0 0 with pend := some (0x7#64 ++ 0x9#64) }

/-- Hypotheses of ProductsArePending. -/
theorem witness_products :
    Runs sums [(.mul 0 Pfx.none 1 2, [1, 2]), (.muls 0 Pfx.none 1 2, [1, 2]), (.mulsu 0 w32 1 2, [1, 2])] ∧
    cellUp owing 0 = true ∧
    (engineAt owing 0).phase = .running ∧
    (regsAt owing 0).pend = some (0x7#64 ++ 0x9#64) ∧
    gives (does (.mul 0 Pfx.none 1 2) sums) (fun t => (regsAt t 0).pend == some (1#64 ++ 0xFFFFFFFFFFFFFFFE#64)) = true ∧
    gives (does (.muls 0 Pfx.none 1 2) sums) (fun t => (regsAt t 0).pend == some (BitVec.ofInt 128 (-2))) = true ∧
    gives (does (.mulsu 0 w32 1 2) sums) (fun t => (regsAt t 0).pend == some (BitVec.ofInt 128 (-2))) = true ∧
    gives (exec (.productWrite 0) owing) (fun t => (regsAt t 0).pl == 9 && (regsAt t 0).ph == 7 && (regsAt t 0).pend == none) = true := by
  and_intros <;> first | decide +kernel | exact runs (by decide +kernel)

/-- A divide that is about to complete. -/
def divided : State := setEngine on 0 { Engine.idle with phase := .dividing 3 1 5, regs := rg 10 3 0 0 0 }
/-- What a divide will write. -/
def quotient (o : Host.Outcome State Fault Refusal) : Option (W64 × W64) :=
  match o with
  | .next t => (match (engineAt t 0).phase with | .dividing q m _ => some (q, m) | _ => none)
  | _ => none

/-- Hypotheses of Divisions and the corners of Table 06-6. -/
theorem witness_divisions :
    Runs sums [(.divu 0 Pfx.none 1 2, [1, 2]), (.divs 0 Pfx.none 3 1, [3, 1])] ∧
    usedInt Pfx.none (getG (regsAt sums 0) 3) = -(2 ^ 63) ∧
    usedInt Pfx.none (getG (regsAt sums 0) 1) = -1 ∧
    usedNat Pfx.none (getG (regsAt sums 0) 4) = 0 ∧
    cellUp divided 0 = true ∧
    (engineAt divided 0).phase = .dividing 3 1 5 ∧
    quotient (does (.divu 0 Pfx.none 1 2) sums) = some (0x7FFFFFFFFFFFFFFF, 1) ∧
    quotient (does (.divs 0 Pfx.none 1 2) sums) = some (0, 0xFFFFFFFFFFFFFFFF) ∧
    quotient (does (.divs 0 Pfx.none 3 1) sums) = some (0x8000000000000000, 0) ∧
    quotient (does (.divu 0 Pfx.none 2 4) sums) = some (0xFFFFFFFFFFFFFFFF, 2) ∧
    gives (exec (.divideComplete 0) divided) (fun t => (regsAt t 0).pl == 3 && (regsAt t 0).ph == 1 && (regsAt t 0).pc == 5) = true := by
  and_intros <;> first | decide +kernel | exact runs (by decide +kernel)

/-- A condition on g1: zero. -/
def ifZero : Pfx := { Pfx.none with cc := some (0, 1) }

/-- A strand to whose register 1 a floating-point result is still owed. -/
def owed1 : State := setEngine on 0 { Engine.idle with phase := .running, fpOut := [⟨1, 7, 1⟩] }

/-- Hypotheses of ConditionFalseOnlyAdvances: the condition fails, or its register is not there yet. -/
theorem witness_condition_false :
    CanIssue (has sums (.add 0 ifZero 1 2)) (.add 0 ifZero 1 2) 0 ifZero encBWS ∧
    ccHolds ifZero (regsAt (has sums (.add 0 ifZero 1 2)) 0) = false ∧
    Continues (has owed1 (.add 0 ifZero 1 2)) (.add 0 ifZero 1 2) 0 ifZero encBWS ∧
    ((engineAt (has owed1 (.add 0 ifZero 1 2)) 0).mid = .free ∧ (engineAt (has owed1 (.add 0 ifZero 1 2)) 0).offered = false) ∧
    istoreDouble (cellAt (has owed1 (.add 0 ifZero 1 2)) 0) (fetchWords 0 (insLen encBWS ifZero)) = false ∧
    fpHazard (engineAt (has owed1 (.add 0 ifZero 1 2)) 0) (ccRegs ifZero) = true ∧
    reg (does (.add 0 ifZero 1 2) sums) 1 = some 0xFFFFFFFFFFFFFFFF ∧
    gives (does (.add 0 ifZero 1 2) owed1) (fun t => (engineAt t 0).stall == 6) = true := by
  unfold CanIssue Continues
  and_intros <;> decide +kernel

/-- The conditions of Table 05-6, each where it holds and where it does not (g1 is −1, g2 is 2, CF is set). -/
theorem test_conditions :
    (([(0, 4), (1, 1), (2, 1), (3, 2), (4, 0), (6, 1)] : List (BitVec 3 × BitVec 4)).all
      fun x => ccHolds { Pfx.none with cc := some x } (regsAt sums 0)) = true ∧
    (([(0, 1), (1, 4), (2, 2), (3, 1), (5, 0), (6, 2)] : List (BitVec 3 × BitVec 4)).all
      fun x => !ccHolds { Pfx.none with cc := some x } (regsAt sums 0)) = true := by
  and_intros <;> decide

/-- A strand whose bytes at address 0 are these. -/
def bytesAt (pc : BitVec 15) (bs : List Byte) : State :=
  setCell on 0 { Cell.clear with engine := { Engine.idle with phase := .running, regs := { Regs.zero with pc := pc } }
                                 istore := bs.zipIdx.foldl (fun m x => mset 0 m (pc.toNat + x.2) x.1) [] }

/-- Hypotheses of IllegalFormsAreUnpredictable, clause by clause, in `sums` and at the store's last byte. -/
theorem witness_illegal_forms :
    (cellUp sums 0 = true ∧ (engineAt sums 0).phase = .running ∧ (engineAt sums 0).mid = .free ∧ (engineAt sums 0).offered = false) ∧
    strandForm (.nop 0 Pfx.none) = some (0, Pfx.none, encA) ∧
    (fetchAt (bytesAt 0 [0xF0, 0x00]) 0).what = .reserved 180 ∧
    faults (exec (.nop 0 Pfx.none) (bytesAt 0 [0xF0, 0x00])) 180 = true ∧
    faults (exec (.nop 0 Pfx.none) (bytesAt 0 [0xFF])) 179 = true ∧
    faults (exec (.nop 0 Pfx.none) (bytesAt 0 [0x06])) 181 = true ∧
    faults (exec (.nop 0 Pfx.none) (bytesAt 0 [0xF4, 0x70, 0x00])) 183 = true ∧
    0x4000 < (0x3FFF : BitVec 15).toNat + (fetchAt (bytesAt 0x3FFF [0x57, 0x10]) 0).len ∧
    faults (exec (.beat 0 Pfx.none 1) (bytesAt 0x3FFF [0x57])) 184 = true ∧
    (fetchAt (bytesAt 0 [0x02]) 0).what = .ins (.fbar 0 Pfx.none) none ∧
    (match exec (.nop 0 Pfx.none) (bytesAt 0 [0x02]) with | .refused .otherInstruction => true | _ => false) = true ∧
    fetchAt (bytesAt 0 [0x57, 0x11]) 0 = ⟨.ins (.beat 0 Pfx.none 1) (some 207), insLen encB Pfx.none⟩ ∧
    faults (exec (.beat 0 Pfx.none 1) (bytesAt 0 [0x57, 0x11])) 207 = true ∧
    Runs sums [(.put 0 Pfx.none 0 1, [1]), (.take 0 Pfx.none 1 6, [1]), (.tli 0 Pfx.none 1 2 3 9, [1, 2, 3]),
      (.tlif 0 Pfx.none 1 2 3 15, [1, 2, 3])] ∧
    (faults (does (.put 0 Pfx.none 5 1) sums) 147 = true ∧ faults (does (.take 0 Pfx.none 1 6) sums) 147 = true) ∧
    faults (does (.tli 0 Pfx.none 1 2 3 9) sums) 246 = true ∧
    reg (does (.put 0 ifZero 0 1) sums) 1 = some 0xFFFFFFFFFFFFFFFF := by
  and_intros <;> first | decide +kernel | exact runs (by decide +kernel)

/-- A strand in a loop of this count, whose end is the next address, 2, and whose start is 8. -/
def looping (n : BitVec 32) (start : BitVec 14) : State :=
  run { Regs.zero with pc := 1, lc := Regs.zero.lc.set 0 n, le := Regs.zero.le.set 0 2, ls := Regs.zero.ls.set 0 start }

/-- Hypotheses of LoopCheck: the levels' states and both ends of the count. -/
theorem witness_loop_check :
    TopLoop (regsAt (looping 2 8) 0) 0 ∧
    (∀ i : Fin 4, (regsAt bits 0).lc[i] = 0) ∧
    (regsAt (looping 2 8) 0).le[0].setWidth 15 = (2 : BitVec 15) ∧
    1 < (regsAt (looping 2 8) 0).lc[0].toNat ∧
    (regsAt (looping 1 8) 0).lc[0].toNat = 1 ∧
    (regsAt (looping 2 2) 0).ls[0].setWidth 15 = (2 : BitVec 15) ∧
    gives (does (.nop 0 Pfx.none) (looping 2 8)) (fun t => (regsAt t 0).pc == 8 && (regsAt t 0).lc[0] == 1) = true ∧
    gives (does (.nop 0 Pfx.none) (looping 1 8)) (fun t => (regsAt t 0).pc == 2 && (regsAt t 0).lc[0] == 0) = true ∧
    CanIssue (has (looping 2 8) (.nop 0 { Pfx.none with cc := some (1, 1) })) (.nop 0 { Pfx.none with cc := some (1, 1) }) 0
      { Pfx.none with cc := some (1, 1) } encA ∧
    ccHolds { Pfx.none with cc := some (1, 1) } (regsAt (looping 2 8) 0) = false ∧
    ({ Regs.zero with bc := 1 } : Regs).bc = 1 := by
  unfold TopLoop CanIssue
  and_intros <;> decide +kernel

/-- Hypotheses of RegisterInstructionsFrame. -/
theorem witness_register_frame :
    registerForm (.mov 0 Pfx.none 1 2) = some (0, 1) ∧
    (∀ w, mget Ecc.ok (cellAt (has sums (.mov 0 Pfx.none 1 2)) 0).istoreEcc w ≠ .double) ∧
    gives (does (.mov 0 Pfx.none 1 2) sums) (fun t => getG (regsAt t 0) 1 == 2) = true :=
  ⟨by decide, fun w => by
    have h : (cellAt (has sums (.mov 0 Pfx.none 1 2)) 0).istoreEcc = [] := by decide +kernel
    rw [h]; simp [mget], by decide +kernel⟩

/-- A bit pattern to be written to a special register. -/
def special : State := run (rg 0xFEDCBA9876543210 0 0 0 0)

/-- Hypotheses of SpecialRegisters at the ends of the ranges. -/
theorem witness_special_registers :
    Runs special [(.wrsr 0 Pfx.none 0x14 1, [1]), (.wrsr 0 Pfx.none 0x1B 1, [1]), (.wrsr 0 Pfx.none 0x17 1, [1]),
      (.rdsr 0 Pfx.none 1 3, [1]), (.rdsr 0 Pfx.none 1 0x06, [1]), (.beat 0 Pfx.none 1, [1])] ∧
    Runs (setEngine on 0 { Engine.idle with phase := .running, fpOut := [⟨2, 7, 1⟩] }) [(.rdsr 0 Pfx.none 1 3, [1])] ∧
    (srReserved 0x17 = true ∧ faults (does (.wrsr 0 Pfx.none 0x17 1) special) 172 = true ∧ faults (does (.rdsr 0 Pfx.none 1 0x06) special) 172 = true) ∧
    (srReserved 0 = false ∧ srReserved 0x1B = false ∧ srReserved 3 = false) ∧
    (0 < srWidth 0 ∧ 0 < srWidth 0x16) ∧
    (0x18 : Nat) ≤ (0x1B : BitVec 8).toNat ∧
    (engineAt special 0).fpOut = [] ∧
    gives (does (.wrsr 0 Pfx.none 0x14 1) special) (fun t => (regsAt t 0).bs == 0xBA9876543210) = true ∧
    gives (does (.wrsr 0 Pfx.none 0x18 1) special) (fun t => (regsAt t 0).tag0 == 0) = true ∧
    reg (does (.rdsr 0 Pfx.none 1 3) special) 1 = some 0 ∧
    reg (does (.beat 0 Pfx.none 1) special) 1 = some 100 := by
  and_intros <;> first | decide +kernel | exact runs (by decide +kernel)

/-- Every loop level is active. -/
def nested : State := run { rg 4 0 0 0 0 with lc := ((Regs.zero.lc.set 0 1).set 1 1).set 2 1 |>.set 3 1 }
/-- g1 is 0x4005, and levels 0 and 2 are active. -/
def jumps : State := run { rg 0x4005 0 0 0 0 with lc := (Regs.zero.lc.set 0 7).set 2 9 }

/-- Hypotheses of BranchesAndLoops. -/
theorem witness_branches :
    Runs jumps [(.nop 0 Pfx.none, []), (.lbrk 0 Pfx.none, []), (.jr 0 Pfx.none 1, [1]), (.br 0 Pfx.none 0x3FFF, []),
      (.loop 0 Pfx.none 1 9, [1]), (.loop 0 Pfx.none 2 9, [2]), (.loopi 0 Pfx.none 3 9, []),
      (.loopi 0 Pfx.none 0 9, [])] ∧
    Runs nested [(.loop 0 Pfx.none 1 9, [1]), (.loopi 0 Pfx.none 1 9, [])] ∧
    TopLoop (regsAt jumps 0) 2 ∧
    (∀ i : Fin 4, (regsAt bits 0).lc[i] = 0) ∧
    FreeLoop (regsAt jumps 0) 1 ∧
    (getG (regsAt jumps 0) 2).extractLsb' 0 32 = 0 ∧
    (∀ i : Fin 4, (regsAt nested 0).lc[i] ≠ 0) ∧
    gives (does (.lbrk 0 Pfx.none) jumps) (fun t => (regsAt t 0).lc[2] == 0 && (regsAt t 0).lc[0] == 7) = true ∧
    gives (does (.jr 0 Pfx.none 1) jumps) (fun t => (regsAt t 0).pc == 5) = true ∧
    gives (does (.br 0 Pfx.none 0x3FFF) jumps) (fun t => (regsAt t 0).pc == 0x3FFF) = true ∧
    gives (does (.loop 0 Pfx.none 1 9) jumps) (fun t => (regsAt t 0).lc[1] == 0x4005 && (regsAt t 0).le[1] == 9) = true ∧
    gives (does (.loop 0 Pfx.none 2 9) jumps) (fun t => (regsAt t 0).pc == 9) = true ∧
    gives (does (.loopi 0 Pfx.none 3 9) jumps) (fun t => (regsAt t 0).lc[1] == 3) = true ∧
    gives (does (.loopi 0 Pfx.none 0 9) jumps) (fun t => (regsAt t 0).pc == 9) = true ∧
    faults (does (.loop 0 Pfx.none 1 9) nested) 185 = true ∧
    faults (does (.loopi 0 Pfx.none 1 9) nested) 185 = true := by
  unfold TopLoop FreeLoop
  and_intros <;> first | decide +kernel | exact runs (by decide +kernel)

/-- g1 is a tag, g2 a bank address that is not aligned, g3 no address, g4 one in keep memory. -/
def mems : State := run { rg 0x4000000400001400 0x1007 0x40000000 0x10000005 0xAABB with dl := 9, fl := 3 }

/-- Hypotheses of LoadsAndStreamRequests; the last range is no memory (R298). -/
theorem witness_loads :
    PortReady mems 0 1 ∧
    Runs mems [(.ld 0 Pfx.none 1 2, [1, 2]), (.ldw 0 Pfx.none 1 2, [1, 2]), (.ldh 0 Pfx.none 1 2, [1, 2]),
      (.ldb 0 { Pfx.none with sx := true } 1 2, [1, 2]), (.iload 0 Pfx.none 1 2, [1, 2]), (.take 0 Pfx.none 1 5, [1]),
      (.put 0 Pfx.none 4 5, [5]), (.ld 0 Pfx.none 1 3, [1, 3]), (.ld 0 Pfx.none 5 2, [5, 2])] ∧
    ((getG (regsAt mems 0) 1).extractLsb' 0 10 = (0 : BitVec 10) ∧ (getG (regsAt mems 0) 5).extractLsb' 0 10 ≠ (0 : BitVec 10)) ∧
    faults (does (.ld 0 Pfx.none 5 2) mems) 23 = true ∧
    rangeOf (accessAddr 0 (getG (regsAt mems 0) 2)) ≠ .none ∧
    rangeOf (accessAddr 0 (getG (regsAt mems 0) 3)) = .none ∧
    sent (does (.ld 0 Pfx.none 1 2) mems) 1 = some (.read 0x1000 (.load ⟨0x4000000400001400, 9, 3, 3, false⟩) 0) ∧
    sent (does (.ldb 0 { Pfx.none with sx := true } 1 2) mems) 1 = some (.read 0x1007 (.load ⟨0x4000000400001400, 9, 3, 0, true⟩) 0) ∧
    sent (does (.ldh 0 Pfx.none 1 2) mems) 1 = some (.read 0x1006 (.load ⟨0x4000000400001400, 9, 3, 1, false⟩) 0) ∧
    sent (does (.ldw 0 Pfx.none 1 2) mems) 1 = some (.read 0x1004 (.load ⟨0x4000000400001400, 9, 3, 2, false⟩) 0) ∧
    sent (does (.iload 0 Pfx.none 1 2) mems) 1 = some (.iread ⟨0x1000, 0x4000000400001400, 9, 3, 0, 0, none, 0⟩) ∧
    faults (does (.ld 0 Pfx.none 1 3) mems) 298 = true ∧
    sent (does (.take 0 Pfx.none 1 5) mems) 1 = some (.take 5 0x4000000400001400 9 3) ∧
    sent (does (.put 0 Pfx.none 4 5) mems) 1 = some (.put 4 0xAABB) := by
  unfold PortReady
  and_intros <;> first | decide +kernel | exact runs (by decide +kernel)

/-- Hypotheses of StoresOnce. -/
theorem witness_stores :
    PortReady mems 0 1 ∧
    rangeOf (accessAddr 0 (getG (regsAt mems 0) 2)) ≠ .none ∧
    Runs mems [(.st 0 Pfx.none 2 5, [2, 5]), (.stw 0 Pfx.none 2 5, [2, 5]), (.sth 0 Pfx.none 2 5, [2, 5]),
      (.stb 0 Pfx.none 2 5, [2, 5]), (.istore 0 Pfx.none 2 5, [2, 5]), (.iclear 0 Pfx.none 2, [2]),
      (.bmov 0 Pfx.none 4 2, [4, 2]), (.st 0 Pfx.none 3 5, [3, 5]), (.iclear 0 Pfx.none 3, [3]),
      (.bmov 0 Pfx.none 4 3, [4, 3])] ∧
    (rangeOf (accessAddr 0 (getG (regsAt mems 0) 3)) = .none ∧ rangeOf (accessAddr 0 (getG (regsAt mems 0) 4)) ≠ .none) ∧
    (faults (does (.st 0 Pfx.none 3 5) mems) 298 = true ∧ faults (does (.bmov 0 Pfx.none 4 3) mems) 298 = true) ∧
    sent (does (.st 0 Pfx.none 2 5) mems) 1 = some (.write 0x1000 0xFF 0xAABB .store 0) ∧
    sent (does (.stw 0 Pfx.none 2 5) mems) 1 = some (.write 0x1004 0xF0 0xAABB00000000 .store 0) ∧
    sent (does (.sth 0 Pfx.none 2 5) mems) 1 = some (.write 0x1006 0xC0 0xAABB000000000000 .store 0) ∧
    sent (does (.stb 0 Pfx.none 2 5) mems) 1 = some (.write 0x1007 0x80 0xBB00000000000000 .store 0) ∧
    sent (does (.istore 0 Pfx.none 2 5) mems) 1 = some (.iwrite 0x1000 0xAABB none 0) ∧
    sent (does (.iclear 0 Pfx.none 2) mems) 1 = some (.iclear 0x1000 0) ∧
    sent (does (.bmov 0 Pfx.none 4 2) mems) 1 = some (.read 0x1000 (.bmov 0x10000000) 0) := by
  unfold PortReady
  and_intros <;> first | decide +kernel | exact runs (by decide +kernel)

/-- BS, BD and BC for REP. -/
def repeats (n : BitVec 32) : State := run { rg 0 0 0 0 0xAABB with bs := 0x2000, bd := 0x1003, bc := n }

/-- `repeats` in the middle of a REP instruction, its flit accepted. -/
def again (n : BitVec 32) : State := setEngine (repeats n) 0 { engineAt (repeats n) 0 with mid := .rep }

/-- Hypotheses of StoresRepeated: BC 0, 1 and more; a later iteration. -/
theorem witness_repeated_stores :
    Runs (repeats 0) [(.st 0 rep 1 5, [5]), (.stw 0 rep 1 5, [5]), (.sth 0 rep 1 5, [5]), (.stb 0 rep 1 5, [5]),
      (.istore 0 rep 1 5, [5]), (.iclear 0 rep 1, []), (.bmov 0 rep 1 5, [])] ∧
    Runs (repeats 2) [(.st 0 rep 1 5, [5]), (.stw 0 rep 1 5, [5]), (.sth 0 rep 1 5, [5]), (.stb 0 rep 1 5, [5]),
      (.istore 0 rep 1 5, [5]), (.iclear 0 rep 1, []), (.bmov 0 rep 1 5, [])] ∧
    (Continues (has (again 1) (.st 0 rep 1 5)) (.st 0 rep 1 5) 0 rep encBR ∧ (engineAt (again 1) 0).mid = .rep) ∧
    gives (does (.st 0 rep 1 5) (again 1)) (fun t => (regsAt t 0).bc == 0 && (engineAt t 0).mid == .free && (regsAt t 0).pc == 3) = true ∧
    PortReady (repeats 2) 0 1 ∧
    (rangeOf (regsAt (repeats 2) 0).bd ≠ .none ∧ rangeOf (regsAt (repeats 2) 0).bs ≠ .none) ∧
    (regsAt (repeats 0) 0).bc = 0 ∧
    gives (does (.stw 0 rep 1 5) (repeats 2)) (fun t => (regsAt t 0).bd == 0x1007 && (regsAt t 0).bc == 1 && (engineAt t 0).mid == .rep) = true ∧
    gives (does (.st 0 rep 1 5) (repeats 1)) (fun t => (regsAt t 0).bc == 0 && (engineAt t 0).mid == .free && (regsAt t 0).pc != 0) = true ∧
    gives (does (.stb 0 rep 1 5) (repeats 0)) (fun t => (regsAt t 0).pc != 0 && t.weave == Weave.clear) = true ∧
    sent (does (.bmov 0 rep 1 5) (repeats 2)) 1 = some (.read 0x2000 (.bmov 0x1000) 0) := by
  unfold PortReady
  and_intros <;> first | decide +kernel | exact runs (by decide +kernel)

/-- Element `j` of a GATHER or SCATTER has been offered, and the port is as `s` has it. -/
def element (s : State) (j : Nat) : State :=
  setEngine s 0 { engineAt s 0 with mid := .elements j none, offered := true }
/-- A port that is busy, with the strand's flit among those offered. -/
def offering : State := offered (busy mems 1) 0 (.iclear 0x1000 0)
/-- Every tally is taken. -/
def noTally : State :=
  setCell (busy mems 1) 0 { cellAt (busy mems 1) 0 with tallies := (List.range 16).map fun i => (i, some ⟨false, 0, 0, [], 0, 0⟩) }

/-- Hypotheses of GatherAndScatterIssue: a free tally and none; elements 3, 14 and 15, accepted and not. -/
theorem witness_gather_scatter :
    PortBusy (busy mems 1) 0 1 ∧
    Runs mems [(.gather 0 Pfx.none 1 2, [1, 2, 4, 5, 6, 7]), (.scatter 0 Pfx.none 2 2, [2, 2, 4, 5, 6, 7])] ∧
    Runs (busy mems 1) [(.gather 0 Pfx.none 1 2, [1, 2, 4, 5, 6, 7]), (.scatter 0 Pfx.none 2 4, [2, 4, 4, 5, 6, 7])] ∧
    Runs noTally [(.gather 0 Pfx.none 1 2, [1, 2, 4, 5, 6, 7])] ∧
    (mget none (cellAt (busy mems 1) 0).tallies 0 = none ∧ ∀ j < 16, mget none (cellAt noTally 0).tallies j ≠ none) ∧
    Continues (has (element offering 3) (.gather 0 Pfx.none 1 2)) (.gather 0 Pfx.none 1 2) 0 Pfx.none encB ∧
    ((engineAt (element offering 3) 0).mid = .elements 3 none ∧ (engineAt (element offering 3) 0).offered = true) ∧
    (stillOffered (element offering 3) 0 = true ∧ stillOffered (element (busy mems 1) 14) 0 = false) ∧
    (∀ j < 16, rangeOf ((((getG (regsAt mems 0) 2).extractLsb' 0 48 + BitVec.ofNat 48 (8 * j)) >>> 3) <<< 3) ≠ .none) ∧
    gives (does (.gather 0 Pfx.none 1 2) mems) (fun t => (engineAt t 0).offered && (mget none (cellAt t 0).tallies 0).isSome) = true ∧
    gives (does (.gather 0 Pfx.none 1 2) (busy mems 1)) (fun t => (engineAt t 0).stall == 3 && (engineAt t 0).offered) = true ∧
    gives (does (.scatter 0 Pfx.none 2 4) (busy mems 1)) (fun t => (engineAt t 0).stall == 3 && (engineAt t 0).offered) = true ∧
    gives (does (.gather 0 Pfx.none 1 2) noTally) (fun t => (cellAt t 0).untallied == 1 && (engineAt t 0).mid == .elements 0 none) = true ∧
    gives (does (.gather 0 Pfx.none 1 2) (element offering 3)) (fun t => (engineAt t 0).mid == .elements 3 none) = true ∧
    gives (does (.gather 0 Pfx.none 1 2) (element (busy mems 1) 14)) (fun t => (engineAt t 0).mid == .elements 15 none) = true ∧
    gives (does (.gather 0 Pfx.none 1 2) (element mems 15)) (fun t => (engineAt t 0).mid == .free) = true ∧
    gives (does (.scatter 0 Pfx.none 2 2) (element mems 15)) (fun t => (engineAt t 0).mid == .free) = true := by
  unfold PortBusy Continues
  and_intros <;> first | decide +kernel | exact runs (by decide +kernel)

/-- Hypotheses of TokenAndFlowInstructions. -/
theorem witness_tokens :
    Runs mems [(.send 0 Pfx.none 1 5, [1, 5]), (.sendc 0 Pfx.none 1 5, [1, 5]), (.sends 0 Pfx.none 1 5, [1, 5]),
      (.sendp 0 Pfx.none 1 5, [1, 5]), (.facq 0 Pfx.none 1 5, [1, 5]), (.facq 0 Pfx.none 1 6, [1, 6]),
      (.frel 0 Pfx.none 5, [5]), (.frel 0 Pfx.none 6, [6]), (.retire 0 Pfx.none, []), (.send 0 Pfx.none 5 5, [5, 5])] ∧
    faults (does (.send 0 Pfx.none 5 5) mems) 23 = true ∧
    (PortReady mems 0 0 ∧ PortReady mems 0 1 ∧ PortReady mems 0 3) ∧
    (getG (regsAt mems 0) 5).extractLsb' 0 12 ≠ (0 : BitVec 12) ∧
    (getG (regsAt mems 0) 6).extractLsb' 0 12 = (0 : BitVec 12) ∧
    mwFlowhome (engineAt mems 0).mode ≠ 2 ∧
    sent (does (.send 0 Pfx.none 1 5) mems) 0 = some (.token ⟨0xAABB, 4096, 1, 1, 0, 1, 0, 9, 3⟩) ∧
    sent (does (.sendc 0 Pfx.none 1 5) mems) 0 = some (.token ⟨0xAABB, 4096, 1, 1, 0, 1, 0x10, 9, 3⟩) ∧
    sent (does (.sends 0 Pfx.none 1 5) mems) 3 = some (.token ⟨0xAABB, 4096, 1, 1, 0, 1, 0x18, 9, 3⟩) ∧
    sent (does (.sendp 0 Pfx.none 1 5) mems) 0 = some (.token ⟨0xAABB, 4096, 1, 1, 0, 1, 1, 9, 3⟩) ∧
    sent (does (.facq 0 Pfx.none 1 6) mems) 0 = some (.token ⟨0, 4096, 1, 1, 0, 1, 0, 9, 3⟩) ∧
    sent (does (.facq 0 Pfx.none 1 5) mems) 1 = some (.acquire 3 0 0xABB 0x4000000400001400 9 3) ∧
    sent (does (.frel 0 Pfx.none 5) mems) 1 = some (.release 3 0 0xABB) ∧
    sent (does (.frel 0 Pfx.none 6) mems) 1 = none ∧
    sent (does (.retire 0 Pfx.none) mems) 3 = some (.retire 0) := by
  unfold PortReady
  and_intros <;> first | decide +kernel | exact runs (by decide +kernel)

/-- Hypotheses of FlitInstructionsFrame: a busy port; a flit that waits there, and one that has been accepted. -/
theorem witness_flit_frame :
    Runs (busy mems 0) [(.send 0 Pfx.none 1 5, [1, 5]), (.sendc 0 Pfx.none 1 5, [1, 5]), (.sendp 0 Pfx.none 1 5, [1, 5])] ∧
    Runs (busy mems 3) [(.sends 0 Pfx.none 1 5, [1, 5])] ∧
    Runs (busy mems 1) [(.ld 0 Pfx.none 1 2, [1, 2]), (.st 0 Pfx.none 2 5, [2, 5])] ∧
    (PortBusy (busy mems 0) 0 0 ∧ PortBusy (busy mems 1) 0 1 ∧ PortBusy (busy mems 3) 0 3) ∧
    Continues (has { offering with cells := (element offering 0).cells } (.send 0 Pfx.none 1 5)) (.send 0 Pfx.none 1 5) 0 Pfx.none encB ∧
    gives (does (.send 0 Pfx.none 1 5) (busy mems 0)) (fun t => (engineAt t 0).stall == 1 && (engineAt t 0).offered) = true ∧
    gives (does (.sends 0 Pfx.none 1 5) (busy mems 3)) (fun t => (engineAt t 0).stall == 1) = true ∧
    gives (does (.ld 0 Pfx.none 1 2) (busy mems 1)) (fun t => (engineAt t 0).stall == 2) = true ∧
    gives (does (.send 0 Pfx.none 1 5) (setEngine offering 0 { engineAt offering 0 with offered := true })) (fun t => (engineAt t 0).stall == 1 && (regsAt t 0).pc == 0) = true ∧
    gives (does (.send 0 Pfx.none 1 5) (setEngine mems 0 { engineAt mems 0 with offered := true })) (fun t => (regsAt t 0).pc == 2 && t.weave == mems.weave) = true := by
  unfold PortBusy Continues
  and_intros <;> first | decide +kernel | exact runs (by decide +kernel)

/-- A strand with a floating-point operation in flight. -/
def flying : State := setEngine on 0 { Engine.idle with phase := .running, fpOut := [⟨1, 7, 1⟩] }
/-- A strand whose sticky flags trap. -/
def trapping : State := setEngine on 0 { Engine.idle with phase := .running, mode := 1, regs := { Regs.zero with fs := 1 } }

/-- Hypotheses of StrandEndBarrierAndTableau. -/
theorem witness_strand_end :
    Runs mems [(.endStrand 0 Pfx.none, []), (.fbar 0 Pfx.none, []), (.tableauInstr 0 Pfx.none, [])] ∧
    Runs flying [(.endStrand 0 Pfx.none, []), (.fbar 0 Pfx.none, [])] ∧
    Runs trapping [(.endStrand 0 Pfx.none, []), (.fbar 0 Pfx.none, [])] ∧
    ((engineAt mems 0).fpOut = [] ∧ (regsAt mems 0).fs &&& mwTrapen (engineAt mems 0).mode = 0) ∧
    (engineAt flying 0).fpOut ≠ [] ∧
    (regsAt trapping 0).fs &&& mwTrapen (engineAt trapping 0).mode ≠ 0 ∧
    gives (does (.endStrand 0 Pfx.none) mems) (fun t => decide (engineAt t 0 = Engine.idle)) = true ∧
    gives (does (.fbar 0 Pfx.none) flying) (fun t => (engineAt t 0).stall == 7) = true ∧
    gives (does (.fbar 0 Pfx.none) trapping) (fun t => decide ((engineAt t 0).phase = .stopped true 1 1 true)) = true ∧
    gives (does (.tableauInstr 0 Pfx.none) mems) (fun t => t.tab.raised == [1]) = true := by
  and_intros <;> first | decide +kernel | exact runs (by decide +kernel)

/-- 1.0, 2.0, 0.0 and 3 as a number, with PRECISE, and with TRAPEN where asked. -/
def floats (mode : W64) : State :=
  setEngine on 0 { Engine.idle with phase := .running, mode := mode,
                                    regs := rg 0x3FF0000000000000 0x4000000000000000 0 3 0xBFF8000000000000 }
/-- The binary32 prefix. -/
def single : Pfx := { Pfx.none with fs32 := true }

/-- Hypotheses of FloatingPointIssue: imprecise, precise, trapping. -/
theorem witness_floating_point :
    Runs (floats 0) [(.fadd 0 Pfx.none 1 2, [1, 2]), (.fsub 0 Pfx.none 1 2, [1, 2]), (.fmul 0 Pfx.none 1 2, [1, 2]),
      (.fdiv 0 Pfx.none 1 2, [1, 2]), (.fmin 0 Pfx.none 1 2, [1, 2]), (.fmax 0 Pfx.none 1 2, [1, 2]),
      (.fcmpeq 0 Pfx.none 1 2, [1, 2]), (.fcmplt 0 Pfx.none 1 2, [1, 2]), (.fcmple 0 Pfx.none 1 2, [1, 2]),
      (.fcmpun 0 Pfx.none 1 2, [1, 2]), (.fcvtf 0 Pfx.none 1 2, [1, 2]), (.fcvti 0 Pfx.none 1 2, [1, 2]),
      (.fcvtiz 0 Pfx.none 1 2, [1, 2]), (.fcvtu 0 Pfx.none 1 2, [1, 2]), (.icvtf 0 Pfx.none 1 2, [1, 2]),
      (.ucvtf 0 Pfx.none 1 2, [1, 2]), (.fma 0 Pfx.none 1 2 5, [1, 2, 5]), (.fms 0 Pfx.none 1 2 5, [1, 2, 5]),
      (.fnma 0 Pfx.none 1 2 5, [1, 2, 5])] ∧
    Runs (floats 32) [(.fadd 0 Pfx.none 1 2, [1, 2]), (.fsub 0 Pfx.none 1 2, [1, 2]), (.fmul 0 Pfx.none 1 2, [1, 2]),
      (.fdiv 0 Pfx.none 1 2, [1, 2]), (.fmin 0 Pfx.none 1 2, [1, 2]), (.fmax 0 Pfx.none 1 2, [1, 2]),
      (.fcmpeq 0 Pfx.none 1 2, [1, 2]), (.fcmplt 0 Pfx.none 1 2, [1, 2]), (.fcmple 0 Pfx.none 1 2, [1, 2]),
      (.fcmpun 0 Pfx.none 1 2, [1, 2]), (.fcvtf 0 Pfx.none 1 2, [1, 2]), (.fcvti 0 Pfx.none 1 2, [1, 2]),
      (.fcvtiz 0 Pfx.none 1 2, [1, 2]), (.fcvtu 0 Pfx.none 1 2, [1, 2]), (.icvtf 0 Pfx.none 1 2, [1, 2]),
      (.ucvtf 0 Pfx.none 1 2, [1, 2]), (.fma 0 Pfx.none 1 2 5, [1, 2, 5]), (.fms 0 Pfx.none 1 2 5, [1, 2, 5]),
      (.fnma 0 Pfx.none 1 2 5, [1, 2, 5])] ∧
    Runs (floats 0x3F) [(.fdiv 0 Pfx.none 1 3, [1, 3])] ∧
    mwPrecise (engineAt (floats 0) 0).mode = false ∧
    mwPrecise (engineAt (floats 32) 0).mode = true ∧
    (fpDiv (fmtOf Pfx.none) 0 0x3FF0000000000000 0).2 &&& mwTrapen 0x3F ≠ 0 ∧
    cellUp flying 0 = true ∧
    (engineAt flying 0).fpOut[(0 : BitVec 5).toNat]? = some ⟨1, 7, 1⟩ := by
  and_intros <;> first | decide +kernel | exact runs (by decide +kernel)

/-- Sums, products and quotients of 1.0, 2.0 and −1.5, precise (chapter 7). -/
theorem test_floating_point_sums :
    reg (does (.fadd 0 Pfx.none 1 2) (floats 32)) 1 = some 0x4008000000000000 ∧
    reg (does (.fsub 0 Pfx.none 1 2) (floats 32)) 1 = some 0xBFF0000000000000 ∧
    reg (does (.fmul 0 Pfx.none 2 5) (floats 32)) 2 = some 0xC008000000000000 ∧
    reg (does (.fdiv 0 Pfx.none 1 2) (floats 32)) 1 = some 0x3FE0000000000000 ∧
    reg (does (.fma 0 Pfx.none 1 2 5) (floats 32)) 1 = some 0xC000000000000000 ∧
    reg (does (.fms 0 Pfx.none 1 2 5) (floats 32)) 1 = some 0xC010000000000000 ∧
    reg (does (.fnma 0 Pfx.none 1 2 5) (floats 32)) 1 = some 0x4010000000000000 := by
  and_intros <;> decide +kernel

/-- Extremes, compares and conversions of the same operands. -/
theorem test_floating_point_others :
    reg (does (.fmin 0 Pfx.none 1 5) (floats 32)) 1 = some 0xBFF8000000000000 ∧
    reg (does (.fmax 0 Pfx.none 1 5) (floats 32)) 1 = some 0x3FF0000000000000 ∧
    reg (does (.fcmpeq 0 Pfx.none 1 1) (floats 32)) 1 = some 1 ∧
    reg (does (.fcmplt 0 Pfx.none 5 1) (floats 32)) 5 = some 1 ∧
    reg (does (.fcmple 0 Pfx.none 2 1) (floats 32)) 2 = some 0 ∧
    reg (does (.fcmpun 0 Pfx.none 1 2) (floats 32)) 1 = some 0 ∧
    reg (does (.fcvtf 0 single 1 2) (floats 32)) 1 = some 0x40000000 ∧
    reg (does (.fcvti 0 Pfx.none 1 5) (floats 32)) 1 = some 0xFFFFFFFFFFFFFFFE ∧
    reg (does (.fcvtiz 0 Pfx.none 1 5) (floats 32)) 1 = some 0xFFFFFFFFFFFFFFFF ∧
    reg (does (.fcvtu 0 Pfx.none 1 2) (floats 32)) 1 = some 2 ∧
    reg (does (.icvtf 0 Pfx.none 1 4) (floats 32)) 1 = some 0x4008000000000000 ∧
    reg (does (.ucvtf 0 Pfx.none 1 4) (floats 32)) 1 = some 0x4008000000000000 ∧
    gives (does (.fdiv 0 Pfx.none 1 3) (floats 0x3F)) (fun t => match (engineAt t 0).phase with | .stopped _ _ _ _ => true | _ => false) = true ∧
    gives (exec (.fpComplete 0 0) flying) (fun t => getG (regsAt t 0) 1 == 7 && (regsAt t 0).fs == 1 && (engineAt t 0).fpOut == []) = true := by
  and_intros <;> decide +kernel

/-- A table in the instruction store of cell 0, and g1 an argument between its entries 1 and 2. -/
def tables : State :=
  setCell on 0 { Cell.clear with istore := [(0, 0), (4, 10), (8, 20), (12, 40), (16, 80)].filter (·.2 != 0)
                                 engine := { Engine.idle with phase := .running,
                                                              regs := rg 0x18000 0x8000000000000000 0x1000 0 0x8000000000003FFC } }

/-- A table of the binary32 numbers 1 and the next above it, with every flag trapping and PRECISE. -/
def singles (mode : W64) : State :=
  setCell on 0 { Cell.clear with istore := [(6, 0x80), (7, 0x3F), (8, 1), (10, 0x80), (11, 0x3F)]
                                 engine := { Engine.idle with phase := .running, mode := mode, regs := (regsAt tables 0) } }

/-- Hypotheses of SignInstructionsAndLookups: a table in the store, one that would pass its end, and one in bank memory; an
interpolation that is exact, one that is not and goes on, and one that traps. -/
theorem witness_signs_and_lookups :
    Runs (floats 0) [(.fneg 0 Pfx.none 1 2, [1, 2]), (.fabs 0 Pfx.none 1 5, [1, 5])] ∧
    Runs tables [(.tli 0 Pfx.none 4 1 2 0, [4, 1, 2]), (.tlif 0 Pfx.none 4 1 2 0, [4, 1, 2]),
      (.tli 0 Pfx.none 4 1 3 0, [4, 1, 3]), (.tlif 0 Pfx.none 4 1 3 8, [4, 1, 3])] ∧
    (getG (regsAt tables 0) 2).getLsbD 63 = true ∧
    (getG (regsAt tables 0) 2).toNat % 0x4000 / 4 * 4 + 4 * (2 ^ 2 + 1) ≤ 0x4000 ∧
    (cellAt tables 0).istoreEcc = [] ∧
    (getG (regsAt tables 0) 3).getLsbD 63 = false ∧
    tableBad (regsAt tables 0) 1 3 0 = none ∧
    reg (does (.fneg 0 Pfx.none 1 2) (floats 0)) 1 = some 0xC000000000000000 ∧
    reg (does (.fabs 0 Pfx.none 1 5) (floats 0)) 1 = some 0x3FF8000000000000 ∧
    reg (does (.tli 0 Pfx.none 4 1 2 0) tables) 4 = some 15 ∧
    gives (does (.tli 0 Pfx.none 4 1 3 0) tables) (fun t => match (engineAt t 0).phase with | .lookup _ => true | _ => false) = true ∧
    gives (does (.tlif 0 Pfx.none 4 1 3 8) tables) (fun t => match (engineAt t 0).phase with | .lookup _ => true | _ => false) = true ∧
    (mwTrapen (engineAt tables 0).mode = 0) ∧
    Runs tables [(.tli 0 Pfx.none 4 1 5 0, [4, 1, 5])] ∧
    faults (does (.tli 0 Pfx.none 4 1 5 0) tables) 247 = true ∧
    (Runs (singles 0x1F) [(.tlif 0 Pfx.none 4 1 2 0, [4, 1, 2])] ∧ Runs (singles 0x3F) [(.tlif 0 Pfx.none 4 1 2 0, [4, 1, 2])]) ∧
    reg (does (.tlif 0 Pfx.none 4 1 2 0) (singles 0x1F)) 4 = some 0x3F800000 ∧
    gives (does (.tlif 0 Pfx.none 4 1 2 0) (singles 0x3F)) (fun t => match (engineAt t 0).phase with | .stopped _ _ _ _ => true | _ => false) = true := by
  and_intros <;> first | decide +kernel | exact runs (by decide +kernel)

/-- A strand's flit. -/
def fl (m : Msg) : Flit := mkFlit on 0 2 .strand m
/-- A flit has reached the switch stage of a port. -/
def put (s : State) (t : TileId) (extra : Bool) (f : Flit) : State :=
  { s with weave := setOut s.weave (outKey t extra f.vn) [f] }
/-- The message that an endpoint would take. -/
def heads (s : State) (t : TileId) (extra : Bool) (vn : BitVec 2) (serves kind : Flit → Bool) : Option Msg :=
  (takeHead s.weave t extra vn serves kind).map (·.msg)
/-- Memory with the word at 0x1000, bank 0, in a presence state. -/
def word (p : BitVec 2) : Mem := setPres (writeWord on.mem 0x1000 0x8877665544332211) 0x1000 p
/-- A request to bank 0 for that word. -/
def bank (p : BitVec 2) (m : Msg) : State := put { on with mem := word p } 0 false (fl m)
/-- A load's request. -/
def ask8 : LoadReq := ⟨0x4000000400001400, 9, 3, 0, true⟩
/-- A deferred reader of a word. -/
def reader (a : Addr) : Deferred := ⟨⟨a, 0x4000000400001400, 9, 3, 0, 0, none, 0⟩, 1, true⟩
/-- `bank` with readers deferred. -/
def waited (p : BitVec 2) (m : Msg) : State :=
  let s := bank p m
  { s with mem := setBank s.mem 0 { Bank.clear with deferred := [reader 0x1000, reader 0x2000, reader 0x1000] } }
/-- The token that a command has put into tile 0's local port. -/
def token (o : Host.Outcome State Fault Refusal) : Option Token :=
  match sent o 0 with
  | some (.token t) => some t
  | _ => none

/-- `bank` with an answer of its own that waits at the port. -/
def backed (m : Msg) : State :=
  let s := bank 3 m
  { s with weave := setOffers s.weave (offerKey 0 false) [⟨4, none, fl (.ackLock 0)⟩] }
/-- A started graph whose context 16 has its serial word at 0x418, and a request to bank 0. -/
def serials (m : Msg) : State :=
  put { on with stw := { on.stw with started := true, image := some ⟨7, 100, 8, 0, 0, 0, 0, []⟩ } } 0 false (fl m)
/-- Page 1, which holds 0x1000, is in use, and the strand of its record is parked. -/
def paged (use : PageUse) (m : Msg) : State :=
  let s := bank 3 m
  { s with locks := setUnit s.locks 0 { LockUnit.clear with dir := [⟨1, 0, use, 0⟩] }
           stw := { s.stw with parked := [⟨(1 : W64) <<< 42, false⟩] } }

/-- Hypotheses of BankPlainReadsAndWrites, with a byte at the end of a word, and the presence states. -/
theorem witness_bank_plain :
    (bankUp (bank 3 (.read 0x1007 (.load ask8) 0)) 0 = true ∧ (takeHead (bank 3 (.read 0x1007 (.load ask8) 0)).weave 0 false 1 isBankRequest isRead).any (bankAccepts (bank 3 (.read 0x1007 (.load ask8) 0)) 0) = true) ∧
    eccAt (word 3) 0x1007 = .ok ∧
    heads (bank 3 (.read 0x1007 (.load ask8) 0)) 0 false 1 isBankRequest isRead = some (.read 0x1007 (.load ask8) 0) ∧
    heads (bank 3 (.write 0x1000 0x0F 7 .store 0)) 0 false 1 isBankRequest isWrite = some (.write 0x1000 0x0F 7 .store 0) ∧
    pageUseAt on.locks 0x1000 = none ∧
    (token (exec (.bankRead 0) (bank 3 (.read 0x1007 (.load ask8) 0)))).map (·.value) = some 0xFFFFFFFFFFFFFF88 ∧
    (token (exec (.bankRead 0) (bank 0 (.read 0x1007 (.load ask8) 0)))).map (·.value) = some 0 ∧
    gives (exec (.bankWrite 0) (bank 3 (.write 0x1000 0x0F 7 .store 0))) (fun t => readWord t.mem 0x1000 == 0x8877665500000007) = true ∧
    gives (exec (.bankWrite 0) (bank 0 (.write 0x1000 0xF0 0x700000000 .store 0))) (fun t => readWord t.mem 0x1000 == 0x700000000 && presAt t.mem 0x1000 == presPlain) = true ∧
    presAt (waited presDeferred (.write 0x1000 0x0F 7 .store 0)).mem 0x1000 = presDeferred ∧
    gives (exec (.bankWrite 0) (waited presDeferred (.write 0x1000 0x0F 7 .store 0))) (fun t => (bankAt t.mem 0).answering == [(reader 0x1000, 7), (reader 0x1000, 7)] && (bankAt t.mem 0).deferred == [reader 0x2000]) = true ∧
    gives (exec (.bankWrite 0) (let s := bank 3 (.write 0x1000 0xFF 9 .store 0); { s with mem := setBank s.mem 0 { Bank.clear with answering := [(reader 0x1000, 5), (reader 0x2000, 6)] } })) (fun t => (bankAt t.mem 0).answering == [(reader 0x1000, 9), (reader 0x2000, 6)]) = true ∧
    (takeHead (backed (.read 0x1000 (.load ask8) 0)).weave 0 false 1 isBankRequest isRead).any (bankAccepts (backed (.read 0x1000 (.load ask8) 0)) 0) = false ∧
    (takeHead (backed (.read 0x1000 (.load ask8) 0)).weave 0 false 1 isBankRequest isRead).isSome = true ∧
    gives (exec (.bankRead 0) (backed (.read 0x1000 (.load ask8) 0))) (fun t => decide (t = backed (.read 0x1000 (.load ask8) 0))) = true ∧
    gives (exec (.bankWrite 0) (backed (.write 0x1000 0xFF 7 .store 0))) (fun t => decide (t = backed (.write 0x1000 0xFF 7 .store 0))) = true ∧
    sent (exec (.bankRead 0) (bank 3 (.read 0x1000 (.bmov 0x2000) 5))) 1 = some (.write 0x2000 0xFF 0x8877665544332211 .bmov 5) ∧
    (serialWrite (serials (.write 0x418 0xFF 7 .store 0)) 0x418 0xFF = some 16 ∧ serialWrite (serials (.write 0x418 0xFF 7 .store 0)) 0x410 0xFF = none) ∧
    gives (exec (.bankWrite 0) (serials (.write 0x418 0xFF 7 .store 0))) (fun _ => true) = true ∧
    (pageUseAt (paged .spill (.write 0x1000 0xFF 7 .store 0)).locks 0x1000).map (·.use) = some .spill ∧
    faults (exec (.bankWrite 0) (paged .spill (.write 0x1000 0xFF 7 .store 0))) 337 = true ∧
    gives (exec (.bankWrite 0) (paged .record (.write 0x10A8 0xFF 7 .store 0))) (fun t => readWord t.mem 0x10A8 == 7 && t.stw.parked == [⟨(1 : W64) <<< 42, true⟩]) = true ∧
    faults (exec (.bankWrite 0) (paged .record (.write 0x10B0 0xFF 7 .store 0))) 283 = true := by
  and_intros <;> decide +kernel

/-- An I-read of the word. -/
def ird : IReq := ⟨0x1000, 0x4000000400001400, 9, 3, 0, 0, none, 0⟩
/-- A bank that holds 1024 readers. -/
def full : State :=
  let s := bank 0 (.iread ird)
  { s with mem := setBank s.mem 0 { Bank.clear with deferred := List.replicate 1024 (reader 0x2000) } }

/-- Hypotheses of BankStructureAccesses in each presence state. -/
theorem witness_bank_structure :
    (bankUp (bank presFull (.iread ird)) 0 = true ∧ bankAccepts (bank presFull (.iread ird)) 0 (fl (.iread ird)) = true) ∧
    ird.elem = none ∧
    eccAt (word presFull) 0x1000 = .ok ∧
    heads (bank presFull (.iread ird)) 0 false 1 isBankRequest isIread = some (.iread ird) ∧
    heads (bank presFull (.iwrite 0x1000 9 none 0)) 0 false 1 isBankRequest isIwrite = some (.iwrite 0x1000 9 none 0) ∧
    heads (bank presFull (.iclear 0x1000 0)) 0 false 1 isBankRequest isIclear = some (.iclear 0x1000 0) ∧
    (presAt (word presFull) 0x1000 = presFull ∧ presAt (word presPlain) 0x1000 = presPlain ∧ presAt (word presEmpty) 0x1000 = presEmpty ∧ presAt (word presDeferred) 0x1000 = presDeferred) ∧
    (token (exec (.bankIread 0) (bank presFull (.iread ird)))).map (·.value) = some 0x8877665544332211 ∧
    gives (exec (.bankIread 0) (bank presEmpty (.iread ird))) (fun t => (bankAt t.mem 0).deferred == [⟨ird, 2, false⟩] && presAt t.mem 0x1000 == presDeferred) = true ∧
    gives (exec (.bankIwrite 0) (waited presDeferred (.iwrite 0x1000 9 none 0))) (fun t => (bankAt t.mem 0).answering.length == 2 && presAt t.mem 0x1000 == presFull && readWord t.mem 0x1000 == 9) = true ∧
    gives (exec (.bankIwrite 0) (bank presPlain (.iwrite 0x1000 9 none 0))) (fun t => presAt t.mem 0x1000 == presPlain && readWord t.mem 0x1000 == 9) = true ∧
    gives (exec (.bankIwrite 0) (bank presFull (.iwrite 0x1000 9 none 0))) (fun t => readWord t.mem 0x1000 == 0x8877665544332211) = true ∧
    gives (exec (.bankIclear 0) (bank presPlain (.iclear 0x1000 0))) (fun t => presAt t.mem 0x1000 == presEmpty && readWord t.mem 0x1000 == 0) = true ∧
    gives (exec (.bankIclear 0) (bank presDeferred (.iclear 0x1000 0))) (fun t => presAt t.mem 0x1000 == presDeferred) = true ∧
    (serialWrite on 0x1000 0xFF = none ∧ pageUseAt on.locks 0x1000 = none) := by
  and_intros <;> decide +kernel

/-- 1024 readers are held: the I-read goes back as a RETRY. -/
theorem witness_bank_full :
    1024 ≤ (bankAt full.mem 0).deferred.length + (bankAt full.mem 0).answering.length :=
  by
    have h : (bankAt full.mem 0).deferred = List.replicate 1024 (reader 0x2000) := rfl
    have g : (bankAt full.mem 0).answering = [] := rfl
    rw [h, g, List.length_replicate]
    exact Nat.le_refl 1024

/-- It counts there and goes back to its cell. -/
theorem test_bank_full :
    gives (exec (.bankIread 0) full) (fun t => (bankAt t.mem 0).retries == 1) = true ∧
    sent (exec (.bankIread 0) full) 2 = some (.retry ird) := by
  and_intros <;> decide +kernel

/-- A bank with an answer to send. -/
def answering : State := { on with mem := setBank on.mem 0 { Bank.clear with answering := [(reader 0x1000, 5)] } }
/-- A cell to which a RETRY came back. -/
def retried : State := setCell on 0 { Cell.clear with room := [.retry ird] }
/-- A token record for a slot. -/
def spilled : Token := { value := 0x1122, context := 16, iteration := 2, port := 1, cell := 3, iaddr := 7, flags := 0, deadline := 9, flow := 4 }

/-- `retried` with this count of retries. -/
def retriedOf (n : BitVec 12) : State := setCell on 0 { Cell.clear with room := [.retry { ird with retry := n }] }
/-- A spill slot at 0x1000 whose third word shows this error, and a request to bank 0. -/
def slots (e : Ecc) (m : Msg) : State :=
  put { on with mem := setEcc (writeBytes on.mem 0x1000 (tokenBytes spilled)) 0x1010 e } 0 false (fl m)

/-- Hypotheses of BankAnswersScrubsAndSlots. -/
theorem witness_bank_answers :
    (bankUp answering 0 = true ∧ portRoom answering 0 false 0 = true) ∧
    (bankAt answering.mem 0).answering = [(reader 0x1000, 5)] ∧
    (cellUp retried 0 = true ∧ chanRoom retried.weave (chanKey (tileOf 0) 4 1 0) = true) ∧
    ((waitingRetry retried 0).map (·.1) = some ird ∧ ird.retry ≠ 4095) ∧
    (eccAt (setEcc (word 3) 0 (.single 3)) 0 = .single 3 ∧ eccAt (setEcc (word 3) 0 .double) 0 = .double) ∧
    heads (bank 3 (.slotWrite 0x1000 spilled 2)) 0 false 1 isBankRequest isSlot = some (.slotWrite 0x1000 spilled 2) ∧
    heads (bank 3 (.slotLink 0x1000 5)) 0 false 1 isBankRequest isSlot = some (.slotLink 0x1000 5) ∧
    heads (bank 3 (.slotRead 0 0x1000)) 0 false 1 isBankRequest isSlot = some (.slotRead 0 0x1000) ∧
    heads (bank 3 (.recordWrite 0 0x1000 6)) 0 false 1 isBankRequest isSlot = some (.recordWrite 0 0x1000 6) ∧
    (token (exec (.deferredAnswer 0) answering)).map (fun t => (t.value, t.flags)) = some (5, 2) ∧
    sent (exec (.retryReceive 0) retried) 1 = some (.iread { ird with retry := 1 }) ∧
    gives (exec (.bankScrub 0) { on with mem := setEcc (word 3) 0 (.single 3) }) (fun t => (bankAt t.mem 0).corrected == 1 && eccAt t.mem 0 == .ok && (bankAt t.mem 0).scrub == 1) = true ∧
    gives (exec (.bankScrub 0) { on with mem := setEcc (word 3) 0 .double }) (fun t => (bankAt t.mem 0).uncorrect == 1 && eccAt t.mem 0 == .double) = true ∧
    gives (exec (.spillSlotAccess 0) (bank 3 (.slotWrite 0x1000 spilled 2))) (fun t => readBytes t.mem 0x1000 20 == tokenBytes spilled && readByte t.mem 0x1014 == 2) = true ∧
    gives (exec (.spillSlotAccess 0) (bank 3 (.slotLink 0x1000 5))) (fun t => readBytes t.mem 0x101C 4 == [5, 0, 0, 0x80]) = true ∧
    gives (exec (.spillSlotAccess 0) (bank 3 (.recordWrite 0 0x1000 6))) (fun t => readWord t.mem 0x1000 == 6) = true ∧
    (bankAt (busy answering 0).mem 0).answering ≠ [] ∧ portRoom (busy answering 0) 0 false 0 = false ∧
    gives (exec (.deferredAnswer 0) (busy answering 0)) (fun t => decide (t = busy answering 0)) = true ∧
    gives (exec (.retryReceive 0) (busy retried 1)) (fun t => decide (t = busy retried 1)) = true ∧
    (waitingRetry (retriedOf 4095) 0).map (·.1.retry) = some 4095 ∧
    (match sent (exec (.retryReceive 0) (retriedOf 4095)) 0 with | some (.token t) => t.value == 0x11 && t.flags == flagPoison | _ => false) = true ∧
    (match sent (exec (.spillSlotAccess 0) (slots .ok (.slotRead 0 0x1000))) 2 with | some (.slotReturn 0 0x1000 t 0) => t == spilled | _ => false) = true ∧
    (match sent (exec (.spillSlotAccess 0) (slots (.single 31) (.slotRead 0 0x1000))) 2 with | some (.slotReturn 0 0x1000 t 0) => t == { spilled with flags := 0x80 } | _ => false) = true ∧
    (match sent (exec (.spillSlotAccess 0) (slots (.single 32) (.slotRead 0 0x1000))) 2 with | some (.slotReturn 0 0x1000 t 0) => t == spilled | _ => false) = true ∧
    sent (exec (.spillSlotAccess 0) (bank 3 (.recordRead 0 0x1000 9))) 2 = some (.recordReturn 0 9 (some 0x8877665544332211)) ∧
    heads (bank 3 (.recordRead 0 0x1000 9)) 0 false 1 isBankRequest isSlot = some (.recordRead 0 0x1000 9) := by
  and_intros <;> decide +kernel

/-- A slot read of memory with no word in error. -/
theorem witness_slot_read :
    (∀ x, eccAt on.mem x = .ok) ∧
    tokenOfBytes (tokenBytes spilled) = spilled :=
  ⟨fun _ => rfl, by decide⟩

/-- The message at the first offer or in the first channel of an extra port. -/
def left (o : Host.Outcome State Fault Refusal) (t : TileId) (vn : BitVec 2) : Option Msg :=
  match o with
  | .next s => (chanAt s.weave (chanKey t 5 vn 0)).head?.map (·.msg)
  | _ => none
/-- The value of a token that left a port. -/
def valueOf : Option Msg → Option W64
  | some (.token t) => some t.value
  | _ => none

/-- A request to tile 63's extra port. -/
def edge (s : State) (m : Msg) : State := put s 63 true (fl m)
/-- `on` without flash. -/
def noFlash : State := { on with straps := { on.straps with flash := 0 }, jtag := { on.jtag with ir := 15 } }
/-- `on` with 9 bytes of flash fitted. -/
def fitted : State := { on with jtag := { on.jtag with ir := 15 }, mem := { on.mem with flashSize := 9, flash := [(1, 0xA5), (8, 0x5A)] } }

/-- Hypotheses of KeepMemoryAndFlash; the last word of keep memory; a flash that ends inside the word. -/
theorem witness_keep_and_flash :
    tileUp on 63 = true ∧
    heads (edge on (.read 0x1000FFF8 (.load { ask8 with size := 3 }) 0)) 63 true 1 (keepTurn on) isKeep = some (.read 0x1000FFF8 (.load { ask8 with size := 3 }) 0) ∧
    eccAt on.mem 0x1000FFF8 = .ok ∧
    heads (edge on (.iread { ird with addr := 0x10000000 })) 63 true 1 (keepTurn on) isKeep = some (.iread { ird with addr := 0x10000000 }) ∧
    heads (edge on (.write 0x10000000 0x81 0x1100000000000022 .store 0)) 63 true 1 (keepTurn on) isKeep = some (.write 0x10000000 0x81 0x1100000000000022 .store 0) ∧
    heads (edge on (.iwrite 0x10000000 5 none 0)) 63 true 1 (keepTurn on) isKeep = some (.iwrite 0x10000000 5 none 0) ∧
    heads (edge on (.iclear 0x10000000 0)) 63 true 1 (keepTurn on) isKeep = some (.iclear 0x10000000 0) ∧
    heads (edge fitted (.read 0x20000000 (.load { ask8 with size := 3 }) 0)) 63 true 1 isFlash isFlash = some (.read 0x20000000 (.load { ask8 with size := 3 }) 0) ∧
    (fitted.stw.boot ≠ .reading ∧ fitted.jtag.ir ≠ 0 ∧ noFlash.jtag.ir ≠ 0) ∧
    (flashOn noFlash.straps = false ∧ flashOn fitted.straps = true) ∧
    heads (edge fitted (.write 0x20000000 1 1 .store 0)) 63 true 1 isFlash isFlash = some (.write 0x20000000 1 1 .store 0) ∧
    gives (exec .keepAccess (edge on (.write 0x10000000 0x81 0x1100000000000022 .store 0))) (fun t => readWord t.mem 0x10000000 == 0x1100000000000022) = true ∧
    gives (exec .keepAccess (edge on (.iwrite 0x1000FFF8 5 none 0))) (fun t => readWord t.mem 0x1000FFF8 == 5) = true ∧
    valueOf (left (exec .keepAccess (edge { on with mem := writeWord on.mem 0x1000FFF8 6 } (.read 0x1000FFF8 (.load { ask8 with size := 3 }) 0))) 63 0) = some 6 ∧
    valueOf (left (exec .keepAccess (edge on (.iread { ird with addr := 0x10000000 }))) 63 0) = some 0 ∧
    gives (exec .keepAccess (edge on (.iclear 0x10000000 0))) (fun t => t.mem == on.mem) = true ∧
    gives (exec .flashWindowRead (edge fitted (.write 0x20000000 1 1 .store 0))) (fun t => t.mem == fitted.mem) = true ∧
    heads (edge noFlash (.read 0x20000000 (.load { ask8 with size := 3 }) 0)) 63 true 1 (keepTurn noFlash) isFlash = some (.read 0x20000000 (.load { ask8 with size := 3 }) 0) ∧
    gives (exec .flashWindowRead (edge { fitted with jtag := { fitted.jtag with ir := 0 } } (.read 0x20000000 (.load { ask8 with size := 3 }) 0))) (fun t => t.out == []) = true ∧
    gives (exec .flashWindowRead (edge fitted (.read 0x20000000 (.load { ask8 with size := 3 }) 0))) (fun t => match t.out with | [.flashRead _ _ _ 0 8] => true | _ => false) = true := by
  and_intros <;> decide +kernel

/-- The flash window: bytes of the flash, all ones where the straps disable it (R312). -/
theorem test_flash_reads :
    valueOf (left (exec .flashWindowRead (edge fitted (.read 0x20000000 (.load { ask8 with size := 3 }) 0))) 63 0) = some 0xA500 ∧
    valueOf (left (exec .flashWindowRead (edge noFlash (.read 0x20000000 (.load { ask8 with size := 3 }) 0))) 63 0) = some 0xFFFFFFFFFFFFFFFF := by
  and_intros <;> decide +kernel

/-- `on` with a graph started: limit 100, context 16 valid. -/
def graph : State :=
  { on with mem := writeWord on.mem (16 * 64) 0x8000000000000000,
            stw := { on.stw with started := true, image := some ⟨7, 100, 8, 0, 0, 0, 0, []⟩ } }
/-- A token for cell 0, context 16, node at 7. -/
def tok (port : BitVec 2) : Token :=
  { value := 0x1122, context := 16, iteration := 2, port := port, cell := 0, iaddr := 7, flags := 0, deadline := 110, flow := 4 }
/-- A matching entry whose port 1 is filled. -/
def entry : MEntry := ⟨setOf (tok 0), 16, 2, 7, 0, none, some ⟨9, 100, 0, 0, .ok⟩, none, .ok⟩
/-- The token arrives at a node of this header, with this matching store. -/
def arrives (header : Byte) (port : BitVec 2) (es : List MEntry) : State :=
  put (setCell graph 0 { Cell.clear with istore := minsert 7 header [], mstore := es }) 0 false (fl (.token (tok port)))
/-- A cell with two firings that wait. -/
def selects : State :=
  let f : Firing := ⟨some ⟨1, 200, 0, 0, .ok⟩, some ⟨2, 200, 0, 0, .ok⟩, none, packTag (tokenTag (tok 0)), 200, 0, 0, .ok, none⟩
  setCell graph 0 { Cell.clear with queue := [f, { f with deadline := 90, seq := 1 }] }

/-- Hypotheses of TokensBecomeFirings: monadic, dyadic without an entry, dyadic with the other operand. -/
theorem witness_token_arrival :
    (cellUp (arrives 0 3 []) 0 = true ∧ headToken (arrives 0 3 []) 0 0 = some (tok 3)) ∧
    ((tok 3).context.toNat < ctxLimit (arrives 0 3 []) ∧ 16 ≤ (tok 3).context.toNat) ∧
    (eccAt (arrives 0 3 []).mem (descAddr 16) = .ok ∧ ctxValid (arrives 0 3 []).mem 16 = true) ∧
    (cellAt (arrives 0 3 []) 0).istoreEcc = [] ∧
    (nodeHeader (cellAt (arrives 0 3 []) 0) (tok 3) = 0 ∧ nodeHeader (cellAt (arrives 1 0 []) 0) (tok 0) = 1) ∧
    (cellAt (arrives 0 3 []) 0).queue.length + (cellAt (arrives 0 3 []) 0).inFlight + (cellAt (arrives 0 3 []) 0).resumed.length < 16 ∧
    headToken (arrives 1 0 [entry]) 0 0 = some (tok 0) ∧
    (cellAt (arrives 1 0 []) 0).mstore.find? (fun e => sameTag e (tok 0)) = none ∧
    (portOp entry 0 = none ∧ portOp entry 1 = some ⟨9, 100, 0, 0, .ok⟩) ∧
    gives (exec (.tokenArrival 0 false) (arrives 0 3 [])) (fun t => (cellAt t 0).queue.map (fun f => (f.deadline, f.flow)) == [(110, 4)]) = true ∧
    gives (exec (.tokenArrival 0 false) (arrives 1 0 [])) (fun t => (cellAt t 0).mstore.length == 1 && (cellAt t 0).queue == []) = true ∧
    (arrivalChannels (arrives 0 3 []) 0 false).find? (fun k => (headToken (arrives 0 3 []) 0 k).isSome) = some 0 ∧
    (channelFlit (arrives 0 3 []) 0 0).map (·.msg) = some (.token (tok 3)) ∧
    descReserved (arrives 0 3 []).mem 16 = false ∧
    returnedRivals (cellAt (arrives 1 0 []) 0) (tok 0) = 0 := by
  and_intros <;> decide +kernel

/-- The entry that waits is of the token's tag. -/
theorem witness_dyadic_match :
    (cellAt (arrives 1 0 [entry]) 0).mstore.find? (fun e => sameTag e (tok 0)) = some entry :=
  by rw [show (cellAt (arrives 1 0 [entry]) 0).mstore = [entry] from rfl]; simp [sameTag, entry, tok]

/-- The set of a token has room in an empty store. -/
theorem witness_dyadic_room :
    ((cellAt (arrives 1 0 []) 0).mstore.filter (fun e => e.set == setOf (tok 0))).length < 8 :=
  by rw [show (cellAt (arrives 1 0 []) 0).mstore = [] by decide]; decide

/-- The earlier deadline is selected, and begins with its operands. -/
theorem witness_strand_select :
    (selected selects 0).map (·.deadline) = some 90 ∧
    (cellUp selects 0 = true ∧ (cellAt selects 0).engine.phase = .idle) ∧
    (eccAt selects.mem (descAddr 16) = .ok ∧ tagContext (packTag (tokenTag (tok 0))) = 16) ∧
    gives (exec (.strandSelect 0) selects) (fun t => getG (regsAt t 0) 0 == 1 && getG (regsAt t 0) 1 == 2 && (regsAt t 0).pc == 8 && (regsAt t 0).dl == 90 && (cellAt t 0).queue.length == 1) = true ∧
    (selects.mem.ecc = [] ∧ ∀ f ∈ (cellAt selects 0).queue, ∀ o ∈ presentOps f.op0 f.op1 f.op2, o.ecc = .ok) ∧
    (∀ f ∈ (cellAt selects 0).queue, f.ecc = .ok ∧ f.strand = none) := by
  and_intros <;> decide +kernel

/-- Quadrant 0's lock unit holds one free page. -/
def pages (u : LockUnit) (m : Msg) : State := put { on with locks := setUnit on.locks 0 u } 27 false (fl m)
/-- A unit with two free pages, and one in use. -/
def twoPages : LockUnit := { LockUnit.clear with free := [5, 6], dir := [⟨7, 0, .spill, 0⟩], grants := 1 }
/-- A strand that waits for a record page, with the answer to its request in the room. -/
def stopped (page : Option (BitVec 13)) : State :=
  setCell on 0 { Cell.clear with engine := { Engine.idle with phase := .stopped true 1 1 true, regs := rg 9 8 7 6 5 },
                                 asks := [(.record, 5)], room := [.ackPage 0 .record page none] }

/-- Hypotheses of PagesGrantedAndReturned: a free page, none, a release, a grant and a refusal at the cell. -/
theorem witness_pages :
    tileUp on (lockTile 0) = true ∧
    heads (pages twoPages (.pageRequest 3 .hold none)) 27 false 1 isPageFlit isPageRequest = some (.pageRequest 3 .hold none) ∧
    twoPages.free ≠ [] ∧
    heads (pages LockUnit.clear (.pageRequest 3 .spill (some 9))) 27 false 1 isPageFlit isPageRequest = some (.pageRequest 3 .spill (some 9)) ∧
    (LockUnit.clear.free = [] ∧ LockUnit.clear.latch = false) ∧
    heads (pages twoPages (.pageRelease 7)) 27 false 1 isPageFlit isPageRelease = some (.pageRelease 7) ∧
    (cellUp (stopped (some 5)) 0 = true ∧ (engineAt (stopped (some 5)) 0).phase = .stopped true 1 1 true) ∧
    (cellAt (stopped (some 5)) 0).room.find? isAckPage = some (.ackPage 0 .record (some 5) none) ∧
    (cellAt (stopped none) 0).room.find? isAckPage = some (.ackPage 0 .record none none) ∧
    gives (exec (.pageRequest 0) (pages LockUnit.clear (.pageRequest 3 .spill (some 9)))) (fun t => (unitAt t.locks 0).latch && t.tab.raised == [4]) = true ∧
    gives (exec (.pageRelease 0) (pages twoPages (.pageRelease 7))) (fun t => (unitAt t.locks 0).free == [5, 6, 7] && (unitAt t.locks 0).dir == []) = true ∧
    gives (exec (.pageGrant 0) (stopped none)) (fun t => (engineAt t 0).phase == .stopped true 1 1 false && (cellAt t 0).asks == []) = true ∧
    gives (exec (.pageGrant 0) (stopped (some 5))) (fun t => (cellAt t 0).gen == 1 && (match (engineAt t 0).phase with | .recording p n _ => p == 5 && n == 46 | _ => false)) = true ∧
    gives (exec (.pageRequest 0) (pages twoPages (.pageRequest 3 .hold none))) (fun _ => true) = true := by
  and_intros <;> decide +kernel

/-- A strand of this tag whose record has this many words the bank has not accepted. -/
def recorded (s : State) (tag : W64) (left : Nat) : State :=
  setCell s 0 { Cell.clear with engine := { Engine.idle with phase := .recording 5 left 77, regs := { Regs.zero with tag0 := tag } } }
/-- The words of a record that have come back: g2 is 55, its tag word 0x1111, its deadline 7 and flow 9. -/
def words (n : Nat) (bad : Bool) : List (Nat × Option W64) :=
  (List.range n).map fun i => (i, if bad && i == 3 then none else some
    (if i = 2 then 55 else if i = 37 then 0x1111 else if i = 41 then 0x2005 else if i = 45 then 0x900007 else 0))
/-- A parked strand of page 3 that is to be restored, and its words. -/
def restoring (asked : Bool) (ws : List (Nat × Option W64)) : State :=
  setCell on 0 { Cell.clear with resumed := [⟨(3 : W64) <<< 42, true, asked, ws⟩], room := if asked then [.recordReturn 0 45 (some 0x900007)] else [] }
/-- A cell to which its one spilled slot has come back, with an error; its node's window holds it. -/
def comesBack (bad : BitVec 2) : State :=
  setCell graph 0 { Cell.clear with istore := minsert 7 4 [], spill := [⟨3, 1, [⟨0, 16, 0, true⟩]⟩], inFlight := 1, room := [.slotReturn 0 0x3000 (tok 3) bad] }
/-- A cell with a slot to be read, and this many firings that wait. -/
def respills (n : Nat) : State :=
  setCell on 0 { Cell.clear with spill := [⟨3, 1, [⟨0, 16, 0, false⟩]⟩],
                                 queue := List.replicate n ⟨none, none, none, 0, 0, 0, 0, .ok, none⟩ }
/-- The tag word of a strand of context 16. -/
def tag16 : W64 := packTag (tokenTag (tok 0))

/-- Hypotheses of ParkedStrandsAndSpilledTokens: before and after START, with the context route and the node route. -/
theorem witness_trap_tokens :
    (cellUp (recorded on 0 0) 0 = true ∧ (cellAt (recorded on 0 0) 0).engine.phase = .recording 5 0 77) ∧
    (graph.stw.started = true ∧ contextRoute graph 16 = true ∧ tagContext tag16 = 16) ∧
    (contextRoute graph 0 = false ∧ tagInLimit graph (defaultHandler graph) = true ∧ descBad graph.mem 0 1 = false) ∧
    gives (exec (.trapTokenSend 0) (recorded on 0 1)) (fun t => decide (t = recorded on 0 1)) = true ∧
    gives (exec (.trapTokenSend 0) (recorded on 0 0)) (fun t => (engineAt t 0) == Engine.idle && t.stw.parked == [⟨77, false⟩]) = true ∧
    gives (exec (.trapTokenSend 0) (recorded graph tag16 0)) (fun t => ctxSerial t.mem 16 == 1 && t.stw.parked.length == 1 && t.stw.nodeSerial == 0) = true ∧
    gives (exec (.trapTokenSend 0) (recorded graph 0 0)) (fun t => t.stw.nodeSerial == 1) = true := by
  and_intros <;> decide +kernel

/-- The record is asked for, comes back whole, lacks a word, and holds one that cannot be read; slots are read back. -/
theorem witness_parked_strands :
    (cellUp (restoring true (words 45 false)) 0 = true ∧ (cellAt (restoring true (words 45 false)) 0).resumed = [⟨(3 : W64) <<< 42, true, true, words 45 false⟩]) ∧
    ((gatherWords (cellAt (restoring true (words 45 false)) 0) ⟨0, true, true, words 45 false⟩).words = words 46 false ∧ (words 46 false).length = 46) ∧
    (cellAt (restoring true (words 45 false)) 0).queue.length + (cellAt (restoring true (words 45 false)) 0).inFlight < 16 ∧
    ((∀ e ∈ words 46 false, e.2 ≠ none) ∧ (∃ e ∈ words 46 true, e.2 = none) ∧ descBad on.mem (tagContext 0x1111) 0 = false) ∧
    sent (exec (.strandRestore 0) (restoring false [])) 1 = some (.recordRead 0 0x3000 0) ∧
    gives (exec (.strandRestore 0) (restoring true [])) (fun t => (cellAt t 0).room == [] && (cellAt t 0).resumed == [⟨(3 : W64) <<< 42, true, true, [(45, some 0x900007)]⟩]) = true ∧
    gives (exec (.strandRestore 0) (restoring true (words 45 false))) (fun t => (cellAt t 0).queue.map (fun f => (f.tag, f.deadline, f.flow, f.strand.map (fun g => (getG g.1 2, g.1.pc, g.2)))) == [(0x1111, 7, 9, some (55, 0x2005, true))]) = true ∧
    sent (exec (.strandRestore 0) (restoring true (words 45 true))) 1 = some (.pageRelease 3) ∧
    ((cellAt (respills 0) 0).room.find? isSlotReturn = none ∧ nextSlot (cellAt (respills 0) 0) = some (3, 0)) ∧
    gives (exec (.spillReturn 0) (respills 15)) (fun t => (cellAt t 0).inFlight == 1 && (cellAt t 0).spill == [⟨3, 1, [⟨0, 16, 0, true⟩]⟩]) = true ∧
    sent (exec (.spillReturn 0) (respills 0)) 1 = some (.slotRead 0 0x3000) ∧
    gives (exec (.spillReturn 0) (respills 16)) (fun t => decide (t = respills 16)) = true ∧
    (cellAt (comesBack 2) 0).room.find? isSlotReturn = some (.slotReturn 0 0x3000 (tok 3) 2) ∧
    gives (exec (.spillReturn 0) (comesBack 2)) (fun t => (cellAt t 0).room == [] && (cellAt t 0).spill == [] && t.tab.raised == [4] && (cellAt t 0).inFlight == 0) = true ∧
    gives (exec (.spillReturn 0) (comesBack 1)) (fun t => (cellAt t 0).spill == [] && (cellAt t 0).inFlight == 1 && (cellAt t 0).asks == [(.hold, 4)]) = true := by
  and_intros <;> decide +kernel

/-- A tally of which these elements are resolved, and the answer to element 15. -/
def tallied (done : BitVec 16) (code : BitVec 8) : State :=
  setCell on 0 { Cell.clear with tallies := [(2, some ⟨false, done, 0, [], 0x1000, 0⟩)],
                                 room := [.ackElement ⟨0, some 2, 15, 0x1000⟩ code] }
/-- A TLI that waits for its one entry, 0xFFFFFFFE. -/
def looks : State :=
  setCell on 0 { Cell.clear with engine := { Engine.idle with phase := .lookup ⟨false, 3, 0, false, false, none, none, 5⟩ },
                                 room := [.tableData 0 false (some 0xFFFFFFFE)] }
/-- A word for a host read of 4 bytes. -/
def hostRead : State :=
  put { on with host := { on.host with reads := [⟨2, 0x1004, 4, []⟩] } } 0 true (fl (.hostData 2048 0x8877665544332211 false))

/-- A TLI half way between two entries, 10 and 20, of which one has come. -/
def looks2 (first : Option (Option (BitVec 32))) (second : Bool) : State :=
  setCell on 0 { Cell.clear with engine := { Engine.idle with phase := .lookup ⟨false, 3, 0x8000, true, false, first, none, 5⟩ }
                                 room := [.tableData 0 second (some (if second then 20 else 10))] }
/-- A TLI whose entry cannot be read. -/
def looksBad : State :=
  setCell on 0 { Cell.clear with engine := { Engine.idle with phase := .lookup ⟨false, 3, 0, false, false, none, none, 5⟩, regs := rg 0 0 9 0 0 }
                                 room := [.tableData 0 false none] }
/-- A word for a host read of 8 bytes. -/
def hostRead8 : State :=
  put { on with host := { on.host with reads := [⟨2, 0x1000, 8, []⟩] } } 0 true (fl (.hostData 2048 0x8877665544332211 false))

/-- Hypotheses of ElementsAndReadDataReturn. -/
theorem witness_elements :
    cellUp (tallied 0 6) 0 = true ∧
    (cellAt (tallied 0 6) 0).room.find? isAckElement = some (.ackElement ⟨0, some 2, 15, 0x1000⟩ 6) ∧
    mget none (cellAt (tallied 0 6) 0).tallies 2 = some ⟨false, 0, 0, [], 0x1000, 0⟩ ∧
    ((0 : BitVec 16) ||| 1#16 <<< 15 ≠ 0xFFFF ∧ (0x7FFF : BitVec 16) ||| 1#16 <<< 15 = 0xFFFF) ∧
    (tileUp looks 0 = true ∧ tableCell looks 0 = some (0, .tableData 0 false (some 0xFFFFFFFE))) ∧
    ((cellAt looks 0).engine.phase = .lookup ⟨false, 3, 0, false, false, none, none, 5⟩ ∧ mwPrecise (cellAt looks 0).engine.mode = false) ∧
    heads hostRead 0 true 2 isHostData isHostData = some (.hostData 2048 0x8877665544332211 false) ∧
    (hostRead.host.reads.find? (fun r => r.number == 2) = some ⟨2, 0x1004, 4, []⟩ ∧ wordsSpanned 0x1004 4 = 1) ∧
    gives (exec (.elementAck 0) (tallied 0 6)) (fun t => (mget none (cellAt t 0).tallies 2).map (fun u => (u.resolved, u.failed, u.codes)) == some (0x8000, 0x8000, [(15, 6)])) = true ∧
    gives (exec (.elementAck 0) (tallied 0x7FFF 0)) (fun t => (mget none (cellAt t 0).tallies 2) == none) = true ∧
    gives (exec (.dataReturn 0 false) looks) (fun t => getG (regsAt t 0) 3 == 0xFFFFFFFFFFFFFFFE && (regsAt t 0).pc == 5) = true ∧
    gives (exec (.dataReturn 0 true) hostRead) (fun t => t.out == [.completion .ok [0x55, 0x66, 0x77, 0x88]] && t.host.reads == []) = true ∧
    gives (exec (.elementAck 0) (tallied 0x7FFF 6)) (fun t => (mget none (cellAt t 0).tallies 2) == none) = true ∧
    (tableCell (looks2 none false) 0 = some (0, .tableData 0 false (some 10)) ∧ tableCell (looks2 (some (some 10)) true) 0 = some (0, .tableData 0 true (some 20))) ∧
    gives (exec (.dataReturn 0 false) (looks2 none false)) (fun t => (cellAt t 0).engine.phase == .lookup ⟨false, 3, 0x8000, true, false, some (some 10), none, 5⟩) = true ∧
    gives (exec (.dataReturn 0 false) (looks2 (some (some 10)) true)) (fun t => getG (regsAt t 0) 3 == 15 && (regsAt t 0).pc == 5) = true ∧
    gives (exec (.dataReturn 0 false) looksBad) (fun t => getG (regsAt t 0) 3 == 0 && (regsAt t 0).pc == 5) = true ∧
    gives (exec (.dataReturn 0 true) hostRead8) (fun t => t.out == [.completion .ok [0x11, 0x22, 0x33, 0x44, 0x55, 0x66, 0x77, 0x88]]) = true ∧
    8 ≤ maxPayload on.host := by
  and_intros <;> decide +kernel

/-- A TAKE from a port of tile 0, 7, 56 or 63, with this on the take sides. -/
def takes (port : BitVec 8) (ws : List W64) : State :=
  put { on with streams := { on.streams with fieldIn := ws, rowTakeA := ws, shTake := ws, alarm := ws, last := [(4, 3)] } }
    (portTile port) true (fl (.take port 0x4000000400001400 9 3))
/-- A PUT to a port, with `n` words waiting there. -/
def puts (s : State) (port : BitVec 8) (n : Nat) : State :=
  put { s with streams := { s.streams with fieldOut := List.replicate n 0, shPut := List.replicate n 0 } } (portTile port) true
    (fl (.put port 0xAABB))
/-- No face is strapped on. -/
def faceless : State := { on with straps := { on.straps with host := 0, shut := 0, row := 0 } }
/-- A token to a sink reaches a tile. -/
def sinks (s : State) (t : TileId) (ctx : BitVec 14) : State :=
  put s t true (fl (.token { tok 0 with context := ctx }))
/-- `on` with Bus Master Enable. -/
def master : State := { on with host := { on.host with bme := true, linkUp := true } }

/-- Hypotheses of StreamPortsAndSinks: takes and puts, ports at their limits, faces off. -/
theorem witness_stream_ports :
    (tileUp on (portTile 0) = true ∧ tileUp on (portTile 2) = true ∧ tileUp on (portTile 4) = true ∧ tileUp on (portTile 5) = true) ∧
    (∀ p ∈ ([0, 1, 2, 3, 4, 5] : List (BitVec 8)), heads (takes p [8, 9]) (portTile p) true 1 (isPortRequest p) (isTake p) = some (.take p 0x4000000400001400 9 3)) ∧
    (takeSide (takes 4 []) 4 = [] ∧ takeSide (takes 4 [8, 9]) 4 = [8, 9] ∧ takeSide (takes 2 [8, 9]) 2 = [8, 9]) ∧
    ((takes 2 [8, 9]).rowA.answers = [] ∧ (takes 2 [8, 9]).rowB.answers = []) ∧
    (∀ p ∈ ([1, 2, 3, 4] : List (BitVec 8)), heads (puts on p 15) (portTile p) true 1 (isPortRequest p) (isPut p) = some (.put p 0xAABB)) ∧
    ((puts on 1 15).streams.fieldOut.length < 16 ∧ shutOn on.straps = true ∧ (puts on 4 127).streams.shPut.length < 128) ∧
    (shutOn faceless.straps = false ∧ rowAOn faceless.straps = false ∧ rowBOn faceless.straps = false) ∧
    gives (exec (.streamTakeRequest 4) (takes 4 [8, 9])) (fun t => t.streams.shTake == [9] && t.streams.last == [(4, 8)]) = true ∧
    gives (exec (.streamTakeRequest 2) (takes 2 [8, 9])) (fun t => t.streams.rowTakeA == [9]) = true ∧
    valueOf (left (exec (.streamTakeRequest 4) (takes 4 [])) 7 0) = some 3 ∧
    gives (exec (.streamPutRequest 1) (puts on 1 15)) (fun t => t.streams.fieldOut.length == 16) = true ∧
    gives (exec (.streamPutRequest 4) (puts faceless 4 0)) (fun t => t.stw.sinkDiscards == 1) = true ∧
    gives (exec (.streamPutRequest 1) (puts on 1 16)) (fun t => decide (t = puts on 1 16)) = true ∧
    gives (exec (.streamPutRequest 4) (puts on 4 127)) (fun t => t.streams.shPut.length == 128) = true ∧
    gives (exec (.streamPutRequest 4) (puts on 4 128)) (fun t => t.streams.shPut.length == 128) = true ∧
    gives (exec (.streamPutRequest 2) (puts faceless 2 0)) (fun t => t.stw.sinkDiscards == 1) = true := by
  and_intros <;> decide +kernel

/-- A token for the host, with this many staged. -/
def staged (n : Nat) : State := sinks { master with host := { master.host with staging := List.replicate n (tok 0) } } 0 1
/-- A token for the shuttle, with this many waiting to be framed and this many frames held. -/
def shutFull (n held : Nat) : State :=
  sinks { on with sh := { on.sh with tx := List.replicate n (tok 0), held := List.replicate held ⟨2, 1, 0, []⟩ } } 7 2
/-- A token for FIELD_OUT, with this many words waiting. -/
def fieldFull (n : Nat) : State := sinks { on with streams := { on.streams with fieldOut := List.replicate n 0 } } 63 5

/-- Tokens to the host, the shuttle, FIELD_OUT and a sink strapped off. -/
theorem witness_sinks :
    (tileUp master 0 = true ∧ hostUp master = true ∧ master.host.bme = true ∧ on.host.bme = false) ∧
    heads (sinks master 0 1) 0 true 0 (sinkOn master) (sinkOn master) = some (.token { tok 0 with context := 1 }) ∧
    (master.host.staging.length + 1) * 20 ≤ 8192 ∧
    (shuttleUp on = true ∧ heads (sinks on 7 2) 7 true 0 (sinkOn on) (sinkOn on) = some (.token { tok 0 with context := 2 })) ∧
    (selUp on = true ∧ heads (sinks on 63 5) 63 true 0 isFieldToken isFieldToken = some (.token { tok 0 with context := 5 })) ∧
    (heads (sinks faceless 56 3) 56 true 0 (sinkOff faceless) (sinkOff faceless) = some (.token { tok 0 with context := 3 }) ∧ heads (sinks faceless 0 1) 0 true 0 (sinkOff faceless) (sinkOff faceless) = some (.token { tok 0 with context := 1 })) ∧
    gives (exec (.tokenToHostSink false) (sinks master 0 1)) (fun t => t.host.staging == [{ tok 0 with context := 1 }]) = true ∧
    gives (exec (.tokenToHostSink false) (sinks on 0 1)) (fun t => t.host.discards == 1) = true ∧
    gives (exec (.tokenToShuttleSink false) (sinks on 7 2)) (fun t => t.sh.tx == [{ tok 0 with context := 2 }]) = true ∧
    gives (exec (.tokenToFieldSink false) (sinks on 63 5)) (fun t => t.streams.fieldOut == [0x1122]) = true ∧
    gives (exec (.sinkDiscard 56 false) (sinks faceless 56 3)) (fun t => t.stw.sinkDiscards == 1) = true ∧
    gives (exec (.tokenToHostSink false) (staged 408)) (fun t => t.host.staging.length == 409) = true ∧
    gives (exec (.tokenToHostSink false) (staged 409)) (fun t => t.host.staging.length == 409) = true ∧
    gives (exec (.tokenToShuttleSink false) (shutFull 3 7)) (fun t => t.sh.tx.length == 4) = true ∧
    gives (exec (.tokenToShuttleSink false) (shutFull 4 0)) (fun t => t.sh.tx.length == 4) = true ∧
    gives (exec (.tokenToShuttleSink false) (shutFull 0 8)) (fun t => t.sh.tx.length == 0) = true ∧
    gives (exec (.tokenToFieldSink false) (fieldFull 15)) (fun t => t.streams.fieldOut.length == 16) = true ∧
    gives (exec (.tokenToFieldSink false) (fieldFull 16)) (fun t => t.streams.fieldOut.length == 16) = true := by
  and_intros <;> decide +kernel

/-- A flit for tile 2 stands at tile 0's local port, with another behind it. -/
def routed : State :=
  let f := { mkFlit on 0 2 .strand (.read 0x100000 (.load ask8) 0) with age := 62 }
  { on with weave := { on.weave with chans := [(chanKey 0 4 1 0, [f, { f with age := 63 }])], owed := [(chanKey 0 1 1 0, 1)] } }
/-- A flit that came in at tile 0's port 1 and goes on. -/
def passing : State :=
  let f := { mkFlit on 63 2 .strand (.read 0x100000 (.load ask8) 0) with age := 3, src := 7 }
  { on with weave := { on.weave with chans := [(chanKey 0 1 1 0, [f])] } }

/-- A flit that came in at tile 0's port 1 and has reached its tile. -/
def homing : State :=
  let f := { mkFlit on 63 2 .strand (.iread { ird with addr := 0x1000 }) with age := 3, src := 7 }
  { on with weave := { on.weave with chans := [(chanKey 0 1 1 0, [f])] } }
/-- `passing` with no credit left where the flit goes. -/
def stuck : State := { passing with weave := { passing.weave with owed := [(chanKey 1 1 1 0, 2)] } }

/-- Hypotheses of RoutersMoveFlits: an injected flit, one that passes, a credit, and a slot's AGE at 62 and 63. -/
theorem witness_routers :
    tileUp routed 0 = true ∧
    (chosen routed 0 0).map (fun x => x.2.age) = some 62 ∧
    ((chosen passing 0 0).map (fun x => x.1) = some 10 ∧ lockQuad 0 = none) ∧
    mget 0 routed.weave.owed (chanKey 0 1 1 0) ≠ 0 ∧
    (chanAt routed.weave (chanKey 0 4 1 0)).length = 2 ∧
    gives (exec (.flitForward 0 0 0) passing) (fun t => (chanAt t.weave (chanKey 1 1 1 0)).map (·.age) == [3] && mget 0 t.weave.owed (chanKey 0 1 1 0) == 1) = true ∧
    gives (exec (.creditReturn 0 1 1 0) routed) (fun t => t.weave.owed == []) = true ∧
    gives (exec (.ageIncrement 0 4 1 0 false) routed) (fun t => (chanAt t.weave (chanKey 0 4 1 0)).map (·.age) == [63, 63]) = true ∧
    gives (exec (.ageIncrement 0 4 1 0 true) routed) (fun t => (chanAt t.weave (chanKey 0 4 1 0)).map (·.age) == [62, 63]) = true ∧
    ((chosen homing 0 4).map (fun x => x.1) = some 10 ∧ lockQuad 0 = none) ∧
    gives (exec (.flitForward 0 4 0) homing) (fun t => (outAt t.weave (outKey 0 false 1)).map (·.age) == [3] && chanAt t.weave (chanKey 0 1 1 0) == []) = true ∧
    (Machine.heads stuck.weave 0 0 0 ≠ [] ∧ chosen stuck 0 0 = none) ∧
    gives (exec (.flitForward 0 0 0) stuck) (fun t => decide (t = stuck)) = true := by
  and_intros <;> decide +kernel

/-- Quadrant 0's lock unit with flow 9 held by context 16 in slot 1, and a message. -/
def locks (w : LockWork) (m : Msg) : State := pages { LockUnit.clear with slots := [(1, some ⟨9, 16⟩)], work := w } m
/-- Every slot is held. -/
def slotsHeld : State :=
  pages { LockUnit.clear with slots := (List.range 64).map fun i => (i, some ⟨BitVec.ofNat 12 (i + 100), 17⟩) } (.acquire 0 16 9 0 9 3)
/-- A strand of context 16 and flow 8 under HOME flow runs in cell 0. -/
def holds : State :=
  let s := setEngine on 0 { Engine.idle with phase := .running, mode := 0x8000000000000000, flow := 8 }
  { s with locks := { s.locks with owed := [(0, [(0, ⟨8, 17⟩)])], mirror := [(0, [(1, ⟨8, 17⟩)])] } }
/-- The same with no strand. -/
def free : State := { on with locks := holds.locks }

/-- The message that a command has put into tile 27's local port. -/
def sent27 (o : Host.Outcome State Fault Refusal) : Option Msg :=
  match o with
  | .next t => (chanAt t.weave (chanKey 27 4 0 0)).head?.map (·.msg)
  | _ => none

/-- Hypotheses of FlowLocks at the unit. -/
theorem witness_flow_locks :
    tileUp on (lockTile 0) = true ∧
    heads (locks .none (.acquire 0 16 9 0 9 3)) 27 false 1 isLockRequest isAcquire = some (.acquire 0 16 9 0 9 3) ∧
    (slotOfFlow (unitAt (locks .none (.release 0 16 9)).locks 0) 9 = some (1, ⟨9, 16⟩) ∧ slotOfFlow (unitAt (locks .none (.release 0 16 9)).locks 0) 8 = none) ∧
    freeSlot (unitAt (locks .none (.release 0 16 9)).locks 0) = some 0 ∧
    (slotOfFlow (unitAt slotsHeld.locks 0) 9 = none ∧ freeSlot (unitAt slotsHeld.locks 0) = none) ∧
    heads (locks .none (.release 0 16 9)) 27 false 1 isLockRequest isRelease = some (.release 0 16 9) ∧
    heads (locks (.granting 0 0 9 3 2 63) (.ackLock 0)) 27 false 2 isAckLock isAckLock = some (.ackLock 0) ∧
    (unitAt (locks (.granting 0 0 9 3 2 63) (.ackLock 0)).locks 0).work = .granting 0 0 9 3 2 63 ∧
    gives (exec (.lockAcquireRequest 0) (locks .none (.acquire 0 17 9 0 9 3))) (fun t => (unitAt t.locks 0).refused == 1) = true ∧
    gives (exec (.lockAcquireRequest 0) slotsHeld) (fun t => (unitAt t.locks 0).refused == 1) = true ∧
    gives (exec (.lockAcquireRequest 0) (locks .none (.acquire 0 17 8 5 9 3))) (fun t => (unitAt t.locks 0).work == .granting 0 5 9 3 2 0 && mget none (unitAt t.locks 0).slots 0 == some ⟨8, 17⟩) = true ∧
    gives (exec (.lockAckReceive 0) (locks (.granting 0 0 9 3 2 63) (.ackLock 0))) (fun t => (unitAt t.locks 0).work == .none) = true ∧
    gives (exec (.lockAckReceive 0) (locks (.granting 0 0 9 3 2 62) (.ackLock 0))) (fun t => (unitAt t.locks 0).work == .granting 0 0 9 3 2 63) = true ∧
    gives (exec (.lockReleaseRequest 0) (locks .none (.release 0 16 9))) (fun t => (unitAt t.locks 0).work == .releasing 1) = true ∧
    gives (exec (.lockReleaseRequest 0) (locks .none (.release 0 17 9))) (fun t => (unitAt t.locks 0).work == .none) = true ∧
    gives (exec (.lockAcquireRequest 0) (locks (.releasing 3) (.acquire 0 17 8 5 9 3))) (fun t => decide (t = locks (.releasing 3) (.acquire 0 17 8 5 9 3))) = true ∧
    gives (exec (.lockReleaseRequest 0) (locks (.releasing 3) (.release 0 16 9))) (fun t => decide (t = locks (.releasing 3) (.release 0 16 9))) = true ∧
    (match sent27 (exec (.lockAcquireRequest 0) (locks .none (.acquire 0 16 9 0 9 3))) with | some (.token t) => t.flags == 0 | _ => false) = true := by
  and_intros <;> decide +kernel

/-- Hypotheses of FlowLocks at a tile. -/
theorem witness_lock_notices :
    heads (put on 0 false (mkNotice 27 0 (.lock 0 1 8 17))) 0 false 3 isMirrorNotice isLock = some (.lock 0 1 8 17) ∧
    heads (put free 0 false (mkNotice 27 0 (.unlock 0 1))) 0 false 3 isMirrorNotice isUnlock = some (.unlock 0 1) ∧
    (mget [] holds.locks.owed 0).find? (fun o => o.1 == 0) = some (0, ⟨8, 17⟩) ∧
    heads (put on 0 false (mkNotice 63 0 (.iterBase 16 4))) 0 false 3 isIterBase isIterBase = some (.iterBase 16 4) ∧
    (∀ i : BitVec 2, runsBlocked free 0 ⟨8, 17⟩ (cellOf 0 i) = false) ∧
    gives (exec (.lockNotice 0) (put on 0 false (mkNotice 27 0 (.lock 0 1 8 17)))) (fun t => mirrorAt t.locks 0 == [(1, ⟨8, 17⟩)] && t.locks.owed == [(0, [(0, ⟨8, 17⟩)])]) = true ∧
    gives (exec (.unlockNotice 0) (put free 0 false (mkNotice 27 0 (.unlock 0 1)))) (fun t => mirrorAt t.locks 0 == []) = true ∧
    sent (exec (.lockNoticeAck 0 0) free) 2 = some (.ackLock 0) ∧
    gives (exec (.iterBaseNotice 0) (put on 0 false (mkNotice 63 0 (.iterBase 16 4)))) (fun t => (cellAt t 3).bases == [(16, some 4)]) = true ∧
    gives (exec (.lockNoticeAck 0 0) holds) (fun t => decide (t = holds)) = true ∧
    eccAt on.mem (descAddr 16) = .ok := by
  and_intros <;> decide +kernel

/-- A strand that the lock blocks runs: the acknowledgement waits. -/
theorem witness_lock_blocks :
    (∃ i : BitVec 2, runsBlocked holds 0 ⟨8, 17⟩ (cellOf 0 i) = true) :=
  ⟨0, by decide⟩

/-- A request of the host has reached the steward's inbox. -/
def ask (s : State) (code : BitVec 12) (cell : BitVec 8) (v : W64) : State :=
  { s with stw := { s.stw with inbox :=
      [({ tok 3 with context := 0, iteration := 77, iaddr := 0, flow := code, cell := cell, value := v }, .host, 90)] } }

/-- The first word of the answer that leaves tile 63. -/
def answers (o : Host.Outcome State Fault Refusal) : Option W64 := valueOf (left o 63 3)

/-- Hypotheses of the first clause of BeatsAdmissionAndGuard, after progress and with a trigger. -/
theorem witness_beat_boundary :
    graph.pwr.clkok = true ∧ halted graph = false ∧
    (∀ d, (cellAt on d).refusing = []) ∧
    on.tab.held = none ∧
    gives (exec .beatBoundary { on with time := { on.time with progress := true, stale := 5 }, tab := { on.tab with raised := [2] } }) (fun t => t.time.beat == 101 && t.time.stale == 0 && t.tab.due == [2] && !t.time.progress) = true :=
  ⟨by decide, by decide, fun _ => rfl, by decide, by decide⟩

/-- Events wait: a field word stamped at 98, a notice at 97 and a token at 97. -/
def waiting : State :=
  let e : OutEvent := ⟨98, 2, 0, false, .fieldWord 7⟩
  let g : OutEvent := ⟨97, 1, 0, false, .notice 0x081 5⟩
  { graph with time := { graph.time with held := [e, ⟨97, 5, 0, true, .shuttle (tok 0)⟩, g, ⟨100, 1, 0, false, .notice 1 1⟩] } }
/-- One event waits. -/
def event (n : Nat) (k : OutKind) : State :=
  { graph with time := { graph.time with held := [⟨97, 5, 0, true, k⟩], steadyAt := 50 },
               streams := { graph.streams with fieldIn := List.replicate n 3 } }

/-- A port's two stages of a network are full, so that a token or a notice of `event` finds no room there. -/
def noRoom (t : TileId) (vn : BitVec 2) (s : State) : State :=
  { s with weave := { s.weave with owed := [(chanKey t 5 vn 0, 2), (chanKey t 5 vn 1, 2)] } }
/-- Hypotheses of the second clause: rank before arrival; the queue of field words at 31 and 32. -/
theorem witness_admission :
    (nextEvent waiting).map (·.rank) = some 1 ∧
    (admitting (event 0 (.fieldWord 7)) = true ∧ (event 0 (.fieldWord 7)).time.beat ≠ (event 0 (.fieldWord 7)).time.steadyAt) ∧
    ((nextEvent (event 0 (.shuttle (tok 0)))).isSome = true ∧ kindOf (tok 0).flags ≠ 1 ∧ graph.stw.started = true) ∧
    (portRoom graph 7 true 0 = true ∧ portRoom graph 63 true 3 = true ∧ portRoom graph 63 true 0 = true) ∧
    gives (exec .admitEvent (event 31 (.fieldWord 7))) (fun t => t.streams.fieldIn.length == 32 && t.sel.overruns == 0) = true ∧
    gives (exec .admitEvent (event 32 (.fieldWord 7))) (fun t => t.streams.fieldIn.length == 32 && t.sel.overruns == 1) = true ∧
    gives (exec .admitEvent (event 0 (.shuttle (tok 0)))) (fun t => (chanAt t.weave (chanKey 7 5 0 0)).map (fun f => (f.admitted, f.msg)) == [(100, .token { tok 0 with flags := 2 })] && t.sh.u == 1) = true ∧
    gives (exec .admitEvent (event 0 (.notice 0x081 5))) (fun t => t.stw.noticeSerial == 1 && t.time.held == []) = true ∧
    (portRoom (noRoom 7 0 (event 0 (.shuttle (tok 0)))) 7 true 0 = false ∧ portRoom (noRoom 63 0 (event 0 (.notice 0x081 5))) 63 true 0 = false) ∧
    gives (exec .admitEvent (noRoom 7 0 (event 0 (.shuttle (tok 0))))) (fun t => t.time.held.length == 1 && t.sh.u == 0) = true ∧
    gives (exec .admitEvent { (event 0 (.notice 0x081 5)) with stw := { graph.stw with started := false } }) (fun t => t.time.held == [] && t.stw.noticeSerial == 0) = true := by
  and_intros <;> decide +kernel

/-- A token whose deadline lies this many beats before beat 0x100064. -/
def old (n : BitVec 20) : Token := { tok 0 with deadline := 100 - n }
/-- Tokens and firings at both sides of the guard's bound. -/
def guarded : State :=
  let f : Firing := ⟨none, none, none, 0, 100 - 0x40000, 0, 0, .ok, none⟩
  setCell { on with time := { on.time with beat := 0x100064 }, host := { on.host with staging := [old 0x40000, old 0x40001] },
                    sh := { on.sh with tx := [old 0x40001] }, stw := { on.stw with inbox := [(old 0x40001, .host, 0)] } } 0
    { Cell.clear with queue := [f, { f with deadline := 100 - 0x40001 }] }

/-- The packet of one far token that waits to be written, or a dump's with the same bytes. -/
def packed (dump : Bool) : State :=
  { guarded with host := { guarded.host with packet := some ⟨dump, List.replicate 16 0 ++ tokenBytes (old 0x40001), 0, false, false, false⟩ } }

/-- Hypotheses of the third clause, at 2^18 beats and one more. -/
theorem witness_guard :
    (guarded.pwr.clkok = true ∧ halted guarded = false) ∧
    gives (exec (.deadlineGuardVisit .hostStaging) guarded) (fun t => t.host.staging == [old 0x40000, { old 0x40000 with flags := 2 }]) = true ∧
    gives (exec (.deadlineGuardVisit .shuttleTx) guarded) (fun t => t.sh.tx == [{ old 0x40000 with flags := 2 }]) = true ∧
    gives (exec (.deadlineGuardVisit .inbox) guarded) (fun t => t.stw.inbox.map (·.1) == [{ old 0x40000 with flags := 2 }]) = true ∧
    gives (exec (.deadlineGuardVisit (.queue 0)) guarded) (fun t => (cellAt t 0).queue.map (·.deadline) == [100 - 0x40000, 100 - 0x40000]) = true ∧
    gives (exec (.deadlineGuardVisit (.spillPage 5)) guarded) (fun t => t.mem == guarded.mem) = true ∧
    gives (exec (.deadlineGuardVisit .hostStaging) (packed false)) (fun t => t.host.packet.map (·.bytes) == some (List.replicate 16 0 ++ tokenBytes { old 0x40000 with flags := 2 })) = true ∧
    gives (exec (.deadlineGuardVisit .hostStaging) (packed true)) (fun t => t.host.packet == (packed true).host.packet) = true := by
  and_intros <;> decide +kernel

/-- An alarm block at 0x10000: target 50, this period, no tag; and the request for it in slot 3. -/
def alarmBlock (period : W64) (absolute : Bool) : State :=
  ask { on with mem := writeWord (writeWord on.mem 0x10000 50) 0x10008 period } 0x010 (if absolute then 11 else 3) 0x10000
/-- Slot 3, set at beat 40, has fallen due at beat 90, `p` pending. -/
def dueAlarm (period : BitVec 48) (p : Option PendingAlarm) : State :=
  { on with time := { on.time with alarmSpace := 1, alarms := [(3, ⟨true, 40, 90, period, 0, p⟩)] } }
/-- Slot 3 of a state. -/
def slot3 (s : State) : Alarm := mget Alarm.clear s.time.alarms 3

/-- The alarm's tag word has a reserved bit set. -/
def alarmOdd : State :=
  ask { on with mem := writeWord (writeWord on.mem 0x10000 50) 0x10010 1 } 0x010 3 0x10000
/-- Hypotheses of AlarmsFallDueAndAreAdmitted: absolute and relative targets, one that cancels, due alarms, a kept
one. -/
theorem witness_alarms :
    Asks (ask { on with mem := writeWord (writeWord on.mem 0x10000 50) 0x10008 9 } 0x010 11 0x10000) 0x010 11 0x10000 ⟨77, 0x010, .host, 0⟩ ∧
    (alarmBlock 9 true).stw.inbox.head?.map (fun x => x.2.2) = some 90 ∧
    ((11 : BitVec 8).extractLsb' 4 4 = 0 ∧ paramAddress 0x10000 3 = true ∧ blockPlain (alarmBlock 9 true).mem 0x10000 3 = true) ∧
    ((wordAt (alarmBlock 9 true).mem 0x10000).extractLsb' 48 16 = 0 ∧ (wordAt (alarmBlock 9 true).mem 0x10008).extractLsb' 48 16 = 0 ∧ (wordAt (alarmBlock 9 true).mem 0x10010).extractLsb' 0 10 = 0) ∧
    gives (exec .alarmSet (alarmBlock 9 true)) (fun t => slot3 t == ⟨true, 100, 50, 9, 0, none⟩) = true ∧
    gives (exec .alarmSet (alarmBlock 0 false)) (fun t => slot3 t == ⟨true, 100, 140, 0, 0, none⟩) = true ∧
    gives (exec .alarmSet (alarmBlock 0 true)) (fun t => !(slot3 t).set) = true ∧
    answers (exec .alarmSet (alarmBlock 9 true)) = some 0 ∧
    ((dueAlarm 9 none).pwr.phase = .run ∧ (slot3 (dueAlarm 9 none)).set = true ∧ ((dueAlarm 9 none).time.beat - (slot3 (dueAlarm 9 none)).target).toNat < 2 ^ 47) ∧
    gives (exec (.alarmDue 3) (dueAlarm 9 none)) (fun t => slot3 t == ⟨true, 90, 99, 9, 0, some ⟨90, 0, 0⟩⟩ && t.time.held.length == 1) = true ∧
    gives (exec (.alarmDue 3) (dueAlarm 0 (some ⟨90, 255, 0⟩))) (fun t => slot3 t == ⟨false, 90, 90, 0, 0, some ⟨90, 255, 0⟩⟩ && t.time.held == []) = true ∧
    (admitting (dueAlarm 9 (some ⟨90, 2, 0⟩)) = true ∧ waitingSlots (dueAlarm 9 (some ⟨90, 2, 0⟩)) = [(3, ⟨90, 2, 0⟩)]) ∧
    gives (exec .alarmPendingAdmit (dueAlarm 9 (some ⟨90, 2, 0⟩))) (fun t => t.streams.alarm == [0x030200000000005A] && (slot3 t).pend == none) = true ∧
    (alarmOdd.stw.inbox.head?.map (fun x => x.2.2) = some 90 ∧ (wordAt alarmOdd.mem 0x10010).extractLsb' 0 10 ≠ 0) ∧
    faults (exec .alarmSet alarmOdd) 23 = true ∧
    gives (exec .alarmPendingAdmit { (dueAlarm 9 (some ⟨90, 2, 0⟩)) with streams := { on.streams with alarm := List.replicate 8 0 } }) (fun t => (slot3 t).pend.isSome) = true ∧
    gives (exec .alarmPendingAdmit (let s := dueAlarm 9 (some ⟨90, 2, 0⟩); { s with time := { s.time with alarmSpace := 0 } })) (fun t => (slot3 t).pend.isSome && t.streams.alarm == []) = true := by
  and_intros <;> first | exact ⟨_, _, _, rfl, rfl, rfl, rfl, rfl, rfl⟩ | decide +kernel

/-- No word of the block shows an error. -/
theorem witness_alarm_block_readable :
    (∀ x, eccAt (alarmBlock 9 true).mem x = .ok) :=
  fun _ => rfl

/-- A trigger is to be latched; or a freeze is on; or a dump has handed over the whole of its 2 bytes. -/
def due1 : State := { on with tab := { on.tab with due := [2], ignored := 3 } }
/-- See `due1`. -/
def frozen : State := { on with tab := { on.tab with frozen := true, held := some [1, 2] } }
/-- See `due1`. -/
def dumped : State := { on with tab := { on.tab with held := some [1, 2], dump := some ⟨2, 2, none⟩ } }
/-- A snapshot is held; or more triggers are ignored while the device is halted. -/
def snapshot : State := { on with tab := { on.tab with held := some [1, 2] } }

/-- The row ports are up and `snapshot` is held. -/
def rowed : State := { snapshot with rowA := { on.rowA with phyUp := true }, rowB := { on.rowB with phyUp := true } }
/-- Hypotheses of TableauTriggersFreezesAndDumps. -/
theorem witness_tableau :
    Asks (ask on 0x007 0 0) 0x007 0 0 ⟨77, 0x007, .host, 0⟩ ∧
    Asks (ask snapshot 0x008 1 0) 0x008 1 0 ⟨77, 0x008, .host, 0⟩ ∧
    Asks (ask dumped 0x008 4 0) 0x008 4 0 ⟨77, 0x008, .host, 0⟩ ∧
    Asks (ask faceless 0x008 4 0) 0x008 4 0 ⟨77, 0x008, .host, 0⟩ ∧
    (on.pwr.clkok = true ∧ halted on = false ∧ State.reset.pwr.clkok = false) ∧
    (powered on 1 = true ∧ due1.tab.frozen = false ∧ due1.tab.due ≠ []) ∧
    frozen.tab.frozen = true ∧
    (dumped.tab.dump = some ⟨2, 2, none⟩ ∧ dumped.tab.held = some [1, 2] ∧ halted dumped = false) ∧
    (dumpSinkOn on.straps 1 = true ∧ dumpSinkOn on.straps 4 = true ∧ dumpSinkOn faceless.straps 4 = false) ∧
    gives (exec .tableauNAssert State.reset) (fun t => t.time.held == []) = true ∧
    gives (exec .tableauNAssert on) (fun t => t.time.held.length == 1) = true ∧
    gives (exec .tableauRequest (ask on 0x007 0 0)) (fun t => t.tab.raised == [2] && t.stw.inbox == [] && t.stw.tableau.length == 1) = true ∧
    gives (exec .tableauDumpComplete dumped) (fun t => t.tab.held == none && t.tab.dump == none && t.tab.dumps == 1) = true ∧
    gives (exec .tableauDump (ask snapshot 0x008 1 0)) (fun t => t.tab.dump.isSome) = true ∧
    answers (exec .tableauDump (ask on 0x008 1 0)) = some 0x0E ∧
    answers (exec .tableauDump (ask faceless 0x008 4 0)) = some 0x0D ∧
    gives (exec .tableauDump (ask dumped 0x008 4 0)) (fun t => t.stw.dumps.length == 1 && t.tab.dump == some ⟨2, 2, none⟩) = true ∧
    (halted frozen = true ∧ frozen.pwr.clkok = true) ∧
    gives (exec .tableauNAssert frozen) (fun t => t.tab.ignored == 1 && t.tab.ignoredTotal == 1) = true ∧
    Asks (ask rowed 0x008 3 0) 0x008 3 0 ⟨77, 0x008, .host, 0⟩ ∧
    (graceGone (rowAt (ask rowed 0x008 3 0) .a) = false ∧ graceGone (rowAt (ask rowed 0x008 4 0) .b) = false) ∧
    gives (exec .tableauDump (ask rowed 0x008 3 0)) (fun t => t.tab.dump.isSome && t.rowA.own.length == 1) = true ∧
    gives (exec .tableauDump (ask rowed 0x008 4 0)) (fun t => t.tab.dump.isSome && t.rowB.own.length == 1) = true := by
  and_intros <;> first | exact ⟨_, _, _, rfl, rfl, rfl, rfl, rfl, rfl⟩ | decide +kernel

/-- A freeze and its end. -/
theorem witness_tableau_freeze :
    NoneRefused frozen ∧
    (∃ t, exec .tableauFreeze due1 = .next t) ∧
    (∃ t, exec .tableauFreezeEnd frozen = .next t) :=
  ⟨fun _ => rfl, ⟨_, rfl⟩, ⟨_, rfl⟩⟩

/-- A PROBE_SET block at 0x10000 for a tile, and its request for probe 0; or a PROBE_DUMP. -/
def probing (w : W64) : State := ask { on with mem := writeWord on.mem 0x10000 w } 0x005 0 0x10000
/-- Probe 0 is enabled and has two records. -/
def probed : State :=
  { on with weave := { on.weave with probes := [(0, { Probe.idle with params := some (probeOf [1, 0, 0, 0, 0]), trace := [8, 9] })] } }

/-- A request of the same face, taken first, awaits its answer. -/
def earlier : State := { on with stw := { on.stw with taken := 1, attach := some ⟨70, 9, .host, 0⟩ } }
/-- Hypotheses of RequestsThatReport, at the ends of the ranges. -/
theorem witness_reports :
    Asks (ask on 0x003 0 0) 0x003 0 0 ⟨77, 0x003, .host, 0⟩ ∧
    Asks (ask on 0x003 1 0) 0x003 1 0 ⟨77, 0x003, .host, 0⟩ ∧
    Asks (ask on 0x00E 0 0) 0x00E 0 0 ⟨77, 0x00E, .host, 0⟩ ∧
    Asks (ask on 0x00E 0 1) 0x00E 0 1 ⟨77, 0x00E, .host, 0⟩ ∧
    Asks (ask on 0x012 0 0) 0x012 0 0 ⟨77, 0x012, .host, 0⟩ ∧
    Asks (ask on 0 0 0) 0 0 0 ⟨77, 0, .host, 0⟩ ∧
    Asks (ask on 0x004 14 0) 0x004 14 0 ⟨77, 0x004, .host, 0⟩ ∧
    Asks (ask on 0x004 15 0) 0x004 15 0 ⟨77, 0x004, .host, 0⟩ ∧
    Asks (ask { on with mem := writeWord on.mem 0x10000 1 } 0x005 0 0x10000) 0x005 0 0x10000 ⟨77, 0x005, .host, 0⟩ ∧
    Asks (ask probed 0x006 0 0) 0x006 0 0 ⟨77, 0x006, .host, 0⟩ ∧
    Asks (ask on 0x006 31 0) 0x006 31 0 ⟨77, 0x006, .host, 0⟩ ∧
    Asks (ask on 0x006 32 0) 0x006 32 0 ⟨77, 0x006, .host, 0⟩ ∧
    (paramAddress 0x10000 5 = true ∧ blockPlain (writeWord on.mem 0x10000 1) 0x10000 5 = true) ∧
    (probeBad 0 [1, 0, 0, 0, 0] = false ∧ probeBad 0 [0xC01, 0, 0, 0, 0] = true) ∧
    (probeEnabled (mget Probe.idle probed.weave.probes 0) = true ∧ probeEnabled (mget Probe.idle on.weave.probes 31) = false) ∧
    gives (exec .describe (ask on 0x003 0 0)) (fun _ => true) = true ∧
    answers (exec .describe (ask on 0x003 1 0)) = some 0x0D ∧
    answers (exec .energyQuery (ask on 0x00E 0 0)) = some 0x100 ∧
    answers (exec .energyQuery (ask on 0x00E 0 1)) = some 0x0D ∧
    answers (exec .reservedSystemCode (ask on 0x012 0 0)) = some 0x0C ∧
    answers (exec .reservedSystemCode (ask on 0 0 0)) = some 0x0C ∧
    gives (exec .counters (ask on 0x004 14 0)) (fun t => t.stw.counters.map (·.2) == [14]) = true ∧
    answers (exec .counters (ask on 0x004 15 0)) = some 0x0D ∧
    gives (exec .probeSet (probing 1)) (fun t => (mget Probe.idle t.weave.probes 0).next == some (probeOf [1, 0, 0, 0, 0])) = true ∧
    answers (exec .probeSet (probing 0xC01)) = some 0x0D ∧
    answers (exec .probeDump (ask probed 0x006 0 0)) = some 0x200 ∧
    gives (exec .probeDump (ask probed 0x006 0 0)) (fun t => (mget Probe.idle t.weave.probes 0).trace == []) = true ∧
    answers (exec .probeDump (ask on 0x006 31 0)) = some 0 ∧
    answers (exec .probeDump (ask on 0x006 32 0)) = some 0x0D ∧
    (on.stw.ready = [] ∧ openRequests on = [] ∧ openRequests earlier = [⟨70, 9, .host, 0⟩]) ∧
    gives (exec .energyQuery (ask earlier 0x00E 0 0)) (fun t => t.stw.ready.map (·.1) == [1]) = true ∧
    left (exec .energyQuery (ask earlier 0x00E 0 0)) 63 3 = none ∧
    blockPlain (setPres on.mem 0x10020 1) 0x10000 5 = false ∧
    faults (exec .probeSet (ask { on with mem := setPres on.mem 0x10020 1 } 0x005 0 0x10000)) 146 = true := by
  and_intros <;> first | exact ⟨_, _, _, rfl, rfl, rfl, rfl, rfl, rfl⟩ | decide +kernel

/-- No word of the block shows an error. -/
theorem witness_probe_block_readable :
    (∀ x, eccAt (probing 1).mem x = .ok) :=
  fun _ => rfl

/-- The field link is up, and its last good frame shows this state. -/
def linked (st : BitVec 2) : State :=
  { on with sel := { on.sel with linkUp := true, last := some ⟨0, [], 0, 0, st, 0, 0, 0, false, false, 0, 0, 0, 0, 0⟩ } }
/-- A strand of cell 5 is parked. -/
def parkedId : W64 := (3 : W64) <<< 42 ||| (5 : W64) <<< 20
/-- See `parkedId`. -/
def parked : State := { on with stw := { on.stw with parked := [⟨parkedId, false⟩] } }
/-- A strand parked whose record was stored to since the last load of it. -/
def unsettled : State := { on with stw := { on.stw with parked := [⟨parkedId, true⟩] } }
/-- A read of the host through entry 15's window is under way. -/
def windowed : State :=
  { on with host := { on.host with inb := [(15, 0x9000000000400000)], reads := [⟨0, 0x400008, 8, []⟩] } }
/-- A FIELD_RELEASE has waited for this many frames. -/
def released (n : Nat) : State := { (linked 1) with stw := { on.stw with release := [(⟨77, 0x00D, .host, 0⟩, n)] } }

/-- Hypotheses of RequestsThatSetAndAct, at the ends of the ranges. -/
theorem witness_acting_requests :
    Asks (ask on 0x00B 16 0) 0x00B 16 0 ⟨77, 0x00B, .host, 0⟩ ∧
    Asks (ask on 0x00B 15 0x9000000000400000) 0x00B 15 0x9000000000400000 ⟨77, 0x00B, .host, 0⟩ ∧
    Asks (ask on 0x00C 16 0) 0x00C 16 0 ⟨77, 0x00C, .host, 0⟩ ∧
    Asks (ask on 0x00C 15 43) 0x00C 15 43 ⟨77, 0x00C, .host, 0⟩ ∧
    Asks (ask on 0x00F 3 0) 0x00F 3 0 ⟨77, 0x00F, .host, 0⟩ ∧
    Asks (ask on 0x00F 2 0) 0x00F 2 0 ⟨77, 0x00F, .host, 0⟩ ∧
    Asks (ask parked 0x011 2 0) 0x011 2 0 ⟨77, 0x011, .host, 0⟩ ∧
    Asks (ask on 0x011 0 parkedId) 0x011 0 parkedId ⟨77, 0x011, .host, 0⟩ ∧
    Asks (ask parked 0x011 1 parkedId) 0x011 1 parkedId ⟨77, 0x011, .host, 0⟩ ∧
    Asks (ask on 0x00D 1 0) 0x00D 1 0 ⟨77, 0x00D, .host, 0⟩ ∧
    Asks (ask on 0x00D 0 0) 0x00D 0 0 ⟨77, 0x00D, .host, 0⟩ ∧
    Asks (ask (linked 2) 0x00D 0 0) 0x00D 0 0 ⟨77, 0x00D, .host, 0⟩ ∧
    Asks (ask (linked 1) 0x00D 0 0) 0x00D 0 0 ⟨77, 0x00D, .host, 0⟩ ∧
    (xlateInBad 0x9000000000400000 = false ∧ hostUp on = true ∧ inbInUse on (mget 0 on.host.inb 15) = false) ∧
    ((43 : W64).extractLsb' 6 5 = 0 ∧ outbInUse on.host 15 = false) ∧
    (on.pwr.grace = false ∧ on.pwr.sleepReq = none) ∧
    parked.stw.parked.find? (fun p => sameTrap parkedId p.trapId) = some ⟨parkedId, false⟩ ∧
    (selUp (linked 1) = true ∧ stewardUp (released 17) = true ∧ selUp on = true ∧ on.sel.linkUp = false) ∧
    answers (exec .xlateIn (ask on 0x00B 16 0)) = some 0x0D ∧
    gives (exec .xlateIn (ask on 0x00B 15 0x9000000000400000)) (fun t => t.host.inb == [(15, 0x9000000000400000)]) = true ∧
    gives (exec .xlateOut (ask on 0x00C 15 43)) (fun t => t.host.outb == [(15, 43)]) = true ∧
    answers (exec .sleep (ask on 0x00F 3 0)) = some 0x0D ∧
    gives (exec .sleep (ask on 0x00F 2 0)) (fun t => t.pwr.sleepReq == some .tending) = true ∧
    answers (exec .resume (ask on 0x011 0 parkedId)) = some 0x0D ∧
    gives (exec .resume (ask parked 0x011 1 parkedId)) (fun t => (cellAt t 5).resumed == [⟨parkedId, true, false, []⟩] && t.stw.parked == []) = true ∧
    answers (exec .fieldRelease (ask on 0x00D 1 0)) = some 0x0D ∧
    answers (exec .fieldRelease (ask on 0x00D 0 0)) = some 0x0E ∧
    answers (exec .fieldRelease (ask (linked 2) 0x00D 0 0)) = some 0 ∧
    gives (exec .fieldRelease (ask (linked 1) 0x00D 0 0)) (fun t => t.sel.relLeft == 4 && t.stw.release.length == 1) = true ∧
    gives (exec .fieldReleaseTimeout (released 17)) (fun t => t.stw.release == []) = true ∧
    answers (exec .fieldReleaseTimeout (released 17)) = some 0x0E ∧
    Asks (ask windowed 0x00B 15 0x9000000000400000) 0x00B 15 0x9000000000400000 ⟨77, 0x00B, .host, 0⟩ ∧
    inbInUse (ask windowed 0x00B 15 0x9000000000400000) (mget 0 windowed.host.inb 15) = true ∧
    faults (exec .xlateIn (ask windowed 0x00B 15 0x9000000000400000)) 454 = true ∧
    answers (exec .xlateOut (ask on 0x00C 16 0)) = some 0x0D ∧
    gives (exec .sleep (ask { on with pwr := { on.pwr with grace := true } } 0x00F 1 0)) (fun t => t.pwr.graceSleep == some .hibernate && t.pwr.sleepReq == none) = true ∧
    gives (exec .sleep (ask on 0x00F 0 0)) (fun t => t.pwr.sleepReq == some .standby) = true ∧
    (recordUnsettled (ask parked 0x011 1 parkedId) ⟨parkedId, false⟩ = false ∧ recordUnsettled (ask unsettled 0x011 1 parkedId) ⟨parkedId, true⟩ = true) ∧
    faults (exec .resume (ask unsettled 0x011 1 parkedId)) 284 = true ∧
    answers (exec .resume (ask parked 0x011 2 parkedId)) = some 0x0D := by
  and_intros <;> first | exact ⟨_, _, _, rfl, rfl, rfl, rfl, rfl, rfl⟩ | decide +kernel

/-- No entry overlaps an empty one, and none is parked on a device that parked none. -/
theorem witness_xlate_overlap :
    (∀ j, j < 16 → j ≠ 15 → overlap 0x9000000000400000 (mget 0 on.host.inb j) = false) ∧
    (∀ p ∈ on.stw.parked, sameTrap parkedId p.trapId = false) ∧
    (∃ x ∈ (released 17).stw.release, 16 < x.2) :=
  ⟨fun j _ _ => by rw [show on.host.inb = [] from rfl]; simp [mget, overlap], fun _ h => by simp [show on.stw.parked = [] from rfl] at h,
    ⟨(⟨77, 0x00D, .host, 0⟩, 17), by decide, by decide⟩⟩

/-- Chunk `i` of a load from the host. -/
def chunk (s : State) (i : BitVec 16) (v : W64) : State :=
  { s with stw := { s.stw with inbox :=
      [({ tok 3 with context := 0, iteration := i, iaddr := 0, flow := 1, cell := 0, value := v }, .host, 90)] } }
/-- A device whose load has received these bytes from the host. -/
def loading (bs : List Byte) : State := { on with stw := { on.stw with load := some ⟨some .host, bs, none⟩ } }
/-- A load from flash that reads. -/
def readingFlash (bs : List Byte) : State :=
  { fitted with stw := { on.stw with load := some ⟨none, bs, none⟩, boot := .reading } }
/-- An image of 64 bytes without sections, its CRC-32 wrong, and right. -/
def wrong : List Byte := [0, 0, 0, 0, 0, 0, 0, 0, 64] ++ List.replicate 55 0
/-- See `wrong`. -/
def right : List Byte := [0, 0, 0, 0, 0, 0, 0, 0, 64] ++ List.replicate 47 0 ++ [242, 143, 13, 125, 0, 0, 0, 0]
/-- An image whose graph hook has a reserved bit set; its CRC-32 is right. -/
def odd : List Byte := [0, 0, 0, 0, 0, 0, 0, 0, 64] ++ List.replicate 23 0 ++ [1] ++ List.replicate 23 0 ++ [88, 138, 215, 140] ++ [0, 0, 0, 0]
/-- An image is loaded, with two initial tokens. -/
def loaded : State := { on with stw := { on.stw with image := some ⟨7, 100, 8, 0, 0, 0, 0, [tok 1, tok 0]⟩ } }

/-- Hypotheses of LoadingAndStarting: faces, order, chunks at the header's end, the timeout, flash, START. -/
theorem witness_loading :
    Asks (ask loaded 0x002 0 0) 0x002 0 0 ⟨77, 0x002, .host, 0⟩ ∧
    (ask loaded 0x002 0 0).stw.inbox.head?.map (fun x => x.2.2) = some 90 ∧
    Asks (ask graph 0x002 0 0) 0x002 0 0 ⟨77, 0x002, .host, 0⟩ ∧
    Asks (ask on 0x002 0 0) 0x002 0 0 ⟨77, 0x002, .host, 0⟩ ∧
    (stewardUp on = true ∧ on.pwr.steady = true ∧ faceAdmitted on.straps .host = true ∧ faceAdmitted on.straps .shuttle = false) ∧
    (loadBusy on .host = false ∧ on.stw.load = none ∧ loadBusy (loading (List.replicate 48 0)) .host = false) ∧
    verifying (loading [1]) = false ∧
    ((readingFlash right).stw.boot = .reading ∧ (readingFlash right).jtag.ir ≠ 0 ∧ tableHere right = true) ∧
    imageHere wrong = true ∧
    loaded.stw.started = false ∧
    gives (exec .loadChunk (chunk on 0 0x1122)) (fun t => t.stw.load.map (fun l => l.bytes) == some [0x22, 0x11, 0, 0, 0, 0, 0, 0]) = true ∧
    gives (exec .loadChunk (chunk on 1 0)) (fun t => t.stw.loadStatus == 0x0A) = true ∧
    gives (exec .loadChunk (chunk (loading (List.replicate 48 0)) 6 0)) (fun t => t.stw.load.map (fun l => l.bytes.length) == some 56) = true ∧
    gives (exec .loadChunk (chunk (loading (List.replicate 48 0)) 7 0)) (fun t => t.stw.load == none && t.stw.loadStatus == 0x0A) = true ∧
    gives (exec .loadTimeout (loading [1])) (fun t => t.stw.load == none && t.stw.loadStatus == 0x0A) = true ∧
    answers (exec .start (ask graph 0x002 0 0)) = some 9 ∧
    answers (exec .start (ask on 0x002 0 0)) = some 0x0B ∧
    gives (exec .start (ask loaded 0x002 0 0)) (fun t => t.stw.started && (chanAt t.weave (chanKey 63 5 0 0)).map (·.msg) == [.token { tok 1 with deadline := 200 }, .token { tok 0 with deadline := 200 }]) = true ∧
    (faceAdmitted faceless.straps .host = true ∧ faceAdmitted faceless.straps .strand = false) ∧
    answers (exec .loadChunk { (chunk on 0 0) with straps := { on.straps with boot := 3 } }) = some 0x0F ∧
    faceAdmitted { on.straps with boot := 3 } .host = false ∧
    answers (exec .loadChunk (chunk graph 0 0)) = some 9 ∧
    gives (exec .flashReadDone { (readingFlash right) with jtag := { on.jtag with ir := 0 } }) (fun t => t.stw.boot == .reading) = true := by
  and_intros <;> first | exact ⟨_, _, _, rfl, rfl, rfl, rfl, rfl, rfl⟩ | decide +kernel

/-- An image with a wrong CRC-32 and one with a right one. -/
theorem witness_verification :
    (crcMatches wrong = false ∧ crcMatches right = true) ∧
    (finalStatus (loading wrong) ⟨some .host, wrong, none⟩ = 4 ∧ finalStatus (loading right) ⟨some .host, right, none⟩ = 0) ∧
    imageReserved (loading right).keys right = false ∧
    (finalStatus (loading odd) ⟨some .host, odd, none⟩ = 0 ∧ imageReserved (loading odd).keys odd = true) ∧
    faults (exec .imageVerifyDone (loading odd)) 23 = true ∧
    gives (exec .imageVerifyDone (loading wrong)) (fun t => t.stw.load == none && t.stw.loadStatus == 4 && t.stw.image == none) = true ∧
    gives (exec .imageVerifyDone (loading right)) (fun t => t.stw.load == none && t.stw.loadStatus == 0 && t.stw.image.isSome) = true ∧
    gives (exec .flashReadDone (readingFlash right)) (fun t => t.stw.boot == .verifying) = true := by
  and_intros <;> decide +kernel

/-- A ring of 64 KiB with this produced count; and the face with it. -/
def ring (produced : W64) : Ring := ⟨0x100000, 16, 0, 0x200000, 0x300000, produced, 0, 5, [64], false, true, 0⟩
/-- See `ring`. -/
def ringed (produced : W64) (n : Nat) : State :=
  { master with host := { master.host with ring := some (ring produced), staging := List.replicate n (tok 0) } }
/-- A packet is in progress. -/
def sending (last : Bool) : State :=
  let s := ringed 0 0
  { s with host := { s.host with packet := some ⟨false, List.replicate 36 0, 0, false, last, false⟩ } }
/-- The parameter block of `ring`. -/
def params : List Byte :=
  leBytes 8 0x100000 ++ leBytes 8 16 ++ leBytes 8 0x200000 ++ leBytes 8 0x300000 ++ List.replicate 32 0
/-- ATTACH_RING has read its parameters; or the consumed word is being read. -/
def attaching : State :=
  { master with host := { master.host with tags := [(3, some .params)] }, stw := { on.stw with attach := some ⟨77, 9, .host, 0⟩ } }
/-- See `attaching`. -/
def consuming : State :=
  let s := ringed 64 0
  { s with host := { s.host with tags := [(3, some .consumed)] } }

/-- The packet in progress was cut. -/
def sendingCut : State :=
  { (ringed 0 0) with host := { (ringed 0 0).host with packet := some ⟨false, List.replicate 36 0, 20, false, false, true⟩ } }
/-- Hypotheses of HostRingPackets: a ring with just enough room for a packet, and with 32 bytes less. -/
theorem witness_ring :
    Asks (ask (ringed 0 0) 0x009 0 0) 0x009 0 0 ⟨77, 0x009, .host, 0⟩ ∧
    Asks (ask master 0x009 0 0x1000) 0x009 0 0x1000 ⟨77, 0x009, .host, 0⟩ ∧
    Asks (ask (ringed 0 0) 0x00A 0 0) 0x00A 0 0 ⟨77, 0x00A, .host, 0⟩ ∧
    (master.host.ring = none ∧ master.stw.attach = none ∧ hostIssues master = true ∧ freeTag master.host = some 0) ∧
    (hostUp attaching = true ∧ stewardUp attaching = true ∧ tagFor attaching.host .params = some 3) ∧
    (params.length = 64 ∧ paramsBad params = false) ∧
    (ringed 0 0).stw.detach = none ∧
    (hostIssues (ringed 65408 2) = true ∧ (ringed 65408 2).host.packet = none ∧ hostDump (ringed 65408 2) = none ∧ (ringed 65408 2).host.staging ≠ []) ∧
    (hostIssues (sending true) = true ∧ tagFor consuming.host .consumed = some 3 ∧ consuming.host.linkUp = true) ∧
    answers (exec .attachRing (ask (ringed 0 0) 0x009 0 0)) = some 0x0E ∧
    gives (exec .attachRing (ask master 0x009 0 0x1000)) (fun t => t.out == [.memRead 0 0x1000 64] && t.stw.attach.isSome) = true ∧
    gives (exec (.ringParamsReadDone .ok params) attaching) (fun t => t.host.ring == some { (ring 0) with seq := 0, ends := [], opened := false } && t.host.tags == []) = true ∧
    gives (exec (.ringParamsReadDone .ur []) attaching) (fun t => t.host.ring == none && t.host.errors == 1) = true ∧
    gives (exec .detachRing (ask (ringed 0 0) 0x00A 0 0)) (fun t => t.stw.detach.isSome) = true ∧
    gives (exec .ringPacketStart (ringed 65440 2)) (fun t => t.host.packet.map (fun p => p.bytes.length) == some 56 && t.host.staging == []) = true ∧
    gives (exec .ringPacketStart (ringed 65472 2)) (fun t => t.host.packet == none && t.host.ring == some { (ring 65472) with asking := true }) = true ∧
    gives (exec .ringPacketComplete (sending false)) (fun t => t.host.ring == some { (ring 64) with seq := 6, ends := [64, 64] } && t.host.packet == none) = true ∧
    gives (exec .ringPacketComplete (sending true)) (fun t => t.host.ring == none) = true ∧
    gives (exec (.consumedWordRead .ok 64) consuming) (fun t => t.host.ring == some { (ring 64) with consumed := 64, ends := [] }) = true ∧
    gives (exec (.consumedWordRead .ok 65) consuming) (fun t => t.freeCounter == 1) = true ∧
    Asks (ask master 0x009 1 0x1000) 0x009 1 0x1000 ⟨77, 0x009, .host, 0⟩ ∧
    Asks (ask on 0x009 0 0x1000) 0x009 0 0x1000 ⟨77, 0x009, .host, 0⟩ ∧
    (hostIssues on = false ∧ on.host.ring = none ∧ on.stw.attach = none) ∧
    answers (exec .attachRing (ask master 0x009 1 0x1000)) = some 0x0D ∧
    answers (exec .attachRing (ask on 0x009 0 0x1000)) = some 0x0E ∧
    paramsBad (List.replicate 64 255) = true ∧
    answers (exec (.ringParamsReadDone .ok (List.replicate 64 255)) attaching) = some 0x0D ∧
    answers (exec (.ringParamsReadDone .ur []) attaching) = some 0x0E ∧
    gives (exec (.ringParamsReadDone .ok params) { attaching with stw := { attaching.stw with attach := some ⟨77, 9, .shuttle, 0⟩ } }) (fun t => t.host.ring.map (·.opened) == some true) = true ∧
    ((ringed 65408 2).host.ring.map (·.opened) = some true ∧ (ring 0).consumed = 0 ∧ (ring 64).ends = [64]) ∧
    gives (exec .ringPacketComplete sendingCut) (fun t => decide (t = sendingCut)) = true ∧
    gives (exec (.consumedWordRead .ok 0) consuming) (fun t => t.host.ring == some (ring 64)) = true := by
  and_intros <;> first | exact ⟨_, _, _, rfl, rfl, rfl, rfl, rfl, rfl⟩ | decide +kernel

/-- The host face answers, its sequence begun at slot 2, with a ring that grants it. -/
def host : State :=
  { master with host := { master.host with released := true, cfg := [(1, 2)], ring := some (ring 0), nextSeq := 2, lastWord := 3,
                                           inb := [(0, 0x9000000000400000), (1, 0xD000000000000000)], outb := [(0, 0x780810)] } }
/-- A token record. -/
def record : List Byte := tokenBytes (tok 3) ++ List.replicate 12 0
/-- A load from host memory has reached tile 0. -/
def hostLoad (m : Msg) : State := put host 0 true (fl m)
/-- Tag 4 waits for a load. -/
def reads4 : State :=
  { host with host := { host.host with tags := [(4, some (.read 0x800000000008 (.load ⟨0x4000000400001400, 9, 3, 3, false⟩) 0 2))] } }

/-- The only tag left is taken as well. -/
def tagless (m : Msg) : State :=
  let s := hostLoad m
  { s with host := { s.host with tags := (List.range 32).map fun i => (i, some .params) } }
/-- Bus Master Enable is 0, and a load has reached tile 0. -/
def unmastered (m : Msg) : State :=
  let s := hostLoad m
  { s with host := { s.host with bme := false } }
/-- A word load from host memory, 8 bytes. -/
def load8 (a : Addr) : Msg := .read a (.load { ask8 with size := 3 }) 0
/-- Hypotheses of HostAccessesAndRequests: windows, entries, configuration, tags. -/
theorem witness_host_accesses :
    (hostUp host = true ∧ host.host.linkUp = true ∧ host.host.released = true ∧ host.host.flr = false ∧ master.host.released = false) ∧
    (hostAnswers host = true ∧ hostAnswers master = false) ∧
    (host.host.bar0 = [] ∧ ((64 : BitVec 16).toNat = 32 * (host.host.nextSeq.toNat % 2048))) ∧
    (record.length = 32 ∧ (record.drop 20).all (· == 0) = true ∧ kindOf (tokenOfBytes record).flags ≠ 1) ∧
    (recordGranted host.host 2 = true ∧ recordGranted host.host 3 = false ∧ (heldOf host isHostEvent).length < 256) ∧
    (windowAddr host 0xFFFC 4 = some (0x40FFFC, false) ∧ windowAddr host 0xFFFC 5 = none ∧ windowAddr host 0x400000 4 = some (0, true)) ∧
    (rangeOf 0x40FFFC ≠ .flash ∧ (0x40FFFC : Nat) % 8 + 4 ≤ 8) ∧
    heads (hostLoad (.read 0x800000000008 (.load { ask8 with size := 3 }) 0)) 0 true 1 isHostReq isHostReq = some (.read 0x800000000008 (.load { ask8 with size := 3 }) 0) ∧
    heads (hostLoad (.iclear 0x800000000008 0)) 0 true 1 isHostReq isHostReq = some (.iclear 0x800000000008 0) ∧
    heads (hostLoad (.write 0x800000000008 0xFF 5 .store 0)) 0 true 1 isHostReq isHostReq = some (.write 0x800000000008 0xFF 5 .store 0) ∧
    (xlate host.host 0x800000000008 = some 0x780008 ∧ freeTag host.host = some 0 ∧ hostIssues host = true) ∧
    mget none reads4.host.tags 4 = some (.read 0x800000000008 (.load ⟨0x4000000400001400, 9, 3, 3, false⟩) 0 2) ∧
    gives (exec (.bar0Write 64 record false) host) (fun t => t.time.held.map (·.kind) == [.host (tok 3)] && t.host.nextSeq == 3) = true ∧
    gives (exec (.bar0Read 0xFFFC 4) host) (fun t => t.out == [.completion .ok [0, 0, 0, 0]]) = true ∧
    gives (exec (.bar0Read 0 1) master) (fun t => t.out == [.completion .ur []]) = true ∧
    gives (exec (.bar23Read 0xFFFC 5) host) (fun t => t.out == [.completion .ur []] && t.host.misses == 1) = true ∧
    left (exec (.bar23Read 0xFFFC 4) host) 0 1 = some (.read 0x40FFF8 .host 0) ∧
    left (exec (.bar23Write 0xFFFC [1, 2, 3, 4] false) host) 0 1 = some (.write 0x40FFF8 0xF0 0x0403020100000000 .host 0) ∧
    gives (exec (.bar23Write 0x400000 [1] false) host) (fun t => t.host.misses == 1 && t.weave == host.weave) = true ∧
    gives (exec (.configWrite 0xFC 0xFFFFFFFF 1) host) (fun t => t.host.cfg == [(1, 2)]) = true ∧
    gives (exec (.configWrite 0x0C 0xABCD 1) host) (fun t => cfgAt t.host 3 == 0xCD) = true ∧
    gives (exec (.configWrite 4 0 0xF) master) (fun t => t.out == [.retryStatus]) = true ∧
    gives (exec .hostRequestIssue (hostLoad (.read 0x800000000008 (.load { ask8 with size := 3 }) 0))) (fun t => t.out == [.memRead 0 0x780008 8] && t.host.tags.length == 1) = true ∧
    gives (exec .hostRequestIssue (hostLoad (.write 0x800000000008 0xFF 5 .store 0))) (fun t => t.out == [.memWrite 0x780008 [5, 0, 0, 0, 0, 0, 0, 0]]) = true ∧
    valueOf (left (exec (.hostCompletion 4 .ok 99) reads4) 0 0) = some 99 ∧
    gives (exec (.hostCompletion 4 .ur 0) reads4) (fun t => t.host.errors == 1 && t.host.tags == []) = true ∧
    gives (exec (.hostCompletionTimeout 4) reads4) (fun t => t.host.timeouts == 1 && t.host.tags == []) = true ∧
    (hostAnswers master = false ∧ hostUp master = true ∧ master.host.linkUp = true) ∧
    gives (exec (.bar0Write 64 record false) master) (fun t => t.out == [.report .unsupportedRequest]) = true ∧
    gives (exec (.bar0Write 64 record true) host) (fun t => t.out == [.report .poisoned] && t.time.held == []) = true ∧
    gives (exec (.bar23Write 0 [1] false) master) (fun t => t.out == [.report .unsupportedRequest]) = true ∧
    gives (exec (.bar23Write 0 [1] true) host) (fun t => t.out == [.report .poisoned]) = true ∧
    gives (exec (.configWrite 4 0 0xF) { host with host := { host.host with flr := true } }) (fun t => t.out == [.retryStatus]) = true ∧
    (slotsWritten 96 32 = [3] ∧ slotNumber host.host 3 = 3) ∧
    gives (exec (.bar0Write 96 record false) host) (fun _ => true) = true ∧
    (windowAddr host 0x1FFFFF 1 = none ∧ windowAddr host 0xFFF8 8 = some (0x40FFF8, false)) ∧
    gives (exec (.bar23Write 0x1FFFFF [1] false) host) (fun t => t.out == [.report .unsupportedRequest] && t.host.misses == 1) = true ∧
    gives (exec .hostRequestIssue (hostLoad (.iclear 0x800000000008 0))) (fun t => t.out == []) = true ∧
    (heads (unmastered (load8 0x800000000008)) 0 true 1 isHostReq isHostReq).isSome = true ∧
    (hostIssues (unmastered (load8 0x800000000008)) = false ∧ xlate host.host 0x800000100008 = none) ∧
    gives (exec .hostRequestIssue (unmastered (load8 0x800000000008))) (fun t => t.out == [] && t.host.tmisses == 0) = true ∧
    gives (exec .hostRequestIssue (hostLoad (load8 0x800000100008))) (fun t => t.out == [] && t.host.tmisses == 1) = true ∧
    freeTag (tagless (load8 0x800000000008)).host = none ∧
    gives (exec .hostRequestIssue (tagless (load8 0x800000000008))) (fun t => decide (t = tagless (load8 0x800000000008))) = true ∧
    (mget none host.host.tags 4 = none ∧ (4 : BitVec 5) ∉ host.host.abandoned) ∧
    gives (exec (.hostCompletion 4 .ok 99) host) (fun t => t.out == [.report .unexpectedCompletion]) = true := by
  and_intros <;> decide +kernel

/-- `host` started, with tokens staged and with L1 enabled. -/
def hostMode : State :=
  { host with stw := graph.stw, host := { host.host with staging := [tok 0, tok 1], cfg := [(1, 2), (0x20, 2)] } }
/-- The face of a state changed. -/
def face (f : HostFace → HostFace) : State := { hostMode with host := f hostMode.host }

/-- The packet in progress, whole or cut at this point. -/
def packetOf (cut : Bool) (n : Nat) : Packet := ⟨false, List.replicate 36 0, n, false, false, cut⟩
/-- Hypotheses of HostFaceModesAndResets, with link training at the strapped limits. -/
theorem witness_host_modes :
    (hostUp hostMode = true ∧ hostMode.host.linkUp = true ∧ hostMode.host.flr = false ∧ hostMode.host.released = true ∧ hostMode.host.bme = true ∧ hostMode.host.packet = none ∧ hostMode.host.d3hot = false) ∧
    (cfgAt hostMode.host 0x20).getLsbD 1 = true ∧
    ((hostLimits on.straps.host) = (4, 3) ∧ hostUp State.reset = false) ∧
    gives (exec .busMasterDisable hostMode) (fun t => !t.host.bme && t.host.discards == 2 && t.time.held.map (·.kind) == [.notice 0x082 1]) = true ∧
    gives (exec .busMasterEnable (face ({ · with bme := false }))) (fun t => t.host.bme && t.time.held.map (·.kind) == [.notice 0x082 0]) = true ∧
    gives (exec .d3hotEntry hostMode) (fun t => t.host.d3hot && t.time.held.length == 1) = true ∧
    gives (exec .d0Return (face ({ · with d3hot := true }))) (fun t => !t.host.d3hot && t.time.held == []) = true ∧
    gives (exec .functionLevelReset hostMode) (fun t => t.host.flr && t.host.linkUp && t.host.ring == none && t.host.inb == [] && t.host.outb == [(0, 0x780810)]) = true ∧
    gives (exec .hotReset hostMode) (fun t => t.host.linkUp && !t.host.flr && !t.host.bme) = true ∧
    gives (exec .hostLinkDown hostMode) (fun t => !t.host.linkUp && t.host.ring == none) = true ∧
    gives (exec .aspmL1Entry (face ({ · with staging := [] }))) (fun t => t.out == [.l1]) = true ∧
    gives (exec .perstNAssert hostMode) (fun t => !t.host.linkUp && !t.pwr.perstN) = true ∧
    gives (exec .flrComplete (face ({ · with flr := true }))) (fun t => !t.host.flr) = true ∧
    gives (exec (.hostLinkTrained 4 3) { (face ({ · with linkUp := false })) with pwr := { on.pwr with perstN := true } }) (fun t => t.host.linkUp && t.host.width == 4 && t.host.gen == 3) = true ∧
    gives (exec .perstNAssert State.reset) (fun t => !t.pwr.perstN) = true ∧
    tlpPending (face ({ · with staging := [] })).host = false ∧
    gives (exec .busMasterDisable (face ({ · with bme := false }))) (fun t => decide (t = face ({ · with bme := false }))) = true ∧
    gives (exec .busMasterDisable (face ({ · with flr := true }))) (fun t => t.out == [.retryStatus] && t.host.bme) = true ∧
    gives (exec .functionLevelReset (face ({ · with released := false }))) (fun t => t.out == [.retryStatus] && !t.host.flr) = true ∧
    gives (exec .busMasterDisable (face ({ · with packet := some (packetOf false 0) }))) (fun t => !t.host.bme && t.host.staging == []) = true ∧
    gives (exec .busMasterEnable hostMode) (fun t => decide (t = hostMode)) = true ∧
    gives (exec .busMasterEnable (face ({ · with bme := false, d3hot := true }))) (fun t => t.host.bme && t.time.held == []) = true ∧
    gives (exec .busMasterEnable (face ({ · with bme := false, ring := none }))) (fun t => t.host.bme && t.time.held == []) = true ∧
    gives (exec .busMasterEnable (face ({ · with bme := false, packet := some (packetOf true 20) }))) (fun t => t.host.packet == none && t.host.ring.map (fun g => (g.produced, g.seq)) == some (32, 6)) = true ∧
    gives (exec .d3hotEntry (face ({ · with d3hot := true }))) (fun t => t.time.held == []) = true ∧
    gives (exec .d0Return hostMode) (fun t => decide (t = hostMode)) = true ∧
    (host.host.msiHeld = 0 ∧ (packetOf true 20).cut = true) := by
  and_intros <;> decide +kernel

/-- The shuttle link is up, with this much credit granted and as much from the partner. -/
def shuttle (credit : BitVec 16) : State :=
  { on with sh := { on.sh with aligned := true, up := true, seen := true, fresh := false, credit := credit, partner := credit } }
/-- A shuttle frame of this kind that covers `ack`, from a partner that grants 9. -/
def sframe (ftype count seq ack ctl : Byte) (payload : List Byte) : List Byte :=
  withCrc ([ftype, count, seq, ack] ++ [9, 0, ctl, 0] ++ payload)
/-- A TOKENS frame of one token; one of KIND fault; a RAW frame; a repeated frame. -/
def oneToken : List Byte := sframe 1 1 0 0 0 (tokenBytes (tok 0))
/-- See `oneToken`. -/
def faultToken : List Byte := sframe 1 1 0 0 0 (tokenBytes { tok 0 with flags := 0x08 })
/-- See `oneToken`. -/
def twoWords : List Byte := sframe 2 2 0 0 0 (leBytes 8 5 ++ leBytes 8 6)
/-- `shuttle` with two frames held. -/
def holding (up : Bool) : State :=
  let s := shuttle 4
  { s with sh := { s.sh with up := up, seen := up, held := [⟨2, 1, 255, leBytes 8 5⟩, ⟨2, 1, 0, leBytes 8 6⟩], next := 1 } }

/-- Hypotheses of ShuttleFramesReceived: credit at its limit and one short, good and bad frames, both kinds of INIT.
-/
theorem witness_shuttle_receives :
    (shuttleUp on = true ∧ on.sh.aligned = false ∧ (shuttle 1).sh.aligned = true) ∧
    (frameGood oneToken = true ∧ frameSeq oneToken = (shuttle 1).sh.exp ∧ withinCredit (shuttle 1) oneToken = true ∧ withinCredit (shuttle 0) oneToken = false) ∧
    (byteAt oneToken 0 = 1 ∧ (∀ t ∈ frameTokens oneToken, kindOf t.flags ≠ 1)) ∧
    (frameGood twoWords = true ∧ byteAt twoWords 0 = 2 ∧ withinCredit (shuttle 2) twoWords = true) ∧
    frameGood (sframe 4 0 0 0 1 []) = true ∧
    frameGood (oneToken.set 9 0xFF) = false ∧
    (frameGood (sframe 2 1 248 0 0 (leBytes 8 5)) = true ∧ 248 ≤ (frameSeq (sframe 2 1 248 0 0 (leBytes 8 5)) - (shuttle 2).sh.exp).toNat) ∧
    (frameGood (sframe 5 0 0 0 4 []) = true ∧ frameGood (sframe 5 0 0 0 2 []) = true ∧ (holding true).sh.up = true ∧ (holding false).sh.up = false) ∧
    gives (exec .shuttleAligned on) (fun t => t.sh.aligned) = true ∧
    gives (exec (.shuttleTokensFrame oneToken) (shuttle 1)) (fun t => t.time.held.map (·.kind) == [.shuttle (tok 0)] && t.sh.exp == 1 && t.sh.owed && t.sh.partner == 9) = true ∧
    faults (exec (.shuttleTokensFrame faultToken) (shuttle 1)) 122 = true ∧
    gives (exec (.shuttleRawFrame twoWords) (shuttle 2)) (fun t => t.sh.raw == [5, 6] && t.sh.exp == 1) = true ∧
    gives (exec (.shuttleLinkFrame (sframe 4 0 0 0 1 [])) (holding true)) (fun t => t.sh.held.map (·.seq) == [0] && t.sh.again == 1) = true ∧
    gives (exec (.shuttleBadFrame .line) (shuttle 1)) (fun t => t.sh.oweNak && t.sh.naked) = true ∧
    gives (exec (.shuttleBadFrame (.whole (oneToken.set 9 0xFF))) (shuttle 1)) (fun t => t.sh.oweNak) = true ∧
    gives (exec (.shuttleBadFrame (.whole (sframe 2 1 248 0 0 (leBytes 8 5)))) (shuttle 2)) (fun t => t.sh.owed && !t.sh.oweNak && t.sh.exp == 0) = true ∧
    gives (exec (.shuttleInitFrame (sframe 5 0 0 0 4 [])) (holding true)) (fun t => !t.sh.up && t.sh.held.length == 2) = true ∧
    gives (exec (.shuttleInitFrame (sframe 5 0 0 0 4 [])) (holding false)) (fun t => t.sh.up && t.sh.held.map (·.seq) == [0] && t.sh.again == 1) = true ∧
    gives (exec (.shuttleInitFrame (sframe 5 0 0 0 2 [])) (holding false)) (fun t => !t.sh.up && t.sh.held.map (·.seq) == [0, 1] && t.sh.next == 2 && t.sh.exp == 0) = true ∧
    gives (exec .shuttleAlignmentLost (holding true)) (fun t => !t.sh.aligned && !t.sh.up && t.sh.held.length == 2) = true ∧
    (frameReserved oneToken = false ∧ frameReserved twoWords = false ∧ frameReserved (sframe 4 0 0 0 1 []) = false ∧ frameReserved (sframe 5 0 0 0 4 []) = false ∧ frameReserved (sframe 2 1 248 0 0 (leBytes 8 5)) = false) ∧
    ((byteAt oneToken 6).getLsbD 0 = false ∧ (frameGood faultToken = true ∧ byteAt faultToken 0 = 1 ∧ frameReserved faultToken = false ∧ withinCredit (shuttle 1) faultToken = true)) ∧
    gives (exec (.shuttleTokensFrame oneToken) on) (fun t => decide (t = on)) = true ∧
    gives (exec (.shuttleLinkFrame (sframe 4 0 0 0 0 [])) (holding true)) (fun t => t.sh.held.map (·.seq) == [0] && t.sh.again == 0) = true ∧
    (stillHeld (holding true).sh.held 254 = (holding true).sh.held ∧ frameGood (sframe 4 0 0 254 1 []) = true) ∧
    gives (exec (.shuttleLinkFrame (sframe 4 0 0 254 1 [])) { (holding true) with sh := { (holding true).sh with resends := 16 } }) (fun t => !t.sh.up && t.sh.held.length == 2) = true ∧
    gives (exec (.shuttleBadFrame (.whole oneToken)) (shuttle 0)) (fun t => t.sh.oweNak && t.sh.exp == 0 && t.time.held == []) = true ∧
    gives (exec (.shuttleBadFrame (.whole (sframe 2 1 3 0 0 (leBytes 8 5)))) (shuttle 2)) (fun t => t.sh.oweNak && t.sh.naked && t.sh.exp == 0) = true := by
  and_intros <;> decide +kernel

/-- The shuttle face of `shuttle 4` changed. -/
def shut (f : Shuttle → Shuttle) : State := { (shuttle 4) with sh := f (shuttle 4).sh }
/-- The frame that a command sends through the shuttle face. -/
def shuttled (o : Host.Outcome State Fault Refusal) : Option (List Byte) :=
  match o with
  | .next t => (match t.out with | [.shuttle bs] => some bs | _ => none)
  | _ => none
/-- Five tokens wait; or nine words. -/
def fiveTokens : State := shut ({ · with tx := List.replicate 5 (tok 0), turn := 0 })
/-- See `fiveTokens`. -/
def nineWords : State :=
  { (shut ({ · with turn := 1 })) with streams := { on.streams with shPut := [1, 2, 3, 4, 5, 6, 7, 8, 9], shTake := List.replicate 127 0 } }

/-- Hypotheses of ShuttleFramesSent: replay at 15 and 16 times, seven and eight frames held. -/
theorem witness_shuttle_sends :
    ((shut ({ · with up := false })).sh.aligned = true ∧ (shut ({ · with up := false })).sh.up = false) ∧
    linkOwed (shut ({ · with owed := true })) = true ∧
    ((holding true).sh.held ≠ [] ∧ (holding true).sh.oweNak = false) ∧
    (unitsAdmitted fiveTokens.sh = 4 ∧ fiveTokens.sh.again = 0) ∧
    gives (exec .shuttleInitTimer (shut ({ · with up := false }))) (fun t => t.out.length == 1) = true ∧
    shuttled (exec .shuttleLinkFrameDue (shut ({ · with owed := true }))) = some (frameBytes (shuttle 4) 4 0 0 0 []) ∧
    shuttled (exec .shuttleFrameSend (shut ({ · with oweNak := true }))) = some (frameBytes (shuttle 4) 4 0 0 1 []) ∧
    gives (exec .shuttleReplayTimeout { (holding true) with sh := { (holding true).sh with resends := 15 } }) (fun t => t.sh.again == 2 && t.sh.resends == 15 && t.sh.up && t.sh.counts == [(5, 1)]) = true ∧
    gives (exec .shuttleReplayTimeout { (holding true) with sh := { (holding true).sh with resends := 16 } }) (fun t => !t.sh.up && t.sh.held.length == 2) = true ∧
    shuttled (exec .shuttleFrameSend { (holding true) with sh := { (holding true).sh with again := 1 } }) = some (frameBytes (shuttle 4) 2 1 0 0 (leBytes 8 6)) ∧
    gives (exec .shuttleFrameSend fiveTokens) (fun t => t.sh.tx.length == 1 && t.sh.sent == 4 && t.sh.next == 1 && t.sh.held.map (·.count) == [4]) = true ∧
    gives (exec .shuttleFrameSend nineWords) (fun t => t.streams.shPut == [5, 6, 7, 8, 9] && t.sh.held.map (·.ftype) == [2]) = true ∧
    gives (exec .shuttleFrameSend (shut ({ · with held := List.replicate 8 ⟨2, 1, 0, leBytes 8 6⟩, tx := [tok 0] }))) (fun t => t.out == []) = true ∧
    gives (exec .shuttleFrameSend (shut ({ · with held := List.replicate 7 ⟨2, 1, 0, leBytes 8 6⟩, tx := [tok 0] }))) (fun t => t.sh.held.length == 8) = true ∧
    gives (exec .shuttleRawMove { nineWords with sh := { nineWords.sh with raw := [3] } }) (fun t => t.streams.shTake.length == 128 && t.sh.raw == []) = true ∧
    gives (exec .shuttleRawMove { nineWords with sh := { nineWords.sh with raw := [3] }, streams := { on.streams with shTake := List.replicate 128 0 } }) (fun t => t.streams.shTake.length == 128 && t.sh.raw == [3]) = true ∧
    gives (exec .shuttleReplayTimeout { (holding true) with sh := { (holding true).sh with again := 1 } }) (fun t => t.sh.again == 1 && t.sh.counts == []) = true ∧
    gives (exec .shuttleFrameSend (let s := holding true; { s with sh := { s.sh with again := 2, uncounted := 2, sent := 4 } })) (fun t => t.out == [] && t.sh.again == 2) = true ∧
    (unitsAdmitted (let s := holding true; { s with sh := { s.sh with again := 2, uncounted := 2, sent := 4 } }).sh < frameUnits 2 1) := by
  and_intros <;> decide +kernel

/-- The neighbour above: node 6. -/
def peer : State := { on with straps := { on.straps with node0 := 6 } }
/-- A token frame of node 6 for a node, with payload. -/
def rframe (ftype : Byte) (dst : Option (BitVec 12)) (seen : Bool) (payload : List Byte) : List Byte :=
  rowFrame peer RowPort.clear ftype dst seen false payload
/-- Port A's link is established and usable, its neighbour node 6, with this much credit and these words in its stream. -/
def row (credit : BitVec 16) (n : Nat) : State :=
  { on with rowA := { on.rowA with phyUp := true, heard := true, usable := true, neighbor := some 6, nLcredit := credit, nFcredit := credit, gLcredit := 64, gFcredit := 64 },
            streams := { on.streams with rowTakeA := List.replicate n 0 } }
/-- Tokens fill port A's local buffer to `n`. -/
def crowded (n : Nat) : State :=
  let s := row 4 0
  { s with time := { s.time with held := List.replicate n ⟨99, 7, 0, false, .row false 6 (tok 0) 0⟩ } }
/-- Port B's forwarding buffer holds 63 or 64 blocks; or port B is not strapped on. -/
def stored (n : Nat) : State :=
  let s := row 4 0
  { s with rowB := { s.rowB with fwd := List.replicate n (List.replicate 60 0) } }
/-- See `stored`. -/
def noB : State :=
  let s := row 4 0
  { s with straps := { s.straps with row := 1 } }
/-- `row` with a graph started. -/
def rowGraph (f : RowPort → RowPort) : State :=
  let s := row 4 0
  { s with mem := graph.mem, stw := graph.stw, rowA := f s.rowA }

/-- Before STEADY. -/
def early : State :=
  let s := row 4 0
  { s with pwr := { s.pwr with steady := false } }
/-- Hypotheses of RowFramesReceived: types, the local buffer at 63 and 64 tokens, the raw stream just full and just
too full. -/
theorem witness_row_receives :
    (rowUp (row 4 0) .a = true ∧ (rowAt (row 4 0) .a).phyUp = true) ∧
    (∀ ty ∈ ([1, 2, 3] : List Byte), formatGood (rframe ty (some 5) false (tokenBytes (tok 0))) = true ∧ reservedSet (rframe ty (some 5) false (tokenBytes (tok 0))) = false) ∧
    (forThisNode (row 4 0) (rframe 1 (some 5) false (tokenBytes (tok 0))) = true ∧ forThisNode (row 4 0) (rframe 1 (some 9) false (tokenBytes (tok 0))) = false) ∧
    (formatGood (rframe 4 none false (tokenBytes (tok 0))) = true ∧ formatGood (rframe 5 none false []) = true ∧ formatGood (rframe 6 none true []) = true) ∧
    (fitsLocal (crowded 63) .a (rframe 1 (some 5) false (tokenBytes (tok 0))) = true ∧ fitsLocal (crowded 64) .a (rframe 1 (some 5) false (tokenBytes (tok 0))) = false) ∧
    (rawWords on 2 (rframe 2 (some 5) false (tokenBytes (tok 0)))).length = 9 ∧
    (fitsForward (stored 63) .a (rframe 1 (some 9) false (tokenBytes (tok 0))) = true ∧ fitsForward (stored 64) .a (rframe 1 (some 9) false (tokenBytes (tok 0))) = false) ∧
    ((rowAt (stored 63) .b).graceOver = false ∧ rowOn (stored 63).straps .b = true ∧ rowOn noB.straps .b = false) ∧
    (sizeGood (List.replicate 60 0) = true ∧ isTokenFrame (List.replicate 60 0) = false) ∧
    gives (exec (.rowTokensFrame .a (rframe 1 (some 5) false (tokenBytes (tok 0)))) (crowded 63)) (fun t => t.time.held.length == 64 && t.rowA.counts == [(0, 1)]) = true ∧
    faults (exec (.rowTokensFrame .a (rframe 1 (some 5) false (tokenBytes (tok 0)))) (crowded 64)) 485 = true ∧
    faults (exec (.rowTokensFrame .a (rframe 1 (some 5) false (tokenBytes { tok 0 with flags := 0x08 }))) (row 4 0)) 122 = true ∧
    gives (exec (.rowAnswerFrame .a (rframe 2 (some 5) false (tokenBytes (tok 0)))) (row 4 247)) (fun t => t.streams.rowTakeA.length == 256 && t.rowA.answers == []) = true ∧
    gives (exec (.rowAnswerFrame .a (rframe 2 (some 5) false (tokenBytes (tok 0)))) (row 4 248)) (fun t => t.streams.rowTakeA.length == 248 && t.rowA.answers.length == 1) = true ∧
    gives (exec (.rowUndeliverableFrame .a (rframe 3 (some 5) false (tokenBytes (tok 0)))) (rowGraph id)) (fun t => t.stw.nodeSerial == 1 && mget 0 t.rowA.counts 7 == 1) = true ∧
    gives (exec (.rowUndeliverableFrame .a (rframe 3 (some 5) false (tokenBytes (tok 0)))) (row 4 0)) (fun t => t.stw.nodeSerial == 0 && mget 0 t.rowA.counts 7 == 0) = true ∧
    gives (exec (.rowSinkFrame .a (rframe 4 none false (tokenBytes (tok 0)))) (row 4 248)) (fun t => t.streams.rowTakeA.length == 248 && mget 0 t.rowA.counts 4 == 1) = true ∧
    gives (exec (.rowSinkFrame .a (rframe 4 none false (tokenBytes (tok 0)))) (row 4 247)) (fun t => t.streams.rowTakeA.length == 256) = true ∧
    gives (exec (.rowLinkFrame .a ((rframe 5 none false []).set 22 7)) (row 4 0)) (fun t => t.rowA.nLcredit == 7 && t.rowA.nFcredit == 0 && t.rowA.usable) = true ∧
    gives (exec (.rowHelloFrame .a (rframe 6 none true [])) { on with rowA := { on.rowA with phyUp := true } }) (fun t => t.rowA.usable && t.rowA.neighbor == some 6 && t.rowA.everUp) = true ∧
    gives (exec (.rowHelloFrame .a (rframe 6 none false [])) { on with rowA := { on.rowA with phyUp := true } }) (fun t => !t.rowA.usable && t.rowA.heard) = true ∧
    gives (exec (.rowForwardFrame .a (rframe 1 (some 9) false (tokenBytes (tok 0))) true) noB) (fun t => mget 0 t.rowA.counts 3 == 1 && t.rowB.fwd == []) = true ∧
    gives (exec (.rowForwardFrame .a (rframe 1 (some 9) false (tokenBytes (tok 0))) true) (stored 63)) (fun t => t.rowB.fwd.length == 64) = true ∧
    faults (exec (.rowForwardFrame .a (rframe 1 (some 9) false (tokenBytes (tok 0))) true) (stored 64)) 485 = true ∧
    gives (exec (.rowRawFrame .a (List.replicate 60 0)) (row 4 247)) (fun t => t.streams.rowTakeA.length == 256 && t.rowA.counts == [(0, 1)]) = true ∧
    gives (exec (.rowRawFrame .a (List.replicate 60 0)) (row 4 248)) (fun t => mget 0 t.rowA.counts 4 == 1) = true ∧
    gives (exec (.rowBadFrame .a [1]) (row 4 0)) (fun t => t.rowA.counts == [(1, 1)]) = true ∧
    (formatGood ((rframe 5 none false []).set 19 0x10) = true ∧ reservedSet ((rframe 5 none false []).set 19 0x10) = true) ∧
    faults (exec (.rowTokensFrame .a ((rframe 5 none false []).set 19 0x10)) (row 4 0)) 23 = true ∧
    (early.pwr.steady = false ∧ (row 4 0).pwr.steady = true ∧ (rowAt (row 4 0) .a).answers = [] ∧ rfType (rframe 2 (some 5) false (tokenBytes (tok 0))) = 2) ∧
    gives (exec (.rowAnswerFrame .a (rframe 2 (some 5) false (tokenBytes (tok 0)))) early) (fun t => t.rowA.kept.length == 1 && t.streams.rowTakeA == []) = true ∧
    gives (exec (.rowForwardFrame .a (rframe 1 (some 9) false (tokenBytes (tok 0))) true) { (stored 0) with rowB := { on.rowB with graceOver := true, usable := true } }) (fun t => t.rowB.fwd.length == 1) = true ∧
    isTokenFrame [1] = false := by
  and_intros <;> decide +kernel

/-- A frame to be forwarded that proves bad. -/
theorem witness_row_bad_forward :
    (∃ t, exec (.rowForwardFrame .a (rframe 1 (some 9) false (tokenBytes (tok 0))) false) (row 4 0) = .next t) :=
  ⟨_, rfl⟩

/-- A token has reached tile 56's extra port: for context 3, for a remote node, or an answer to node 9. -/
def leaves (s : State) (ctx : BitVec 14) (home : BitVec 12) (o : Origin) : State :=
  put s 56 true { fl (.token { tok 0 with context := ctx, value := 0x200 }) with home := home, origin := o, vn := 0 }
/-- Port A of `row` changed. -/
def portA (f : RowPort → RowPort) : State := { (row 4 0) with rowA := f (row 4 0).rowA }
/-- The frame that a command sends at port A. -/
def rowSent (o : Host.Outcome State Fault Refusal) : Option (List Byte) :=
  match o with
  | .next t => (match t.out with | [.row false w true] => some w | _ => none)
  | _ => none
/-- A waiting frame of another node to node 6. -/
def passes : List Byte := rframe 1 (some 6) false (tokenBytes (tok 0))

/-- Hypotheses of RowFramesSentAndLinks: sinks, remote nodes above and below, an answer, frames and link events. -/
theorem witness_row_sends :
    tileUp on 56 = true ∧
    (takeHead (leaves on 3 0 .strand).weave 56 true 0 (rowTakesNow on) (rowTakesNow on)).map (·.home) = some 0 ∧
    (sinkPort 3 = some .a ∧ sinkPort 4 = some .b ∧ sinkPort 16 = none ∧ nodeUnassigned on.straps = false ∧ rowOn on.straps .a = true) ∧
    (nodeId on.straps = 5 ∧ (on.rowA.graceOver = false)) ∧
    tagInLimit graph (defaultHandler graph) = true ∧
    (tokensAdmitted (row 4 0).rowA 6 = 4 ∧ tokensAdmitted (row 0 0).rowA 6 = 0 ∧ chargedLocal (row 4 0).rowA 6 = true ∧ chargedLocal (row 4 0).rowA 7 = false) ∧
    (60 ≤ passes.length ∧ addressedReady (row 4 0).rowA passes = true) ∧
    gives (exec (.tokenToRowFace false) (leaves on 3 0 .strand)) (fun t => t.rowA.own.length == 1) = true ∧
    gives (exec (.tokenToRowFace false) (leaves on 16 4 .strand)) (fun t => t.rowA.own.map (fun o => match o with | .token d _ => d | _ => 0) == [4]) = true ∧
    gives (exec (.tokenToRowFace false) (leaves on 16 6 .strand)) (fun t => t.rowB.own.length == 1 && t.rowA.own == []) = true ∧
    gives (exec (.tokenToRowFace false) (leaves graph 16 5 .strand)) (fun t => t.rowB.own == [] && t.rowA.own == [] && t.stw.nodeSerial == 1) = true ∧
    gives (exec (.tokenToRowFace false) (leaves on 0 0 (.row false 9))) (fun t => t.rowA.own.map (fun o => match o with | .answer d n ts => (d, n, ts.length) | _ => (0, 0, 0)) == [(9, 2, 1)]) = true ∧
    (rowSent (exec (.rowFrameSend .a) (portA ({ · with helloDue := true })))).map (fun w => (rfType w, rfSrc w, (rfFlags w).getLsbD 1, w.length)) = some (6, 5, true, 60) ∧
    (rowSent (exec (.rowFrameSend .a) (portA ({ · with linkDue := true })))).map (fun w => (rfType w, half w 22, half w 24)) = some (5, 64, 64) ∧
    (rowSent (exec (.rowFrameSend .a) (portA ({ · with own := [.token 6 (tok 0)], ready := [.token 6 (tok 0)] })))).map (fun w => (rfType w, rfDst w, (rfTokens w).map (·.deadline), half w 26, half w 28)) = some (1, 6, [10], 1, 0) ∧
    (rowSent (exec (.rowFrameSend .a) (portA ({ · with own := [.token 7 (tok 0)], ready := [.token 7 (tok 0)] })))).map (fun w => (rfDst w, half w 26, half w 28)) = some (7, 0, 1) ∧
    (rowSent (exec (.rowFrameSend .a) (portA ({ · with fwd := [passes] })))).map (fun w => (rfSrc w, rfDst w, half w 26)) = some (6, 6, 1) ∧
    gives (exec (.rowHelloTimer .a) (row 4 0)) (fun t => t.rowA.helloDue) = true ∧
    gives (exec (.rowLinkFrameDue .a) (row 4 0)) (fun t => t.rowA.linkDue) = true ∧
    gives (exec (.rowLinkLoss .a) (portA ({ · with own := [.token 6 (tok 0)] }))) (fun t => t.rowA.grace && !t.rowA.usable && t.rowA.own.length == 1 && mget 0 t.rowA.counts 6 == 1) = true ∧
    gives (exec (.neighbourTrainingDetected .a) (portA ({ · with phyUp := false }))) (fun t => t.rowA.training) = true ∧
    gives (exec (.rowPhyLinkUp .a) (portA ({ · with phyUp := false, training := true, lnext := 4 }))) (fun t => t.rowA.phyUp && t.rowA.lnext == 0) = true ∧
    gives (exec (.rowGraceExpired .a) (portA ({ · with usable := false, grace := true, own := [.token 6 (tok 0)] }))) (fun t => t.rowA.own == [] && t.rowA.graceOver && mget 0 t.rowA.counts 7 == 0) = true ∧
    gives (exec (.rowGraceExpired .a) (rowGraph ({ · with usable := false, grace := true, everUp := true, own := [.token 6 (tok 0)] }))) (fun t => t.stw.nodeSerial == 1 && mget 0 t.rowA.counts 7 == 1) = true := by
  and_intros <;> decide +kernel

/-- A FIELD_OUT word waits, `n` having been applied in the frame being built. -/
def fieldWord (n : Nat) (w : W64) : State :=
  { on with sel := { on.sel with applied := n, c := 0xF0F0, safeLeft := 0 }, streams := { on.streams with fieldOut := [w, 5] } }
/-- An uplink frame in this state, input 0 at this count. -/
def upFrame (st : BitVec 2) (n : BitVec 16) : Uplink :=
  ⟨4, { UpInput.clear with count := n, first := some 3 } :: List.replicate 23 UpInput.clear, 0, 0, st, 0, 1, 0, false, false, 0, 0, 0, 0, 0⟩
/-- The frame arrives while the link is up or not, the last one in state `v`; window 4 has been sent. -/
def arriving (up : Bool) (v st : BitVec 2) (wins : List (BitVec 32 × BitVec 4 × BitVec 24)) (run : Nat) : State :=
  { graph with sel := { on.sel with linkUp := up, last := if up then some (upFrame v 7) else none, frame := 5, wins := wins,
                                    up := some (upFrame st 9), goodRun := run, inputs := [(0, { SelInput.clear with prev := 7 })] } }
/-- The FIELD_IN words that wait, with their ranks. -/
def fieldHeld (o : Host.Outcome State Fault Refusal) : List (Nat × BitVec 4) :=
  match o with
  | .next t => t.time.held.map fun e => (e.rank, match e.kind with | .fieldWord w => w.extractLsb' 60 4 | _ => 15)
  | _ => []

/-- Hypotheses of FieldWordsAndFrames: three and four words applied, each TYPE, and the frames. -/
theorem witness_field_logic_side :
    selUp on = true ∧
    (([0x1000000000FF1234, 0x2000000005000003, 0x3000400000000001, 0x4000000000000000, 0x5000000000000000, 0, 0x6000000000000000] : List W64).all fun w => !wordReserved w) = true ∧
    wordReserved 0x1000000100000000 = true ∧
    (restReserved (fieldWord 0 0x1000000100000000) = true ∧ restReserved (fieldWord 3 0x4000000000000000) = false) ∧
    gives (exec .fieldOutputWord (fieldWord 3 0x1000000000FF1234)) (fun t => t.sel.c == 0xF034 && t.sel.applied == 4 && t.streams.fieldOut == [5]) = true ∧
    gives (exec .fieldOutputWord (fieldWord 4 0x1000000000FF1234)) (fun t => t.sel.c == 0xF0F0 && t.streams.fieldOut.length == 2) = true ∧
    faults (exec .fieldOutputWord (fieldWord 3 0x1000000100000000)) 23 = true ∧
    gives (exec .fieldReportWord (fieldWord 0 0x2000000005000003)) (fun t => t.sel.period == 5 && t.sel.mask == 3) = true ∧
    gives (exec .fieldNotifyWord (fieldWord 0 0x3000400000000001)) (fun t => t.sel.nctx == 1 && t.sel.nmask == 1) = true ∧
    gives (exec .fieldSafeWord (fieldWord 0 0x4000000000000000)) (fun t => t.sel.safeWord) = true ∧
    gives (exec .fieldQueryWord (fieldWord 0 0x5000000000000000)) (fun t => t.sel.query) = true ∧
    gives (exec .fieldNopWord (fieldWord 0 0x6000000000000000)) (fun t => t.sel.wordErrs == 1) = true ∧
    gives (exec .downlinkFrame (fieldWord 3 0x4000000000000000)) (fun t => t.sel.down == some ⟨0, 0xF0F0, true, false⟩ && t.sel.frame == 1 && t.streams.fieldOut == [5]) = true ∧
    faults (exec .downlinkFrame (fieldWord 0 0x1000000100000000)) 23 = true := by
  and_intros <;> decide +kernel

/-- Hypotheses of the uplink clauses: the first frame, a change, a report due, a failing frame after 15 and 16 good
ones, loss of the link. -/
theorem witness_uplink :
    ((arriving false 1 1 [] 0).sel.up = some (upFrame 1 9) ∧ (upFrame 1 9).inputs.length = 24 ∧ (arriving false 1 1 [] 0).sel.query = false ∧ (arriving false 1 1 [] 0).sel.nctx = 0) ∧
    [(3, 2, 5)].filter (windowPast (windowOfEcho (arriving true 1 1 [(3, 2, 5)] 0).sel 4)) = [((3, 2, 5) : BitVec 32 × BitVec 4 × BitVec 24)] ∧
    [(5, 2, 5)].filter (windowPast (windowOfEcho (arriving true 1 1 [(5, 2, 5)] 0).sel 4)) = ([] : List (BitVec 32 × BitVec 4 × BitVec 24)) ∧
    (statusDiffers (upFrame 1 7) (upFrame 2 9) = true ∧ statusDiffers (upFrame 1 7) (upFrame 1 9) = false) ∧
    tagInLimit graph (defaultHandler graph) = true ∧
    fieldHeld (exec (.uplinkFrameReceive true) (arriving false 1 1 [] 0)) = [(2, 3), (2, 4)] ∧
    fieldHeld (exec (.uplinkFrameReceive true) (arriving true 1 2 [] 0)) = [(2, 3)] ∧
    fieldHeld (exec (.uplinkFrameReceive true) (arriving true 1 1 [] 0)) = [] ∧
    fieldHeld (exec (.uplinkFrameReceive true) (arriving true 1 1 [(3, 2, 5)] 0)) = [(3, 2), (3, 3), (3, 1), (3, 1)] ∧
    gives (exec (.uplinkFrameReceive true) (arriving true 1 1 [] 0)) (fun t => (mget SelInput.clear t.sel.inputs 0).cum == 2 && t.sel.good == 1) = true ∧
    gives (exec (.uplinkFrameReceive true) (arriving false 1 1 [] 0)) (fun t => (mget SelInput.clear t.sel.inputs 0).cum == 0 && t.sel.linkUp) = true ∧
    gives (exec (.uplinkFrameReceive false) (arriving true 1 1 [] 15)) (fun t => t.stw.nodeSerial == 0 && t.sel.failing == 1) = true ∧
    gives (exec (.uplinkFrameReceive false) (arriving true 1 1 [] 16)) (fun t => t.stw.nodeSerial == 1 && t.sel.goodRun == 0) = true ∧
    fieldHeld (exec .selvedgeLinkDown (arriving true 1 1 [] 0)) = [(2, 3)] ∧
    gives (exec .selvedgeLinkDown (arriving true 2 1 [] 0)) (fun t => t.stw.nodeSerial == 1 && !t.sel.linkUp) = true ∧
    gives (exec .selvedgeLinkDown (arriving true 2 1 [] 16)) (fun t => t.stw.nodeSerial == 2) = true ∧
    gives (exec .selvedgeLinkDown (arriving true 1 1 [(3, 2, 5)] 16)) (fun t => t.stw.nodeSerial == 1 && t.sel.wins == [(3, 2, 5)]) = true := by
  and_intros <;> decide +kernel

/-- A field die in a state, in its sequence of good frames at this count. -/
def die (st : FieldState) (good : BitVec 6) : State :=
  { on with fd := { Field.clear with state := st, good := good, last := some 6, c := 0xFF, types := 1 } }
/-- `die` with a downlink frame to judge. -/
def downs (st : FieldState) (good : BitVec 6) (frame : BitVec 16) (safe release : Bool) : State :=
  let s := die st good
  { s with sel := { s.sel with down := some ⟨frame, 0x1234, safe, release⟩ } }
/-- Ten pins in the lowest window. -/
def lowPins : List (List Nat) := List.replicate 10 [0, 0, 0, 0]
/-- The state and cause of the field die. -/
def dieState (o : Host.Outcome State Fault Refusal) : Option (FieldState × BitVec 2 × BitVec 6) :=
  match o with
  | .next t => some (t.fd.state, t.fd.cause, t.fd.good)
  | _ => none

/-- Hypotheses of FieldDieStates: release at GOOD 15 and 16, SAFE_REQ, silence, inputs 0 and 23, outputs. -/
theorem witness_field_die :
    (fieldUp (die .safe 16).fd = true ∧ fieldUp (die .operate 16).fd = true ∧ on.fd.state = .unpowered) ∧
    wfReadings 10 lowPins = true ∧
    ((downs .safe 16 7 false true).sel.down = some ⟨7, 0x1234, false, true⟩ ∧ (die .safe 16).fd.last = some (7 - 1)) ∧
    mwf UpInput.clear (die .safe 16).fd.inputs = true ∧
    (fieldOn (die .operate 0).fd).getLsbD 3 = true ∧
    ((die .safe 0).fd.types.getLsbD 0 = true ∧ (die .safe 0).fd.types.getLsbD 2 = false) ∧
    dieState (exec .lplusRise on) = some (.sampling, 0, 0) ∧
    dieState (exec .lplusFall (die .safe 3)) = some (.unpowered, 0, 0) ∧
    dieState (exec (.fieldStrapSamplingDone lowPins) (die .sampling 0)) = some (.safe, 0, 0) ∧
    dieState (exec (.fieldDownlinkReceive true) (downs .safe 15 7 false true)) = some (.safe, 0, 16) ∧
    dieState (exec (.fieldDownlinkReceive true) (downs .safe 16 7 false true)) = some (.operate, 0, 17) ∧
    dieState (exec (.fieldDownlinkReceive true) (downs .safe 16 7 true true)) = some (.safe, 0, 17) ∧
    dieState (exec (.fieldDownlinkReceive true) (downs .operate 63 7 false false)) = some (.operate, 0, 63) ∧
    dieState (exec (.fieldDownlinkReceive true) (downs .operate 9 8 true false)) = some (.safe, 2, 1) ∧
    dieState (exec (.fieldDownlinkReceive false) (downs .operate 9 7 true false)) = some (.operate, 0, 0) ∧
    dieState (exec .silenceTimeout (die .operate 9)) = some (.safe, 1, 0) ∧
    dieState (exec .fieldSelfCheckFail (die .operate 9)) = some (.safe, 3, 9) ∧
    dieState (exec .fieldSelfCheckFail (die .safe 9)) = some (.safe, 0, 9) ∧
    gives (exec (.inputEdge 23 5) (die .safe 0)) (fun t => mget UpInput.clear t.fd.inputs 23 == ⟨1, some 5, false, false⟩) = true ∧
    gives (exec (.wirebreakSet 0) (die .safe 0)) (fun t => (mget UpInput.clear t.fd.inputs 0).broke) = true ∧
    gives (exec (.wirebreakSet 23) (die .safe 0)) (fun t => t.fd.inputs == []) = true ∧
    gives (exec (.outputCurrentLatch 3) (die .operate 0)) (fun t => t.fd.latched == 8) = true ∧
    gives (exec (.outputThermalLatch 15) (die .safe 0)) (fun t => t.fd.latched == 0x8000) = true ∧
    gives (exec (.uplinkFrameSend 1 0x55 false true) { (die .operate 9) with fd := { (die .operate 9).fd with answering := some (7, [(0, ⟨3, some 1, false, true⟩), (23, ⟨1, none, false, true⟩)]) } }) (fun t => match t.sel.up with | some f => f.echo == 7 && f.state == 2 && f.read == 0x55 && f.thermal && f.on == 0xFF && f.inputs.take 1 == [⟨3, some 1, true, true⟩] && f.inputs.drop 23 == [⟨1, none, false, false⟩] | none => false) = true ∧
    (fsafeLed (die .sampling 0).fd = true ∧ fsafeLed (die .safe 0).fd = true ∧ fsafeLed (die .operate 0).fd = false) ∧
    gives (exec (.inputEdge 0 5) (die .sampling 0)) (fun t => (mget UpInput.clear t.fd.inputs 0).count == 1) = true ∧
    (checkHolds (die .safe 16).fd = false ∧ (downs .operate 9 7 true false).sel.down.isSome = true) ∧
    gives (exec .fieldSelfCheckFail (die .safe 9)) (fun t => t.fd.checkBad) = true := by
  and_intros <;> decide +kernel

/-- PD0 changed. -/
def pow (f : Power → Power) : State := { on with pwr := f on.pwr }
/-- A cold start whose rails are good. -/
def coldRails : State := { State.reset with pwr := { Power.off with phase := .cold false, pd := 0x401, enIo := true, enCore := true, pgIo := true, qualified := true } }
/-- Straps are being sampled, at tick 3. -/
def sampling : State := { coldRails with pwr := { coldRails.pwr with phase := .sampling }, time := { Time.clear with preTicks := 3 } }
/-- Thirteen pins in the lowest window. -/
def pins : List (List Nat) := List.replicate 13 [0, 0, 0, 0]
/-- The clock stands; the beat exponent is 10. -/
def standing : State := { (pow ({ · with phase := .standby, clkok := false })) with time := { on.time with sub := 480 } }
/-- A start before the quadrants. -/
def raising (f : Power → Power) : State :=
  { (pow (fun p => f { p with pd := 0xE03, running := 0, cleared := 0, fabricUp := false, steady := false })) with mem := writeByte on.mem 0x1F80000 9 }

/-- Hypotheses of PoweringUp, step by step. -/
theorem witness_powering_up :
    (State.reset.pwr.phase = .off ∧ coldRails.pwr.phase = .cold false ∧ coldRails.pwr.enCore = true ∧ coldRails.pwr.pgCore = false) ∧
    (wfReadings 13 pins = true ∧ sampling.pwr.phase = .sampling ∧ sampling.pwr.wakeLatch.getLsbD 8 = false) ∧
    (standing.pwr.clkok = false ∧ standing.pwr.wakeLatch = 0 ∧ standing.pwr.qualified = true ∧ standing.straps.latched = true ∧ standing.time.begun = true) ∧
    ((raising id).pwr.phase = .run ∧ powered (raising id) 5 = false ∧ powered (raising id) 9 = true ∧ powered (raising id) 6 = false ∧ powered (raising id) 8 = false ∧ hostOn on.straps = true ∧ rowAOn on.straps = true) ∧
    ((raising ({ · with pd := 0xE23 })).pwr.phase = .run ∧ powered (raising ({ · with pd := 0xE23 })) 4 = false ∧ powered (raising ({ · with pd := 0xE23 })) 5 = true) ∧
    (raising ({ · with cleared := 15 })).pwr.fabricUp = false ∧
    ((pow ({ · with steady := false })).pwr.fabricUp = true ∧ loaded.stw.image.isSome = true) ∧
    gives (exec .vbatPowerOn State.reset) (fun t => t.pwr.phase == .cold false && t.pwr.pd == 1) = true ∧
    gives (exec .vbatPowerOff on) (fun t => t.pwr.phase == .off && t.pwr.pd == 0 && t.time.beat == 0 && !t.straps.latched) = true ∧
    gives (exec .firstTickEnIo { coldRails with pwr := { coldRails.pwr with enIo := false } }) (fun t => t.pwr.enIo) = true ∧
    gives (exec .pgIoRise { coldRails with pwr := { coldRails.pwr with pgIo := false, enCore := false } }) (fun t => t.pwr.enCore && t.pwr.pgIo) = true ∧
    gives (exec .pgCoreRise coldRails) (fun t => t.pwr.phase == .sampling && t.pwr.pd == 0xC03) = true ∧
    gives (exec .pgCoreRise { coldRails with pwr := { coldRails.pwr with phase := .rails } }) (fun t => t.pwr.phase == .locking) = true ∧
    gives (exec .sourceQualified { coldRails with pwr := { coldRails.pwr with qualified := false, pgCore := true } }) (fun t => t.pwr.phase == .sampling && t.pwr.qualified) = true ∧
    gives (exec .sourceQualified (pow ({ · with phase := .clockLost, clkok := false, qualified := false }))) (fun t => t.pwr.phase == .locking && t.pwr.wakeCause == 9) = true ∧
    gives (exec (.strapSamplingDone pins) sampling) (fun t => t.straps.latched && t.straps.beat == 0 && t.time.beat == 93 && t.pwr.phase == .locking) = true ∧
    gives (exec .pd0Tick standing) (fun t => t.time.beat == 131 && t.time.sub == 736) = true ∧
    gives (exec .pd0Tick { standing with time := { on.time with begun := false } }) (fun t => t.time.begun && t.time.beat == 100) = true ∧
    gives (exec .clkokRise (pow ({ · with phase := .locking, clkok := false, pd := 0xC03 }))) (fun t => t.pwr.phase == .run && t.pwr.pd == 0xE83 && t.pwr.enPhy && t.pwr.rate == 2) = true ∧
    gives (exec .phyRailWaitDone (raising id)) (fun t => t.pwr.pd == 0xF43) = true ∧
    gives (exec (.bankClearDone 3) (raising ({ · with clearing := 8 }))) (fun t => t.pwr.clearing == 0 && t.pwr.cleared == 8) = true ∧
    gives (exec .quadrantPowerUp (raising id)) (fun t => t.pwr.pd == 0xE23 && t.pwr.clearing == 8 && readByte t.mem 0x1F80000 == 0) = true ∧
    gives (exec .quadrantPowerUp (raising ({ · with pd := 0xE23 }))) (fun t => t.pwr.pd == 0xE33 && readByte t.mem 0x1F80000 == 9) = true ∧
    gives (exec .fabricUp (raising ({ · with cleared := 15 }))) (fun t => t.pwr.fabricUp && readWord t.mem 320 == 0x8000000000000000 && readWord t.mem 384 == 0 && t.stw.boot == .done) = true ∧
    gives (exec .steadyRise { (pow ({ · with steady := false })) with stw := { on.stw with boot := .done } }) (fun t => t.pwr.steady && t.time.steadyAt == 100) = true ∧
    gives (exec .steadyRise { (pow ({ · with steady := false })) with stw := { loaded.stw with boot := .done } }) (fun t => t.pwr.steady && t.stw.started) = true ∧
    ((pow id).time.edge.getLsbD 4 = true ∧ (raising id).time.edge.getLsbD 1 = true ∧ on.rowA.kept = [] ∧ on.rowB.kept = []) ∧
    (beforeStraps sampling.pwr = true ∧ sampling.pwr.resetN = true ∧ sampling.pwr.tamperN = true) ∧
    gives (exec .quadrantPowerUp (raising id)) (fun t => t.time.edge == 0x1D) = true := by
  and_intros <;> decide +kernel

/-- `on` under energy tier 1, at a level, with conversions. -/
def tier1 (level : BitVec 3) (n mv : Nat) : State :=
  { (pow ({ · with level := level, conversions := List.replicate n mv })) with straps := { on.straps with energy := 1 } }
/-- A new level is to take effect. -/
def changing (l : BitVec 3) (f : Power → Power) : State :=
  let s := tier1 4 0 0
  { s with pwr := f { s.pwr with newLevel := some l }, stw := graph.stw }
/-- A descent in a phase, with a byte in each memory. -/
def descent (ph : PowerPhase) : State :=
  { (pow ({ · with phase := ph, safeSent := 4 })) with mem := writeByte (writeByte on.mem 5 7) 0x10000005 8, stw := graph.stw }

/-- Hypotheses of the first clauses of LevelsLimitsAndDescents: the fifteenth and sixteenth conversion, readings at
a threshold, the limits. -/
theorem witness_levels :
    ((tier1 4 15 920).pwr.phase = .run ∧ (tier1 4 15 920).pwr.clkok = true ∧ (tier1 4 15 920).pwr.conversions.length = 15 ∧ energyTier (tier1 4 15 920).straps = 1) ∧
    (levelOf 1 920 = 4 ∧ levelOf 1 919 = 3 ∧ levelOf 1 (935 - 16) = 3) ∧
    (pow ({ · with phase := .wakeTest false 1, conversions := List.replicate 15 5 })).pwr.conversions.length < 16 ∧
    ((changing 0 id).pwr.newLevel = some 0 ∧ (changing 0 id).stw.started = true) ∧
    (runningSet 2 = 12 ∧ runningSet 4 = 15 ∧ vidOf 0 = 25 ∧ vidOf 1 = 15) ∧
    gives (exec (.esenseConversion 920) (tier1 4 15 920)) (fun t => t.pwr.reading == 920 && t.pwr.newLevel == none) = true ∧
    gives (exec (.esenseConversion 904) (tier1 4 15 920)) (fun t => t.pwr.reading == 919 && t.pwr.newLevel == some 3) = true ∧
    gives (exec (.esenseConversion 935) (tier1 3 15 935)) (fun t => t.pwr.newLevel == none) = true ∧
    gives (exec (.esenseConversion 936) (tier1 3 15 936)) (fun t => t.pwr.newLevel == some 4) = true ∧
    gives (exec (.esenseConversion 9999) (tier1 4 14 920)) (fun t => t.pwr.conversions == List.replicate 14 920 ++ [1200]) = true ∧
    gives (exec (.esenseConversion 7) (pow ({ · with phase := .wakeTest false 1, conversions := List.replicate 15 5 }))) (fun t => t.pwr.conversions.length == 16) = true ∧
    gives (exec .levelChange (changing 0 id)) (fun t => t.pwr.grace && t.pwr.limitQuads == 1 && t.pwr.limitRate == 2 && t.time.held.length == 1) = true ∧
    gives (exec .levelChange (changing 0 ({ · with phase := .tending }))) (fun t => t.pwr.phase == .descent .standby && t.pwr.exhaustMark) = true ∧
    gives (exec .limitStep (pow ({ · with limitQuads := 2, limitRate := 1 }))) (fun t => t.pwr.running == 12 && t.pwr.rate == 1) = true ∧
    gives (exec .limitStep (pow ({ · with rate := 1, vid := 25 }))) (fun t => t.pwr.rate == 0) = true ∧
    gives (exec .limitStep (pow ({ · with rate := 1, vid := 15 }))) (fun t => t.pwr.vid == 25 && t.pwr.rate == 1) = true ∧
    gives (exec .limitStep (pow ({ · with vid := 15 }))) (fun t => t.pwr.vid == 25) = true ∧
    gives (exec .limitStep (pow ({ · with running := 12 }))) (fun t => t.pwr.running == 14) = true ∧
    gives (exec .exhaustionGraceEnd (pow ({ · with grace := true }))) (fun t => t.pwr.sleepReq == some .standby && !t.pwr.grace && t.pwr.exhaustMark) = true ∧
    ((changing 0 id).time.edge.getLsbD 3 = true ∧ on.time.edge.getLsbD 0 = true ∧ (changing 3 ({ · with level := 4 })).pwr.newLevel = some 3) ∧
    gives (exec .limitStep (pow ({ · with limitQuads := 2, limitRate := 1 }))) (fun t => t.time.edge == 0x1E) = true ∧
    gives (exec .exhaustionGraceEnd (pow ({ · with grace := true, graceSleep := some .hibernate }))) (fun t => t.pwr.sleepReq == some .hibernate) = true := by
  and_intros <;> decide +kernel

/-- Hypotheses of the descent's clauses, for each destination. -/
theorem witness_descents :
    (pow ({ · with sleepReq := some .tending })).pwr.sleepReq = some .tending ∧
    (powered (descent (.descent .standby)) 9 = true ∧ 4 ≤ (descent (.descent .standby)).pwr.safeSent) ∧
    gives (exec .descentBegin (pow ({ · with sleepReq := some .tending }))) (fun t => t.pwr.phase == .descent .tending && !t.pwr.steady && t.pwr.running == 0 && t.pwr.rate == 2) = true ∧
    gives (exec .descentPd9PowerDown (descent (.descent .standby))) (fun t => t.pwr.phase == .descentOff .standby && t.pwr.pd == 0xDFF) = true ∧
    gives (exec .descentDomainsOff (descent (.descentOff .tending))) (fun t => t.pwr.phase == .tending && t.pwr.pd == 0xFC3 && !t.stw.started && readByte t.mem 5 == 0 && readByte t.mem 0x10000005 == 8) = true ∧
    gives (exec .descentDomainsOff (descent (.descentOff .standby))) (fun t => t.pwr.phase == .descentCore .standby && t.pwr.pd == 0x401 && readByte t.mem 5 == 0 && readByte t.mem 0x10000005 == 8) = true ∧
    gives (exec .descentDomainsOff (descent (.descentOff .hibernate))) (fun t => t.pwr.pd == 1 && readByte t.mem 0x10000005 == 0 && !t.pwr.clkok) = true ∧
    gives (exec .descentEnCoreOff (descent (.descentCore .standby))) (fun t => t.pwr.phase == .descentIo .standby && !t.pwr.enCore && t.pwr.vid == 10) = true ∧
    gives (exec .descentEnIoOff (descent (.descentIo .standby))) (fun t => t.pwr.phase == .standby && !t.pwr.enIo) = true ∧
    gives (exec .descentEnIoOff (descent (.descentIo .hibernate))) (fun t => t.pwr.phase == .hibernate) = true ∧
    (on.time.edge.getLsbD 2 = true ∧ halted (descent (.descent .standby)) = false) ∧
    gives (exec .beatBoundary (descent (.descent .standby))) (fun t => t.pwr.vid == 10) = true := by
  and_intros <;> decide +kernel

/-- A sleeping device without or with an energy tier; it heeds its wake sources. -/
def asleep (ph : PowerPhase) (tier : BitVec 3) : State :=
  { (pow ({ · with phase := ph, pd := 0x401, clkok := false, refused := 0 })) with straps := { on.straps with energy := tier, shut := 2, row := 4 } }
/-- The wake test has its 16 readings. -/
def testing (mv : Nat) : State :=
  let s := asleep (.wakeTest false 1) 1
  { s with pwr := { s.pwr with conversions := List.replicate 16 mv, wakeLatch := 2 } }
/-- The phase, the recorded cause and the powered domains. -/
def woken (o : Host.Outcome State Fault Refusal) : Option (PowerPhase × BitVec 4 × BitVec 12) :=
  match o with
  | .next t => some (t.pwr.phase, t.pwr.wakeCause, t.pwr.pd)
  | _ => none
/-- A running device with a byte in keep memory. -/
def kept (f : Power → Power) : State := { (pow f) with mem := writeByte on.mem 0x10000005 8 }
/-- The phase and the byte in keep memory. -/
def keptAfter (o : Host.Outcome State Fault Refusal) : Option (PowerPhase × Byte) :=
  match o with
  | .next t => some (t.pwr.phase, readByte t.mem 0x10000005)
  | _ => none

/-- Hypotheses of the wake clauses of WakesResetsAndFaults; the test at its threshold and 1 mV below. -/
theorem witness_wakes :
    (shutWake (asleep .standby 0).straps = true ∧ rowWake (asleep .standby 0).straps = true ∧ rowAOn (asleep .standby 0).straps = true ∧ rowBOn (asleep .standby 0).straps = true) ∧
    (energyTier (asleep .standby 0).straps = 0 ∧ energyTier (asleep .standby 1).straps = 1) ∧
    ((asleep .standby 0).pwr.refused.getLsbD 1 = false ∧ (testing 836).pwr.conversions.length = 16 ∧ tExhausted 1 + 16 = 836) ∧
    woken (exec .wakeNAssert (asleep .standby 0)) = some (.rails, 1, 0x401) ∧
    woken (exec .wakeNAssert (asleep .hibernate 0)) = some (.rails, 1, 0x401) ∧
    woken (exec .wakeNAssert (asleep .standby 1)) = some (.wakeTest false 1, 0, 0x401) ∧
    woken (exec .shWakeNAssert (asleep .standby 0)) = some (.rails, 2, 0x401) ∧
    woken (exec (.rowEnergyWake .a) (asleep .hibernate 1)) = some (.wakeTest true 3, 0, 0x401) ∧
    woken (exec (.rowEnergyWake .b) (asleep .standby 0)) = some (.rails, 4, 0x401) ∧
    woken (exec .wakeNAssert on) = some (.run, 0, 0xFFF) ∧
    gives (exec .wakeNAssert (asleep (.descent .standby) 0)) (fun t => t.pwr.wakeLatch == 2) = true ∧
    gives (exec (.rowEnergyWake .a) (asleep (.descent .standby) 0)) (fun t => t.pwr.wakeLatch == 0) = true ∧
    gives (exec .perstNRelease (pow ({ · with perstN := false }))) (fun t => t.pwr.perstN && t.pwr.phase == .run) = true ∧
    woken (exec .perstNRelease { (asleep .standby 0) with pwr := { (asleep .standby 0).pwr with perstN := false } }) = some (.rails, 6, 0x401) ∧
    woken (exec .wakeNAssert (asleep .tending 0)) = some (.run, 1, 0x401) ∧
    faceWaits { (asleep .tending 0) with time := { on.time with held := [⟨1, 6, 0, false, .host (tok 0)⟩] } } = true ∧
    woken (exec .faceTokenWake { (asleep .tending 0) with time := { on.time with held := [⟨1, 6, 0, false, .host (tok 0)⟩] } }) = some (.run, 7, 0x401) ∧
    woken (exec .wakeTestDone (testing 836)) = some (.rails, 1, 0x401) ∧
    gives (exec .wakeTestDone (testing 835)) (fun t => t.pwr.phase == .standby && t.pwr.refused == 2 && t.pwr.wakeRefusals == 1) = true ∧
((asleep .hibernate 1).pwr.phase = .hibernate ∧ { (asleep .hibernate 1).pwr with refused := 6 }.refused ≠ 0) ∧
    ((asleep .rails 0).pwr.phase = .rails ∧ (pow ({ · with wakeNew := true })).pwr.wakeNew = true) ∧
    gives (exec .wakeNAssert { (asleep .rails 0) with pwr := { (asleep .rails 0).pwr with wakeNew := true, wakeCause := 4 } }) (fun t => t.pwr.wakeCause == 1) = true ∧
    gives (exec .wakeNAssert { (asleep .rails 0) with pwr := { (asleep .rails 0).pwr with wakeNew := false, wakeCause := 4 } }) (fun t => t.pwr.wakeCause == 4) = true ∧
    gives (exec .wakeNAssert { (asleep .standby 0) with pwr := { (asleep .standby 0).pwr with refused := 2 } }) (fun t => t.pwr.phase == .standby) = true := by
  and_intros <;> decide +kernel

/-- Hypotheses of the clauses on resets, glitches, clock loss and supply faults. -/
theorem witness_resets :
    (beforeStraps on.pwr = false ∧ beforeStraps sampling.pwr = true ∧ powered on 1 = true ∧ on.pwr.clkok = true) ∧
    (supplyFails on.pwr .fellIo = true ∧ supplyFails on.pwr .fellCore = true ∧ supplyFails coldRails.pwr .late = true ∧ coldRails.straps.latched = false) ∧
    keptAfter (exec .resetNAssert (kept id)) = some (.held, 8) ∧
    keptAfter (exec .tamperNAssert (kept id)) = some (.held, 0) ∧
    gives (exec .resetNAssert sampling) (fun t => t.pwr.phase == .sampling && t.pwr.wakeLatch == 0x100 && !t.pwr.resetN) = true ∧
    woken (exec .resetNRelease (pow ({ · with phase := .held, resetN := false, enCore := false, enIo := false }))) = some (.rails, 8, 0xFFF) ∧
    gives (exec .resetNRelease (pow ({ · with phase := .held, resetN := false, tamperN := false }))) (fun t => t.pwr.phase == .held && t.pwr.resetN) = true ∧
    woken (exec .tamperNRelease (pow ({ · with phase := .held, tamperN := false, enCore := false, enIo := false }))) = some (.rails, 8, 0xFFF) ∧
    keptAfter (exec .glitchDetect (kept id)) = some (.held, 8) ∧
    keptAfter (exec .clockLost (kept id)) = some (.clockLost, 8) ∧
    keptAfter (exec (.supplyFault .fellIo) (kept id)) = some (.faulted, 8) ∧
    gives (exec (.supplyFault .late) coldRails) (fun t => t.pwr.phase == .cold true) = true ∧
    woken (exec .supplyFaultRestart (pow ({ · with phase := .faulted, pd := 0x401 }))) = some (.rails, 9, 0x401) ∧
    gives (exec .supplyFaultRestart { coldRails with pwr := { coldRails.pwr with phase := .cold true } }) (fun t => t.pwr.phase == .cold false && !t.pwr.qualified) = true ∧
    gives (exec .pd0Tick (pow ({ · with phase := .held, resetN := false }))) (fun t => !t.pwr.enCore && t.pwr.enIo && t.pwr.phase == .held) = true ∧
    gives (exec .pd0Tick (pow ({ · with phase := .held, enCore := false }))) (fun t => !t.pwr.enIo && t.pwr.phase == .held) = true ∧
    gives (exec .pd0Tick (pow ({ · with phase := .held, enCore := false, enIo := false }))) (fun t => t.pwr.phase == .rails && t.pwr.wakeCause == 8) = true ∧
    gives (exec .supplyFaultRestart (pow ({ · with phase := .faulted, pd := 0x401, resetN := false }))) (fun t => t.pwr.phase == .held) = true ∧
    gives (exec .resetNAssert State.reset) (fun t => !t.pwr.resetN) = true := by
  and_intros <;> decide +kernel

/-- Hypotheses of TestAccessPort; the lowest and the highest code of BYPASS. -/
theorem witness_test_access_port :
    (jtagUp on = true ∧ jtagUp State.reset = false) ∧
    gives (exec (.extest 0xA5) on) (fun t => t.jtag == ⟨0, 0xA5⟩) = true ∧
    gives (exec (.samplePreload 0xA5) on) (fun t => t.jtag == ⟨1, 0xA5⟩) = true ∧
    gives (exec .idcode on) (fun t => t.jtag.ir == 2 && t.out.length == 1) = true ∧
    gives (exec (.bypass 3) on) (fun t => t.jtag.ir == 15) = true ∧
    gives (exec (.bypass 15) on) (fun t => t.jtag.ir == 15) = true := by
  and_intros <;> decide +kernel

/-- Cell 182 fetches exactly this instruction from these bytes, whatever follows them. -/
def spells (bs : List Byte) (i : Instr) : Bool :=
  decodeIns 182 (bs ++ [0xFF, 0xFF]) == ⟨.ins i none, bs.length⟩
/-- These bytes break this rule. -/
def reserves (bs : List Byte) (rule : Nat) : Bool :=
  match decodeIns 182 bs with
  | ⟨.reserved n, _⟩ => n == rule
  | ⟨.ins _ (some n), _⟩ => n == rule
  | _ => false

/-- Bytes that chapters 5 and 6 give for their worked examples (R251, Tables 05-11 and 06-17). -/
theorem test_worked_example_bytes :
    spells [0x30, 0x10] (.mul 182 Pfx.none 1 0) = true ∧
    spells [0xE0, 0x50, 0x00, 0x0C, 0xB0, 0xDC, 0x16, 0x00, 0x94, 0x00] (.movi 182 Pfx.none 5 0x00940016DCB00C00) = true ∧
    spells [0x84, 0x40, 0x00] (.rdsr 182 Pfx.none 4 0) = true ∧
    spells [0x81, 0x44, 0x10] (.shri 182 Pfx.none 4 4 16) = true ∧
    spells [0x50, 0x54] (.send 182 Pfx.none 5 4) = true ∧
    spells [0x01] (.endStrand 182 Pfx.none) = true ∧
    spells [0xF5, 0xC0, 0x00, 0xD0, 0x8A, 0xFF, 0xFF] (.addi 182 { Pfx.none with sx := true } 0 0 0xFFFF8AD0) = true ∧
    spells [0x8A, 0x10, 0x23] (.tli 182 Pfx.none 1 0 3 2) = true := by
  and_intros <;> decide +kernel

/-- Bytes written out from Tables 05-4 to 06-16: one instruction of each family, prefixes, and the condition byte. -/
theorem test_opcode_map :
    spells [0xA0, 0x00, 0xFF, 0x3F] (.br 182 Pfx.none 0x3FFF) = true ∧
    spells [0xC5, 0x00, 0x02, 0x01, 0x05, 0x00] (.loopi 182 Pfx.none 5 0x102) = true ∧
    spells [0xF0, 0xF4, 0x2A, 0x11, 0x23] (.add 182 { w32 with cc := some (2, 10) } 2 3) = true ∧
    spells [0xA2, 0x12, 0x08, 0x10] (.bfx 182 Pfx.none 1 2 8 16) = true ∧
    spells [0x85, 0x03, 0x14] (.wrsr 182 Pfx.none 0x14 3) = true ∧
    spells [0x89, 0x12, 0x03] (.sel 182 Pfx.none 1 2 3) = true ∧
    spells [0xF3, 0x44, 0x12] (.st 182 rep 1 2) = true ∧
    spells [0x8D, 0x02, 0x04] (.put 182 Pfx.none 4 2) = true ∧
    spells [0xF6, 0xF1, 0x6F, 0x12] (.ucvtf 182 { Pfx.none with tr := true, fs32 := true } 1 2) = true ∧
    spells [0x57, 0x10] (.beat 182 Pfx.none 1) = true := by
  and_intros <;> decide +kernel

/-- What the tables reserve: opcodes, prefixes, repeats, a fourth prefix, a condition, and fields that are zero. -/
theorem test_reserved_bytes :
    (reserves [0x06] 181 = true ∧ reserves [0x9F, 0, 0] 181 = true ∧ reserves [0xE1] 181 = true) ∧
    (reserves [0xF7, 0x00] 179 = true ∧ reserves [0xFF] 179 = true) ∧
    (reserves [0xF0, 0xF0, 0x11, 0x12] 180 = true ∧ reserves [0xF0, 0xF1, 0xF2, 0xF3, 0x11] 180 = true) ∧
    (reserves [0xF1, 0xF2, 0x60, 0x12] 180 = true ∧ reserves [0xF3, 0x11, 0x12] 180 = true) ∧
    (reserves [0xF4, 0x70, 0x00] 183 = true ∧ reserves [0xF4, 0x80, 0x00] 183 = true ∧ reserves [0xF4, 0x41, 0x00] 183 = true) ∧
    (reserves [0xE0, 0x51, 0, 0, 0, 0, 0, 0, 0, 0] 182 = true ∧ reserves [0x57, 0x11] 207 = true) := by
  and_intros <;> decide +kernel

/-- Hypotheses of InstructionsReadBackFromTheirBytes, at the longest instruction; every prefix is spelled by its byte. -/
theorem witness_read_back :
    strandForm (.movi 9 { Pfx.none with cc := some (6, 15) } 15 0x8000000000000001) =
      some (9, { Pfx.none with cc := some (6, 15) }, encF) ∧
    encodable (.movi 9 { Pfx.none with cc := some (6, 15) } 15 0x8000000000000001) = true ∧
    encodeIns (.movi 9 { Pfx.none with cc := some (6, 15) } 15 0x8000000000000001) =
      some [0xF4, 0x6F, 0xE0, 0xF0, 1, 0, 0, 0, 0, 0, 0, 0x80] ∧
    decodeIns 9 [0xF4, 0x6F, 0xE0, 0xF0, 1, 0, 0, 0, 0, 0, 0, 0x80] =
      ⟨.ins (.movi 9 { Pfx.none with cc := some (6, 15) } 15 0x8000000000000001) none, 12⟩ := by
  and_intros <;> decide +kernel

/-- Hypotheses of UnpredictableLeaves: RESET_N, its release, and silence. -/
theorem witness_unpredictable :
    (on.pwr.phase ≠ .off ∧ beforeStraps on.pwr = false ∧ (die .operate 9).fd.state = .operate) ∧
    ((pow ({ · with phase := .held, enCore := false, enIo := false })).pwr.phase = .held ∧ on.pwr.tamperN = true) ∧
    fieldOn (die .operate 9).fd = 0xFF := by
  and_intros <;> decide

/-- The command is ill-formed, and what it lacks counts as absent (log 97). -/
def illFormed (c : Instr) (s : State := on) : Bool := !wellFormed c && gives (exec c s) (fun _ => true)

/-- The command is ill-formed, and nothing waits at the place it names, which does not exist (log 97). -/
def names (c : Instr) : Bool := !wellFormed c && (match exec c on with | .refused .nothingWaiting => true | _ => false)

/-- One ill-formed command for each check of `wellFormed`, at the first value that it shuts out. -/
theorem test_ill_formed :
    names (.streamTakeRequest 6) = true ∧
    (names (.streamPutRequest 0) = true ∧ names (.streamPutRequest 5) = true) ∧
    names (.sinkDiscard 1 false) = true ∧
    names (.flitForward 0 6 0) = true ∧
    names (.creditReturn 0 4 0 0) = true ∧
    names (.ageIncrement 0 6 0 0 false) = true ∧
    illFormed (.ringParamsReadDone .ok [1]) attaching = true ∧
    (illFormed (.bar0Write 0xFFFF [1, 2] false) = true ∧ illFormed (.bar0Write 0 [] false) = true) ∧
    (illFormed (.bar0Read 0xFFFF 2) = true ∧ illFormed (.bar0Read 0 0) = true) ∧
    illFormed (.bar23Read 0 4097) = true ∧
    illFormed (.bar23Write 0 [] false) = true ∧
    (illFormed (.hostLinkTrained 3 1) = true ∧ illFormed (.hostLinkTrained 1 0) = true ∧ illFormed (.hostLinkTrained 1 4) = true) ∧
    (illFormed (.fieldStrapSamplingDone [[0]]) (die .sampling 0) = true ∧ illFormed (.strapSamplingDone [[0]]) sampling = true) ∧
    (illFormed (.inputEdge 24 0) = true ∧ illFormed (.wirebreakSet 24) = true ∧ illFormed (.wirebreakClear 24) = true) ∧
    illFormed (.bypass 2) = true := by
  and_intros <;> decide +kernel

/-- R462 gives the CRC-16 of the nine bytes 123456789; the CRC-32 of IEEE 802.3 that R149 names has its published
check value. -/
theorem test_crc_of_digits :
    crc16 [0x31, 0x32, 0x33, 0x34, 0x35, 0x36, 0x37, 0x38, 0x39] = 0x29B1 ∧
    crc32 [0x31, 0x32, 0x33, 0x34, 0x35, 0x36, 0x37, 0x38, 0x39] = 0xCBF43926 := by
  and_intros <;> decide +kernel

end Sys2Proof.Tests
end

/-! # Strands: the loop check, branches and loops, special registers (chapter 5)

Every instruction of a strand passes the same checks before it acts, and ends in `retire`; the loop check there is
described once for the highest-numbered active level (R186). -/

section
namespace Sys2Proof.Machine

open Sys2Proof

/-! ## Loop levels (R185) -/

theorem topLevel_eq_some {r : Regs} {j : Fin 4} (h : TopLoop r j) : topLevel r = some j := by
  obtain ⟨active, above⟩ := h
  fin_cases j <;> simp_all [topLevel, Fin.forall_fin_succ]

theorem topLoop_of_topLevel {r : Regs} {j : Fin 4} (h : topLevel r = some j) : TopLoop r j := by
  unfold topLevel at h
  split_ifs at h <;> cases h <;> simp_all [TopLoop, Fin.forall_fin_succ]

theorem topLevel_eq_none {r : Regs} (h : ∀ i : Fin 4, r.lc[i] = 0) : topLevel r = none := by
  simp_all [topLevel, Fin.forall_fin_succ]

theorem freeLevel_eq_some {r : Regs} {j : Fin 4} (h : FreeLoop r j) : freeLevel r = some j := by
  obtain ⟨inactive, below⟩ := h
  fin_cases j <;> simp_all [freeLevel, Fin.forall_fin_succ]

theorem freeLevel_eq_none {r : Regs} (h : ∀ i : Fin 4, r.lc[i] ≠ 0) : freeLevel r = none := by
  simp_all [freeLevel, Fin.forall_fin_succ]

/-- Every loop level from number `n` on is inactive. -/
def NoLoopFrom (n : Nat) (r : Regs) : Prop := ∀ i : Fin 4, n ≤ i.val → r.lc[i] = 0

/-- There are no levels from 4 on. -/
theorem noLoopFrom_four (r : Regs) : NoLoopFrom 4 r := fun i h => absurd i.isLt (by omega)

/-- Closing the highest-numbered active level leaves only lower ones active. -/
theorem noLoopFrom_setLc_top {r : Regs} {j : Fin 4} (h : TopLoop r j) : NoLoopFrom j (setLc r j 0) := by
  intro i hi
  by_cases hij : j = i
  · simp [setLc, hij]
  · have above := h.2 i (by omega)
    simp_all [setLc, Fin.ext_iff]

/-! ## The loop check (R186) -/

theorem loopCheck_top (n : Nat) {r : Regs} {j : Fin 4} (h : TopLoop r j) (a : BitVec 15) :
    loopCheck (n + 1) r a =
      if a ≠ r.le[j].setWidth 15 then { r with pc := a }
      else if r.ls[j].setWidth 15 = a then loopCheck n (setLc r j 0) a
      else if 1 < r.lc[j].toNat then { setLc r j (r.lc[j] - 1) with pc := r.ls[j].setWidth 15 }
      else loopCheck n (setLc r j 0) a := by
  rw [loopCheck, topLevel_eq_some h]

/-- Each repeat of the check closes a level below the last, so with none active from `n` on, `n` repeats suffice. -/
theorem loopCheck_succ {n : Nat} {r : Regs} (h : NoLoopFrom n r) (a : BitVec 15) :
    loopCheck (n + 1) r a = loopCheck n r a := by
  induction n generalizing r with
  | zero => rw [loopCheck_no_loop _ (topLevel_eq_none fun i => h i (Nat.zero_le _)), loopCheck]
  | succ n ih =>
    cases htop : topLevel r with
    | none => rw [loopCheck_no_loop _ htop, loopCheck_no_loop _ htop]
    | some j =>
      have top := topLoop_of_topLevel htop
      have hj : j.val < n + 1 := not_le.mp fun hle => top.1 (h j hle)
      have closed : NoLoopFrom n (setLc r j 0) := fun i hi => noLoopFrom_setLc_top top i (by omega)
      rw [loopCheck_top _ top, loopCheck_top _ top, ih closed]

/-- The registers on which an instruction's end makes the loop check: the pending product is written, and a product of
the instruction's own is pending (R190). -/
def begun (r : Regs) (own : Option (BitVec 128)) : Regs := { commitProduct r with pend := own }

theorem retire_eq (r : Regs) (own : Option (BitVec 128)) (a : BitVec 15) :
    retire r own a = loopCheck 5 (begun r own) a := rfl

@[simp] theorem begun_lc (r : Regs) (own : Option (BitVec 128)) : (begun r own).lc = r.lc := commitProduct_lc r
@[simp] theorem begun_ls (r : Regs) (own : Option (BitVec 128)) : (begun r own).ls = r.ls := commitProduct_ls r
@[simp] theorem begun_le (r : Regs) (own : Option (BitVec 128)) : (begun r own).le = r.le := commitProduct_le r

theorem begun_setLc (r : Regs) (own : Option (BitVec 128)) (j : Fin 4) (n : BitVec 32) :
    begun (setLc r j n) own = setLc (begun r own) j n := by
  cases hp : r.pend <;> simp [begun, commitProduct, setLc, hp]

theorem topLoop_begun {r : Regs} {j : Fin 4} (own : Option (BitVec 128)) : TopLoop (begun r own) j ↔ TopLoop r j := by
  simp [TopLoop]

theorem retire_no_loop {r : Regs} (h : ∀ i : Fin 4, r.lc[i] = 0) (own : Option (BitVec 128)) (a : BitVec 15) :
    retire r own a = { begun r own with pc := a } :=
  loopCheck_no_loop 5 (topLevel_eq_none (by simpa using h)) a

/-- The end of an instruction with a loop active: steps 2 to 5 of R186 for the highest-numbered active level. A level
that closes leaves an end like that of an instruction without the level. -/
theorem retire_top {r : Regs} {j : Fin 4} (h : TopLoop r j) (own : Option (BitVec 128)) (a : BitVec 15) :
    retire r own a =
      if a ≠ r.le[j].setWidth 15 then { begun r own with pc := a }
      else if r.ls[j].setWidth 15 = a then retire (setLc r j 0) own a
      else if 1 < r.lc[j].toNat then { setLc (begun r own) j (r.lc[j] - 1) with pc := r.ls[j].setWidth 15 }
      else retire (setLc r j 0) own a := by
  rw [retire_eq, loopCheck_top 4 ((topLoop_begun own).mpr h), retire_eq, begun_setLc,
    loopCheck_succ (noLoopFrom_four (setLc (begun r own) j 0))]
  simp only [begun_lc, begun_ls, begun_le]

@[simp] theorem regsAt_afterTo (s : State) (c : CellId) (p : Pfx) (k : Enc) (r : Regs) (own : Option (BitVec 128))
    (a : BitVec 15) : regsAt (afterTo s c p k r own a) c = retire r own a := regsAt_complete ..

theorem regsAt_afterIteration_last {s : State} {c : CellId} (h : (regsAt s c).bc = 1) (p : Pfx) (k : Enc) (size : Nat)
    (m : Msg) : regsAt (afterIteration s c p k size m) c =
      retire { regsAt s c with bs := (regsAt s c).bs + BitVec.ofNat 48 size,
                               bd := (regsAt s c).bd + BitVec.ofNat 48 size, bc := 0 } none
        ((regsAt s c).pc + BitVec.ofNat 15 (insLen k p)) := by
  simp [afterIteration, h]

/-! ## What every instruction shares: its checks (R179 to R184) -/

/-- The outcome is that of instruction `i`'s checks, followed by some effect of its own. -/
inductive IssuesAs (s : State) (i : Instr) (c : CellId) (p : Pfx) (k : Enc) : Host.Outcome State Fault Refusal → Prop
  | mk (bad : Option Nat) (uses : List Reg) (sends many : Bool) (effect : State → State) :
    IssuesAs s i c p k (issue s i c p k bad uses sends many effect)

theorem regIns_issues (s i c p k bad uses f) : IssuesAs s i c p k (regIns s i c p k bad uses f) := .mk ..
theorem binIns_issues (s i c p k rd rs f) : IssuesAs s i c p k (binIns s i c p k rd rs f) := regIns_issues ..
theorem immIns_issues (s i c p k rd rs f) : IssuesAs s i c p k (immIns s i c p k rd rs f) := regIns_issues ..
theorem carryIns_issues (s i c p k uses rd f) : IssuesAs s i c p k (carryIns s i c p k uses rd f) := regIns_issues ..
theorem mulIns_issues (s i c p rd rs f) : IssuesAs s i c p encBW (mulIns s i c p rd rs f) := .mk ..
theorem divIns_issues (s i c p rd rs f) : IssuesAs s i c p encBWS (divIns s i c p rd rs f) := .mk ..
theorem branchIns_issues (s i c p k uses f) : IssuesAs s i c p k (branchIns s i c p k uses f) := .mk ..
theorem loopIns_issues (s i c p k uses f e) : IssuesAs s i c p k (loopIns s i c p k uses f e) := .mk ..
theorem sendIns_issues (s i c p k bad uses cause msg) :
    IssuesAs s i c p k (sendIns s i c p k bad uses cause msg) := .mk ..
theorem tokenIns_issues (s i c p rd rs flags) : IssuesAs s i c p encB (tokenIns s i c p rd rs flags) :=
  sendIns_issues ..
theorem loadIns_issues (s i c p k rd rs n) : IssuesAs s i c p k (loadIns s i c p k rd rs n) := sendIns_issues ..
theorem repIns_issues (s i c p k uses cause size bad src dst msg) :
    IssuesAs s i c p k (repIns s i c p k uses cause size bad src dst msg) := .mk ..
theorem storeIns_issues (s i c p rd rs n) : IssuesAs s i c p encBR (storeIns s i c p rd rs n) := repIns_issues ..
theorem elementsIns_issues (s i c p rd rs scatter bad base msg) :
    IssuesAs s i c p encB (elementsIns s i c p rd rs scatter bad base msg) := .mk ..
theorem fpIns_issues (s i c p k rd uses f) : IssuesAs s i c p k (fpIns s i c p k rd uses f) := .mk ..
theorem fpBin_issues (s i c p rd rs f) : IssuesAs s i c p encBFT (fpBin s i c p rd rs f) := fpIns_issues ..
theorem fpToIntIns_issues (s i c p rd rs signed toZero) :
    IssuesAs s i c p encBFTWS (fpToIntIns s i c p rd rs signed toZero) := fpIns_issues ..
theorem fmaIns_issues (s i c p rd rs rt negProd negAdd) :
    IssuesAs s i c p encCFT (fmaIns s i c p rd rs rt negProd negAdd) := fpIns_issues ..
theorem lookupIns_issues (s i c p k float rd rs rt kcode) :
    IssuesAs s i c p k (lookupIns s i c p k float rd rs rt kcode) := .mk ..

/-- Every instruction that bytes spell passes the checks of its own opcode; the cases are the forms of instructions, and
a command that is no instruction has no bytes. -/
theorem exec_issues {i : Instr} {c : CellId} {p : Pfx} {k : Enc} (h : strandForm i = some (c, p, k)) (s : State) :
    IssuesAs s i c p k (exec i s) := by
  cases i with
  | nop | lbrk | movi32 | movi | sel | wrsr | beat | fneg | fabs =>
    cases h; dsimp only [exec]; exact regIns_issues ..
  | mov | andOp | orOp | xor | notOp | neg | shl | shr | sar | ror | clz | ctz | popc | cmpeq | cmplt | cmpltu | min
  | max | minu | maxu | bfi => cases h; dsimp only [exec]; exact binIns_issues ..
  | shli | shri | sari | rori | andi | ori | xori | bfx | bfxs => cases h; dsimp only [exec]; exact immIns_issues ..
  | add | sub | adc | sbc | addi => cases h; dsimp only [exec]; exact carryIns_issues ..
  | mul | muls | mulsu => cases h; dsimp only [exec]; exact mulIns_issues ..
  | divu | divs => cases h; dsimp only [exec]; exact divIns_issues ..
  | jr | br => cases h; dsimp only [exec]; exact branchIns_issues ..
  | loop | loopi => cases h; dsimp only [exec]; exact loopIns_issues ..
  | retire | iload | take | put | facq => cases h; dsimp only [exec]; exact sendIns_issues ..
  | send | sendc | sends | sendp => cases h; dsimp only [exec]; exact tokenIns_issues ..
  | ld | ldw | ldh | ldb => cases h; dsimp only [exec]; exact loadIns_issues ..
  | istore | iclear | bmov => cases h; dsimp only [exec, execBmov]; exact repIns_issues ..
  | st | stw | sth | stb => cases h; dsimp only [exec]; exact storeIns_issues ..
  | gather | scatter => cases h; dsimp only [exec, execGather, execScatter]; exact elementsIns_issues ..
  | fcvtf | icvtf | ucvtf => cases h; dsimp only [exec]; exact fpIns_issues ..
  | fadd | fsub | fmul | fdiv | fmin | fmax | fcmpeq | fcmplt | fcmple | fcmpun =>
    cases h; dsimp only [exec]; exact fpBin_issues ..
  | fcvti | fcvtiz | fcvtu => cases h; dsimp only [exec]; exact fpToIntIns_issues ..
  | fma | fms | fnma => cases h; dsimp only [exec]; exact fmaIns_issues ..
  | tli | tlif => cases h; dsimp only [exec]; exact lookupIns_issues ..
  | endStrand | fbar | tableauInstr | rdsr | frel => cases h; dsimp only [exec]; exact .mk ..
  | _ => cases h

/-- An instruction that can issue and whose condition is false only goes on to the next address (R183). -/
theorem exec_of_condition_false {s : State} {i : Instr} {c : CellId} {p : Pfx} {k : Enc} (h : CanIssue s i c p k)
    (hc : ccHolds p (regsAt s c) = false) : exec i s = .next (after s c p k (regsAt s c)) := by
  have hi := exec_issues h.1 s
  generalize exec i s = o at hi ⊢
  cases hi
  exact issue_of_condition_false h hc ..

/-! ## Branches and loops (R185, R187, R212) -/

theorem exec_nop (c p s) : exec (.nop c p) s = execNop c p s := rfl
theorem exec_lbrk (c p s) : exec (.lbrk c p) s = execLbrk c p s := rfl
theorem exec_jr (c p rs s) : exec (.jr c p rs) s = execJr c p rs s := rfl
theorem exec_br (c p a s) : exec (.br c p a) s = execBr c p a s := rfl
theorem exec_loop (c p rs a s) : exec (.loop c p rs a) s = execLoop c p rs a s := rfl
theorem exec_loopi (c p n a s) : exec (.loopi c p n a) s = execLoopi c p n a s := rfl

theorem branchIns_of_executes {s : State} {i : Instr} {c : CellId} {p : Pfx} {k : Enc} {uses : List Reg}
    (h : Executes s i c p k uses) (target : Regs → BitVec 14) :
    branchIns s i c p k uses target =
      .next (afterTo s c p k (regsAt s c) none ((target (regsAt s c)).setWidth 15)) := by
  rw [branchIns, issue_of_executes h rfl]
  simp [afterTo]

theorem execLbrk_of_top {s : State} {c : CellId} {p : Pfx} (h : Executes s (.lbrk c p) c p encA []) {j : Fin 4}
    (hj : TopLoop (regsAt s c) j) :
    execLbrk c p s = .next (after s c p encA { regsAt s c with lc := (regsAt s c).lc.set j 0 }) := by
  rw [execLbrk, regIns_of_executes h rfl, topLevel_eq_some hj]
  rfl

theorem execLbrk_of_no_loop {s : State} {c : CellId} {p : Pfx} (h : Executes s (.lbrk c p) c p encA [])
    (hn : ∀ i : Fin 4, (regsAt s c).lc[i] = 0) : execLbrk c p s = .next (after s c p encA (regsAt s c)) := by
  rw [execLbrk, regIns_of_executes h rfl, topLevel_eq_none hn]

section LoopInstruction

variable {s : State} {i : Instr} {c : CellId} {p : Pfx} {k : Enc} {uses : List Reg} (count : Regs → BitVec 32)
  (h : Executes s i c p k uses) (e : BitVec 14)
include h

theorem loopIns_of_zero (hz : count (regsAt s c) = 0) :
    loopIns s i c p k uses count e = .next (afterTo s c p k (regsAt s c) none (e.setWidth 15)) := by
  rw [loopIns, issue_of_executes h (by simp [loopBad, hz])]
  simp [afterTo, hz]

theorem loopIns_of_free {j : Fin 4} (hz : count (regsAt s c) ≠ 0) (hj : FreeLoop (regsAt s c) j) :
    loopIns s i c p k uses count e = .next (afterTo s c p k
      { regsAt s c with ls := (regsAt s c).ls.set j ((nextAddr (regsAt s c) k p).setWidth 14),
                        le := (regsAt s c).le.set j e, lc := (regsAt s c).lc.set j (count (regsAt s c)) }
      none (nextAddr (regsAt s c) k p)) := by
  have hf := freeLevel_eq_some hj
  rw [loopIns, issue_of_executes h (by simp [loopBad, hf])]
  simp only [regsAt_fetched, if_neg hz, hf, afterTo]

theorem loopIns_of_full (hz : count (regsAt s c) ≠ 0) (hf : ∀ j : Fin 4, (regsAt s c).lc[j] ≠ 0) :
    loopIns s i c p k uses count e = unpredictable 185 s := by
  have bad : loopBad (regsAt s c) (count (regsAt s c)) = some 185 :=
    if_pos ⟨hz, Option.isNone_iff_eq_none.mpr (freeLevel_eq_none hf)⟩
  rw [loopIns, issue_of_bad h bad]

end LoopInstruction

/-! ## Special registers (R172, R173, Table 05-2) -/

theorem exec_rdsr (c p rd idx s) : exec (.rdsr c p rd idx) s = execRdsr c p rd idx s := rfl
theorem exec_wrsr (c p idx rs s) : exec (.wrsr c p idx rs) s = execWrsr c p idx rs s := rfl
theorem exec_beat (c p rd s) : exec (.beat c p rd) s = execBeat c p rd s := rfl

@[simp] theorem writeSr_g (r : Regs) (i : BitVec 8) (v : W64) : (writeSr r i v).g = r.g := by
  unfold writeSr; split <;> rfl
@[simp] theorem writeSr_pc (r : Regs) (i : BitVec 8) (v : W64) : (writeSr r i v).pc = r.pc := by
  unfold writeSr; split <;> rfl
@[simp] theorem writeSr_pend (r : Regs) (i : BitVec 8) (v : W64) : (writeSr r i v).pend = r.pend := by
  unfold writeSr; split <;> rfl

/-- TAG0 to TAG3 and FEAT0 to FEAT3 have no written width. -/
theorem srWidth_of_readOnly : ∀ i : BitVec 8, 0x18 ≤ i.toNat → srWidth i = 0 := by decide

theorem writeSr_of_width_zero {i : BitVec 8} (h : srWidth i = 0) (r : Regs) (v : W64) : writeSr r i v = r := by
  unfold writeSr
  split
  case h_22 => rfl
  all_goals simp_all [srWidth]

/-- The special registers that WRSR writes. -/
def writtenSrs : List (BitVec 8) :=
  [0x00, 0x01, 0x02, 0x03, 0x04, 0x05, 0x08, 0x09, 0x0A, 0x0B, 0x0C, 0x0D, 0x0E, 0x0F, 0x10, 0x11, 0x12, 0x13,
   0x14, 0x15, 0x16]

theorem mem_writtenSrs : ∀ i : BitVec 8, 0 < srWidth i → i ∈ writtenSrs := by decide

theorem ofBool_bit_zero (v : W64) : BitVec.ofBool v[0] = v.extractLsb' 0 1 := by
  rw [← BitVec.setWidth_eq_extractLsb' (by decide), BitVec.setWidth_one, BitVec.getLsbD_eq_getElem]

/-- A special register reads as the low bits that were written to it. -/
theorem readSr_writeSr_same {i : BitVec 8} (h : 0 < srWidth i) (x : Straps) (r : Regs) (v : W64) :
    readSr x (writeSr r i v) i = (v.extractLsb' 0 (srWidth i)).setWidth 64 := by
  have hi := mem_writtenSrs i h
  rw [writtenSrs] at hi
  fin_cases hi <;> simp [readSr, writeSr, srWidth, BitVec.setWidth_eq_extractLsb', ofBool_bit_zero]

/-- Writing a special register leaves every other as it was: it stands in another field, or it is another level's
element of the same field. -/
theorem readSr_writeSr_other {i j : BitVec 8} (h : j ≠ i) (x : Straps) (r : Regs) (v : W64) :
    readSr x (writeSr r i v) j = readSr x r j := by
  have hn : j.toNat ≠ i.toNat := fun e => h (BitVec.eq_of_toNat_eq e)
  generalize hi : i.toNat = m at hn
  generalize hj : j.toNat = n at hn
  unfold writeSr readSr
  rw [hi, hj]
  clear hi hj h
  split
  case h_26 | h_27 | h_28 | h_29 | h_30 => rfl
  all_goals (split <;> try rfl)
  all_goals simp_all

theorem readSr_cf (x : Straps) (r : Regs) : readSr x r 0x02 = bit64 r.cf := by
  show (BitVec.ofBool r.cf).setWidth 64 = bit64 r.cf
  cases r.cf <;> rfl

theorem readSr_loop (x : Straps) (r : Regs) (i : Fin 4) :
    readSr x r (BitVec.ofNat 8 (0x08 + i)) = r.ls[i].setWidth 64 ∧
    readSr x r (BitVec.ofNat 8 (0x0C + i)) = r.le[i].setWidth 64 ∧
    readSr x r (BitVec.ofNat 8 (0x10 + i)) = r.lc[i].setWidth 64 := by
  fin_cases i <;> exact ⟨rfl, rfl, rfl⟩

theorem srBad_of_reserved {i : BitVec 8} (h : srReserved i = true) : srBad i = some 172 := if_pos h
theorem srBad_of_defined {i : BitVec 8} (h : srReserved i = false) : srBad i = none := by simp [srBad, h]

theorem execWrsr_of_executes {s : State} {c : CellId} {p : Pfx} {idx : BitVec 8} {rs : Reg}
    (h : Executes s (.wrsr c p idx rs) c p encC [rs]) (hr : srReserved idx = false) :
    execWrsr c p idx rs s = .next (after s c p encC (writeSr (regsAt s c) idx (getG (regsAt s c) rs))) := by
  rw [execWrsr, regIns_of_executes h (srBad_of_defined hr)]

theorem execWrsr_of_reserved {s : State} {c : CellId} {p : Pfx} {idx : BitVec 8} {rs : Reg}
    (h : Executes s (.wrsr c p idx rs) c p encC [rs]) (hr : srReserved idx = true) :
    execWrsr c p idx rs s = unpredictable 172 s := by
  rw [execWrsr, regIns, issue_of_bad h (srBad_of_reserved hr)]

theorem execRdsr_of_reserved {s : State} {c : CellId} {p : Pfx} {rd : Reg} {idx : BitVec 8}
    (h : Executes s (.rdsr c p rd idx) c p encC [rd]) (hr : srReserved idx = true) :
    execRdsr c p rd idx s = unpredictable 172 s := by
  rw [execRdsr, issue_of_bad h (srBad_of_reserved hr)]

/-- RDSR of FS waits for the operations that may still write it (Table 05-10). -/
theorem execRdsr_fs_waits {s : State} {c : CellId} {p : Pfx} {rd : Reg}
    (h : Executes s (.rdsr c p rd 3) c p encC [rd]) (ho : (engineAt s c).fpOut ≠ []) :
    execRdsr c p rd 3 s = .next (stalled (fetched s c (insLen encC p)) c 7) := by
  rw [execRdsr, issue_of_executes h (srBad_of_defined rfl)]
  simp [ho]

theorem execRdsr_of_executes {s : State} {c : CellId} {p : Pfx} {rd : Reg} {idx : BitVec 8}
    (h : Executes s (.rdsr c p rd idx) c p encC [rd]) (hr : srReserved idx = false)
    (ho : idx = 3 → (engineAt s c).fpOut = []) :
    execRdsr c p rd idx s =
      .next (after s c p encC (setG (regsAt s c) rd (readSr s.straps (regsAt s c) idx))) := by
  rw [execRdsr, issue_of_executes h (srBad_of_defined hr)]
  simp only [engineAt_fetched, fetched_straps, if_neg (fun w : idx = 3 ∧ (engineAt s c).fpOut ≠ [] => w.2 (ho w.1))]
  rfl

end Sys2Proof.Machine

namespace Sys2Proof.Strands

open Sys2Proof Machine

/-- Settles O18: each repeat of the check closes a level, so the check that a closing level leaves to be made is the
check of an instruction without that level. -/
theorem loopCheck : Obligations.LoopCheck := by
  unfold Obligations.LoopCheck
  refine ⟨fun r own a => ⟨fun h => retire_no_loop h own a, fun j top => ?_⟩, regsAt_afterTo,
    fun s i c p k h hc => ⟨_, exec_of_condition_false h hc, regsAt_afterTo ..⟩,
    fun s c p k size m h => regsAt_afterIteration_last h p k size m⟩
  rw [retire_top top]
  refine ⟨fun ha => ?_, fun ha hs => ?_, fun ha hs hn => ?_, fun ha hs hn => ?_⟩
  · rw [if_pos ha]; rfl
  · rw [if_neg (not_not.mpr ha), if_pos hs]; rfl
  · rw [if_neg (not_not.mpr ha), if_neg hs, if_pos hn, setLc, begun_lc]; rfl
  · rw [if_neg (not_not.mpr ha), if_neg hs, if_neg (by omega)]; rfl

/-- Settles O20: what WRSR writes and leaves is said of `writeSr`, and the instruction ends with the registers it
gives. -/
theorem specialRegisters : Obligations.SpecialRegisters := by
  unfold Obligations.SpecialRegisters
  intro s c p rd rs idx r v x
  refine ⟨fun h hr => ?_, fun h hr => ?_, fun h hr => ?_, fun h ho => ?_, fun h hr ho => ?_, fun h => ?_, ?_,
    readSr_loop x r⟩
  · exact ⟨writeSr r idx v, (exec_wrsr ..).trans (execWrsr_of_executes h hr), writeSr_g .., writeSr_pc ..,
      writeSr_pend .., fun j _ hj => readSr_writeSr_other hj x r v, fun hw => readSr_writeSr_same hw x r v,
      fun hi => writeSr_of_width_zero (srWidth_of_readOnly idx hi) r v⟩
  · exact (exec_wrsr ..).trans (execWrsr_of_reserved h hr)
  · exact (exec_rdsr ..).trans (execRdsr_of_reserved h hr)
  · exact (exec_rdsr ..).trans (execRdsr_fs_waits h ho)
  · exact (exec_rdsr ..).trans (execRdsr_of_executes h hr ho)
  · rw [exec_beat, execBeat, regIns_of_executes h rfl]
  · exact ⟨rfl, rfl, readSr_cf x r, rfl, rfl, rfl, rfl, rfl, rfl, rfl, rfl, rfl, rfl⟩

/-- Settles O21: each instruction's form, with the level that the model's search finds. -/
theorem branchesAndLoops : Obligations.BranchesAndLoops := by
  unfold Obligations.BranchesAndLoops Unpredictable
  intro s c p rs a n r
  refine ⟨fun h => ?_, fun h j hj => ?_, fun h hn => ?_, fun h => ?_, fun h => ?_, fun h => ?_, fun h => ?_⟩
  · rw [exec_nop, execNop, regIns_of_executes h rfl]
  · rw [exec_lbrk, execLbrk_of_top h hj]
  · rw [exec_lbrk, execLbrk_of_no_loop h hn]
  · rw [exec_jr, execJr, branchIns_of_executes h, BitVec.setWidth_eq_extractLsb' (w := 14) (by decide)]
  · rw [exec_br, execBr, branchIns_of_executes h]
  · have hc : (getG r rs).setWidth 32 = (getG r rs).extractLsb' 0 32 := BitVec.setWidth_eq_extractLsb' (by decide)
    rw [exec_loop, execLoop, ← hc]
    exact ⟨fun hz => loopIns_of_zero _ h a hz, fun j hz hj => loopIns_of_free _ h a hz hj,
      fun hz hf => loopIns_of_full _ h a hz hf⟩
  · have hc : n ≠ 0 → n.setWidth 32 ≠ 0 := by bv_omega
    rw [exec_loopi, execLoopi]
    exact ⟨fun hz => loopIns_of_zero _ h a (by rw [hz]; rfl), fun j hz hj => loopIns_of_free _ h a (hc hz) hj,
      fun hz hf => loopIns_of_full _ h a (hc hz) hf⟩

end Sys2Proof.Strands
end

/-! # The instruction reference: sums, products, divisions, bit fields (chapter 6)

The model computes on masked words; the statements speak of operands and results as Table 05-4 words them. The two
readings are tied together once, and each group of instructions then has one lemma about the values it computes. -/

section
namespace Sys2Proof.Machine

open Sys2Proof

/-! ## Operands and results (Table 05-4) -/

theorem usedNat_eq_mod (p : Pfx) (x : W64) : usedNat p x = x.toNat % 2 ^ opWidth p := by
  unfold usedNat opWidth
  split <;> simp [Nat.mod_eq_of_lt x.isLt]

@[simp] theorem narrow_toNat (p : Pfx) (x : W64) : (narrow p.w32 x).toNat = usedNat p x := by
  cases h : p.w32
  · simp [narrow, usedNat, h]
  · simpa [narrow, usedNat, h] using Nat.and_two_pow_sub_one_eq_mod x.toNat 32

@[simp] theorem signedV_eq_usedInt (p : Pfx) (x : W64) : signedV p x = usedInt p x := by
  simp [signedV, usedInt, BitVec.setWidth_eq_extractLsb']

@[simp] theorem usedNat_narrow (p : Pfx) (x : W64) : usedNat p (narrow p.w32 x) = usedNat p x := by
  rw [usedNat_eq_mod, narrow_toNat, usedNat_eq_mod, Nat.mod_mod]

theorem usedNat_ofNat (p : Pfx) (n : Nat) : usedNat p (BitVec.ofNat 64 n) = n % 2 ^ opWidth p := by
  rw [usedNat_eq_mod, BitVec.toNat_ofNat]
  unfold opWidth
  split <;> omega

theorem usedNat_lt (p : Pfx) (x : W64) : usedNat p x < 2 ^ opWidth p := by
  rw [usedNat_eq_mod]
  exact Nat.mod_lt _ (by positivity)

@[simp] theorem place_eq_cut (p : Pfx) (x : W64) : place p x = cut p x := by
  have low : narrow true x = (x.extractLsb' 0 32).setWidth 64 := by
    apply BitVec.eq_of_toNat_eq
    rw [BitVec.toNat_setWidth_of_le (by decide), BitVec.extractLsb'_toNat]
    exact Nat.and_two_pow_sub_one_eq_mod x.toNat 32
  simp [place, cut, low, BitVec.setWidth_eq_extractLsb']

/-- A result is written by its low bits, those of the operation's width. -/
theorem cut_congr {p : Pfx} {x y : W64} (h : usedNat p x = usedNat p y) : cut p x = cut p y := by
  cases hw : p.w32 <;> simp only [usedNat, hw, if_true, Bool.false_eq_true, if_false] at h
  · rw [BitVec.eq_of_toNat_eq h]
  · simp only [cut, BitVec.eq_of_toNat_eq h, hw, if_true]

/-! ## Sums, differences and CF (R216) -/

theorem bit64_toNat (b : Bool) : (bit64 b).toNat = b.toNat := by cases b <;> rfl

theorem bit64_false : bit64 false = 0 := rfl

/-- A sum of two operands and a carry is less than twice the modulus, so its bit above the width says whether it
overflows. -/
theorem carryOut_sum (p : Pfx) (a b : W64) (cin : Bool) :
    carryOut p (usedNat p a + usedNat p b + cin.toNat) =
      if p.w32 then decide (2 ^ 32 ≤ usedNat p a + usedNat p b + cin.toNat)
      else decide (2 ^ 64 ≤ usedNat p a + usedNat p b + cin.toNat) := by
  have ha := usedNat_lt p a
  have hb := usedNat_lt p b
  have hc := cin.toNat_le
  rw [carryOut, Nat.testBit_eq_decide_div_mod_eq, Nat.testBit_eq_decide_div_mod_eq]
  unfold opWidth at *
  split at ha
  case isTrue w32 => simp only [if_pos w32, decide_eq_decide] at hb ⊢; omega
  case isFalse w64 => simp only [if_neg w64, decide_eq_decide] at hb ⊢; omega

theorem addFlags_eq (p : Pfx) (a b : W64) (cin : Bool) :
    addFlags p a b cin =
      (cut p (a + b + bit64 cin), carryOut p (usedNat p a + usedNat p b + cin.toNat)) := by
  have sum : usedNat p (BitVec.ofNat 64 (usedNat p a + usedNat p b + cin.toNat)) =
      usedNat p (a + b + bit64 cin) := by
    rw [usedNat_ofNat]
    simp only [usedNat_eq_mod, BitVec.toNat_add, bit64_toNat, opWidth]
    split <;> omega
  simp only [addFlags, narrow_toNat, place_eq_cut, cut_congr sum, carryOut_sum]

theorem subFlags_eq (p : Pfx) (a b : W64) (bin : Bool) :
    subFlags p a b bin =
      (cut p (a - b - bit64 bin), decide (usedNat p a < usedNat p b + bin.toNat)) := by
  have difference : usedNat p (BitVec.ofNat 64 (usedNat p a + 2 ^ 65 - (usedNat p b + bin.toNat))) =
      usedNat p (a - b - bit64 bin) := by
    have hb := bin.toNat_le
    rw [usedNat_ofNat]
    simp only [usedNat_eq_mod, BitVec.toNat_sub, bit64_toNat, opWidth]
    split <;> omega
  simp only [subFlags, narrow_toNat, place_eq_cut, cut_congr difference]

theorem exec_add (c p rd rs s) : exec (.add c p rd rs) s = execAdd c p rd rs s := rfl
theorem exec_sub (c p rd rs s) : exec (.sub c p rd rs) s = execSub c p rd rs s := rfl
theorem exec_adc (c p rd rs s) : exec (.adc c p rd rs) s = execAdc c p rd rs s := rfl
theorem exec_sbc (c p rd rs s) : exec (.sbc c p rd rs) s = execSbc c p rd rs s := rfl
theorem exec_addi (c p rd rs imm s) : exec (.addi c p rd rs imm) s = execAddi c p rd rs imm s := rfl

/-- An instruction that writes rd and CF, when it executes. -/
theorem carryIns_of_executes {s : State} {i : Instr} {c : CellId} {p : Pfx} {k : Enc} {uses : List Reg}
    (h : Executes s i c p k uses) (rd : Reg) {f : Regs → W64 × Bool} {v : W64} {carry : Bool}
    (hf : f (regsAt s c) = (v, carry)) :
    carryIns s i c p k uses rd f = .next (after s c p k { setG (regsAt s c) rd v with cf := carry }) := by
  rw [carryIns, regIns_of_executes h rfl, hf]

/-! ## Bit fields (R222) -/

theorem exec_bfx (c p rd rs lsb wm1 s) : exec (.bfx c p rd rs lsb wm1) s = execBfx c p rd rs lsb wm1 s := rfl
theorem exec_bfxs (c p rd rs lsb wm1 s) : exec (.bfxs c p rd rs lsb wm1) s = execBfxs c p rd rs lsb wm1 s := rfl
theorem exec_bfi (c p rd rs lsb wm1 s) : exec (.bfi c p rd rs lsb wm1) s = execBfi c p rd rs lsb wm1 s := rfl

theorem getLsbD_fieldMask (lsb wm1 : BitVec 6) (j : Nat) :
    (fieldMask lsb wm1).getLsbD j = decide (lsb.toNat ≤ j ∧ j ≤ Nat.min 63 (lsb.toNat + wm1.toNat)) := by
  have hw := wm1.isLt
  simp only [fieldMask, BitVec.getLsbD_shiftLeft, BitVec.getLsbD_ushiftRight, BitVec.getLsbD_allOnes]
  rw [Bool.eq_iff_iff]
  simp only [Bool.and_eq_true, Bool.not_eq_true', decide_eq_true_eq, decide_eq_false_iff_not, Nat.min_def]
  split <;> omega

theorem getLsbD_bfxV (a : W64) (lsb wm1 : BitVec 6) (j : Nat) :
    (bfxV a lsb wm1).getLsbD j =
      (decide (lsb.toNat + j ≤ Nat.min 63 (lsb.toNat + wm1.toNat)) && a.getLsbD (lsb.toNat + j)) := by
  simp [bfxV, getLsbD_fieldMask, Bool.and_comm]

theorem getLsbD_bfxsV (a : W64) (lsb wm1 : BitVec 6) {j : Nat} (hj : j < 64) :
    (bfxsV a lsb wm1).getLsbD j =
      if lsb.toNat + j ≤ Nat.min 63 (lsb.toNat + wm1.toNat) then a.getLsbD (lsb.toNat + j)
      else a.getLsbD (Nat.min 63 (lsb.toNat + wm1.toNat)) := by
  have htop : Nat.min 63 (lsb.toNat + wm1.toNat) ≤ 63 := Nat.min_le_left ..
  have hlsb : lsb.toNat ≤ Nat.min 63 (lsb.toNat + wm1.toNat) := Nat.le_min.mpr ⟨by omega, by omega⟩
  unfold bfxsV
  generalize Nat.min 63 (lsb.toNat + wm1.toNat) = top at htop hlsb ⊢
  have shifted (n : Nat) (hn : n ≤ top) : (a <<< (63 - top)).getLsbD (63 - top + n) = a.getLsbD n := by
    rw [BitVec.getLsbD_shiftLeft, Nat.add_sub_cancel_left]
    simp [show 63 - top + n < 64 by omega]
  rw [BitVec.getLsbD_sshiftRight, BitVec.msb_eq_getLsbD_last]
  by_cases inside : lsb.toNat + j ≤ top
  · rw [if_pos inside, if_pos (by omega), Nat.add_assoc, shifted _ inside]
    simp [hj]
  · rw [if_neg inside, if_neg (by omega), show 64 - 1 = 63 - top + top by omega, shifted _ le_rfl]
    simp [hj]

theorem getLsbD_bfiV (d a : W64) (lsb wm1 : BitVec 6) {j : Nat} (hj : j < 64) :
    (bfiV d a lsb wm1).getLsbD j =
      if lsb.toNat ≤ j ∧ j ≤ Nat.min 63 (lsb.toNat + wm1.toNat) then a.getLsbD (j - lsb.toNat) else d.getLsbD j := by
  simp only [bfiV, BitVec.getLsbD_or, BitVec.getLsbD_and, BitVec.getLsbD_not, BitVec.getLsbD_shiftLeft,
    getLsbD_fieldMask]
  by_cases inside : lsb.toNat ≤ j ∧ j ≤ Nat.min 63 (lsb.toNat + wm1.toNat)
  · rw [decide_eq_true inside, if_pos inside]
    simp [hj, inside.1]
  · rw [decide_eq_false inside, if_neg inside]
    simp [hj]

/-! ## Changes of one engine alone -/

theorem onlyStrand_setEngine (s : State) (c : CellId) (e : Engine) : OnlyStrand s (setEngine s c e) c :=
  ⟨rfl, fun _ hd => cellAt_setEngine_other _ hd.symm _, by rw [engineAt_setEngine_same, cellAt_setEngine_same]⟩

theorem onlyStrand_setEngine_fetched (s : State) (c : CellId) (n : Nat) (e : Engine) :
    OnlyStrand s (setEngine (fetched s c n) c e) c := by
  refine ⟨rfl, fun d hd => ?_, ?_⟩
  · rw [cellAt_setEngine_other _ hd.symm, fetched, cellAt_setCell_other _ hd.symm]
  · rw [engineAt_setEngine_same, cellAt_setEngine_same, fetched, cellAt_setCell_same, istoreCorrect_shape]

/-! ## Products (R190, R217, R218) -/

theorem exec_mul (c p rd rs s) : exec (.mul c p rd rs) s = execMul c p rd rs s := rfl
theorem exec_muls (c p rd rs s) : exec (.muls c p rd rs) s = execMuls c p rd rs s := rfl
theorem exec_mulsu (c p rd rs s) : exec (.mulsu c p rd rs) s = execMulsu c p rd rs s := rfl
theorem exec_productWrite (c s) : exec (.productWrite c) s = execProductWrite c s := rfl

theorem mulIns_of_executes {s : State} {i : Instr} {c : CellId} {p : Pfx} {rd rs : Reg}
    (h : Executes s i c p encBW [rd, rs]) (f : W64 → W64 → BitVec 128) :
    mulIns s i c p rd rs f = .next (afterTo s c p encBW (regsAt s c)
      (some (f (getG (regsAt s c) rd) (getG (regsAt s c) rs)))
      ((regsAt s c).pc + BitVec.ofNat 15 (insLen encBW p))) := by
  rw [mulIns, issue_of_executes h rfl]
  simp [afterTo, nextAddr, regsAt]

theorem mulV_unsigned (p : Pfx) (a b : W64) :
    mulV p false false a b = BitVec.ofNat 128 (usedNat p a * usedNat p b) := by
  simp [mulV, ← BitVec.ofInt_natCast]

theorem mulV_signed (p : Pfx) (a b : W64) :
    mulV p true true a b = BitVec.ofInt 128 (usedInt p a * usedInt p b) := by
  simp [mulV]

theorem mulV_signed_unsigned (p : Pfx) (a b : W64) :
    mulV p true false a b = BitVec.ofInt 128 (usedInt p a * (usedNat p b : Int)) := by
  simp [mulV]

theorem usedNat_lt_of_w32 {p : Pfx} (h : p.w32 = true) (x : W64) : usedNat p x < 2 ^ 32 := by
  simpa [opWidth, h] using usedNat_lt p x

theorem abs_usedInt_le_of_w32 {p : Pfx} (h : p.w32 = true) (x : W64) : |usedInt p x| ≤ 2 ^ 31 := by
  have lower := BitVec.le_toInt (x.extractLsb' 0 32)
  have upper := BitVec.toInt_lt (x := x.extractLsb' 0 32)
  rw [usedInt, if_pos h, abs_le]
  omega

/-- A product that 64 bits hold as a signed number has copies of its bit 63 above them. -/
theorem high_half_ofInt {z : Int} (h : |z| < 2 ^ 63) {j : Nat} (hj : j < 64) :
    ((BitVec.ofInt 128 z).extractLsb' 64 64).getLsbD j = ((BitVec.ofInt 128 z).extractLsb' 0 64).getLsbD 63 := by
  have bounds := abs_lt.mp h
  have extended : BitVec.ofInt 128 z = (BitVec.ofInt 64 z).signExtend 128 := by
    rw [BitVec.signExtend, BitVec.toInt_ofInt_eq_self (by decide) (by omega) (by omega)]
  rw [extended, BitVec.getLsbD_extractLsb', BitVec.getLsbD_extractLsb', BitVec.getLsbD_signExtend,
    BitVec.getLsbD_signExtend, BitVec.msb_eq_getLsbD_last]
  simp [hj, show 64 + j < 128 by omega]

/-- A product that 64 bits hold as an unsigned number has zeros above them. -/
theorem high_half_ofNat {n : Nat} (h : n < 2 ^ 64) : (BitVec.ofNat 128 n).extractLsb' 64 64 = 0 := by
  apply BitVec.eq_of_toNat_eq
  simp [Nat.shiftRight_eq_div_pow]
  omega

theorem commitProduct_of_pending {r : Regs} {m : BitVec 128} (h : r.pend = some m) :
    commitProduct r = { r with pl := m.extractLsb' 0 64, ph := m.extractLsb' 64 64, pend := none } := by
  rw [commitProduct, h, ← BitVec.setWidth_eq_extractLsb' (by decide)]

theorem execProductWrite_of_pending {s : State} {c : CellId} {m : BitVec 128} (up : cellUp s c = true)
    (running : (engineAt s c).phase = .running) (pending : (regsAt s c).pend = some m) :
    execProductWrite c s =
      .next (setEngine s c { engineAt s c with regs := commitProduct (regsAt s c) }) := by
  have hp : (engineAt s c).regs.pend = some m := pending
  simp [execProductWrite, up, running, hp, regsAt]

/-! ## Divisions (R192, R219, R220) -/

theorem exec_divu (c p rd rs s) : exec (.divu c p rd rs) s = execDivu c p rd rs s := rfl
theorem exec_divs (c p rd rs s) : exec (.divs c p rd rs) s = execDivs c p rd rs s := rfl
theorem exec_divideComplete (c s) : exec (.divideComplete c) s = execDivideComplete c s := rfl

/-- The engine of a strand whose divide has issued: it divides, holds what the divide will write and the next address,
and a product that was pending is written. -/
def dividing (e : Engine) (p : Pfx) (q m : W64) : Engine :=
  { e with phase := .dividing q m (e.regs.pc + BitVec.ofNat 15 (insLen encBWS p)), regs := commitProduct e.regs,
           stall := 0 }

theorem divIns_of_executes {s : State} {i : Instr} {c : CellId} {p : Pfx} {rd rs : Reg}
    (h : Executes s i c p encBWS [rd, rs]) {f : W64 → W64 → W64 × W64} {q m : W64}
    (hf : f (getG (regsAt s c) rd) (getG (regsAt s c) rs) = (q, m)) :
    divIns s i c p rd rs f =
      .next (setEngine (fetched s c (insLen encBWS p)) c (dividing (engineAt s c) p q m)) := by
  rw [regsAt] at hf
  rw [divIns, issue_of_executes h rfl]
  simp [hf, dividing, nextAddr]

/-- A divide that executes: the pair it computes is what its engine then holds. -/
theorem divIns_yields {s : State} {i : Instr} {c : CellId} {p : Pfx} {rd rs : Reg} {f : W64 → W64 → W64 × W64}
    (divides : exec i s = divIns s i c p rd rs f) (h : Executes s i c p encBWS [rd, rs]) {q m : W64}
    (hf : f (getG (regsAt s c) rd) (getG (regsAt s c) rs) = (q, m)) :
    Yields i s fun t => OnlyStrand s t c ∧ engineAt t c = dividing (engineAt s c) p q m :=
  ⟨_, divides.trans (divIns_of_executes h hf), onlyStrand_setEngine_fetched .., engineAt_setEngine_same ..⟩

theorem narrow_eq_zero_iff (p : Pfx) (x : W64) : narrow p.w32 x = 0 ↔ usedNat p x = 0 := by
  rw [← BitVec.toNat_inj, narrow_toNat]
  rfl

theorem divuV_of_zero {p : Pfx} {b : W64} (h : usedNat p b = 0) (a : W64) :
    divuV p a b = (cut p (BitVec.allOnes 64), cut p a) := by
  simp only [divuV, if_pos ((narrow_eq_zero_iff p b).mpr h), place_eq_cut, cut_congr (usedNat_narrow p a)]

theorem divuV_of_ne_zero {p : Pfx} {b : W64} (h : usedNat p b ≠ 0) (a : W64) :
    divuV p a b = (cut p (BitVec.ofNat 64 (usedNat p a / usedNat p b)),
      cut p (BitVec.ofNat 64 (usedNat p a - usedNat p a / usedNat p b * usedNat p b))) := by
  simp only [divuV, if_neg (mt (narrow_eq_zero_iff p b).mp h), place_eq_cut, narrow_toNat, Nat.mod_eq_sub_div_mul]

/-- Reading an operand as a signed number and writing it back keeps the bits of the operation's width. -/
theorem cut_ofInt_usedInt (p : Pfx) (x : W64) : cut p (BitVec.ofInt 64 (usedInt p x)) = cut p x := by
  cases h : p.w32
  · simp [usedInt, h, BitVec.ofInt_toInt]
  · have low : (BitVec.signExtend 64 (x.extractLsb' 0 32)).extractLsb' 0 32 = x.extractLsb' 0 32 := by
      ext j hj
      rw [BitVec.getElem_extractLsb', Nat.zero_add, BitVec.getLsbD_signExtend, if_pos hj,
        decide_eq_true (by omega), Bool.true_and, BitVec.getLsbD_eq_getElem]
    rw [BitVec.signExtend] at low
    simp only [cut, usedInt, h, if_true, low]

theorem divsV_of_zero {p : Pfx} {b : W64} (h : usedInt p b = 0) (a : W64) :
    divsV p a b = (cut p (BitVec.allOnes 64), cut p a) := by
  simp [divsV, h, cut_ofInt_usedInt]

theorem divsV_of_ne_zero {p : Pfx} {b : W64} (h : usedInt p b ≠ 0) (a : W64) :
    divsV p a b = (cut p (BitVec.ofInt 64 ((usedInt p a).tdiv (usedInt p b))),
      cut p (BitVec.ofInt 64 ((usedInt p a).tmod (usedInt p b)))) := by
  simp [divsV, h]

/-- The most negative number of an operation (Table 06-6). -/
def mostNegative (p : Pfx) : Int := if p.w32 then -(2 ^ 31) else -(2 ^ 63)

/-- The quotient of the most negative value by minus 1 wraps to the most negative value. -/
theorem divsV_overflow {p : Pfx} {a b : W64} (ha : usedInt p a = mostNegative p) (hb : usedInt p b = -1) :
    divsV p a b = (cut p (BitVec.ofInt 64 (mostNegative p)), 0) := by
  rw [divsV_of_ne_zero (by rw [hb]; decide), ha, hb, Int.tdiv_neg, Int.tdiv_one, Int.tmod_neg, Int.tmod_one]
  have wraps : cut p (BitVec.ofInt 64 (-mostNegative p)) = cut p (BitVec.ofInt 64 (mostNegative p)) := by
    apply cut_congr
    unfold usedNat mostNegative
    split <;> rfl
  have zero : cut p (BitVec.ofInt 64 0) = 0 := by
    unfold cut
    split_ifs <;> rfl
  rw [wraps, zero]

/-- The remainder of truncating division is zero or has the sign of the dividend. -/
theorem sign_tmod_eq (x y : Int) : x.tmod y = 0 ∨ (x.tmod y).sign = x.sign := by
  rw [← Int.sign_eq_zero_iff_zero, Int.sign_tmod]
  split
  · exact .inl rfl
  · exact .inr rfl

theorem natAbs_tmod_lt (x : Int) {y : Int} (h : y ≠ 0) : (x.tmod y).natAbs < y.natAbs := by
  rw [Int.natAbs_tmod]
  exact Nat.mod_lt _ (Int.natAbs_pos.mpr h)

theorem execDivideComplete_of_dividing {s : State} {c : CellId} {q m : W64} {a : BitVec 15} (up : cellUp s c = true)
    (h : (engineAt s c).phase = .dividing q m a) :
    execDivideComplete c s = .next (setEngine s c
      { (engineAt s c).at (retire { regsAt s c with pl := q, ph := m } none a) with phase := .running }) := by
  rw [execDivideComplete]
  simp only [h, up, if_true]
  rfl

end Sys2Proof.Machine

namespace Sys2Proof.Integers

open Sys2Proof Machine

/-- Settles O6: the five instructions have one form, and the value and flag of each are those of `addFlags` or
`subFlags`; a sum or difference with no carry in is one with carry in 0. -/
theorem sumsAndDifferences : Obligations.SumsAndDifferences := by
  unfold Obligations.SumsAndDifferences
  intro s c p rd rs imm r a b i
  have sum (x y : W64) : addFlags p x y false = (cut p (x + y), carryOut p (usedNat p x + usedNat p y)) := by
    simpa [bit64_false] using addFlags_eq p x y false
  have difference : subFlags p a b false = (cut p (a - b), decide (usedNat p a < usedNat p b)) := by
    simpa [bit64_false] using subFlags_eq p a b false
  refine ⟨fun h => ?_, fun h => ?_, fun h => ?_, fun h => ?_, fun h => ?_⟩
  · rw [exec_add, execAdd, carryIns_of_executes h rd (sum a b)]
  · rw [exec_adc, execAdc, carryIns_of_executes h rd (addFlags_eq p a b r.cf)]
  · rw [exec_sub, execSub, carryIns_of_executes h rd difference]
  · rw [exec_sbc, execSbc, carryIns_of_executes h rd (subFlags_eq p a b r.cf)]
  · rw [exec_addi, execAddi, carryIns_of_executes h rd (sum b i)]

/-- Settles O11: each instruction writes its value to rd, and each value is given bit by bit. -/
theorem bitFields : Obligations.BitFields := by
  unfold Obligations.BitFields
  intro s c p rd rs lsb wm1 r b top
  refine ⟨fun h => ⟨bfxV b lsb wm1, ?_, fun j _ => getLsbD_bfxV b lsb wm1 j⟩,
    fun h => ⟨bfxsV b lsb wm1, ?_, fun _ hj => getLsbD_bfxsV b lsb wm1 hj⟩,
    fun h => ⟨bfiV (getG r rd) b lsb wm1, ?_, fun _ hj => getLsbD_bfiV _ b lsb wm1 hj⟩⟩
  · rw [exec_bfx, execBfx, immIns, regIns_of_executes h rfl]
  · rw [exec_bfxs, execBfxs, immIns, regIns_of_executes h rfl]
  · rw [exec_bfi, execBfi, binIns, regIns_of_executes h rfl]

/-- Settles O12: a MUL-class instruction leaves its product pending; with W32 the operands are so small that 64 bits
hold the product. -/
theorem productsArePending : Obligations.ProductsArePending := by
  unfold Obligations.ProductsArePending
  intro s c p rd rs r a b next uu ss su
  refine ⟨fun h => ?_, fun h => ?_, fun h => ?_, fun hw => ⟨?_, fun j hj => ?_, fun j hj => ?_⟩,
    fun m up running pending => ?_⟩
  · rw [exec_mul, execMul, mulIns_of_executes h, mulV_unsigned]
  · rw [exec_muls, execMuls, mulIns_of_executes h, mulV_signed]
  · rw [exec_mulsu, execMulsu, mulIns_of_executes h, mulV_signed_unsigned]
  · have ha := usedNat_lt_of_w32 hw a
    have hb := usedNat_lt_of_w32 hw b
    exact high_half_ofNat ((Nat.mul_lt_mul'' ha hb).trans_eq (by norm_num))
  · have ha := abs_usedInt_le_of_w32 hw a
    have hb := abs_usedInt_le_of_w32 hw b
    have bound := mul_le_mul ha hb (abs_nonneg _) (by norm_num)
    exact high_half_ofInt ((abs_mul ..).trans_lt (bound.trans_lt (by norm_num))) hj
  · have ha := abs_usedInt_le_of_w32 hw a
    have hb : |(usedNat p b : Int)| ≤ 2 ^ 32 - 1 := by
      have := usedNat_lt_of_w32 hw b
      rw [Nat.abs_cast]
      omega
    have bound := mul_le_mul ha hb (abs_nonneg _) (by norm_num)
    exact high_half_ofInt ((abs_mul ..).trans_lt (bound.trans_lt (by norm_num))) hj
  · refine ⟨_, (exec_productWrite ..).trans (execProductWrite_of_pending up running pending), ?_,
      onlyStrand_setEngine ..⟩
    rw [regsAt, engineAt_setEngine_same, commitProduct_of_pending pending]

/-- Settles O13: the divide holds the pair that the cases of Table 06-6 give, and its completion writes the pair. -/
theorem divisions : Obligations.Divisions := by
  unfold Obligations.Divisions
  intro s c p rd rs r a b next low
  refine ⟨fun h => ⟨_, _, divIns_yields (exec_divu ..) h rfl, fun hz => ?_, fun hn => ?_⟩,
    fun h => ⟨_, _, divIns_yields (exec_divs ..) h rfl, fun hz => ?_, fun ha hb => ?_, fun hn _ => ?_⟩,
    fun q m a' up h => ?_⟩
  · exact Prod.mk.inj (divuV_of_zero hz a)
  · exact Prod.mk.inj (divuV_of_ne_zero hn a)
  · exact Prod.mk.inj (divsV_of_zero hz a)
  · exact Prod.mk.inj (divsV_overflow ha hb)
  · obtain ⟨hq, hm⟩ := Prod.mk.inj (divsV_of_ne_zero hn a)
    exact ⟨_, _, hq, hm, (Int.tdiv_mul_add_tmod ..).symm, natAbs_tmod_lt _ hn, sign_tmod_eq ..⟩
  · refine ⟨_, (exec_divideComplete ..).trans (execDivideComplete_of_dividing up h), onlyStrand_setEngine ..,
      ?_, ?_⟩
    · rw [engineAt_setEngine_same]
    · rw [regsAt, engineAt_setEngine_same]; rfl

end Sys2Proof.Integers
end

/-! # The encoding: an instruction is read back from its bytes (R179 to R183, R207, R251) -/

section
namespace Sys2Proof.Machine

open Sys2Proof

/-! ## Prefixes -/

/-- One of the optional prefixes: where its byte stands, the number of prefixes read is one more. -/
theorem readPrefixes_flag {q q' : Pfx} {b : Bool} {x : Byte} (hx : 0xF0 ≤ x.toNat) (hx' : x.toNat < 0xF7)
    (hne : x ≠ 0xF4) (hq : if b then addPrefix q x = some q' else q' = q) (k n : Nat) (rest : List Byte) :
    readPrefixes (k + b.toNat) q n ((if b then [x] else []) ++ rest) = readPrefixes k q' (n + b.toNat) rest := by
  cases b with
  | false => simp at hq; simp [hq]
  | true =>
    rw [if_pos rfl] at hq
    show readPrefixes (k + 1) q n (x :: rest) = readPrefixes k q' (n + 1) rest
    rw [readPrefixes.eq_def]
    simp [hq, show ¬ x.toNat < 0xF0 by omega, show ¬ 0xF7 ≤ x.toNat by omega]
    exact fun h => absurd h hne

/-- The bytes of a condition. -/
def conditionBytes : Option (BitVec 3 × BitVec 4) → List Byte
  | some (cond, reg) => [0xF4, (0 : BitVec 1) ++ cond ++ reg]
  | none => []

theorem conditionOf_byte : ∀ (cond : BitVec 3) (reg : BitVec 4),
    (cond != 7 && (!(cond == 4 || cond == 5) || reg == 0)) = true →
    conditionOf ((0 : BitVec 1) ++ cond ++ reg) = some (cond, reg) := by
  decide

/-- The condition and the byte before it, where they stand. -/
theorem readPrefixes_condition {q : Pfx} (hq : q.cc = none) {p : Pfx} (hp : ccLegal p = true) (k n : Nat)
    (rest : List Byte) :
    readPrefixes (k + p.cc.isSome.toNat) q n (conditionBytes p.cc ++ rest) =
      readPrefixes k { q with cc := p.cc } (n + 2 * p.cc.isSome.toNat) rest := by
  obtain ⟨w32, fs32, fd64, rep, sx, tr, cc⟩ := q
  subst hq
  unfold ccLegal at hp
  cases hcc : p.cc with
  | none => rfl
  | some x =>
    obtain ⟨cond, reg⟩ := x
    rw [hcc] at hp
    show readPrefixes (k + 1) _ n (0xF4 :: ((0 : BitVec 1) ++ cond ++ reg) :: rest) = _
    rw [readPrefixes.eq_def]
    simp only [conditionOf_byte cond reg hp]
    rfl

theorem readPrefixes_opcode (k n : Nat) (p : Pfx) {op : Byte} (h : op.toNat < 0xF0) (rest : List Byte) :
    readPrefixes k p n (op :: rest) = .ok (p, n, op :: rest) := by
  cases k <;> simp [readPrefixes, h]

/-- The prefixes of an instruction are read back from their bytes: one flag after another, then the condition. -/
theorem readPrefixes_prefixBytes {p : Pfx} (hn : prefixCount p ≤ 3) (hc : ccLegal p = true) {op : Byte}
    (ho : op.toNat < 0xF0) (rest : List Byte) :
    readPrefixes 3 Pfx.none 0 (prefixBytes p ++ op :: rest) =
      .ok (p, prefixCount p + p.cc.isSome.toNat, op :: rest) := by
  obtain ⟨k, hk⟩ := Nat.exists_eq_add_of_le hn
  have start : 3 = k + p.cc.isSome.toNat + p.tr.toNat + p.sx.toNat + p.rep.toNat + p.fd64.toNat + p.fs32.toNat +
      p.w32.toNat := hk.trans (by rw [prefixCount]; omega)
  have bytes : prefixBytes p ++ op :: rest =
      (if p.w32 then [0xF0] else []) ++ ((if p.fs32 then [0xF1] else []) ++ ((if p.fd64 then [0xF2] else []) ++
      ((if p.rep then [0xF3] else []) ++ ((if p.sx then [0xF5] else []) ++ ((if p.tr then [0xF6] else []) ++
      (conditionBytes p.cc ++ op :: rest)))))) := by
    simp only [prefixBytes, List.append_assoc]; rfl
  rw [bytes]
  refine (congrArg (fun N => readPrefixes N _ _ _) start).trans ?_
  rw [readPrefixes_flag (q' := ⟨p.w32, false, false, false, false, false, none⟩) (by decide) (by decide) (by decide)
      (by cases p.w32 <;> rfl),
    readPrefixes_flag (q' := ⟨p.w32, p.fs32, false, false, false, false, none⟩) (by decide) (by decide) (by decide)
      (by cases p.fs32 <;> rfl),
    readPrefixes_flag (q' := ⟨p.w32, p.fs32, p.fd64, false, false, false, none⟩) (by decide) (by decide) (by decide)
      (by cases p.fd64 <;> rfl),
    readPrefixes_flag (q' := ⟨p.w32, p.fs32, p.fd64, p.rep, false, false, none⟩) (by decide) (by decide) (by decide)
      (by cases p.rep <;> rfl),
    readPrefixes_flag (q' := ⟨p.w32, p.fs32, p.fd64, p.rep, p.sx, false, none⟩) (by decide) (by decide) (by decide)
      (by cases p.sx <;> rfl),
    readPrefixes_flag (q' := ⟨p.w32, p.fs32, p.fd64, p.rep, p.sx, p.tr, none⟩) (by decide) (by decide) (by decide)
      (by cases p.tr <;> rfl),
    readPrefixes_condition rfl hc, readPrefixes_opcode _ _ _ ho]
  congr 3
  simp only [prefixCount]
  omega

/-! ## The opcode map -/

/-- A row's instruction has the length of its class. -/
theorem rowOf_bytes {op : Byte} {row : OpRow} (h : rowOf op = some row) :
    op.toNat < 0xF0 ∧ row.op = op ∧ (row.enc.bytes = 1 ∨ 2 ≤ row.enc.bytes) := by
  have hop : row.op = op := by simpa using List.find?_some h
  have all : ∀ r ∈ opRows, r.op.toNat < 0xF0 ∧ (r.enc.bytes = 1 ∨ 2 ≤ r.enc.bytes) := by
    decide
  obtain ⟨low, size⟩ := all row (List.mem_of_find?_eq_some h)
  exact ⟨hop ▸ low, hop, size⟩

/-- What ties an instruction's fields to the row of its opcode: the row makes the instruction of them, the immediate fits
in the bytes of its class, and class A has no operand byte. -/
structure Spelt (i : Instr) (f : Fields) (row : OpRow) : Prop where
  make : row.make f.cell f.pfx f.d f.s f.imm = i
  fits : f.imm.toNat < 256 ^ (row.enc.bytes - 2)
  bare : row.enc.bytes = 1 → f.d = 0 ∧ f.s = 0

theorem toNat_setWidth_lt {w : Nat} (x : BitVec w) (m : Nat) {n : Nat} (h : w ≤ 8 * n) :
    (x.setWidth m).toNat < 256 ^ n := by
  have small : x.toNat < 2 ^ w := x.isLt
  calc (x.setWidth m).toNat ≤ x.toNat := by rw [BitVec.toNat_setWidth]; exact Nat.mod_le ..
    _ < 2 ^ (8 * n) := lt_of_lt_of_le small (Nat.pow_le_pow_right (by decide) h)
    _ = 256 ^ n := by rw [Nat.pow_mul]

/-- Two immediate fields side by side, with two zero bits between them, are read back. -/
theorem extract_fields {v w : Nat} (hi : BitVec v) (lo : BitVec w) (h : v + 2 + w ≤ 64) :
    ((hi ++ (0 : BitVec 2) ++ lo : BitVec (v + 2 + w)).setWidth 64).extractLsb' (w + 2) v = hi ∧
    ((hi ++ (0 : BitVec 2) ++ lo : BitVec (v + 2 + w)).setWidth 64).setWidth w = lo := by
  constructor
  · ext j hj
    simp [BitVec.getLsbD_append, show w + 2 + j < 64 by omega, show ¬ w + 2 + j < w by omega,
      show w + 2 + j - w = 2 + j by omega, show ¬ 2 + j < 2 by omega, BitVec.getLsbD_eq_getElem hj]
  · ext j hj
    simp [BitVec.getLsbD_append, hj, show j < 64 by omega]

theorem extract_nibbles (hi lo : BitVec 4) :
    ((hi ++ lo : BitVec 8).setWidth 64).setWidth 4 = lo ∧ ((hi ++ lo : BitVec 8).setWidth 64).extractLsb' 4 4 = hi := by
  revert hi lo
  decide

/-- Every instruction's fields are those that the row of its opcode reads; the cases are the immediates that
instructions have. -/
theorem spelt_of_fields {i : Instr} {f : Fields} {row : OpRow} (hf : fieldsOf i = some f)
    (hr : rowOf f.op = some row) : Spelt i f row := by
  cases i with
  | nop | endStrand | fbar | lbrk | tableauInstr | retire =>
    cases hf; cases hr; exact ⟨rfl, Nat.pow_pos (by decide), fun _ => ⟨rfl, rfl⟩⟩
  | mov | add | sub | adc | sbc | andOp | orOp | xor | notOp | neg | shl | shr | sar | ror | clz | ctz | popc | cmpeq
  | cmplt | cmpltu | min | max | minu | maxu | mul | muls | mulsu | divu | divs | ld | ldw | ldh | ldb | st | stw | sth
  | stb | iload | istore | iclear | gather | scatter | bmov | send | sendc | sends | sendp | facq | frel | jr | beat
  | fadd | fsub | fmul | fdiv | fmin | fmax | fcmpeq | fcmplt | fcmple | fcmpun | fcvtf | fcvti | fcvtiz | fcvtu | icvtf
  | ucvtf | fneg | fabs =>
    cases hf; cases hr; exact ⟨rfl, Nat.pow_pos (by decide), nofun⟩
  | shli | shri | sari | rori | rdsr | wrsr | fma | fms | fnma | sel | take | put | br | loop | addi | andi | ori | xori
  | movi32 =>
    cases hf; cases hr; exact ⟨by simp, toNat_setWidth_lt _ _ (by decide), nofun⟩
  | tli | tlif =>
    cases hf; cases hr; exact ⟨by simp only [extract_nibbles], toNat_setWidth_lt _ _ (by decide), nofun⟩
  | bfx c p rd rs l w | bfi c p rd rs l w | bfxs c p rd rs l w =>
    cases hf; cases hr
    obtain ⟨hw, hl⟩ := extract_fields w l (by decide)
    exact ⟨by simp only [hw, hl], toNat_setWidth_lt _ _ (by decide), nofun⟩
  | loopi c p n a =>
    cases hf; cases hr
    obtain ⟨hn, ha⟩ := extract_fields n a (by decide)
    exact ⟨by simp only [hn, ha], toNat_setWidth_lt _ _ (by decide), nofun⟩
  | movi => cases hf; cases hr; exact ⟨rfl, BitVec.isLt _, nofun⟩
  | _ => cases hf

/-! ## An instruction and its bytes -/

/-- The operand byte, which class A has not. -/
def operandByte (k : Enc) (d s : Reg) : List Byte := if k.bytes = 1 then [] else [d ++ s]

theorem encodeIns_of_fields {i : Instr} {f : Fields} {row : OpRow} (hf : fieldsOf i = some f)
    (hr : rowOf f.op = some row) : encodeIns i = some (prefixBytes f.pfx ++ [f.op] ++ operandByte row.enc f.d f.s ++
      leBytes (row.enc.bytes - 2) f.imm.toNat) := by
  simp [encodeIns, hf, hr, operandByte]

theorem strandForm_of_fields {i : Instr} {f : Fields} {row : OpRow} (hf : fieldsOf i = some f)
    (hr : rowOf f.op = some row) : strandForm i = some (f.cell, f.pfx, row.enc) := by
  simp [strandForm, hf, hr]

theorem prefixBytes_length (p : Pfx) : (prefixBytes p).length = prefixCount p + p.cc.isSome.toNat := by
  have flag (b : Bool) (x : Byte) : (if b then [x] else []).length = b.toNat := by cases b <;> rfl
  have cond : (conditionBytes p.cc).length = 2 * p.cc.isSome.toNat := by cases p.cc <;> rfl
  have bytes : prefixBytes p = (if p.w32 then [0xF0] else []) ++ (if p.fs32 then [0xF1] else []) ++
      (if p.fd64 then [0xF2] else []) ++ (if p.rep then [0xF3] else []) ++ (if p.sx then [0xF5] else []) ++
      (if p.tr then [0xF6] else []) ++ conditionBytes p.cc := rfl
  rw [bytes]
  simp only [List.length_append, flag, cond, prefixCount]
  omega

theorem operand_nibbles : ∀ d s : Reg, (d ++ s : BitVec 8).extractLsb' 4 4 = d ∧ (d ++ s : BitVec 8).setWidth 4 = s := by
  decide

/-- What the decoder finds in bytes that spell prefixes, an opcode, its registers and its immediate. -/
theorem decodeIns_of_row (c : CellId) {p : Pfx} {op : Byte} {row : OpRow} (hr : rowOf op = some row)
    (hp : prefixLegal row.enc p = true) (hc : ccLegal p = true) {d s : Reg} {imm : W64}
    (bare : row.enc.bytes = 1 → d = 0 ∧ s = 0) (fits : imm.toNat < 256 ^ (row.enc.bytes - 2)) (rest : List Byte) :
    decodeIns c (prefixBytes p ++ [op] ++ operandByte row.enc d s ++ leBytes (row.enc.bytes - 2) imm.toNat ++ rest) =
      ⟨.ins (row.make c p d s imm) (slackOf row p d s imm), insLen row.enc p⟩ := by
  obtain ⟨low, -, size⟩ := rowOf_bytes hr
  have few : prefixCount p ≤ 3 := by simp only [prefixLegal, Bool.and_eq_true, decide_eq_true_eq] at hp; omega
  have split : prefixBytes p ++ [op] ++ operandByte row.enc d s ++ leBytes (row.enc.bytes - 2) imm.toNat ++ rest =
      prefixBytes p ++ op :: (operandByte row.enc d s ++ leBytes (row.enc.bytes - 2) imm.toNat ++ rest) := by simp
  rw [split, decodeIns, readPrefixes_prefixBytes few hc low]
  simp only [List.headD_cons, hr, hp, Bool.not_true, Bool.false_eq_true, if_false]
  rcases size with one | two
  · obtain ⟨rfl, rfl⟩ := bare one
    have zero : imm = 0 := by rw [one] at fits; exact BitVec.eq_of_toNat_eq (by simpa using fits)
    simp [one, zero, insLen, leNat]
  · have hne : row.enc.bytes ≠ 1 := by omega
    obtain ⟨hd, hs⟩ := operand_nibbles d s
    have himm : BitVec.ofNat 64 (leNat (leBytes (row.enc.bytes - 2) imm.toNat)) = imm := by
      rw [leNat_leBytes, Nat.mod_eq_of_lt fits, BitVec.ofNat_toNat, BitVec.setWidth_eq]
    simp [operandByte, hne, hd, hs, himm, insLen]

end Sys2Proof.Machine

namespace Sys2Proof.Encodings

open Sys2Proof Machine

/-- Settles O4: the prefixes are read back flag by flag, and the row of the opcode reads every field as it was spelt. -/
theorem instructionsReadBackFromTheirBytes : Obligations.InstructionsReadBackFromTheirBytes := by
  unfold Obligations.InstructionsReadBackFromTheirBytes
  intro i c p k rest form spells
  unfold encodable at spells
  cases hf : fieldsOf i with
  | none => simp [hf] at spells
  | some f =>
    cases hr : rowOf f.op with
    | none => simp [hf, hr] at spells
    | some row =>
      obtain ⟨make, fits, bare⟩ := spelt_of_fields hf hr
      rw [strandForm_of_fields hf hr] at form
      cases form
      simp only [hf, hr, Bool.and_eq_true, beq_iff_eq] at spells
      obtain ⟨⟨legal, cond⟩, slack⟩ := spells
      have len : (prefixBytes f.pfx ++ [f.op] ++ operandByte row.enc f.d f.s ++
          leBytes (row.enc.bytes - 2) f.imm.toNat).length = insLen row.enc f.pfx := by
        have size := (rowOf_bytes hr).2.2
        simp only [List.length_append, prefixBytes_length, leBytes_length, operandByte, insLen, List.length_singleton]
        split <;> simp <;> omega
      exact ⟨_, encodeIns_of_fields hf hr, len, by
        rw [decodeIns_of_row f.cell hr legal cond bare fits rest, make, slack, len]⟩

end Sys2Proof.Encodings
end

/-! # The instruction reference: moves, shifts, counts, comparisons, conditions (chapters 5 and 6) -/

section
namespace Sys2Proof.Machine

open Sys2Proof

/-! ## Instructions that write one value to rd -/

/-- An instruction of a destination and a source register, when it executes. -/
theorem exec_bin {s : State} {i : Instr} {c : CellId} {p : Pfx} {k : Enc} {rd rs : Reg}
    (h : Executes s i c p k [rd, rs]) {f : W64 → W64 → W64} {v : W64} (form : exec i s = binIns s i c p k rd rs f)
    (value : f (getG (regsAt s c) rd) (getG (regsAt s c) rs) = v) :
    exec i s = .next (after s c p k (setG (regsAt s c) rd v)) := by
  rw [form, binIns, regIns_of_executes h rfl, value]

/-- An instruction of a destination register and one operand, when it executes. -/
theorem exec_imm {s : State} {i : Instr} {c : CellId} {p : Pfx} {k : Enc} {rd rs : Reg}
    (h : Executes s i c p k [rd, rs]) {f : W64 → W64} {v : W64} (form : exec i s = immIns s i c p k rd rs f)
    (value : f (getG (regsAt s c) rs) = v) :
    exec i s = .next (after s c p k (setG (regsAt s c) rd v)) := by
  rw [form, immIns, regIns_of_executes h rfl, value]

/-! ## The instructions' forms -/

theorem exec_mov (c p rd rs s) : exec (.mov c p rd rs) s = execMov c p rd rs s := rfl
theorem exec_andOp (c p rd rs s) : exec (.andOp c p rd rs) s = execAndOp c p rd rs s := rfl
theorem exec_orOp (c p rd rs s) : exec (.orOp c p rd rs) s = execOrOp c p rd rs s := rfl
theorem exec_xor (c p rd rs s) : exec (.xor c p rd rs) s = execXor c p rd rs s := rfl
theorem exec_notOp (c p rd rs s) : exec (.notOp c p rd rs) s = execNotOp c p rd rs s := rfl
theorem exec_neg (c p rd rs s) : exec (.neg c p rd rs) s = execNeg c p rd rs s := rfl
theorem exec_andi (c p rd rs imm s) : exec (.andi c p rd rs imm) s = execAndi c p rd rs imm s := rfl
theorem exec_ori (c p rd rs imm s) : exec (.ori c p rd rs imm) s = execOri c p rd rs imm s := rfl
theorem exec_xori (c p rd rs imm s) : exec (.xori c p rd rs imm) s = execXori c p rd rs imm s := rfl
theorem exec_movi32 (c p rd imm s) : exec (.movi32 c p rd imm) s = execMovi32 c p rd imm s := rfl
theorem exec_movi (c p rd imm s) : exec (.movi c p rd imm) s = execMovi c p rd imm s := rfl
theorem exec_shl (c p rd rs s) : exec (.shl c p rd rs) s = execShl c p rd rs s := rfl
theorem exec_shr (c p rd rs s) : exec (.shr c p rd rs) s = execShr c p rd rs s := rfl
theorem exec_sar (c p rd rs s) : exec (.sar c p rd rs) s = execSar c p rd rs s := rfl
theorem exec_ror (c p rd rs s) : exec (.ror c p rd rs) s = execRor c p rd rs s := rfl
theorem exec_shli (c p rd rs imm s) : exec (.shli c p rd rs imm) s = execShli c p rd rs imm s := rfl
theorem exec_shri (c p rd rs imm s) : exec (.shri c p rd rs imm) s = execShri c p rd rs imm s := rfl
theorem exec_sari (c p rd rs imm s) : exec (.sari c p rd rs imm) s = execSari c p rd rs imm s := rfl
theorem exec_rori (c p rd rs imm s) : exec (.rori c p rd rs imm) s = execRori c p rd rs imm s := rfl
theorem exec_clz (c p rd rs s) : exec (.clz c p rd rs) s = execClz c p rd rs s := rfl
theorem exec_ctz (c p rd rs s) : exec (.ctz c p rd rs) s = execCtz c p rd rs s := rfl
theorem exec_popc (c p rd rs s) : exec (.popc c p rd rs) s = execPopc c p rd rs s := rfl
theorem exec_cmpeq (c p rd rs s) : exec (.cmpeq c p rd rs) s = execCmpeq c p rd rs s := rfl
theorem exec_cmplt (c p rd rs s) : exec (.cmplt c p rd rs) s = execCmplt c p rd rs s := rfl
theorem exec_cmpltu (c p rd rs s) : exec (.cmpltu c p rd rs) s = execCmpltu c p rd rs s := rfl
theorem exec_min (c p rd rs s) : exec (.min c p rd rs) s = execMin c p rd rs s := rfl
theorem exec_max (c p rd rs s) : exec (.max c p rd rs) s = execMax c p rd rs s := rfl
theorem exec_minu (c p rd rs s) : exec (.minu c p rd rs) s = execMinu c p rd rs s := rfl
theorem exec_maxu (c p rd rs s) : exec (.maxu c p rd rs) s = execMaxu c p rd rs s := rfl
theorem exec_sel (c p rd rs rt s) : exec (.sel c p rd rs rt) s = execSel c p rd rs rt s := rfl

/-! ## Shifts and rotates (R214, R215) -/

theorem usedWord_toNat (p : Pfx) (x : W64) : (usedWord p x).toNat = usedNat p x := by
  unfold usedWord usedNat
  split
  · exact BitVec.toNat_setWidth_of_le (by decide)
  · rfl

theorem cut_of_w64 {p : Pfx} (h : p.w32 = false) (x : W64) : cut p x = x := by simp [cut, h]

/-- With W32 a result is written by its bits 31 to 0. -/
theorem cut_congr_low {p : Pfx} (h : p.w32 = true) {x y : W64} (low : ∀ j < 32, x.getLsbD j = y.getLsbD j) :
    cut p x = cut p y := by
  have same : x.extractLsb' 0 32 = y.extractLsb' 0 32 := by
    ext j hj
    simpa using low j hj
  simp [cut, h, same]

/-- The six bits of an amount that an operation uses. -/
def amount (p : Pfx) (n : BitVec 6) : Nat := if p.w32 then n.toNat % 32 else n.toNat

theorem shiftAmount_register (p : Pfx) (x : W64) : shiftAmount p x = amount p (x.setWidth 6) := by
  simp only [shiftAmount, amount, BitVec.extractLsb'_toNat, BitVec.toNat_setWidth]
  split <;> omega

theorem shiftAmount_immediate (p : Pfx) (n : BitVec 6) : shiftAmount p (n.setWidth 64) = amount p n := by
  simp only [shiftAmount, amount, BitVec.extractLsb'_toNat, BitVec.toNat_setWidth]
  split <;> omega

theorem shlV_eq (p : Pfx) (a : W64) (n : BitVec 6) : shlV p a n = cut p (usedWord p a <<< amount p n) := by
  rw [shlV, place_eq_cut]
  cases h : p.w32
  · simp [amount, usedWord, h]
  · refine cut_congr_low h fun j hj => ?_
    simp [amount, usedWord, h, hj, show j < 64 by omega, show j - n.toNat % 32 < 32 by omega,
      show j - n.toNat % 32 < 64 by omega]

theorem shrV_eq (p : Pfx) (a : W64) (n : BitVec 6) : shrV p a n = cut p (usedWord p a >>> amount p n) := by
  rw [shrV, place_eq_cut]
  cases h : p.w32
  · simp [amount, usedWord, h]
  · refine cut_congr_low h fun j hj => ?_
    simp only [amount, usedWord, h, if_true, BitVec.getLsbD_setWidth, BitVec.getLsbD_ushiftRight,
      BitVec.getLsbD_extractLsb']
    simp [show j < 64 by omega]
    omega

theorem sarV_eq (p : Pfx) (a : W64) (n : BitVec 6) : sarV p a n = cut p ((usedSigned p a).sshiftRight (amount p n)) := by
  rw [sarV, place_eq_cut]
  cases h : p.w32
  · simp [amount, usedSigned, h]
  · refine cut_congr_low h fun j hj => ?_
    have hn : n.toNat % 32 < 32 := Nat.mod_lt _ (by decide)
    simp only [amount, usedSigned, h, if_true, BitVec.getLsbD_setWidth, BitVec.getLsbD_sshiftRight,
      ← BitVec.setWidth_eq_extractLsb' (show 32 ≤ 64 by decide), BitVec.getLsbD_signExtend, BitVec.msb_signExtend]
    have keep : (!decide (32 ≤ j)) = true ∧ (!decide (64 ≤ j)) = true := by
      simp only [Bool.not_eq_true', decide_eq_false_iff_not]; omega
    rw [keep.1, keep.2]
    by_cases inside : n.toNat % 32 + j < 32 <;>
      simp [inside, show j < 64 by omega, show n.toNat % 32 + j < 64 by omega]

theorem rorV_eq (p : Pfx) (a : W64) (n : BitVec 6) : rorV p a n = cut p (rotated p a (amount p n)) := by
  rw [rorV, place_eq_cut, rotated, amount]
  cases h : p.w32
  · simp
  · simp [BitVec.setWidth_eq_extractLsb']

/-! ## Counts of bits (R214, R215) -/

theorem getLsbD_usedWord (p : Pfx) (x : W64) (j : Nat) : (usedWord p x).getLsbD j = (usedNat p x).testBit j := by
  rw [← usedWord_toNat, BitVec.testBit_toNat]

theorem usedWord_eq_zero_iff (p : Pfx) (x : W64) : usedWord p x = 0 ↔ usedNat p x = 0 := by
  rw [← usedWord_toNat, ← BitVec.toNat_inj]
  rfl

/-- The leading zeros of a number stop at its highest set bit. -/
theorem clzNat_spec {w x : Nat} (hx : x ≠ 0) (hw : x < 2 ^ w) :
    clzNat w x < w ∧ x.testBit (w - 1 - clzNat w x) = true ∧ ∀ j, w - 1 - clzNat w x < j → x.testBit j = false := by
  have top : x.log2 < w := (Nat.log2_lt hx).mpr hw
  have place : w - 1 - clzNat w x = x.log2 := by rw [clzNat, if_neg hx]; omega
  refine ⟨by rw [clzNat, if_neg hx]; omega, ?_, fun j hj => ?_⟩
  · rw [place]; exact Nat.testBit_log2 hx
  · rw [place] at hj
    exact Nat.testBit_lt_two_pow ((Nat.log2_lt hx).mp hj)

theorem ctzNat_zero (w : Nat) : ctzNat w 0 = w := by
  induction w with
  | zero => rfl
  | succ w ih => rw [ctzNat, if_neg (by decide), Nat.zero_div, ih, Nat.add_comm]

/-- The trailing zeros of a number stop at its lowest set bit. -/
theorem ctzNat_spec {w x : Nat} (hx : x ≠ 0) (hw : x < 2 ^ w) :
    ctzNat w x < w ∧ x.testBit (ctzNat w x) = true ∧ ∀ j, j < ctzNat w x → x.testBit j = false := by
  induction w generalizing x with
  | zero => omega
  | succ w ih =>
    rw [ctzNat]
    split
    · rename_i odd
      exact ⟨by omega, by simp [Nat.testBit_zero, odd], nofun⟩
    · rename_i even
      have half : x / 2 ≠ 0 := by omega
      obtain ⟨below, bit, zeros⟩ := ih half (by rw [Nat.pow_succ] at hw; omega)
      refine ⟨by omega, by rw [Nat.add_comm, Nat.testBit_succ]; exact bit, fun j hj => ?_⟩
      cases j with
      | zero => simp [Nat.testBit_zero]; omega
      | succ j => rw [Nat.testBit_succ]; exact zeros j (by omega)

theorem popNat_eq_countP (w x : Nat) : popNat w x = (List.range w).countP fun j => x.testBit j := by
  induction w generalizing x with
  | zero => rfl
  | succ w ih =>
    rw [popNat, ih, List.range_succ_eq_map, List.countP_cons, List.countP_map, Nat.add_comm]
    congr 1
    · exact List.countP_congr fun j _ => by simp [Nat.testBit_succ]
    · simp only [Nat.testBit_zero]
      rcases Nat.mod_two_eq_zero_or_one x with h | h <;> simp [h]

/-! ## Comparisons (R221) -/

theorem ltS_eq (p : Pfx) (a b : W64) : ltS p a b = decide (usedInt p a < usedInt p b) := by simp [ltS]
theorem ltU_eq (p : Pfx) (a b : W64) : ltU p a b = decide (usedNat p a < usedNat p b) := by simp [ltU]
theorem boolV_decide (q : Prop) [Decidable q] : boolV (decide q) = if q then 1 else 0 := by simp [boolV]

theorem narrow_beq (p : Pfx) (a b : W64) : (narrow p.w32 a == narrow p.w32 b) = decide (usedNat p a = usedNat p b) := by
  rw [Bool.eq_iff_iff, beq_iff_eq, decide_eq_true_iff, ← BitVec.toNat_inj, narrow_toNat, narrow_toNat]

/-! ## Conditions (R183) -/

/-- The sign bit of an operand. -/
theorem narrow_negative (p : Pfx) (x : W64) :
    (if p.w32 then (narrow p.w32 x).getLsbD 31 else (narrow p.w32 x).getLsbD 63) = decide (usedInt p x < 0) := by
  cases h : p.w32
  · simp only [usedInt, h, Bool.false_eq_true, if_false, ← BitVec.msb_eq_toInt, BitVec.msb_eq_getLsbD_last]; rfl
  · simp only [usedInt, h, if_true, ← BitVec.msb_eq_toInt, BitVec.msb_eq_getLsbD_last, narrow]
    simp

theorem narrow_getLsbD_zero (p : Pfx) (x : W64) : (narrow p.w32 x).getLsbD 0 = decide (usedNat p x % 2 = 1) := by
  rw [← narrow_toNat, ← BitVec.testBit_toNat, Nat.testBit_zero]

end Sys2Proof.Machine

namespace Sys2Proof.Integers

open Sys2Proof Machine

/-- Settles O7: each instruction's value, as the form of its operands computes it. -/
theorem movesAndLogic : Obligations.MovesAndLogic := by
  unfold Obligations.MovesAndLogic
  intro s c p rd rs imm big r a b i
  exact ⟨fun h => exec_bin h (exec_mov ..) (place_eq_cut ..), fun h => exec_bin h (exec_andOp ..) (place_eq_cut ..),
    fun h => exec_bin h (exec_orOp ..) (place_eq_cut ..), fun h => exec_bin h (exec_xor ..) (place_eq_cut ..),
    fun h => exec_bin h (exec_notOp ..) (place_eq_cut ..), fun h => exec_bin h (exec_neg ..) (place_eq_cut ..),
    fun h => exec_imm h (exec_andi ..) (place_eq_cut ..), fun h => exec_imm h (exec_ori ..) (place_eq_cut ..),
    fun h => exec_imm h (exec_xori ..) (place_eq_cut ..), fun h => (exec_movi32 ..).trans (regIns_of_executes h rfl _), fun h => (exec_movi ..).trans (regIns_of_executes h rfl _)⟩

/-- Settles O8: each shift's value, with the amount that the operation's width leaves of the six bits. -/
theorem shiftsAndRotates : Obligations.ShiftsAndRotates := by
  unfold Obligations.ShiftsAndRotates
  intro s c p rd rs imm r a b n m
  have hn : n = amount p (b.setWidth 6) := shiftAmount_register p b
  have hm : m = amount p imm := shiftAmount_immediate p imm
  rw [hn, hm]
  exact ⟨fun h => exec_bin h (exec_shl ..) (shlV_eq ..), fun h => exec_bin h (exec_shr ..) (shrV_eq ..),
    fun h => exec_bin h (exec_sar ..) (sarV_eq ..), fun h => exec_bin h (exec_ror ..) (rorV_eq ..),
    fun h => exec_imm h (exec_shli ..) (shlV_eq ..), fun h => exec_imm h (exec_shri ..) (shrV_eq ..),
    fun h => exec_imm h (exec_sari ..) (sarV_eq ..), fun h => exec_imm h (exec_rori ..) (rorV_eq ..)⟩

/-- Settles O9: the counts of the model, by the bits of the operand. -/
theorem countsOfBits : Obligations.CountsOfBits := by
  unfold Obligations.CountsOfBits
  intro s c p rd rs r b w
  have bits (j : Nat) : b.getLsbD j = (usedNat p (getG r rs)).testBit j := getLsbD_usedWord p _ j
  have zero : b = 0 ↔ usedNat p (getG r rs) = 0 := usedWord_eq_zero_iff p _
  have small : usedNat p (getG r rs) < 2 ^ w := usedNat_lt p _
  refine ⟨fun h => ⟨clzNat w (usedNat p (getG r rs)), exec_bin h (exec_clz ..) ?_, fun hb => ?_, fun hb => ?_⟩,
    fun h => ⟨ctzNat w (usedNat p (getG r rs)), exec_bin h (exec_ctz ..) ?_, fun hb => ?_, fun hb => ?_⟩,
    fun h => exec_bin h (exec_popc ..) ?_⟩
  · rw [clzV, narrow_toNat]; rfl
  · rw [clzNat, if_pos (zero.mp hb)]
  · simpa only [bits] using clzNat_spec (mt zero.mpr hb) small
  · rw [ctzV, narrow_toNat]; rfl
  · rw [zero.mp hb, ctzNat_zero]
  · simpa only [bits] using ctzNat_spec (mt zero.mpr hb) small
  · simp only [bits, ← popNat_eq_countP]
    rw [popV, narrow_toNat]; rfl

/-- Settles O10: the model's orders are those of the operands as numbers. -/
theorem compareAndSelect : Obligations.CompareAndSelect := by
  unfold Obligations.CompareAndSelect
  intro s c p rd rs rt r a b lt gt ltu gtu
  refine ⟨fun h => exec_bin h (exec_cmpeq ..) ?_, fun h => exec_bin h (exec_cmplt ..) ?_, fun h => exec_bin h (exec_cmpltu ..) ?_,
    fun h => exec_bin h (exec_min ..) ?_, fun h => exec_bin h (exec_max ..) ?_, fun h => exec_bin h (exec_minu ..) ?_, fun h => exec_bin h (exec_maxu ..) ?_,
    fun h => (exec_sel ..).trans (regIns_of_executes h rfl _)⟩
  · rw [narrow_beq, boolV_decide]
  · rw [ltS_eq, boolV_decide]
  · rw [ltU_eq, boolV_decide]
  · rw [place_eq_cut, ltS_eq]; simp only [decide_eq_true_eq]; rfl
  · rw [place_eq_cut, ltS_eq]; simp only [decide_eq_true_eq]; rfl
  · rw [place_eq_cut, ltU_eq]; simp only [decide_eq_true_eq]; rfl
  · rw [place_eq_cut, ltU_eq]; simp only [decide_eq_true_eq]; rfl

/-- Settles O15: the tests of the condition codes, on the operand as a number. -/
theorem conditionCodes : Obligations.ConditionCodes := by
  unfold Obligations.ConditionCodes
  intro p r reg at'
  have zero := narrow_eq_zero_iff p (getG r reg)
  have negative := narrow_negative p (getG r reg)
  have odd := narrow_getLsbD_zero p (getG r reg)
  refine ⟨fun h => by simp [ccHolds, h], ?_, ?_, ?_, ?_, Iff.rfl, ?_, ?_⟩
  · exact beq_iff_eq.trans zero
  · exact bne_iff_ne.trans zero.not
  · show (if p.w32 then _ else _ : Bool) = true ↔ _
    rw [negative, decide_eq_true_iff]
  · show (!(if p.w32 then _ else _ : Bool)) = true ↔ _
    rw [negative, Bool.not_eq_true', decide_eq_false_iff_not, not_lt]
  · exact (Bool.not_eq_true' _).to_iff
  · show (narrow p.w32 (getG r reg)).getLsbD 0 = true ↔ _
    rw [odd, decide_eq_true_iff]

end Sys2Proof.Integers
end

/-! # Strands: conditions, illegal forms, the end of an instruction, and frames (chapter 5) -/

section
namespace Sys2Proof.Machine

open Sys2Proof

/-! ## A fresh instruction whose checks stop it -/

/-- A register that the condition tests is owed a floating-point result: the strand stalls (Table 05-10). -/
theorem issue_of_condition_hazard {s : State} {i : Instr} {c : CellId} {p : Pfx} {k : Enc}
    (h : Continues s i c p k) (free : (engineAt s c).mid = .free) (idle : (engineAt s c).offered = false)
    (good : istoreDouble (cellAt s c) (fetchWords (regsAt s c).pc (insLen k p)) = false)
    (owed : fpHazard (engineAt s c) (ccRegs p) = true) (bad : Option Nat) (uses : List Reg) (sends many : Bool)
    (f : State → State) :
    issue s i c p k bad uses sends many f = .next (stalled (fetched s c (insLen k p)) c 6) := by
  obtain ⟨-, up, running, fetch, room⟩ := h
  have inside : ¬ 0x4000 < (engineAt s c).regs.pc.toNat + insLen k p := by omega
  rw [regsAt] at good
  simp [issue, before, canContinue, up, running, free, idle, fetch, inside, good, owed]

section Fresh

variable {s : State} {i : Instr} {c : CellId} {p : Pfx} {k : Enc} (up : cellUp s c = true)
  (running : (engineAt s c).phase = .running) (free : (engineAt s c).mid = .free)
  (idle : (engineAt s c).offered = false) (bad : Option Nat) (uses : List Reg) (sends many : Bool) (f : State → State)
include up running free idle

theorem issue_past_store (past : 0x4000 < (regsAt s c).pc.toNat + (fetchAt s c).len) :
    issue s i c p k bad uses sends many f = unpredictable 184 s := by
  rw [regsAt] at past
  simp [issue, before, canContinue, up, running, free, idle, past]

variable (inside : ¬ 0x4000 < (regsAt s c).pc.toNat + (fetchAt s c).len)
  (good : ¬ istoreDouble (cellAt s c) (fetchWords (regsAt s c).pc (fetchAt s c).len) = true)
include inside good

theorem issue_reserved {n : Nat} (reserved : (fetchAt s c).what = .reserved n) :
    issue s i c p k bad uses sends many f = unpredictable n s := by
  rw [regsAt] at inside good
  simp [issue, before, canContinue, up, running, free, idle, inside, good, reserved]

theorem issue_other {j : Instr} {slack : Option Nat} (other : (fetchAt s c).what = .ins j slack) (hj : j ≠ i) :
    issue s i c p k bad uses sends many f = .refused .otherInstruction := by
  rw [regsAt] at inside good
  simp [issue, before, canContinue, up, running, free, idle, inside, good, other, hj]

theorem issue_slack {n : Nat} (slack : fetchAt s c = ⟨.ins i (some n), insLen k p⟩)
    (owed : fpHazard (engineAt s c) (ccRegs p) = false) (cond : ccHolds p (regsAt s c) = true)
    (none : (engineAt s c).fpOut = []) : issue s i c p k bad uses sends many f = unpredictable n s := by
  have hazard : fpHazard (engineAt s c) uses = false := by simp [fpHazard, none]
  rw [slack] at inside good
  rw [regsAt] at inside good cond
  simp [issue, before, canContinue, up, running, free, idle, inside, good, slack, owed, cond, hazard]

end Fresh

/-! ## Encodings that the decoder calls reserved (R179 to R183) -/

theorem decodeIns_of_error {c : CellId} {bs : List Byte} {f : Fetch} (h : readPrefixes 3 Pfx.none 0 bs = .error f) :
    decodeIns c bs = f := by rw [decodeIns, h]

theorem readPrefixes_undefined {k : Nat} {b : Byte} (hb : 0xF7 ≤ b.toNat) (p : Pfx) (n : Nat) (r : List Byte) :
    readPrefixes (k + 1) p n (b :: r) = .error ⟨.reserved 179, n + 1⟩ := by
  rw [readPrefixes.eq_def]
  simp [hb, show ¬ b.toNat < 0xF0 by omega]

theorem readPrefixes_fourth {b : Byte} (hb : 0xF0 ≤ b.toNat) (p : Pfx) (n : Nat) (r : List Byte) :
    readPrefixes 0 p n (b :: r) = .error ⟨.reserved 180, n + 1⟩ := by
  rw [readPrefixes.eq_def]
  simp [show ¬ b.toNat < 0xF0 by omega]

/-- One of the prefixes other than CC: undefined, repeated, or taken. -/
theorem readPrefixes_prefix (k : Nat) (p : Pfx) (n : Nat) {b : Byte} (hb : 0xF0 ≤ b.toNat) (hc : b.toNat ≠ 0xF4)
    (r : List Byte) :
    (∃ rule ∈ [179, 180], readPrefixes (k + 1) p n (b :: r) = .error ⟨.reserved rule, n + 1⟩) ∨
    ∃ q, readPrefixes (k + 1) p n (b :: r) = readPrefixes k q (n + 1) r := by
  have hc' : b ≠ 0xF4 := fun e => hc (by rw [e]; rfl)
  by_cases h7 : 0xF7 ≤ b.toNat
  · exact .inl ⟨179, by decide, readPrefixes_undefined h7 p n r⟩
  · rw [readPrefixes.eq_def]
    simp only [show ¬ b.toNat < 0xF0 by omega, if_false, h7, hc']
    cases addPrefix p b with
    | none => exact .inl ⟨180, by decide, rfl⟩
    | some q => exact .inr ⟨q, rfl⟩

/-- Three prefixes other than CC and a fourth of any kind. -/
theorem decodeIns_four_prefixes (c : CellId) {a b d e : Byte} (ha : a.toNat ≠ 0xF4) (hb : b.toNat ≠ 0xF4)
    (hd : d.toNat ≠ 0xF4) (ha' : 0xF0 ≤ a.toNat) (hb' : 0xF0 ≤ b.toNat) (hd' : 0xF0 ≤ d.toNat) (he : 0xF0 ≤ e.toNat)
    (r : List Byte) : ∃ n ∈ [179, 180], (decodeIns c (a :: b :: d :: e :: r)).what = .reserved n := by
  have stops {n m : Nat} (hn : n ∈ [179, 180])
      (h : readPrefixes 3 Pfx.none 0 (a :: b :: d :: e :: r) = .error ⟨.reserved n, m⟩) :
      ∃ n ∈ [179, 180], (decodeIns c (a :: b :: d :: e :: r)).what = .reserved n :=
    ⟨n, hn, by rw [decodeIns_of_error h]⟩
  obtain ⟨n, hn, h⟩ | ⟨q, h⟩ := readPrefixes_prefix 2 Pfx.none 0 ha' ha (b :: d :: e :: r)
  · exact stops hn h
  obtain ⟨n, hn, h'⟩ | ⟨q', h'⟩ := readPrefixes_prefix 1 q 1 hb' hb (d :: e :: r)
  · exact stops hn (h.trans h')
  obtain ⟨n, hn, h''⟩ | ⟨q'', h''⟩ := readPrefixes_prefix 0 q' 2 hd' hd (e :: r)
  · exact stops hn (h.trans (h'.trans h''))
  · exact stops (n := 180) (by decide) (h.trans (h'.trans (h''.trans (readPrefixes_fourth he q'' 3 r))))

theorem conditionOf_undefined {b : Byte} (h : b.getLsbD 7 = true ∨ b.extractLsb' 4 3 = 7 ∨
    ((b.extractLsb' 4 3 = 4 ∨ b.extractLsb' 4 3 = 5) ∧ b.extractLsb' 0 4 ≠ 0)) : conditionOf b = none := by
  rw [← BitVec.setWidth_eq_extractLsb' (show 4 ≤ 8 by decide)] at h
  rw [conditionOf, if_pos]
  simpa [or_assoc] using h

theorem decodeIns_undefined_condition (c : CellId) {b : Byte} (h : conditionOf b = none) (r : List Byte) :
    (decodeIns c (0xF4 :: b :: r)).what = .reserved 183 := by
  have stops : readPrefixes 3 Pfx.none 0 (0xF4 :: b :: r) = .error ⟨.reserved 183, 2⟩ := by
    rw [readPrefixes.eq_def]
    simp [h]
  rw [decodeIns_of_error stops]

theorem decodeIns_repeated (c : CellId) (r : List Byte) :
    ∀ b ∈ ([0xF0, 0xF1, 0xF2, 0xF3, 0xF5, 0xF6] : List Byte), (decodeIns c (b :: b :: r)).what = .reserved 180 := by
  intro b hb
  fin_cases hb <;> rfl

/-- Prefixes that are read, before an opcode byte. -/
theorem decodeIns_of_prefixes (c : CellId) {bs : List Byte} {p : Pfx} {n : Nat} {op : Byte} {r : List Byte}
    (h : readPrefixes 3 Pfx.none 0 bs = .ok (p, n, op :: r)) :
    (rowOf op = none → (decodeIns c bs).what = .reserved 181) ∧
    (∀ row, rowOf op = some row → prefixLegal row.enc p = false → (decodeIns c bs).what = .reserved 180) := by
  constructor
  · intro hn
    simp [decodeIns, h, hn]
  · intro row hr hp
    simp [decodeIns, h, hr, hp]

theorem readPrefixes_one_more {q q' : Pfx} {x : Byte} (hx : 0xF0 ≤ x.toNat) (hx' : x.toNat < 0xF7) (hne : x ≠ 0xF4)
    (hq : addPrefix q x = some q') (k n : Nat) (rest : List Byte) :
    readPrefixes (k + 1) q n (x :: rest) = readPrefixes k q' (n + 1) rest :=
  readPrefixes_flag (b := true) hx hx' hne hq k n rest

/-- A single byte of the prefixes before an opcode byte. -/
theorem readPrefixes_one {b op : Byte} (ho : op.toNat < 0xF0) {q : Pfx} (hq : addPrefix Pfx.none b = some q)
    (hb : 0xF0 ≤ b.toNat) (hb' : b.toNat < 0xF7) (hne : b ≠ 0xF4) (r : List Byte) :
    readPrefixes 3 Pfx.none 0 (b :: op :: r) = .ok (q, 1, op :: r) :=
  (readPrefixes_one_more hb hb' hne hq 2 0 (op :: r)).trans (readPrefixes_opcode 2 1 q ho r)

/-- One of the prefixes that an opcode does not list, the only one before it (R180). -/
theorem decodeIns_unlisted (c : CellId) {b op : Byte} (ho : op.toNat < 0xF0) {row : OpRow} (hr : rowOf op = some row)
    {q : Pfx} (hq : addPrefix Pfx.none b = some q) (hb : 0xF0 ≤ b.toNat) (hb' : b.toNat < 0xF7) (hne : b ≠ 0xF4)
    (illegal : prefixLegal row.enc q = false) (r : List Byte) : (decodeIns c (b :: op :: r)).what = .reserved 180 :=
  (decodeIns_of_prefixes c (readPrefixes_one ho hq hb hb' hne r)).2 row hr illegal

/-- FS32 with FD64: the opcode decides which rule is broken (R180, R181). -/
theorem decodeIns_both_formats (c : CellId) {op : Byte} (ho : op.toNat < 0xF0) (r : List Byte) :
    (decodeIns c (0xF1 :: 0xF2 :: op :: r)).what = .reserved (if (rowOf op).isSome then 180 else 181) := by
  have both : readPrefixes 3 Pfx.none 0 (0xF1 :: 0xF2 :: op :: r) =
      .ok ({ Pfx.none with fs32 := true, fd64 := true }, 2, op :: r) :=
    (readPrefixes_one_more (x := 0xF1) (by decide) (by decide) (by decide) rfl 2 0 _).trans
      ((readPrefixes_one_more (x := 0xF2) (by decide) (by decide) (by decide) rfl 1 1 _).trans
        (readPrefixes_opcode 1 2 _ ho r))
  obtain ⟨unassigned, assigned⟩ := decodeIns_of_prefixes c both
  cases hr : rowOf op with
  | none => exact unassigned hr
  | some row => exact assigned row hr (by simp [prefixLegal])

/-! ## What the end of an instruction leaves (R186, R190) -/

theorem commitProduct_of_none {r : Regs} (h : r.pend = none) : commitProduct r = r := by rw [commitProduct, h]

theorem commitProduct_shape (r : Regs) :
    commitProduct r = { r with pl := (commitProduct r).pl, ph := (commitProduct r).ph, pend := none } := by
  cases h : r.pend with
  | none => rw [commitProduct_of_none h, ← h]
  | some m => rw [commitProduct_of_pending h]

theorem engineAt_afterTo (s : State) (c : CellId) (p : Pfx) (k : Enc) (r : Regs) (own : Option (BitVec 128))
    (a : BitVec 15) : engineAt (afterTo s c p k r own a) c = (engineAt s c).at (retire r own a) := by
  rw [afterTo, engineAt_complete, engineAt_fetched]

/-! ## Register instructions: every path to a next state -/

/-- `r'` is `r` but for general register `d` and, where `carry` allows it, CF. -/
structure KeepsBut (d : Reg) (carry : Bool) (r r' : Regs) : Prop where
  shape : r' = { r with g := r'.g, cf := r'.cf }
  others : ∀ j, j ≠ d → getG r' j = getG r j
  flag : carry = false → r'.cf = r.cf

theorem KeepsBut.refl (d : Reg) (carry : Bool) (r : Regs) : KeepsBut d carry r r := ⟨rfl, fun _ _ => rfl, fun _ => rfl⟩

theorem KeepsBut.setG (d : Reg) (carry : Bool) (r : Regs) (v : W64) : KeepsBut d carry r (setG r d v) :=
  ⟨rfl, fun _ hj => getG_setG_other r hj.symm v, fun _ => rfl⟩

theorem KeepsBut.setG_carry (d : Reg) (r : Regs) (v : W64) (b : Bool) :
    KeepsBut d true r { Machine.setG r d v with cf := b } :=
  ⟨rfl, fun _ hj => getG_setG_other r hj.symm v, nofun⟩

/-- `t` is `u` after its strand has stalled, or has completed an instruction that changed `d` and, where `carry` allows
it, CF. -/
def EndsKeeping (c : CellId) (d : Reg) (carry : Bool) (u t : State) : Prop :=
  (∃ cause, t = stalled u c cause) ∨ ∃ r a, KeepsBut d carry (regsAt u c) r ∧ t = complete u c r none a

/-- An outcome of checks followed by an effect that ends so. -/
inductive WritesRegister (s : State) (i : Instr) (c : CellId) (d : Reg) (carry : Bool) :
    Host.Outcome State Fault Refusal → Prop
  | mk (p : Pfx) (k : Enc) (bad : Option Nat) (uses : List Reg) (effect : State → State)
    (ends : ∀ u, EndsKeeping c d carry u (effect u)) :
    WritesRegister s i c d carry (issue s i c p k bad uses false false effect)

theorem regIns_writes {s : State} {i : Instr} {c : CellId} {p : Pfx} {k : Enc} {bad : Option Nat} {uses : List Reg}
    {f : Regs → Regs} {d : Reg} {carry : Bool} (keeps : ∀ r, KeepsBut d carry r (f r)) :
    WritesRegister s i c d carry (regIns s i c p k bad uses f) :=
  .mk p k bad uses _ fun u => .inr ⟨_, _, keeps (regsAt u c), rfl⟩

theorem binIns_writes (s i c p k rd rs f) : WritesRegister s i c rd false (binIns s i c p k rd rs f) :=
  regIns_writes fun r => .setG rd false r _
theorem immIns_writes (s i c p k rd rs f) : WritesRegister s i c rd false (immIns s i c p k rd rs f) :=
  regIns_writes fun r => .setG rd false r _
theorem carryIns_writes (s i c p k uses rd f) : WritesRegister s i c rd true (carryIns s i c p k uses rd f) :=
  regIns_writes fun r => .setG_carry rd r _ _

/-- SEL writes rd or leaves it. -/
theorem execSel_writes (c p rd rs rt s) : WritesRegister s (.sel c p rd rs rt) c rd false (execSel c p rd rs rt s) :=
  regIns_writes fun r => by
    split
    · exact .setG rd false r _
    · exact .refl rd false r

/-- RDSR writes rd, or waits for the operations that may still write FS. -/
theorem execRdsr_writes (c p rd idx s) : WritesRegister s (.rdsr c p rd idx) c rd false (execRdsr c p rd idx s) :=
  .mk p encC _ _ _ fun u => by
    dsimp only
    split
    · exact .inl ⟨7, rfl⟩
    · exact .inr ⟨_, _, .setG rd false (regsAt u c) _, rfl⟩

/-- The instructions that write one general register; the cases are their forms. -/
theorem exec_writes {i : Instr} {c : CellId} {d : Reg} (h : registerForm i = some (c, d)) (s : State) :
    WritesRegister s i c d (writesCarry i) (exec i s) := by
  cases i with
  | mov | andOp | orOp | xor | notOp | neg | shl | shr | sar | ror | clz | ctz | popc | cmpeq | cmplt | cmpltu | min
  | max | minu | maxu | bfi => cases h; dsimp only [exec]; exact binIns_writes ..
  | shli | shri | sari | rori | andi | ori | xori | bfx | bfxs => cases h; dsimp only [exec]; exact immIns_writes ..
  | add | sub | adc | sbc | addi => cases h; dsimp only [exec]; exact carryIns_writes ..
  | movi32 | movi | beat | fneg | fabs =>
    cases h; dsimp only [exec]; exact regIns_writes fun r => .setG d false r _
  | sel => cases h; dsimp only [exec]; exact execSel_writes ..
  | rdsr => cases h; dsimp only [exec]; exact execRdsr_writes ..
  | _ => cases h

theorem istoreDouble_of_none {x : Cell} (h : ∀ w, mget Ecc.ok x.istoreEcc w ≠ .double) (ws : List Nat) :
    istoreDouble x ws = false := by
  simpa [istoreDouble] using fun w _ => h w

/-- Where no word of the store is bad, a fresh instruction's checks stall it, or let it go on, or let it take effect. -/
theorem before_of_good {s : State} {i : Instr} {c : CellId} {p : Pfx} {k : Enc} {bad : Option Nat} {uses : List Reg}
    {sends many : Bool} {t : State} (good : ∀ w, mget Ecc.ok (cellAt s c).istoreEcc w ≠ .double)
    (h : before s i c p k bad uses sends many = .instead t) :
    ∃ n, t = stalled (fetched s c n) c 6 ∨ ∃ a, t = complete (fetched s c n) c (engineAt s c).regs none a := by
  simp only [before, istoreDouble_of_none good, Bool.and_false] at h
  split at h
  · cases h
  split at h
  · cases h
  rw [if_neg Bool.false_ne_true] at h
  split at h
  · cases h
  split at h
  · cases h
  split at h
  · cases h; exact ⟨_, .inl rfl⟩
  split at h
  · cases h; exact ⟨_, .inr ⟨_, rfl⟩⟩
  split at h
  · cases h; exact ⟨_, .inl rfl⟩
  split at h <;> cases h

/-- A register instruction that answers a next state has stalled or completed. -/
theorem WritesRegister.ends {s : State} {i : Instr} {c : CellId} {d : Reg} {carry : Bool} {t : State}
    (h : WritesRegister s i c d carry (.next t)) (good : ∀ w, mget Ecc.ok (cellAt s c).istoreEcc w ≠ .double) :
    ∃ n, EndsKeeping c d carry (fetched s c n) t := by
  generalize ho : Host.Outcome.next t = o at h
  obtain ⟨p, k, bad, uses, effect, ends⟩ := h
  rw [issue] at ho
  split at ho
  · cases ho
  · cases ho
  · rename_i hb
    cases ho
    obtain ⟨n, stalls | ⟨a, completes⟩⟩ := before_of_good good hb
    · exact ⟨n, .inl ⟨6, stalls⟩⟩
    · exact ⟨n, .inr ⟨_, a, .refl d carry _, by rw [completes, regsAt_fetched, regsAt]⟩⟩
  · cases ho
    exact ⟨_, ends _⟩

/-- Registers that an instruction with one destination may leave: those it found, but for the destination, CF, the program
address, the loop counts and the product. -/
structure RegisterFrame (d : Reg) (carry : Bool) (r x : Regs) : Prop where
  shape : x = { commitProduct r with g := x.g, cf := x.cf, pc := x.pc, lc := x.lc, pend := x.pend }
  others : ∀ j, j ≠ d → getG x j = getG r j
  flag : carry = false → x.cf = r.cf

@[simp] theorem getG_commitProduct (r : Regs) (j : Reg) : getG (commitProduct r) j = getG r j := by
  rw [getG, getG]; simp

theorem registerFrame_commitProduct (d : Reg) (carry : Bool) (r : Regs) : RegisterFrame d carry r (commitProduct r) :=
  ⟨rfl, fun j _ => getG_commitProduct r j, fun _ => by rw [commitProduct_shape]⟩

theorem KeepsBut.commitProduct {d : Reg} {carry : Bool} {r r' : Regs} (h : KeepsBut d carry r r') :
    Machine.commitProduct r' = { Machine.commitProduct r with g := r'.g, cf := r'.cf } := by
  rw [h.shape]
  cases hp : r.pend with
  | none => simp [Machine.commitProduct, hp]
  | some m => simp [Machine.commitProduct, hp]

theorem registerFrame_retire {d : Reg} {carry : Bool} {r r' : Regs} (h : KeepsBut d carry r r') (a : BitVec 15) :
    RegisterFrame d carry r (retire r' none a) := by
  have shape := retire_shape r' none a
  rw [h.commitProduct] at shape
  refine ⟨?_, fun j hj => (getG_retire r' none a j).trans (h.others j hj), fun hc => ?_⟩
  · rw [shape]
  · rw [shape]; exact h.flag hc

theorem EndsKeeping.frame {s t : State} {c : CellId} {d : Reg} {carry : Bool} {n : Nat}
    (h : EndsKeeping c d carry (fetched s c n) t) :
    OnlyStrand s t c ∧ t.mem = s.mem ∧ RegisterFrame d carry (regsAt s c) (regsAt t c) := by
  obtain ⟨cause, rfl⟩ | ⟨r, a, keeps, rfl⟩ := h
  · refine ⟨onlyStrand_setEngine_fetched .., rfl, ?_⟩
    have stalls : regsAt (stalled (fetched s c n) c cause) c = commitProduct (regsAt s c) := by
      rw [stalled, regsAt, engineAt_setEngine_same, engineAt_fetched, regsAt]
    rw [stalls]
    exact registerFrame_commitProduct ..
  · refine ⟨onlyStrand_setEngine_fetched .., rfl, ?_⟩
    rw [regsAt_fetched] at keeps
    rw [regsAt_complete]
    exact registerFrame_retire keeps a

/-! ## Operands that break a rule (R147, R246) -/

theorem exec_put (c p port rs s) : exec (.put c p port rs) s = execPut c p port rs s := rfl
theorem exec_take (c p rd port s) : exec (.take c p rd port) s = execTake c p rd port s := rfl
theorem exec_tli (c p rd rs rt kcode s) : exec (.tli c p rd rs rt kcode) s = execTli c p rd rs rt kcode s := rfl
theorem exec_tlif (c p rd rs rt kcode s) : exec (.tlif c p rd rs rt kcode) s = execTlif c p rd rs rt kcode s := rfl

/-- An instruction that emits a message, with operands that break a rule. -/
theorem sendIns_of_bad {s : State} {i : Instr} {c : CellId} {p : Pfx} {k : Enc} {uses : List Reg}
    (h : Executes s i c p k uses) {bad : Option Nat} {n : Nat} (hb : bad = some n) (cause : BitVec 4)
    (msg : State → Regs → Msg) : sendIns s i c p k bad uses cause msg = unpredictable n s := by
  rw [sendIns, issue_of_bad h hb]

theorem lookupIns_of_bad {s : State} {i : Instr} {c : CellId} {p : Pfx} {k : Enc} {rd rs rt : Reg}
    (h : Executes s i c p k [rd, rs, rt]) {kc : BitVec 4} {n : Nat}
    (hb : (if 9 ≤ kc.toNat then some 246 else none).or (tableBad (regsAt s c) rs rt kc) = some n) (float : Bool) :
    lookupIns s i c p k float rd rs rt kc = unpredictable n s := by
  rw [lookupIns, issue_of_bad h hb]

end Sys2Proof.Machine

namespace Sys2Proof.Strands

open Sys2Proof Machine

/-- Settles O14: an instruction's checks come before anything of its own, so that one proof covers every form. -/
theorem conditionFalseOnlyAdvances : Obligations.ConditionFalseOnlyAdvances := by
  unfold Obligations.ConditionFalseOnlyAdvances
  refine ⟨fun s i c p k h hc => exec_of_condition_false h hc, fun s i c p k h free idle good owed => ?_⟩
  have hi := exec_issues h.1 s
  generalize exec i s = o at hi ⊢
  cases hi
  exact issue_of_condition_hazard h free idle good owed ..

/-- Settles O16: the checks of a fresh instruction in their order, what the decoder calls reserved, and the operands of
the instructions that check them. -/
theorem illegalFormsAreUnpredictable : Obligations.IllegalFormsAreUnpredictable := by
  unfold Obligations.IllegalFormsAreUnpredictable Unpredictable
  refine ⟨fun s i c p k form up running free idle => ?_, fun c op r ho => ⟨fun b hb => ?_, ?_, decodeIns_repeated c r,
    decodeIns_both_formats c ho r, fun b hb => ?_, fun hr => ?_, fun row hr => ?_⟩, fun s c p rd rs rt n kc => ?_⟩
  · have hi := exec_issues form s
    generalize exec i s = o at hi ⊢
    obtain ⟨bad, uses, sends, many, effect⟩ := hi
    exact ⟨issue_past_store up running free idle bad uses sends many effect, fun inside good n => issue_reserved up running free idle _ _ _ _ _ inside good,
      fun inside good j slack => issue_other up running free idle _ _ _ _ _ inside good,
      fun inside good n => issue_slack up running free idle _ _ _ _ _ inside good⟩
  · rw [decodeIns_of_error (readPrefixes_undefined hb ..)]
  · intro a b d e ha hb hd ha' hb' hd' he
    exact decodeIns_four_prefixes c ha hb hd ha' hb' hd' he r
  · exact decodeIns_undefined_condition c (conditionOf_undefined hb) r
  · exact (decodeIns_of_prefixes c (readPrefixes_opcode 3 0 Pfx.none ho r)).1 (Option.isNone_iff_eq_none.mp hr)
  · have unlisted {b : Byte} {q : Pfx} (hq : addPrefix Pfx.none b = some q) (hb : 0xF0 ≤ b.toNat) (hb' : b.toNat < 0xF7)
        (hne : b ≠ 0xF4) (illegal : prefixLegal row.enc q = false) :=
      decodeIns_unlisted c ho hr hq hb hb' hne illegal r
    refine ⟨fun h => ?_, fun h => ⟨?_, ?_⟩, fun h => ?_, fun h => ?_, fun h => ?_⟩
    all_goals exact unlisted rfl (by decide) (by decide) (by decide) (by simp [prefixLegal, h])
  · refine ⟨fun h hn => ?_, fun h hn => ?_, fun h hk => ?_, fun h hk => ?_⟩
    · exact (exec_put ..).trans (sendIns_of_bad h (if_pos (by bv_omega)) _ _)
    · exact (exec_take ..).trans (sendIns_of_bad h (by rw [portBad, if_pos hn]; rfl) _ _)
    · exact (exec_tli ..).trans (lookupIns_of_bad h (by rw [if_pos hk]; rfl) _)
    · exact (exec_tlif ..).trans (lookupIns_of_bad h (by rw [if_pos hk]; rfl) _)

/-- Settles O17: what `retire` does to the registers it is given. -/
theorem instructionEndsFrame : Obligations.InstructionEndsFrame := by
  unfold Obligations.InstructionEndsFrame
  intro s c p k r own a t x
  have hx : x = retire r own a := regsAt_afterTo ..
  have shape := retire_shape r own a
  rw [commitProduct_shape r, ← hx] at shape
  refine ⟨onlyStrand_afterTo .., fun _ => rfl, ?_, shape, fun m hm => ?_, fun hn => ?_⟩
  · rw [engineAt_afterTo, ← hx]; rfl
  · rw [shape, commitProduct_of_pending hm]; exact ⟨rfl, rfl⟩
  · rw [shape, commitProduct_of_none hn]; exact ⟨rfl, rfl⟩

/-- Settles O19: every path of a register instruction stalls it or completes it with one destination. -/
theorem registerInstructionsFrame : Obligations.RegisterInstructionsFrame := by
  unfold Obligations.RegisterInstructionsFrame
  intro s t i c d form good h r x
  have writes := exec_writes form s
  rw [h] at writes
  obtain ⟨n, ends⟩ := writes.ends good
  obtain ⟨only, mem, shape, others, flag⟩ := ends.frame
  rw [commitProduct_shape] at shape
  refine ⟨only, fun a => by rw [mem], others, flag, ?_, ?_, ?_, ?_, ?_, ?_, ?_, ?_, ?_, ?_, ?_, ?_, ?_, ?_⟩
  all_goals rw [show x = _ from shape]

end Sys2Proof.Strands
end

/-! # One step, the state after reset, and the test access port (chapters 1, 14 and 16) -/

section
namespace Sys2Proof.Machine

open Sys2Proof

theorem exec_extest (cells s) : exec (.extest cells) s = execExtest cells s := rfl
theorem exec_samplePreload (cells s) : exec (.samplePreload cells) s = execSamplePreload cells s := rfl
theorem exec_idcode (s) : exec .idcode s = execIdcode s := rfl
theorem exec_bypass (code s) : exec (.bypass code) s = execBypass code s := rfl

/-- Four fields side by side are read back. -/
theorem extract_four {a b c d : Nat} (x : BitVec a) (y : BitVec b) (z : BitVec c) (u : BitVec d) :
    (x ++ y ++ z ++ u).extractLsb' d c = z ∧ (x ++ y ++ z ++ u).extractLsb' (d + c) b = y ∧
    (x ++ y ++ z ++ u).extractLsb' (d + c + b) a = x := by
  refine ⟨?_, ?_, ?_⟩
  · ext j hj
    simp [BitVec.getLsbD_append, hj]
  · ext j hj
    simp [BitVec.getLsbD_append, hj, show ¬ d + c + j < d by omega, show d + c + j - d = c + j by omega]
  · ext j hj
    simp [BitVec.getLsbD_append, show ¬ d + c + b + j < d by omega, show d + c + b + j - d = c + b + j by omega,
      show ¬ c + b + j < c by omega, show c + b + j - c = b + j by omega, BitVec.getLsbD_eq_getElem hj]

theorem getLsbD_append_one {n : Nat} (x : BitVec n) : (x ++ (1 : BitVec 1)).getLsbD 0 = true := by
  simp [BitVec.getLsbD_append]

/-- The fields of the identity register (R631). -/
theorem idcodeWord_fields : idcodeWord.getLsbD 0 = true ∧ idcodeWord.extractLsb' 1 11 = Config.manufacturer ∧
    idcodeWord.extractLsb' 12 16 = 0x4840 ∧ idcodeWord.extractLsb' 28 4 = Config.revMajor :=
  ⟨getLsbD_append_one _, extract_four Config.revMajor (0x4840 : BitVec 16) Config.manufacturer (1 : BitVec 1)⟩

end Sys2Proof.Machine

namespace Sys2Proof.Basics

open Sys2Proof Machine

/-- Settles O1: the queue's front and rest are what `step` matches on. -/
theorem stepRunsTheFrontCommand : Obligations.StepRunsTheFrontCommand :=
  ⟨fun _ _ => rfl, fun s h => by rw [step, h]⟩

/-- Settles O2: the reset state is written out, and nothing is listed in its collections. -/
theorem resetLeavesOff : Obligations.ResetLeavesOff :=
  ⟨rfl, rfl, rfl, rfl, rfl, rfl, rfl, rfl, rfl, rfl, rfl, rfl, rfl, rfl, reset_memory_wf, fun _ => rfl, fun _ => rfl,
    fun _ => rfl⟩

/-- Settles O60: the port acts where PD11 is powered, and the identity register has the fields of R631. -/
theorem testAccessPort : Obligations.TestAccessPort := by
  unfold Obligations.TestAccessPort
  intro s cells code
  rw [exec_extest, exec_samplePreload, exec_idcode, exec_bypass]
  refine ⟨fun up => ⟨?_, ?_, ⟨_, (exec_idcode s).trans (if_pos up), idcodeWord, rfl, idcodeWord_fields⟩, fun high => ?_⟩,
    fun down => ⟨?_, ?_, ?_, ?_⟩⟩
  · rw [execExtest, if_pos up]
  · rw [execSamplePreload, if_pos up]
  · rw [execBypass, if_pos up, if_neg (by omega)]
  · simp [execExtest, down]
  · simp [execSamplePreload, down]
  · simp [execIdcode, down]
  · simp [execBypass, down]

end Sys2Proof.Basics
end

/-! # Instructions that emit messages: memory, streams, tokens and flows (chapters 5, 6 and 8) -/

section
namespace Sys2Proof.Machine

open Sys2Proof

/-! ## What a port's room depends on (R384, R392) -/

/-- Of the cells, a local port's room depends on the RETRYs that wait in their rooms alone. -/
theorem canEnter_setCell (s : State) {c : CellId} {x : Cell} (h : x.room = (cellAt s c).room) (t : TileId)
    (extra : Bool) (vn : BitVec 2) : canEnter (setCell s c x) t extra vn = canEnter s t extra vn := by
  have room (d : CellId) : (cellAt (setCell s c x) d).room = (cellAt s d).room := by
    by_cases hd : c = d
    · subst hd; rw [cellAt_setCell_same, h]
    · rw [cellAt_setCell_other s hd]
  have same : isReissue (setCell s c x) = isReissue s := rfl
  simp only [canEnter, reissueWaits, room, setCell_weave, same]

theorem canEnter_setEngine (s : State) (c : CellId) (e : Engine) (t : TileId) (extra : Bool) (vn : BitVec 2) :
    canEnter (setEngine s c e) t extra vn = canEnter s t extra vn := canEnter_setCell s (x := { cellAt s c with engine := e }) rfl ..

theorem istoreCorrect_room (ws : List Nat) (x : Cell) : (istoreCorrect x ws).room = x.room := by
  rw [istoreCorrect_shape]

theorem canEnter_fetched (s : State) (c : CellId) (n : Nat) (t : TileId) (extra : Bool) (vn : BitVec 2) :
    canEnter (fetched s c n) t extra vn = canEnter s t extra vn := canEnter_setCell s (istoreCorrect_room ..) ..

@[simp] theorem portReady_fetched (s : State) (c : CellId) (n : Nat) (vn : BitVec 2) :
    PortReady (fetched s c n) c vn ↔ PortReady s c vn := by
  simp only [PortReady, portRoom, canEnter_fetched, stillOffered, fetched_weave]

@[simp] theorem portBusy_fetched (s : State) (c : CellId) (n : Nat) (vn : BitVec 2) :
    PortBusy (fetched s c n) c vn ↔ PortBusy s c vn := by rw [PortBusy, canEnter_fetched, PortBusy]

/-! ## The forms of instructions that emit a message -/

/-- One message, which the port accepts. -/
theorem exec_sends {s : State} {i : Instr} {c : CellId} {p : Pfx} {k : Enc} {uses : List Reg}
    (h : Executes s i c p k uses) {bad : Option Nat} {cause : BitVec 4} {msg : State → Regs → Msg}
    (form : exec i s = sendIns s i c p k bad uses cause msg) (legal : bad = none) {m : Msg}
    (sent : msg (fetched s c (insLen k p)) (regsAt s c) = m) (ready : PortReady s c (msgVn m)) :
    exec i s = .next (afterFlit s c p k m) := by
  rw [form, sendIns_of_executes h legal, sent]
  rwa [sent, portReady_fetched]

/-- One message of a repeatable instruction without REP, which the port accepts. -/
theorem exec_once {s : State} {i : Instr} {c : CellId} {p : Pfx} {k : Enc} {uses : List Reg}
    (h : Executes s i c p k uses) {uses' : List Reg} {bad : Option Nat} {cause : BitVec 4} {size : Nat}
    {src dst : Regs → Addr} {msg : State → Regs → Addr → Addr → Msg}
    (form : exec i s = repIns s i c p k uses' cause size bad src dst msg) (same : uses' = uses) (once : p.rep = false)
    (legal : bad = none) {m : Msg}
    (sent : msg (fetched s c (insLen k p)) (regsAt s c) (src (regsAt s c)) (dst (regsAt s c)) = m)
    (ready : PortReady s c (msgVn m)) : exec i s = .next (afterFlit s c p k m) := by
  subst same
  rw [form, repIns_once h once cause size legal, sent]
  rwa [sent, portReady_fetched]

theorem exec_rep_bad {s : State} {i : Instr} {c : CellId} {p : Pfx} {k : Enc} {uses : List Reg}
    (h : Executes s i c p k uses) {uses' : List Reg} {bad : Option Nat} {cause : BitVec 4} {size : Nat}
    {src dst : Regs → Addr} {msg : State → Regs → Addr → Addr → Msg}
    (form : exec i s = repIns s i c p k uses' cause size bad src dst msg) (same : uses' = uses) {n : Nat}
    (illegal : bad = some n) : Unpredictable i s n := by
  subst same
  rw [Unpredictable, form, repIns, issue_of_bad h illegal]
  rfl

/-! ## Addresses and tags (R23, R224, R225, R298) -/

theorem alignTo_addrOf (n : Nat) (x : W64) : alignTo n (addrOf x) = accessAddr n x := by
  rw [alignTo, addrOf, accessAddr, BitVec.setWidth_eq_extractLsb' (by decide)]

theorem addrOf_eq_accessAddr (x : W64) : addrOf x = accessAddr 0 x := by
  rw [← alignTo_addrOf, alignTo, BitVec.ushiftRight_zero, BitVec.shiftLeft_zero]

theorem mapBad_of_mapped {a : Addr} (h : rangeOf a ≠ .none) : mapBad a = none := if_neg h
theorem mapBad_of_unmapped {a : Addr} (h : rangeOf a = .none) : mapBad a = some 298 := if_pos h

theorem tagReserved_eq_false {w : W64} (h : w.extractLsb' 0 10 = 0) : tagReserved w = false := by
  simp [tagReserved, h]

theorem tagBad_of_good {r : Regs} {rd : Reg} (h : (getG r rd).extractLsb' 0 10 = 0) : tagBad r rd = none := by
  simp [tagBad, tagReserved_eq_false h]

theorem tagBad_of_reserved {r : Regs} {rd : Reg} (h : ¬ (getG r rd).extractLsb' 0 10 = 0) : tagBad r rd = some 23 :=
  if_pos (bne_iff_ne.mpr h)

/-- A load's operands are legal where its tag is and its address lies in the map. -/
theorem load_legal {r : Regs} {rd rs : Reg} (tag : (getG r rd).extractLsb' 0 10 = 0)
    (mapped : rangeOf (accessAddr 0 (getG r rs)) ≠ .none) :
    (tagBad r rd).or (mapBad (addrOf (getG r rs))) = none := by
  rw [tagBad_of_good tag, addrOf_eq_accessAddr, mapBad_of_mapped mapped]; rfl

theorem load_unmapped {r : Regs} {rd rs : Reg} (tag : (getG r rd).extractLsb' 0 10 = 0)
    (unmapped : rangeOf (accessAddr 0 (getG r rs)) = .none) :
    (tagBad r rd).or (mapBad (addrOf (getG r rs))) = some 298 := by
  rw [tagBad_of_good tag, addrOf_eq_accessAddr, mapBad_of_unmapped unmapped]; rfl

theorem load_reserved {r : Regs} {rd : Reg} (tag : ¬ (getG r rd).extractLsb' 0 10 = 0) (bad : Option Nat) :
    (tagBad r rd).or bad = some 23 := by
  rw [tagBad_of_reserved tag]; rfl

/-! ## Loads and stream ports -/

theorem exec_ld (c p rd rs s) : exec (.ld c p rd rs) s = execLd c p rd rs s := rfl
theorem exec_ldw (c p rd rs s) : exec (.ldw c p rd rs) s = execLdw c p rd rs s := rfl
theorem exec_ldh (c p rd rs s) : exec (.ldh c p rd rs) s = execLdh c p rd rs s := rfl
theorem exec_ldb (c p rd rs s) : exec (.ldb c p rd rs) s = execLdb c p rd rs s := rfl
theorem exec_iload (c p rd rs s) : exec (.iload c p rd rs) s = execIload c p rd rs s := rfl

/-- What a load sends. -/
def loadMsg (r : Regs) (p : Pfx) (rd rs : Reg) (n : Nat) : Msg :=
  .read (accessAddr n (getG r rs)) (.load ⟨getG r rd, r.dl, r.fl, BitVec.ofNat 2 n, p.sx⟩) r.tag0

theorem exec_load {s : State} {i : Instr} {c : CellId} {p : Pfx} {k : Enc} {rd rs : Reg} {n : Nat}
    (h : Executes s i c p k [rd, rs]) (form : exec i s = loadIns s i c p k rd rs n) (ready : PortReady s c 1)
    (tag : (getG (regsAt s c) rd).extractLsb' 0 10 = 0)
    (mapped : rangeOf (accessAddr 0 (getG (regsAt s c) rs)) ≠ .none) :
    exec i s = .next (afterFlit s c p k (loadMsg (regsAt s c) p rd rs n)) :=
  exec_sends h form (load_legal tag mapped) (by rw [alignTo_addrOf]; rfl) ready

theorem sendIns_load_bad {s : State} {i : Instr} {c : CellId} {p : Pfx} {k : Enc} {uses : List Reg} {rd rs : Reg}
    {cause : BitVec 4} {msg : State → Regs → Msg} (h : Executes s i c p k uses)
    (form : exec i s =
      sendIns s i c p k ((tagBad (regsAt s c) rd).or (mapBad (addrOf (getG (regsAt s c) rs)))) uses cause msg) :
    (¬ (getG (regsAt s c) rd).extractLsb' 0 10 = 0 → Unpredictable i s 23) ∧
    ((getG (regsAt s c) rd).extractLsb' 0 10 = 0 → rangeOf (accessAddr 0 (getG (regsAt s c) rs)) = .none →
      Unpredictable i s 298) :=
  ⟨fun tag => form.trans (sendIns_of_bad h (load_reserved tag _) _ _),
    fun tag unmapped => form.trans (sendIns_of_bad h (load_unmapped tag unmapped) _ _)⟩

theorem exec_load_bad {s : State} {i : Instr} {c : CellId} {p : Pfx} {k : Enc} {rd rs : Reg} {n : Nat}
    (h : Executes s i c p k [rd, rs]) (form : exec i s = loadIns s i c p k rd rs n) :
    (¬ (getG (regsAt s c) rd).extractLsb' 0 10 = 0 → Unpredictable i s 23) ∧
    ((getG (regsAt s c) rd).extractLsb' 0 10 = 0 → rangeOf (accessAddr 0 (getG (regsAt s c) rs)) = .none →
      Unpredictable i s 298) := sendIns_load_bad h (by rw [form, loadIns])

/-! ## Stores (R188, R189, R225, R230) -/

theorem exec_st (c p rd rs s) : exec (.st c p rd rs) s = execSt c p rd rs s := rfl
theorem exec_stw (c p rd rs s) : exec (.stw c p rd rs) s = execStw c p rd rs s := rfl
theorem exec_sth (c p rd rs s) : exec (.sth c p rd rs) s = execSth c p rd rs s := rfl
theorem exec_stb (c p rd rs s) : exec (.stb c p rd rs) s = execStb c p rd rs s := rfl
theorem exec_istore (c p rd rs s) : exec (.istore c p rd rs) s = execIstore c p rd rs s := rfl
theorem exec_iclear (c p rd s) : exec (.iclear c p rd) s = execIclear c p rd s := rfl
theorem exec_bmov (c p rd rs s) : exec (.bmov c p rd rs) s = execBmov c p rd rs s := rfl

/-- What a store of 2^n bytes sends to an address. -/
def storeMsg (r : Regs) (rs : Reg) (n : Nat) (a : Addr) : Msg :=
  .write (alignTo n a) (byteMask n (alignTo n a)) (byteShift (alignTo n a) (getG r rs)) .store r.tag0

theorem storeBad_once {p : Pfx} (once : p.rep = false) (r : Regs) (rd : Reg) :
    storeBad p r rd = mapBad (accessAddr 0 (getG r rd)) := by
  simp [storeBad, dstOf, once, addrOf_eq_accessAddr]

theorem storeUses_once {p : Pfx} (once : p.rep = false) (rd rs : Reg) : storeUses p rd rs = [rd, rs] := by
  simp [storeUses, once]

theorem exec_store_once {s : State} {i : Instr} {c : CellId} {p : Pfx} {rd rs : Reg} {n : Nat}
    (h : Executes s i c p encBR [rd, rs]) (form : exec i s = storeIns s i c p rd rs n) (once : p.rep = false)
    (ready : PortReady s c 1) (mapped : rangeOf (accessAddr 0 (getG (regsAt s c) rd)) ≠ .none) :
    exec i s = .next (afterFlit s c p encBR (storeMsg (regsAt s c) rs n (addrOf (getG (regsAt s c) rd)))) :=
  exec_once h form (storeUses_once once rd rs) once (by rw [storeBad_once once, mapBad_of_mapped mapped]) rfl ready

theorem exec_store_bad {s : State} {i : Instr} {c : CellId} {p : Pfx} {rd rs : Reg} {n : Nat}
    (h : Executes s i c p encBR [rd, rs]) (form : exec i s = storeIns s i c p rd rs n) (once : p.rep = false)
    (unmapped : rangeOf (accessAddr 0 (getG (regsAt s c) rd)) = .none) : Unpredictable i s 298 :=
  exec_rep_bad h form (storeUses_once once rd rs) (by rw [storeBad_once once, mapBad_of_unmapped unmapped])

/-- BMOV's form: its two addresses and the maps they are held to. -/
theorem exec_bmov_form (c p rd rs s) : exec (.bmov c p rd rs) s =
    repIns s (.bmov c p rd rs) c p encBR (if p.rep then [] else [rd, rs]) 2 8
      ((storeBad p (regsAt s c) rd).or (if p.rep && (regsAt s c).bc == 0 then none else
        mapBad (if p.rep then (regsAt s c).bs else addrOf (getG (regsAt s c) rs))))
      (fun r => addrOf (getG r rs)) (fun r => addrOf (getG r rd))
      fun _ r src dst => .read (alignTo 3 src) (.bmov (alignTo 3 dst)) r.tag0 := exec_bmov ..

/-- A repeatable instruction stands at the beginning of an iteration: it is fresh, or between two. -/
def Begins (s : State) (i : Instr) (c : CellId) (p : Pfx) (k : Enc) (uses : List Reg) : Prop :=
  Executes s i c p k uses ∨ (Continues s i c p k ∧ (engineAt s c).mid = .rep ∧ (engineAt s c).offered = false)

theorem Begins.offered {s : State} {i : Instr} {c : CellId} {p : Pfx} {k : Enc} {uses : List Reg}
    (h : Begins s i c p k uses) : (engineAt s c).offered = false := by
  obtain h | h := h
  · exact h.1.2.2.2.2.1
  · exact h.2.2

theorem Begins.up {s : State} {i : Instr} {c : CellId} {p : Pfx} {k : Enc} {uses : List Reg}
    (h : Begins s i c p k uses) : cellUp s c = true := by
  obtain h | h := h
  · exact h.1.2.1
  · exact h.1.2.1

/-- An instruction that goes on passes the checks that are made again. -/
theorem issue_of_continues {s : State} {i : Instr} {c : CellId} {p : Pfx} {k : Enc} (h : Continues s i c p k)
    {sends many : Bool} (can : canContinue (engineAt s c) k p sends many = true)
    (begun : ((engineAt s c).mid == .free && !(engineAt s c).offered) = false) {bad : Option Nat} (legal : bad = none)
    (uses : List Reg) (f : State → State) :
    issue s i c p k bad uses sends many f = .next (f (fetched s c (insLen k p))) := by
  obtain ⟨-, up, running, fetch, room⟩ := h
  have inside : ¬ 0x4000 < (engineAt s c).regs.pc.toNat + insLen k p := by omega
  simp [issue, before, can, up, running, begun, fetch, inside, legal]

theorem issue_of_begins {s : State} {i : Instr} {c : CellId} {p : Pfx} {uses : List Reg}
    (h : Begins s i c p encBR uses) (rep : p.rep = true) {bad : Option Nat} (legal : bad = none) (f : State → State) :
    issue s i c p encBR bad uses true false f = .next (f (fetched s c (insLen encBR p))) := by
  obtain h | ⟨h, mid, idle⟩ := h
  · exact issue_of_executes h legal ..
  · exact issue_of_continues h (by simp [canContinue, mid, rep, idle, encBR]) (by simp [mid]) legal ..

/-- One iteration under REP, whose message the port accepts. -/
theorem exec_iteration {s : State} {i : Instr} {c : CellId} {p : Pfx} {uses : List Reg}
    (h : Begins s i c p encBR uses) {uses' : List Reg} {bad : Option Nat} {cause : BitVec 4} {size : Nat}
    {src dst : Regs → Addr} {msg : State → Regs → Addr → Addr → Msg}
    (form : exec i s = repIns s i c p encBR uses' cause size bad src dst msg) (same : uses' = uses)
    (rep : p.rep = true) (left : (regsAt s c).bc ≠ 0) (legal : bad = none) {m : Msg}
    (sent : msg (fetched s c (insLen encBR p)) (regsAt s c) (regsAt s c).bs (regsAt s c).bd = m)
    (ready : PortReady s c (msgVn m)) : exec i s = .next (afterIteration s c p encBR size m) := by
  subst same
  have idle : (engineAt (fetched s c (insLen encBR p)) c).offered = false := by rw [engineAt_fetched]; exact h.offered
  have power : powered (fetched s c (insLen encBR p)) (2 + (quadOfTile (tileOf c)).toNat) = true :=
    powered_of_cellUp (s := s) h.up
  have regs : (engineAt (fetched s c (insLen encBR p)) c).regs = regsAt s c := regsAt_fetched ..
  have last : ((regsAt s c).bc - 1 = 0) ↔ ((regsAt s c).bc = 1) := by rw [sub_eq_zero]
  have clean : engineAt (fetched s c (insLen encBR p)) c =
      { engineAt (fetched s c (insLen encBR p)) c with offered := false } := by rw [← idle]
  rw [form, repIns, issue_of_begins h rep legal]
  simp only [rep, regs, Bool.not_true, Bool.false_eq_true, if_false, left]
  rw [sent, emitThen_ready idle power ((portReady_fetched ..).mpr ready), engineAt_setEngine_same, complete_setEngine,
    setEngine_setEngine, engineAt_offered, ← clean, regs]
  simp only [last, afterIteration, nextAddr, engineAt_offered]

theorem exec_no_iteration {s : State} {i : Instr} {c : CellId} {p : Pfx} {uses : List Reg}
    (h : Executes s i c p encBR uses) {uses' : List Reg} {bad : Option Nat} {cause : BitVec 4} {size : Nat}
    {src dst : Regs → Addr} {msg : State → Regs → Addr → Addr → Msg}
    (form : exec i s = repIns s i c p encBR uses' cause size bad src dst msg) (same : uses' = uses)
    (rep : p.rep = true) (none : (regsAt s c).bc = 0) (legal : bad = .none) :
    exec i s = .next (after s c p encBR (regsAt s c)) := by
  subst same
  rw [form, repIns_zero h rep none cause size legal]

theorem storeBad_rep {p : Pfx} (rep : p.rep = true) {r : Regs} (rd : Reg) (left : r.bc ≠ 0) :
    storeBad p r rd = mapBad r.bd := by
  rw [storeBad, dstOf, if_neg (fun h => left (by simpa [rep] using h)), if_pos rep]

theorem storeBad_rep_zero {p : Pfx} (rep : p.rep = true) {r : Regs} (rd : Reg) (none : r.bc = 0) :
    storeBad p r rd = .none := by
  simp [storeBad, rep, none]

theorem storeUses_rep {p : Pfx} (rep : p.rep = true) (rd rs : Reg) : storeUses p rd rs = [rs] := if_pos rep

theorem exec_store_no_iteration {s : State} {i : Instr} {c : CellId} {p : Pfx} {rd rs : Reg} {n : Nat}
    (h : Executes s i c p encBR [rs]) (form : exec i s = storeIns s i c p rd rs n) (rep : p.rep = true)
    (none : (regsAt s c).bc = 0) : exec i s = .next (after s c p encBR (regsAt s c)) :=
  exec_no_iteration h form (storeUses_rep rep rd rs) rep none (storeBad_rep_zero rep rd none)

theorem exec_store_iteration {s : State} {i : Instr} {c : CellId} {p : Pfx} {rd rs : Reg} {n : Nat}
    (h : Begins s i c p encBR [rs]) (form : exec i s = storeIns s i c p rd rs n) (rep : p.rep = true)
    (left : (regsAt s c).bc ≠ 0) (ready : PortReady s c 1) (mapped : rangeOf (regsAt s c).bd ≠ .none) :
    exec i s = .next (afterIteration s c p encBR (2 ^ n) (storeMsg (regsAt s c) rs n (regsAt s c).bd)) :=
  exec_iteration h form (storeUses_rep rep rd rs) rep left (by rw [storeBad_rep rep rd left, mapBad_of_mapped mapped])
    rfl ready

end Sys2Proof.Machine

namespace Sys2Proof.Messages

open Sys2Proof Machine

/-- Settles O22: each instruction's message, and the operands that its checks refuse. -/
theorem loadsAndStreamRequests : Obligations.LoadsAndStreamRequests := by
  unfold Obligations.LoadsAndStreamRequests
  intro s c p rd rs port r a reply tagGood
  refine ⟨fun h ready tag mapped => exec_load h (exec_ld ..) ready tag mapped, fun h ready tag mapped => ?_,
    fun h ready tag mapped => exec_load h (exec_ldw ..) ready tag mapped,
    fun h ready tag mapped => exec_load h (exec_ldh ..) ready tag mapped,
    fun h ready tag mapped => exec_load h (exec_ldb ..) ready tag mapped, fun h ready tag hp => ?_,
    fun h ready lo hi => ?_, fun i k hi h => ?_⟩
  · exact exec_sends h (exec_iload ..) (load_legal tag mapped) (by rw [alignTo_addrOf]) ready
  · exact exec_sends h (exec_take ..) (by rw [portBad, if_neg (by omega), tagBad_of_good tag]; rfl) rfl ready
  · exact exec_sends h (exec_put ..) (if_neg (by bv_omega)) rfl ready
  · rcases hi with rfl | rfl | rfl | rfl | rfl <;> cases h.1.1
    · exact exec_load_bad h (exec_ld ..)
    · exact sendIns_load_bad h ((exec_iload ..).trans (by rw [execIload]))
    · exact exec_load_bad h (exec_ldw ..)
    · exact exec_load_bad h (exec_ldh ..)
    · exact exec_load_bad h (exec_ldb ..)

/-- Settles O23: the message of each store, and the maps of their addresses. -/
theorem storesOnce : Obligations.StoresOnce := by
  unfold Obligations.StoresOnce
  intro s c p rd rs r dst src store once
  have sent (n : Nat) : store n = storeMsg r rs n (addrOf (getG r rd)) := by
    simp only [store, storeMsg, alignTo_addrOf]; rfl
  have uses := storeUses_once once rd rs
  simp only [sent]
  refine ⟨fun ready mapped => ?_, fun unmapped => ?_, fun unmapped h => ?_⟩
  · have legal : storeBad p r rd = none := by rw [storeBad_once once, mapBad_of_mapped mapped]
    refine ⟨fun h => exec_store_once h (exec_st ..) once ready mapped,
      fun h => exec_store_once h (exec_stw ..) once ready mapped,
      fun h => exec_store_once h (exec_sth ..) once ready mapped,
      fun h => exec_store_once h (exec_stb ..) once ready mapped, fun h => ?_, fun h => ?_, fun h readable => ?_⟩
    · exact exec_once h (exec_istore ..) uses once legal (by rw [alignTo_addrOf]) ready
    · exact exec_once h (exec_iclear ..) (by simp [once]) once legal (by rw [alignTo_addrOf]) ready
    · refine exec_once h (exec_bmov_form ..) (by simp [once]) once ?_ (by rw [alignTo_addrOf, alignTo_addrOf]) ready
      rw [show storeBad p (regsAt s c) rd = none from legal]
      simpa [once, addrOf_eq_accessAddr] using mapBad_of_mapped readable
  · have illegal : storeBad p r rd = some 298 := by rw [storeBad_once once, mapBad_of_unmapped unmapped]
    refine ⟨fun i hi h => ?_, fun h => exec_rep_bad h (exec_iclear ..) (by simp [once]) illegal⟩
    simp only [List.mem_cons, List.not_mem_nil, or_false] at hi
    rcases hi with rfl | rfl | rfl | rfl | rfl | rfl
    · exact exec_store_bad h (exec_st ..) once unmapped
    · exact exec_store_bad h (exec_stw ..) once unmapped
    · exact exec_store_bad h (exec_sth ..) once unmapped
    · exact exec_store_bad h (exec_stb ..) once unmapped
    · exact exec_rep_bad h (exec_istore ..) uses illegal
    · exact exec_rep_bad h (exec_bmov_form ..) (by simp [once]) (by rw [illegal]; rfl)
  · refine exec_rep_bad h (exec_bmov_form ..) (by simp [once]) ?_
    have reads : mapBad (accessAddr 0 (getG r rs)) = some 298 := mapBad_of_unmapped unmapped
    simp only [storeBad_once once, once, addrOf_eq_accessAddr]
    rw [mapBad]
    split <;> simp [reads, r]

/-- Settles O24: the first iteration and every later one pass the same checks. -/
theorem storesRepeated : Obligations.StoresRepeated := by
  unfold Obligations.StoresRepeated
  intro s c p rd rs r dst store begins rep
  have uses := storeUses_rep rep rd rs
  refine ⟨fun none => ?_, fun left ready mapped => ?_⟩
  · have legal := storeBad_rep_zero rep rd none
    constructor
    · intro i hi h
      simp only [List.mem_cons, List.not_mem_nil, or_false] at hi
      rcases hi with rfl | rfl | rfl | rfl | rfl
      · exact exec_store_no_iteration h (exec_st ..) rep none
      · exact exec_store_no_iteration h (exec_stw ..) rep none
      · exact exec_store_no_iteration h (exec_sth ..) rep none
      · exact exec_store_no_iteration h (exec_stb ..) rep none
      · exact exec_no_iteration h (exec_istore ..) uses rep none legal
    · intro i hi h
      simp only [List.mem_cons, List.not_mem_nil, or_false] at hi
      rcases hi with rfl | rfl
      · exact exec_no_iteration h (exec_iclear ..) (by simp [rep]) rep none legal
      · refine exec_no_iteration h (exec_bmov_form ..) (by simp [rep]) rep none ?_
        rw [legal]
        simp [rep, show (regsAt s c).bc = 0 from none]
  · have legal : storeBad p r rd = none := by rw [storeBad_rep rep rd left, mapBad_of_mapped mapped]
    refine ⟨fun h => exec_store_iteration h (exec_st ..) rep left ready mapped,
      fun h => exec_store_iteration h (exec_stw ..) rep left ready mapped,
      fun h => exec_store_iteration h (exec_sth ..) rep left ready mapped,
      fun h => exec_store_iteration h (exec_stb ..) rep left ready mapped, fun h => ?_, fun h => ?_,
      fun h readable => ?_⟩
    · exact exec_iteration h (exec_istore ..) uses rep left legal rfl ready
    · exact exec_iteration h (exec_iclear ..) (by simp [rep]) rep left legal rfl ready
    · refine exec_iteration h (exec_bmov_form ..) (by simp [rep]) rep left ?_ rfl ready
      rw [legal]
      simp [rep, r, mapBad_of_mapped readable]

end Sys2Proof.Messages
end

/-! # What waits at a port, and what goes on: gather and scatter, tokens, END and barriers (chapters 5, 6 and 8) -/

section
namespace Sys2Proof.Machine

open Sys2Proof

/-! ## The weave does not see the cells, but for the RETRYs in their rooms -/

/-- The same RETRYs wait in the rooms of both lists of cells. -/
def SameRooms (m m' : List (Nat × Cell)) : Prop := ∀ k, (mget Cell.clear m' k).room = (mget Cell.clear m k).room

theorem canEnter_cells (s : State) {m : List (Nat × Cell)} (h : SameRooms s.cells m) (t : TileId) (extra : Bool)
    (vn : BitVec 2) : canEnter { s with cells := m } t extra vn = canEnter s t extra vn := by
  have same : isReissue { s with cells := m } = isReissue s := rfl
  have rooms : ∀ k, (mget Cell.clear m k).room = (mget Cell.clear s.cells k).room := h
  simp only [canEnter, reissueWaits, same, cellAt, rooms]

theorem drainPort_cells (t : TileId) (extra : Bool) (n : Nat) (s : State) {m : List (Nat × Cell)}
    (h : SameRooms s.cells m) : drainPort t extra n { s with cells := m } = { drainPort t extra n s with cells := m } := by
  induction n generalizing s with
  | zero => rfl
  | succ n ih =>
    have ranks : offerRank { s with cells := m } t = offerRank s t := rfl
    rw [drainPort, drainPort]
    simp only [canEnter_cells s h, ranks]
    split
    · rfl
    · rename_i o _
      exact ih (offerEnters
        { s with weave := setOffers s.weave _ ((offersAt s.weave (offerKey t extra)).erase o) } t extra o) h

theorem produce_cells_eq (s : State) {m : List (Nat × Cell)} (h : SameRooms s.cells m) (t : TileId) (extra : Bool)
    (o : Offer) : produce { s with cells := m } t extra o = { produce s t extra o with cells := m } := by
  rw [produce, produce, drain, drain]
  split
  · rename_i up
    rw [if_pos (by exact up)]
    exact drainPort_cells t extra _
      { s with weave := setOffers s.weave _ (offersAt s.weave (offerKey t extra) ++ [o]) } h
  · rename_i down
    rw [if_neg (by exact down)]

theorem sameRooms_setEngine (s : State) (c : CellId) (e : Engine) : SameRooms s.cells (setEngine s c e).cells := by
  intro k
  show (mget Cell.clear (mset Cell.clear s.cells c.toNat _) k).room = _
  rw [mget_mset]
  split
  · rename_i hk; subst hk; rfl
  · rfl

/-- An offer of a strand whose engine changes beside it. -/
theorem produce_setEngine (s : State) (c : CellId) (e : Engine) (t : TileId) (extra : Bool) (o : Offer) :
    produce (setEngine s c e) t extra o = setEngine (produce s t extra o) c e := by
  have set (u : State) : setEngine u c e = { u with cells := (setEngine u c e).cells } := rfl
  rw [set s, produce_cells_eq s (sameRooms_setEngine s c e), set (produce s t extra o)]
  simp only [setEngine, setCell, cellAt_produce, produce_cells]

/-! ## A message that waits, and one that has entered -/

theorem stalled_setEngine (s : State) (c : CellId) (e : Engine) (cause : BitVec 4) :
    stalled (setEngine s c e) c cause = setEngine s c { e with regs := commitProduct e.regs, stall := cause } := by
  rw [stalled, engineAt_setEngine_same, setEngine_setEngine]

/-- A flit whose network has no room at the port: the strand waits with its flit offered. -/
theorem emitThen_waits {s : State} {c : CellId} {m : Msg} (idle : (engineAt s c).offered = false)
    (busy : PortBusy s c (msgVn m)) (cause : BitVec 4) (fin : State → State) :
    emitThen s c cause m fin = waiting s c cause m := by
  rw [emitThen_busy idle busy, stalled_setEngine]
  rfl

/-- The flit of an instruction given again still waits. -/
theorem emitThen_still {s : State} {c : CellId} (given : (engineAt s c).offered = true) (still : stillOffered s c = true)
    (cause : BitVec 4) (m : Msg) (fin : State → State) : emitThen s c cause m fin = stalled s c cause := by
  simp only [emitThen, given, if_true, still]
  rw [stalled_setEngine, stalled, ← given]

/-- The flit of an instruction given again has entered. -/
theorem emitThen_entered {s : State} {c : CellId} (given : (engineAt s c).offered = true)
    (entered : stillOffered s c = false) (cause : BitVec 4) (m : Msg) (fin : State → State) :
    emitThen s c cause m fin = fin (setEngine s c { engineAt s c with offered := false }) := by
  simp [emitThen, given, entered]

theorem stillOffered_fetched (s : State) (c : CellId) (n : Nat) : stillOffered (fetched s c n) c = stillOffered s c := rfl

theorem portBusy_setCell {s : State} {c : CellId} {x : Cell} (h : x.room = (cellAt s c).room) {vn : BitVec 2}
    (busy : PortBusy s c vn) : PortBusy (setCell s c x) c vn := by
  rw [PortBusy, canEnter_setCell s h]; exact busy

theorem complete_setEngine_at (s : State) (c : CellId) {e : Engine} {r : Regs} {own : Option (BitVec 128)} {a : BitVec 15}
    (h : e.at (retire r own a) = (engineAt s c).at (retire r own a)) :
    complete (setEngine s c e) c r own a = complete s c r own a := by
  rw [complete, engineAt_setEngine_same, setEngine_setEngine, h, complete]

/-- A message is offered with what the strand's registers say, whatever else of its engine changes. -/
theorem offered_setEngine (s : State) (c : CellId) {e : Engine} (h : e.regs = (engineAt s c).regs) (m : Msg) :
    offered (setEngine s c e) c m = setEngine (offered s c m) c e := by
  have same : strandOffer (setEngine s c e) c m = strandOffer s c m := by
    rw [strandOffer, strandOffer, engineAt_setEngine_same, h]; rfl
  rw [offered, same, produce_setEngine, offered]

theorem waiting_setEngine_offered (s : State) (c : CellId) (b : Bool) (cause : BitVec 4) (m : Msg) :
    waiting (setEngine s c { engineAt s c with offered := b }) c cause m = waiting s c cause m := by
  simp only [waiting, offered_setEngine s c (e := { engineAt s c with offered := b }) rfl, engineAt_setEngine_same,
    setEngine_setEngine, engineAt_offered]

/-! ## Gather and scatter (R232 to R234, R313, R314) -/

theorem exec_gather (c p rd rs s) : exec (.gather c p rd rs) s = execGather c p rd rs s := rfl
theorem exec_scatter (c p rd rs s) : exec (.scatter c p rd rs) s = execScatter c p rd rs s := rfl

/-- `s` with the strand of cell `c` in the middle of its elements, `j` to be issued next. -/
def atElement (s : State) (c : CellId) (j : Nat) (tl : Option (BitVec 4)) : State :=
  setEngine s c { engineAt s c with mid := .elements j tl }

theorem issueElements_succ {s : State} {c : CellId} {j : Nat} {tl : Option (BitVec 4)}
    (h : (engineAt s c).mid = .elements j tl) (hj : j < 16) (mk : State → Regs → Nat → Option (BitVec 4) → Msg)
    (fin : State → State) (n : Nat) :
    issueElements c mk fin (n + 1) s = emitThen s c 3 (mk s (regsAt s c) j tl) fun t =>
      issueElements c mk fin n (setEngine t c { engineAt t c with mid := .elements (j + 1) tl }) := by
  rw [issueElements]
  simp only [h, if_neg (not_le.mpr hj)]
  rfl

theorem issueElements_last {s : State} {c : CellId} {j : Nat} {tl : Option (BitVec 4)}
    (h : (engineAt s c).mid = .elements j tl) (hj : 16 ≤ j) (mk : State → Regs → Nat → Option (BitVec 4) → Msg)
    (fin : State → State) (n : Nat) : issueElements c mk fin (n + 1) s = fin s := by
  rw [issueElements]
  simp only [h, if_pos hj]

theorem freeTally_eq_some {x : Cell} {i : Nat} (hi : i < 16) (free : mget none x.tallies i = none)
    (below : ∀ j < i, mget none x.tallies j ≠ none) : freeTally x = some (BitVec.ofNat 4 i) := by
  have found : (List.range 16).find? (fun i => mget none x.tallies i == (none : Option Tally)) = some i := by
    rw [List.find?_range_eq_some]
    exact ⟨by simp [free], by simpa using hi, fun j hj => by simpa [Option.isSome_iff_ne_none] using below j hj⟩
  rw [freeTally, found]
  rfl

theorem freeTally_eq_none {x : Cell} (full : ∀ i < 16, mget none x.tallies i ≠ none) : freeTally x = none := by
  have found : (List.range 16).find? (fun i => mget none x.tallies i == (none : Option Tally)) = none := by
    simpa [List.find?_eq_none] using full
  rw [freeTally, found]
  rfl

theorem elementsBad_of_mapped {f : Nat → Addr} (h : ∀ j < 16, rangeOf (f j) ≠ .none) : elementsBad f = none := by
  rw [elementsBad, if_neg]
  simpa using h

theorem getLsbD_append_three {a b c : Nat} (x : BitVec a) (y : BitVec b) (z : BitVec c) (i : Nat) :
    (x ++ y ++ z).getLsbD i =
      if i < c then z.getLsbD i else if i < c + b then y.getLsbD (i - c) else x.getLsbD (i - c - b) := by
  simp only [BitVec.getLsbD_append]
  split
  · rfl
  · split
    · rw [if_pos (by omega)]
    · rw [if_neg (by omega)]

/-- A packed tag with its ITERATION raised (R233). -/
theorem tagPlus_eq (w : W64) (j : Nat) :
    tagPlus w j = w.extractLsb' 50 14 ++ (w.extractLsb' 34 16 + BitVec.ofNat 16 j) ++ w.extractLsb' 0 34 := by
  apply BitVec.eq_of_getLsbD_eq
  intro i hi
  have fields := getLsbD_append_three (w.extractLsb' 50 14) (w.extractLsb' 34 16 + BitVec.ofNat 16 j) (w.extractLsb' 0 34) i
  refine Eq.trans ?_ fields.symm
  have mask : (0xFFFF : W64) = (BitVec.allOnes 16).setWidth 64 := rfl
  rw [tagPlus, mask]
  generalize w.extractLsb' 34 16 + BitVec.ofNat 16 j = it
  simp only [BitVec.getLsbD_or, BitVec.getLsbD_and, BitVec.getLsbD_not, BitVec.getLsbD_shiftLeft, BitVec.getLsbD_setWidth,
    BitVec.getLsbD_allOnes, BitVec.getLsbD_extractLsb', hi]
  by_cases low : i < 34
  · simp [low]
  · by_cases mid : i < 50
    · simp [low, show i < 34 + 16 by omega, show i - 34 < 16 by omega, show i - 34 < 64 by omega]
    · simp [low, show ¬ i < 34 + 16 by omega, show ¬ i - 34 < 16 by omega, show i - 34 - 16 < 14 by omega,
        show 50 + (i - 34 - 16) = i by omega, BitVec.getLsbD_of_ge it (i - 34) (by omega)]

section Elements

variable {s : State} {i : Instr} {c : CellId} {p : Pfx} {rd rs : Reg} {sc : Bool} {bad : Option Nat} {base : Regs → W64}
  {msg : Regs → Nat → Option (BitVec 4) → Msg}
  (form : exec i s = elementsIns s i c p rd rs sc bad base fun _ => msg) (legal : bad = none)
include form legal

theorem elements_complete (h : Executes s i c p encB [rd, rs, 4, 5, 6, 7]) : Completes i s := by
  rw [Completes, form, elementsIns, issue_of_executes h legal]
  exact ⟨_, rfl⟩

variable (vn : ∀ r j tl, msgVn (msg r j tl) = 1)
include vn

theorem elements_begin (h : Executes s i c p encB [rd, rs, 4, 5, 6, 7]) {u : State}
    {tl : Option (BitVec 4)}
    (begun : setCell (fetched s c (insLen encB p)) c (beginElements (cellAt (fetched s c (insLen encB p)) c) sc
      (base (regsAt s c)) (regsAt s c).tag0) = atElement u c 0 tl)
    (clean : engineAt u c = engineAt s c) (room : PortBusy u c 1) :
    exec i s = .next (waiting (atElement u c 0 tl) c 3 (msg (regsAt s c) 0 tl)) := by
  have free : (engineAt s c).mid = .free := h.1.2.2.2.1
  have idle : (engineAt s c).offered = false := h.1.2.2.2.2.1
  have regs : (engineAt s c).regs = regsAt s c := rfl
  have engine : engineAt (atElement u c 0 tl) c = { engineAt s c with mid := .elements 0 tl } := by
    rw [atElement, engineAt_setEngine_same, clean]
  rw [form, elementsIns, issue_of_executes h legal]
  simp only [engineAt_fetched, free, regs, begun]
  rw [issueElements_succ (by rw [engine]) (by decide), emitThen_waits (by rw [engine]; exact idle)
    (by rw [vn, PortBusy, atElement, canEnter_setEngine]; exact room), regsAt, engine, regsAt]

omit vn in
theorem elements_still {j : Nat} {tl : Option (BitVec 4)} (h : Continues s i c p encB)
    (mid : (engineAt s c).mid = .elements j tl) (given : (engineAt s c).offered = true)
    (still : stillOffered s c = true) (hj : j < 16) :
    exec i s = .next (stalled (fetched s c (insLen encB p)) c 3) := by
  rw [form, elementsIns, issue_of_continues h (by simp [canContinue, mid]) (by simp [mid]) legal]
  simp only [engineAt_fetched, mid]
  rw [issueElements_succ (by rw [engineAt_fetched, mid]) hj, emitThen_still (by rw [engineAt_fetched, given]) ((stillOffered_fetched ..).trans still)]

theorem elements_next {j : Nat} {tl : Option (BitVec 4)} (h : Continues s i c p encB)
    (mid : (engineAt s c).mid = .elements j tl) (given : (engineAt s c).offered = true)
    (entered : stillOffered s c = false) (hj : j < 15) (busy : PortBusy s c 1) :
    exec i s = .next (waiting (atElement (fetched s c (insLen encB p)) c (j + 1) tl) c 3
      (msg (regsAt s c) (j + 1) tl)) := by
  have cleared : setEngine (fetched s c (insLen encB p)) c
      { engineAt s c with offered := false, mid := .elements (j + 1) tl } =
      setEngine (atElement (fetched s c (insLen encB p)) c (j + 1) tl) c
        { engineAt (atElement (fetched s c (insLen encB p)) c (j + 1) tl) c with offered := false } := by
    rw [atElement, engineAt_setEngine_same, setEngine_setEngine, engineAt_fetched]
  rw [form, elementsIns, issue_of_continues h (by simp [canContinue, mid]) (by simp [mid]) legal]
  simp only [engineAt_fetched, mid]
  rw [issueElements_succ (by rw [engineAt_fetched, mid]) (by omega),
    emitThen_entered (by rw [engineAt_fetched, given]) ((stillOffered_fetched ..).trans entered)]
  simp only [engineAt_fetched, engineAt_setEngine_same, setEngine_setEngine]
  rw [issueElements_succ (by rw [engineAt_setEngine_same]) (by omega), emitThen_waits (by rw [engineAt_setEngine_same])
    (by rw [vn, PortBusy, canEnter_setEngine, canEnter_fetched]; exact busy), regsAt, engineAt_setEngine_same]
  exact congrArg Host.Outcome.next
    ((congrArg (waiting · c 3 (msg (regsAt s c) (j + 1) tl)) cleared).trans (waiting_setEngine_offered ..))

omit vn in
theorem elements_end {tl : Option (BitVec 4)} (h : Continues s i c p encB)
    (mid : (engineAt s c).mid = .elements 15 tl) (given : (engineAt s c).offered = true)
    (entered : stillOffered s c = false) : exec i s = .next (after s c p encB (regsAt s c)) := by
  have regs : (engineAt s c).regs = regsAt s c := rfl
  rw [form, elementsIns, issue_of_continues h (by simp [canContinue, mid]) (by simp [mid]) legal]
  simp only [engineAt_fetched, mid]
  rw [issueElements_succ (by rw [engineAt_fetched, mid]) (by decide),
    emitThen_entered (by rw [engineAt_fetched, given]) ((stillOffered_fetched ..).trans entered)]
  simp only [engineAt_fetched, engineAt_setEngine_same, setEngine_setEngine]
  rw [issueElements_last (by rw [engineAt_setEngine_same]) (by decide), engineAt_setEngine_same, regs,
    complete_setEngine_at _ _ (by rw [engineAt_fetched]; rfl)]
  rfl

end Elements

/-- A cell with a tally taken. -/
def withTally (x : Cell) (i : Nat) (y : Tally) : Cell := { x with tallies := mset none x.tallies i (some y) }

/-- A cell with one more instruction that found no tally free. -/
def withUntallied (x : Cell) : Cell := { x with untallied := satAdd x.untallied 1 }

theorem withTally_room (x : Cell) (i : Nat) (y : Tally) : (withTally x i y).room = x.room := rfl
theorem withUntallied_room (x : Cell) : (withUntallied x).room = x.room := rfl

/-- The cell of a strand that begins its elements with a tally. -/
theorem beginElements_tally (s : State) (c : CellId) {tl : BitVec 4} (free : freeTally (cellAt s c) = some tl)
    (sc : Bool) (base tag0 : W64) :
    setCell s c (beginElements (cellAt s c) sc base tag0) =
      atElement (setCell s c (withTally (cellAt s c) tl.toNat ⟨sc, 0, 0, [], base, tag0⟩)) c 0 (some tl) := by
  rw [atElement, setEngine, setCell_setCell, cellAt_setCell_same, engineAt_setCell_same, beginElements, free]
  rfl

/-- The cell of a strand that begins its elements without one. -/
theorem beginElements_untallied (s : State) (c : CellId) (full : freeTally (cellAt s c) = none) (sc : Bool)
    (base tag0 : W64) :
    setCell s c (beginElements (cellAt s c) sc base tag0) =
      atElement (setCell s c (withUntallied (cellAt s c))) c 0 none := by
  rw [atElement, setEngine, setCell_setCell, cellAt_setCell_same, engineAt_setCell_same, beginElements, full]
  rfl

theorem indexAt_eq (r : Regs) (j : Nat) :
    indexAt r j = (getG r (BitVec.ofNat 4 (4 + j / 4))).extractLsb' (16 * (j % 4)) 16 := rfl

theorem elementAddr_addrOf (x : W64) (r : Regs) (j : Nat) :
    elementAddr (addrOf x) r j = ((x.extractLsb' 0 48 + BitVec.ofNat 48 (8 * (indexAt r j).toNat)) >>> 3) <<< 3 := by
  rw [elementAddr, alignTo, addrOf, BitVec.setWidth_eq_extractLsb' (by decide)]

theorem scatterSrc_eq (r : Regs) (rs : Reg) (j : Nat) :
    scatterSrc r rs j = (((getG r rs).extractLsb' 0 48 + BitVec.ofNat 48 (8 * j)) >>> 3) <<< 3 := by
  rw [scatterSrc, alignTo, addrOf, BitVec.setWidth_eq_extractLsb' (by decide)]

/-- What GATHER sends for an element. -/
def gatherMsg (c : CellId) (rd rs : Reg) (r : Regs) (j : Nat) (tl : Option (BitVec 4)) : Msg :=
  .iread ⟨elementAddr (addrOf (getG r rs)) r j, tagPlus (getG r rd) j, r.dl, r.fl, 0, c,
    some ⟨c, tl, BitVec.ofNat 4 j, getG r rd⟩, r.tag0⟩

/-- What SCATTER sends for an element. -/
def scatterMsg (c : CellId) (rd rs : Reg) (r : Regs) (j : Nat) (tl : Option (BitVec 4)) : Msg :=
  .read (scatterSrc r rs j) (.scatter (elementAddr (addrOf (getG r rd)) r j) ⟨c, tl, BitVec.ofNat 4 j, r.tag0⟩) r.tag0

theorem exec_gather_form (c p rd rs s) : exec (.gather c p rd rs) s = elementsIns s (.gather c p rd rs) c p rd rs false
    ((tagBad (regsAt s c) rd).or (elementsBad (elementAddr (addrOf (getG (regsAt s c) rs)) (regsAt s c))))
    (fun r => getG r rd) fun _ => gatherMsg c rd rs := exec_gather ..

theorem exec_scatter_form (c p rd rs s) : exec (.scatter c p rd rs) s =
    elementsIns s (.scatter c p rd rs) c p rd rs true
      ((elementsBad (elementAddr (addrOf (getG (regsAt s c) rd)) (regsAt s c))).or
        (elementsBad (scatterSrc (regsAt s c) rs)))
      (fun r => r.tag0) fun _ => scatterMsg c rd rs := exec_scatter ..

section Issue

variable {s : State} {i : Instr} {c : CellId} {p : Pfx} {rd rs : Reg} {sc : Bool} {bad : Option Nat} {base : Regs → W64}
  {msg : Regs → Nat → Option (BitVec 4) → Msg}
  (form : exec i s = elementsIns s i c p rd rs sc bad base fun _ => msg) (legal : bad = none)
  (vn : ∀ r j tl, msgVn (msg r j tl) = 1) (h : Executes s i c p encB [rd, rs, 4, 5, 6, 7]) (busy : PortBusy s c 1)
include form legal vn h busy

theorem elements_begin_tally {t : Nat} (ht : t < 16)
    (free : mget none (cellAt (fetched s c (insLen encB p)) c).tallies t = none)
    (below : ∀ j < t, mget none (cellAt (fetched s c (insLen encB p)) c).tallies j ≠ none) :
    exec i s = .next (waiting (atElement (setCell (fetched s c (insLen encB p)) c
      (withTally (cellAt (fetched s c (insLen encB p)) c) t ⟨sc, 0, 0, [], base (regsAt s c), (regsAt s c).tag0⟩))
        c 0 (some (BitVec.ofNat 4 t))) c 3 (msg (regsAt s c) 0 (some (BitVec.ofNat 4 t)))) := by
  have begun := beginElements_tally (fetched s c (insLen encB p)) c (freeTally_eq_some ht free below) sc
    (base (regsAt s c)) (regsAt s c).tag0
  rw [show (BitVec.ofNat 4 t).toNat = t from Nat.mod_eq_of_lt ht] at begun
  have clean := (engineAt_setCell_same (fetched s c (insLen encB p)) c
    (withTally (cellAt (fetched s c (insLen encB p)) c) t
      ⟨sc, 0, 0, [], base (regsAt s c), (regsAt s c).tag0⟩)).trans (engineAt_fetched s c (insLen encB p))
  exact elements_begin form legal vn h begun clean (portBusy_setCell (withTally_room ..) ((portBusy_fetched ..).mpr busy))

theorem elements_begin_untallied (full : ∀ i < 16, mget none (cellAt (fetched s c (insLen encB p)) c).tallies i ≠ none) :
    exec i s = .next (waiting (atElement (setCell (fetched s c (insLen encB p)) c
      (withUntallied (cellAt (fetched s c (insLen encB p)) c))) c 0 none) c 3 (msg (regsAt s c) 0 none)) := by
  have begun := beginElements_untallied (fetched s c (insLen encB p)) c (freeTally_eq_none full) sc
    (base (regsAt s c)) (regsAt s c).tag0
  have clean := (engineAt_setCell_same (fetched s c (insLen encB p)) c
    (withUntallied (cellAt (fetched s c (insLen encB p)) c))).trans (engineAt_fetched s c (insLen encB p))
  exact elements_begin form legal vn h begun clean (portBusy_setCell (withUntallied_room ..) ((portBusy_fetched ..).mpr busy))

end Issue

end Sys2Proof.Machine

namespace Sys2Proof.Messages

open Sys2Proof Machine

/-- Settles O25: GATHER and SCATTER issue their elements in one way; their messages and their operands' checks differ. -/
theorem gatherAndScatterIssue : Obligations.GatherAndScatterIssue := by
  unfold Obligations.GatherAndScatterIssue
  intro s c p rd rs r s0 x index element source tag gather scatter legal ins msg at' sc good
  have address (y : W64) (j : Nat) : elementAddr (addrOf y) r j = element y j := elementAddr_addrOf y r j
  cases sc with
  | false =>
    have operands : (tagBad r rd).or (elementsBad (elementAddr (addrOf (getG r rs)) r)) = none := by
      rw [tagBad_of_good good.1, elementsBad_of_mapped fun j hj => by rw [address]; exact good.2 j hj]; rfl
    have sent (j : Nat) (tl : Option (BitVec 4)) : msg false j tl = gatherMsg c rd rs r j tl := by
      show gather j tl = _
      simp only [gather, gatherMsg, address, tagPlus_eq]; rfl
    have form := exec_gather_form c p rd rs s
    have vn (r' j tl) : msgVn (gatherMsg c rd rs r' j tl) = 1 := rfl
    simp only [sent]
    exact ⟨fun h => elements_complete form operands h,
      fun h busy => ⟨fun t ht free below => elements_begin_tally form operands vn h busy ht free below,
        fun full => elements_begin_untallied form operands vn h busy full⟩,
      fun j tl h mid given => ⟨fun still hj => elements_still form operands h mid given still hj,
        fun entered hj busy => elements_next form operands vn h mid given entered hj busy,
        fun entered hj => elements_end form operands h (hj ▸ mid) given entered⟩⟩
  | true =>
    have operands : (elementsBad (elementAddr (addrOf (getG r rd)) r)).or (elementsBad (scatterSrc r rs)) = none := by
      rw [elementsBad_of_mapped fun j hj => by rw [address]; exact (good j hj).1,
        elementsBad_of_mapped fun j hj => by rw [scatterSrc_eq]; exact (good j hj).2]; rfl
    have sent (j : Nat) (tl : Option (BitVec 4)) : msg true j tl = scatterMsg c rd rs r j tl := by
      show scatter j tl = _
      simp only [scatter, scatterMsg, address, scatterSrc_eq]; rfl
    have form := exec_scatter_form c p rd rs s
    have vn (r' j tl) : msgVn (scatterMsg c rd rs r' j tl) = 1 := rfl
    simp only [sent]
    exact ⟨fun h => elements_complete form operands h,
      fun h busy => ⟨fun t ht free below => elements_begin_tally form operands vn h busy ht free below,
        fun full => elements_begin_untallied form operands vn h busy full⟩,
      fun j tl h mid given => ⟨fun still hj => elements_still form operands h mid given still hj,
        fun entered hj busy => elements_next form operands vn h mid given entered hj busy,
        fun entered hj => elements_end form operands h (hj ▸ mid) given entered⟩⟩

end Sys2Proof.Messages
end

/-! # Tokens and flows, and what an instruction that emits a message leaves unchanged (chapters 5 and 6) -/

section
namespace Sys2Proof.Machine

open Sys2Proof

/-! ## Frames of messages (R177, R392) -/

theorem onlyStrand_refl (s : State) (c : CellId) : OnlyStrand s s c := ⟨rfl, fun _ _ => rfl, rfl⟩

theorem onlyStrand_fetched (s : State) (c : CellId) (n : Nat) : OnlyStrand s (fetched s c n) c := by
  refine ⟨rfl, fun d hd => ?_, ?_⟩
  · rw [fetched, cellAt_setCell_other _ hd.symm]
  · rw [engineAt_fetched, fetched, cellAt_setCell_same, istoreCorrect_shape]
    rfl

theorem OnlyStrand.mem {s u : State} {c : CellId} (h : OnlyStrand s u c) : u.mem = s.mem := by rw [h.1]

/-- `t` is `s` but for cells, the weave, memory and the free values drawn. -/
def LocalTo (s t : State) : Prop :=
  t = { s with cells := t.cells, weave := t.weave, mem := t.mem, freeCounter := t.freeCounter }

theorem LocalTo.trans {a b c : State} (h : LocalTo a b) (g : LocalTo b c) : LocalTo a c := by
  unfold LocalTo at *; rw [g, h]

theorem OnlyStrand.localTo {s u : State} {c : CellId} (h : OnlyStrand s u c) : LocalTo s u := by
  obtain ⟨same, -, -⟩ := h
  unfold LocalTo; rw [same]

theorem Enters.localTo {s u : State} (h : Enters s u) : LocalTo s u := by
  unfold LocalTo; rw [h.shape]

theorem localTo_setCell (s : State) (c : CellId) (x : Cell) : LocalTo s (setCell s c x) := rfl
theorem localTo_setEngine (s : State) (c : CellId) (e : Engine) : LocalTo s (setEngine s c e) := rfl

/-- A message offered by a strand whose cell has changed in its engine and its marks alone. -/
theorem onlyFlit_offered {s u : State} {c : CellId} (h : OnlyStrand s u c) (m : Msg) (e : Engine) :
    OnlyFlit s (setEngine (offered u c m) c e) c := by
  have enters : Enters u (offered u c m) := produce_enters u (tileOf c) false (strandOffer u c m)
  have mem : u.mem = s.mem := h.mem
  refine ⟨h.localTo.trans (enters.localTo.trans (localTo_setEngine _ c e)), mem ▸ enters.mem, fun d hd => ?_, ?_⟩
  · rw [cellAt_setEngine_other _ hd.symm, offered, cellAt_produce, h.2.1 d hd]
  · rw [engineAt_setEngine_same, cellAt_setEngine_same, offered, cellAt_produce, h.2.2]

theorem sameBytes_offered {s u : State} {c : CellId} (h : OnlyStrand s u c) (m : Msg) (e : Engine) :
    SameBytes s.mem (setEngine (offered u c m) c e).mem := by
  intro a
  rw [setEngine_mem, offered, readByte_produce, h.mem]

theorem complete_eq_setEngine (s : State) (c : CellId) (r : Regs) (own : Option (BitVec 128)) (a : BitVec 15) :
    complete s c r own a = setEngine s c ((engineAt s c).at (retire r own a)) := rfl

/-- An iteration ends as an engine that is set. -/
theorem afterIteration_eq (s : State) (c : CellId) (p : Pfx) (k : Enc) (n : Nat) (m : Msg) :
    ∃ e : Engine, afterIteration s c p k n m = setEngine (offered (fetched s c (insLen k p)) c m) c e ∧
      ∀ j, getG e.regs j = getG (regsAt s c) j := by
  simp only [afterIteration, complete_eq_setEngine]
  split
  · exact ⟨_, rfl, fun j => getG_retire _ none _ j⟩
  · exact ⟨_, rfl, fun j => getG_commitProduct _ j⟩

/-! ## A message that a busy port makes wait (R177, Table 05-10) -/

theorem issue_idle {s : State} {i : Instr} {c : CellId} {p : Pfx} {k : Enc} {uses : List Reg} (h : Executes s i c p k uses)
    (n : Nat) : (engineAt (fetched s c n) c).offered = false := by
  rw [engineAt_fetched]; exact h.1.2.2.2.2.1

theorem exec_waits {s : State} {i : Instr} {c : CellId} {p : Pfx} {k : Enc} {uses : List Reg}
    (h : Executes s i c p k uses) {bad : Option Nat} {cause : BitVec 4} {msg : State → Regs → Msg}
    (form : exec i s = sendIns s i c p k bad uses cause msg) (legal : bad = none) {m : Msg}
    (sent : msg (fetched s c (insLen k p)) (regsAt s c) = m) (busy : PortBusy s c (msgVn m)) :
    exec i s = .next (waiting (fetched s c (insLen k p)) c cause m) := by
  have regs : (engineAt (fetched s c (insLen k p)) c).regs = regsAt s c := regsAt_fetched ..
  rw [form, sendIns, issue_of_executes h legal]
  simp only [regs, sent]
  rw [emitThen_waits (issue_idle h _) ((portBusy_fetched ..).mpr busy)]

theorem exec_once_waits {s : State} {i : Instr} {c : CellId} {p : Pfx} {k : Enc} {uses : List Reg}
    (h : Executes s i c p k uses) {uses' : List Reg} {bad : Option Nat} {cause : BitVec 4} {size : Nat}
    {src dst : Regs → Addr} {msg : State → Regs → Addr → Addr → Msg}
    (form : exec i s = repIns s i c p k uses' cause size bad src dst msg) (same : uses' = uses) (once : p.rep = false)
    (legal : bad = none) {m : Msg}
    (sent : msg (fetched s c (insLen k p)) (regsAt s c) (src (regsAt s c)) (dst (regsAt s c)) = m)
    (busy : PortBusy s c (msgVn m)) : exec i s = .next (waiting (fetched s c (insLen k p)) c cause m) := by
  subst same
  have regs : (engineAt (fetched s c (insLen k p)) c).regs = regsAt s c := regsAt_fetched ..
  rw [form, repIns, issue_of_executes h legal]
  simp only [once, Bool.not_false, if_true, regs, sent]
  rw [emitThen_waits (issue_idle h _) ((portBusy_fetched ..).mpr busy)]

/-- The instruction given again, while its flit waits and once it has entered. -/
theorem exec_again {s : State} {i : Instr} {c : CellId} {p : Pfx} {k : Enc} (h : Continues s i c p k)
    (free : (engineAt s c).mid = .free) (given : (engineAt s c).offered = true) {bad : Option Nat} {uses : List Reg}
    {cause : BitVec 4} {msg : State → Regs → Msg} (form : exec i s = sendIns s i c p k bad uses cause msg)
    (legal : bad = none) :
    (stillOffered s c = true → exec i s = .next (stalled (fetched s c (insLen k p)) c cause)) ∧
    (stillOffered s c = false → exec i s = .next (after s c p k (regsAt s c))) := by
  have issued := issue_of_continues h (sends := true) (many := false) (by simp [canContinue, free]) (by simp [given]) legal uses
  have again : (engineAt (fetched s c (insLen k p)) c).offered = true := by rw [engineAt_fetched, given]
  constructor
  · intro still
    rw [form, sendIns, issued]
    dsimp only
    rw [emitThen_still again ((stillOffered_fetched ..).trans still)]
  · intro entered
    rw [form, sendIns, issued]
    dsimp only
    rw [emitThen_entered again ((stillOffered_fetched ..).trans entered), complete_setEngine, engineAt_setEngine_same,
      engineAt_fetched]
    rfl

/-! ## Tokens, contexts and flows (R175 to R177, R238, R239) -/

theorem exec_send (c p rd rs s) : exec (.send c p rd rs) s = execSend c p rd rs s := rfl
theorem exec_sendc (c p rd rs s) : exec (.sendc c p rd rs) s = execSendc c p rd rs s := rfl
theorem exec_sends_form (c p rd rs s) : exec (.sends c p rd rs) s = execSends c p rd rs s := rfl
theorem exec_sendp (c p rd rs s) : exec (.sendp c p rd rs) s = execSendp c p rd rs s := rfl
theorem exec_retire (c p s) : exec (.retire c p) s = execRetire c p s := rfl
theorem exec_facq (c p rd rs s) : exec (.facq c p rd rs) s = execFacq c p rd rs s := rfl
theorem exec_frel (c p rs s) : exec (.frel c p rs) s = execFrel c p rs s := rfl

/-- The network of a token with these flags (R383). -/
def flagsVn (flags : BitVec 10) : BitVec 2 := if kindOf flags = 1 ∨ kindOf flags = 3 then 3 else 0

theorem flagsVn_zero : flagsVn 0 = 0 := by decide

theorem msgVn_tokenTo (tag value : W64) (dl : BitVec 20) (fl : BitVec 12) (flags : BitVec 10) :
    msgVn (.token (tokenTo tag value dl fl flags)) = flagsVn flags := rfl

theorem msgVn_token (t : Token) : msgVn (.token t) = flagsVn t.flags := rfl

theorem exec_token {s : State} {i : Instr} {c : CellId} {p : Pfx} {rd rs : Reg} {flags : BitVec 10}
    (h : Executes s i c p encB [rd, rs]) (form : exec i s = tokenIns s i c p rd rs flags)
    (tag : (getG (regsAt s c) rd).extractLsb' 0 10 = 0) {vn : BitVec 2} (network : flagsVn flags = vn) (ready : PortReady s c vn) :
    exec i s = .next (afterFlit s c p encB (.token (tokenTo (getG (regsAt s c) rd) (getG (regsAt s c) rs) (regsAt s c).dl
      (regsAt s c).fl flags))) :=
  exec_sends h form (tagBad_of_good tag) rfl (by rw [msgVn_token]; exact network ▸ ready)

theorem exec_token_waits {s : State} {i : Instr} {c : CellId} {p : Pfx} {rd rs : Reg} {flags : BitVec 10}
    (h : Executes s i c p encB [rd, rs]) (form : exec i s = tokenIns s i c p rd rs flags)
    (tag : (getG (regsAt s c) rd).extractLsb' 0 10 = 0) {vn : BitVec 2} (network : flagsVn flags = vn) (busy : PortBusy s c vn) :
    exec i s = .next (waiting (fetched s c (insLen encB p)) c 1 (.token (tokenTo (getG (regsAt s c) rd)
      (getG (regsAt s c) rs) (regsAt s c).dl (regsAt s c).fl flags))) :=
  exec_waits h form (tagBad_of_good tag) rfl (by rw [msgVn_token]; exact network ▸ busy)

theorem exec_token_again {s : State} {i : Instr} {c : CellId} {p : Pfx} {rd rs : Reg} {flags : BitVec 10}
    (h : Continues s i c p encB) (free : (engineAt s c).mid = .free) (given : (engineAt s c).offered = true)
    (form : exec i s = tokenIns s i c p rd rs flags) (tag : (getG (regsAt s c) rd).extractLsb' 0 10 = 0) :
    (stillOffered s c = true → exec i s = .next (stalled (fetched s c (insLen encB p)) c 1)) ∧
    (stillOffered s c = false → exec i s = .next (after s c p encB (regsAt s c))) :=
  exec_again h free given form (tagBad_of_good tag)

theorem exec_token_bad {s : State} {i : Instr} {c : CellId} {p : Pfx} {rd rs : Reg} {flags : BitVec 10}
    (h : Executes s i c p encB [rd, rs]) (form : exec i s = tokenIns s i c p rd rs flags)
    (tag : ¬ (getG (regsAt s c) rd).extractLsb' 0 10 = 0) : Unpredictable i s 23 :=
  form.trans (sendIns_of_bad h (tagBad_of_reserved tag) ..)

theorem flow_eq (x : W64) : (x.setWidth 12 : BitVec 12) = x.extractLsb' 0 12 :=
  BitVec.setWidth_eq_extractLsb' (by decide)

/-- FACQ of no flow, or for a context that takes no lock: its answer. -/
theorem exec_facq_answer {s : State} {c : CellId} {p : Pfx} {rd rs : Reg}
    (h : Executes s (.facq c p rd rs) c p encB [rd, rs]) (tag : (getG (regsAt s c) rd).extractLsb' 0 10 = 0)
    (ready : PortReady s c 0)
    (none : (getG (regsAt s c) rs).extractLsb' 0 12 = 0 ∨ mwFlowhome (engineAt s c).mode = 2) :
    exec (.facq c p rd rs) s = .next (afterFlit s c p encB
      (.token (tokenTo (getG (regsAt s c) rd) 0 (regsAt s c).dl (regsAt s c).fl 0))) := by
  refine exec_sends h ((exec_facq ..).trans (by rw [execFacq])) (tagBad_of_good tag) ?_
    (m := .token (tokenTo _ 0 _ _ 0)) (by rw [msgVn_tokenTo, flagsVn_zero]; exact ready)
  simp only [engineAt_fetched, flow_eq, if_pos none]

/-- FACQ of a flow: its request to the flow's home. -/
theorem exec_facq_request {s : State} {c : CellId} {p : Pfx} {rd rs : Reg}
    (h : Executes s (.facq c p rd rs) c p encB [rd, rs]) (tag : (getG (regsAt s c) rd).extractLsb' 0 10 = 0)
    (ready : PortReady s c 1) (flow : (getG (regsAt s c) rs).extractLsb' 0 12 ≠ 0)
    (locks : mwFlowhome (engineAt s c).mode ≠ 2) :
    exec (.facq c p rd rs) s = .next (afterFlit s c p encB
      (.acquire (lockHome (engineAt s c).mode ((getG (regsAt s c) rs).extractLsb' 0 12)) (tagContext (regsAt s c).tag0)
        ((getG (regsAt s c) rs).extractLsb' 0 12) (getG (regsAt s c) rd) (regsAt s c).dl (regsAt s c).fl)) := by
  refine exec_sends h ((exec_facq ..).trans (by rw [execFacq])) (tagBad_of_good tag) ?_ ready
  simp only [engineAt_fetched, flow_eq, if_neg (not_or.mpr ⟨flow, locks⟩)]

theorem exec_facq_bad {s : State} {c : CellId} {p : Pfx} {rd rs : Reg}
    (h : Executes s (.facq c p rd rs) c p encB [rd, rs]) (tag : ¬ (getG (regsAt s c) rd).extractLsb' 0 10 = 0) :
    Unpredictable (.facq c p rd rs) s 23 := by
  refine (exec_facq ..).trans ?_
  rw [execFacq]
  exact sendIns_of_bad h (tagBad_of_reserved tag) ..

/-- FREL of no flow, or for a context that takes no lock, has no effect. -/
theorem exec_frel_none {s : State} {c : CellId} {p : Pfx} {rs : Reg} (h : Executes s (.frel c p rs) c p encB [rs])
    (none : (getG (regsAt s c) rs).extractLsb' 0 12 = 0 ∨ mwFlowhome (engineAt s c).mode = 2) :
    exec (.frel c p rs) s = .next (after s c p encB (regsAt s c)) := by
  rw [exec_frel, execFrel, issue_of_executes h rfl]
  simp only [engineAt_fetched, regsAt_fetched, flow_eq, if_pos none]
  rfl

theorem complete_own_setEngine (u : State) (c : CellId) (b : Bool) (own : Option (BitVec 128)) (a : BitVec 15) :
    complete (setEngine u c { engineAt u c with offered := b }) c
      (regsAt (setEngine u c { engineAt u c with offered := b }) c) own a = complete u c (regsAt u c) own a := by
  rw [complete_setEngine, regsAt, engineAt_setEngine_same, regsAt]

/-- A message that is accepted, after which the instruction ends with the registers as they stand. -/
theorem emitThen_own {s : State} {c : CellId} {m : Msg} (idle : (engineAt s c).offered = false)
    (power : powered s (2 + (quadOfTile (tileOf c)).toNat) = true) (ready : PortReady s c (msgVn m)) {cause : BitVec 4}
    {a : BitVec 15} :
    (emitThen s c cause m fun t => complete t c (regsAt t c) none a) =
      complete (offered s c m) c (regsAt s c) none a := by
  rw [emitThen_ready idle power ready, complete_own_setEngine, regsAt, engineAt_offered, regsAt]

theorem exec_frel_release {s : State} {c : CellId} {p : Pfx} {rs : Reg} (h : Executes s (.frel c p rs) c p encB [rs])
    (ready : PortReady s c 1) (flow : (getG (regsAt s c) rs).extractLsb' 0 12 ≠ 0)
    (locks : mwFlowhome (engineAt s c).mode ≠ 2) :
    exec (.frel c p rs) s = .next (afterFlit s c p encB
      (.release (lockHome (engineAt s c).mode ((getG (regsAt s c) rs).extractLsb' 0 12)) (tagContext (regsAt s c).tag0)
        ((getG (regsAt s c) rs).extractLsb' 0 12))) := by
  have power : powered (fetched s c (insLen encB p)) (2 + (quadOfTile (tileOf c)).toNat) = true :=
    powered_of_cellUp (s := s) h.1.2.1
  rw [exec_frel, execFrel, issue_of_executes h rfl]
  simp only [engineAt_fetched, regsAt_fetched, flow_eq, if_neg (not_or.mpr ⟨flow, locks⟩)]
  have own : regsAt (fetched s c (insLen encB p)) c = regsAt s c := regsAt_fetched ..
  generalize message : Msg.release (lockHome (engineAt s c).mode ((getG (regsAt s c) rs).extractLsb' 0 12))
    (tagContext (regsAt s c).tag0) ((getG (regsAt s c) rs).extractLsb' 0 12) = m
  have network : msgVn m = 1 := by rw [← message]; rfl
  have room : PortReady (fetched s c (insLen encB p)) c (msgVn m) := by rw [network, portReady_fetched]; exact ready
  rw [emitThen_own (issue_idle h _) power room, own]
  rfl

/-! ## Stores of a whole word (R225) -/

theorem aligned_word_offset (a : Addr) : (alignTo 3 a).toNat % 8 = 0 := by
  rw [alignTo, BitVec.toNat_shiftLeft, BitVec.toNat_ushiftRight, Nat.shiftLeft_eq, Nat.shiftRight_eq_div_pow]
  omega

theorem storeMsg_word (r : Regs) (rs : Reg) (a : Addr) :
    storeMsg r rs 3 a = .write (alignTo 3 a) 0xFF (getG r rs) .store r.tag0 := by
  simp [storeMsg, byteMask, byteShift, aligned_word_offset]

/-! ## END, FBAR and TABLEAU (R169, R193, R213, R287) -/

theorem exec_endStrand (c p s) : exec (.endStrand c p) s = execEndStrand c p s := rfl
theorem exec_fbar (c p s) : exec (.fbar c p) s = execFbar c p s := rfl
theorem exec_tableauInstr (c p s) : exec (.tableauInstr c p) s = execTableauInstr c p s := rfl

theorem cellAt_endStrand (s : State) (c d : CellId) :
    cellAt (endStrandState s c) d = cellAt (setEngine s c Engine.idle) d := rfl

/-- `s` after cell `c` has asked for a record page. -/
def asking (s : State) (c : CellId) : State :=
  setCell s c { cellAt s c with asks := (cellAt s c).asks ++ [(.record, 5)] }

/-- A strand that a precise trap stops: its engine stands stopped with its registers, and its cell has asked for a
page. -/
theorem trapStop_spec {s u : State} {c : CellId} (h : OnlyStrand s u c) (cause : Bool) (raised trapped : BitVec 5) :
    OnlyFlit (asking s c) (trapStop u c cause raised trapped) c ∧
    (engineAt (trapStop u c cause raised trapped) c).phase = .stopped cause raised trapped true ∧
    regsAt (trapStop u c cause raised trapped) c = regsAt u c ∧ SameBytes s.mem (trapStop u c cause raised trapped).mem := by
  generalize he : { engineAt u c with phase := Phase.stopped cause raised trapped true, stall := 0 } = e
  have regs : e.regs = regsAt u c := by rw [← he]; rfl
  have phase : e.phase = .stopped cause raised trapped true := by rw [← he]
  generalize hv : setCell (setEngine u c e) c { cellAt (setEngine u c e) c with
    asks := (cellAt (setEngine u c e) c).asks ++ [(PageUse.record, 5)] } = v
  obtain ⟨o, stops⟩ : ∃ o, trapStop u c cause raised trapped = produce v (tileOf c) false o := by
    rw [trapStop, askPage]
    simp only [he, hv]
    exact ⟨_, rfl⟩
  have enters := produce_enters v (tileOf c) false o
  have mem : v.mem = s.mem := by rw [← hv]; exact h.mem
  have own : cellAt v c = { cellAt u c with engine := e, asks := (cellAt u c).asks ++ [(PageUse.record, 5)] } := by
    rw [← hv, cellAt_setCell_same, cellAt_setEngine_same]
  have others (d : CellId) (hd : d ≠ c) : cellAt v d = cellAt s d := by
    rw [← hv, cellAt_setCell_other _ hd.symm, cellAt_setEngine_other _ hd.symm, h.2.1 d hd]
  have away : LocalTo s v := by
    rw [← hv]
    exact h.localTo.trans ((localTo_setEngine u c e).trans (localTo_setCell ..))
  have engine : engineAt v c = e := by rw [engineAt, own]
  rw [stops]
  refine ⟨⟨?_, ?_, fun d hd => ?_, ?_⟩, ?_, ?_, fun a => ?_⟩
  · exact away.trans enters.localTo
  · exact (mem ▸ enters.mem : MarksOnly s.mem _)
  · rw [cellAt_produce, others d hd, asking, cellAt_setCell_other _ hd.symm]
  · rw [engineAt_produce, cellAt_produce, own, asking, cellAt_setCell_same, engine, h.2.2]
  · rw [engineAt_produce, engine, phase]
  · rw [regsAt, engineAt_produce, engine, regs]
  · rw [readByte_produce, mem]

section FsTest

variable {s : State} {i : Instr} {c : CellId} {p : Pfx} (h : Executes s i c p encA []) {fin : State → State}
  (form : exec i s = issue s i c p encA none [] false false fun s => fsTest s c fin)
include h form

theorem fsTest_clear (done : (engineAt s c).fpOut = []) (clear : (regsAt s c).fs &&& mwTrapen (engineAt s c).mode = 0) :
    exec i s = .next (fin (fetched s c (insLen encA p))) := by
  rw [regsAt] at clear
  rw [form, issue_of_executes h rfl, fsTest]
  simp [done, clear]

theorem fsTest_owed (owed : (engineAt s c).fpOut ≠ []) :
    exec i s = .next (stalled (fetched s c (insLen encA p)) c 7) := by
  rw [form, issue_of_executes h rfl, fsTest]
  simp [owed]

theorem fsTest_traps (done : (engineAt s c).fpOut = [])
    (enabled : (regsAt s c).fs &&& mwTrapen (engineAt s c).mode ≠ 0) :
    Yields i s fun t => OnlyFlit (asking s c) t c ∧ (engineAt t c).phase = .stopped true (regsAt s c).fs
      ((regsAt s c).fs &&& mwTrapen (engineAt s c).mode) true ∧ regsAt t c = regsAt s c ∧ SameBytes s.mem t.mem := by
  have traps : exec i s = .next (trapStop (fetched s c (insLen encA p)) c true (regsAt s c).fs
      ((regsAt s c).fs &&& mwTrapen (engineAt s c).mode)) := by
    rw [form, issue_of_executes h rfl, fsTest]
    rw [regsAt] at enabled
    simp only [engineAt_fetched, done, List.isEmpty_nil, Bool.not_true, Bool.false_eq_true, if_false]
    rw [if_pos enabled]
    rfl
  have spec := trapStop_spec (onlyStrand_fetched s c (insLen encA p)) true (regsAt s c).fs
    ((regsAt s c).fs &&& mwTrapen (engineAt s c).mode)
  rw [regsAt_fetched] at spec
  exact ⟨_, traps, spec⟩

end FsTest

end Sys2Proof.Machine

namespace Sys2Proof.Messages

open Sys2Proof Machine

/-- Settles O26: each instruction's message, on the network that its flags choose. -/
theorem tokenAndFlowInstructions : Obligations.TokenAndFlowInstructions := by
  unfold Obligations.TokenAndFlowInstructions
  intro s c p rd rs r token mw f tagGood
  refine ⟨fun h tag ready => exec_token h (exec_send ..) tag rfl ready,
    fun h tag ready => exec_token h (exec_sendc ..) tag rfl ready,
    fun h tag ready => exec_token h (exec_sendp ..) tag rfl ready,
    fun h tag ready => exec_token h (exec_sends_form ..) tag rfl ready,
    fun h tag => ⟨fun ready none => exec_facq_answer h tag ready none,
      fun ready flow locks => exec_facq_request h tag ready flow locks⟩,
    fun h => ⟨fun none => exec_frel_none h none, fun ready flow locks => exec_frel_release h ready flow locks⟩,
    fun h ready => exec_sends h (exec_retire ..) rfl rfl ready, fun i hi h tag => ?_⟩
  simp only [List.mem_cons, List.not_mem_nil, or_false] at hi
  rcases hi with rfl | rfl | rfl | rfl | rfl
  · exact exec_token_bad h (exec_send ..) tag
  · exact exec_token_bad h (exec_sendc ..) tag
  · exact exec_token_bad h (exec_sends_form ..) tag
  · exact exec_token_bad h (exec_sendp ..) tag
  · exact exec_facq_bad h tag

/-- Settles O27: a message that is offered changes its strand, the weave and what steering reads; a busy port leaves it
there. -/
theorem flitInstructionsFrame : Obligations.FlitInstructionsFrame := by
  unfold Obligations.FlitInstructionsFrame
  refine ⟨fun s c p k m => ?_, fun s c p k n m => ?_, fun s c cause m => ?_, fun s c p rd rs => ?_⟩
  · have moved := onlyStrand_fetched s c (insLen k p)
    exact ⟨onlyFlit_offered moved m _, sameBytes_offered moved m _, regsAt_complete ..⟩
  · have moved := onlyStrand_fetched s c (insLen k p)
    obtain ⟨e, ends, regs⟩ := afterIteration_eq s c p k n m
    rw [ends]
    exact ⟨onlyFlit_offered moved m e, sameBytes_offered moved m e,
      fun j => by rw [regsAt, engineAt_setEngine_same, regs]⟩
  · have still := onlyStrand_refl s c
    refine ⟨onlyFlit_offered still m _, sameBytes_offered still m _, ?_, ?_, ?_⟩ <;>
      simp [waiting, regsAt]
  · intro r s0 token tag
    refine ⟨fun busy => ⟨fun h => exec_token_waits h (exec_send ..) tag rfl busy,
        fun h => exec_token_waits h (exec_sendc ..) tag rfl busy,
        fun h => exec_token_waits h (exec_sendp ..) tag rfl busy⟩,
      fun busy h => exec_token_waits h (exec_sends_form ..) tag rfl busy, fun busy h mapped => ?_,
      fun busy h once mapped => ?_, fun i hi h free given => ?_⟩
    · refine exec_waits h ((exec_ld ..).trans (by rw [execLd, loadIns])) (load_legal tag mapped) ?_ busy
      rw [alignTo_addrOf]
      rfl
    · refine exec_once_waits h ((exec_st ..).trans (by rw [execSt, storeIns])) (storeUses_once once rd rs) once
        (by rw [storeBad_once once, mapBad_of_mapped mapped]) ?_ busy
      rw [← alignTo_addrOf]
      exact storeMsg_word ..
    · simp only [List.mem_cons, List.not_mem_nil, or_false] at hi
      rcases hi with rfl | rfl | rfl | rfl
      · exact exec_token_again h free given (exec_send ..) tag
      · exact exec_token_again h free given (exec_sendc ..) tag
      · exact exec_token_again h free given (exec_sendp ..) tag
      · exact exec_token_again h free given (exec_sends_form ..) tag

/-- Settles O28: END and FBAR share the test of FS. -/
theorem strandEndBarrierAndTableau : Obligations.StrandEndBarrierAndTableau := by
  unfold Obligations.StrandEndBarrierAndTableau
  intro s c p r e ask traps
  refine ⟨fun h => ⟨fun done clear => ⟨_, fsTest_clear h (exec_endStrand ..) done clear, rfl, ?_, fun d hd => ?_⟩,
      fun owed => fsTest_owed h (exec_endStrand ..) owed,
      fun done enabled => fsTest_traps h (exec_endStrand ..) done enabled⟩,
    fun h => ⟨fun done clear => (fsTest_clear h (exec_fbar ..) done clear).trans ?_,
      fun owed => fsTest_owed h (exec_fbar ..) owed, fun done enabled => fsTest_traps h (exec_fbar ..) done enabled⟩,
    fun h => ?_⟩
  · obtain ⟨-, -, own⟩ := onlyStrand_fetched s c (insLen encA p)
    rw [cellAt_endStrand, cellAt_setEngine_same, own]
  · rw [cellAt_endStrand, cellAt_setEngine_other _ hd.symm]
    exact (onlyStrand_fetched s c (insLen encA p)).2.1 d hd
  · simp only [regsAt_fetched]; rfl
  · rw [exec_tableauInstr, execTableauInstr, issue_of_executes h rfl]
    simp only [regsAt_fetched]
    rfl

end Sys2Proof.Messages
end

/-! # Floating-point operations and table lookups (chapters 6 and 7) -/

section
namespace Sys2Proof.Machine

open Sys2Proof

/-! ## How an operation ends (R279, R287, R295) -/

/-- How a floating-point operation with result and flags `x` ends: in flight, written, or trapped. -/
def FloatEnds (s : State) (i : Instr) (c : CellId) (p : Pfx) (k : Enc) (rd : Reg) (x : W64 × BitVec 5) : Prop :=
  (mwPrecise (engineAt s c).mode = false → p.tr = false → Yields i s fun t => OnlyStrand s t c ∧
    engineAt t c = { (engineAt (after s c p k (regsAt s c)) c) with fpOut := (engineAt s c).fpOut ++ [⟨rd, x.1, x.2⟩] }) ∧
  (mwPrecise (engineAt s c).mode = true ∨ p.tr = true → x.2 &&& mwTrapen (engineAt s c).mode = 0 →
    exec i s = .next (after s c p k { setG (regsAt s c) rd x.1 with fs := (regsAt s c).fs ||| x.2 })) ∧
  (mwPrecise (engineAt s c).mode = true ∨ p.tr = true → x.2 &&& mwTrapen (engineAt s c).mode ≠ 0 → Yields i s fun t =>
    (engineAt t c).phase = .stopped false x.2 (x.2 &&& mwTrapen (engineAt s c).mode) true ∧
    regsAt t c = regsAt s c ∧ OnlyFlit (asking s c) t c)

theorem fpResult_spec (s : State) (c : CellId) (p : Pfx) (k : Enc) (rd : Reg) (v : W64) (flags : BitVec 5) :
    (mwPrecise (engineAt s c).mode = false → p.tr = false → fpResult s c p k rd v flags =
      setEngine s c { (engineAt s c).at (retire (regsAt s c) none (nextAddr (regsAt s c) k p)) with
        fpOut := (engineAt s c).fpOut ++ [⟨rd, v, flags⟩] }) ∧
    (mwPrecise (engineAt s c).mode = true ∨ p.tr = true → flags &&& mwTrapen (engineAt s c).mode = 0 →
      fpResult s c p k rd v flags = complete s c (fpWrite (regsAt s c) rd v flags) none (nextAddr (regsAt s c) k p)) ∧
    (mwPrecise (engineAt s c).mode = true ∨ p.tr = true → flags &&& mwTrapen (engineAt s c).mode ≠ 0 →
      fpResult s c p k rd v flags = trapStop s c false flags (flags &&& mwTrapen (engineAt s c).mode)) := by
  refine ⟨fun imprecise notr => ?_, fun precise quiet => ?_, fun precise enabled => ?_⟩
  · simp only [fpResult, imprecise, notr, Bool.or_self, Bool.false_eq_true, if_false]
    rw [complete, setEngine_setEngine, engineAt_setEngine_same, regsAt]
  · have pt : (mwPrecise (engineAt s c).mode || p.tr) = true := by simpa using precise
    rw [fpResult, if_pos pt, if_neg (not_not.mpr quiet), regsAt]
  · have pt : (mwPrecise (engineAt s c).mode || p.tr) = true := by simpa using precise
    rw [fpResult, if_pos pt, if_pos enabled]

theorem exec_float {s : State} {i : Instr} {c : CellId} {p : Pfx} {k : Enc} {rd : Reg} {uses : List Reg}
    {f : BitVec 2 → Regs → W64 × BitVec 5} {x : W64 × BitVec 5} (h : Executes s i c p k uses)
    (form : exec i s = fpIns s i c p k rd uses f) (value : f (mwRmode (engineAt s c).mode) (regsAt s c) = x) :
    FloatEnds s i c p k rd x := by
  have runs : exec i s = .next (fpResult (fetched s c (insLen k p)) c p k rd x.1 x.2) := by
    rw [form, fpIns, issue_of_executes h rfl]
    simp only [engineAt_fetched, ← value, regsAt]
  obtain ⟨inflight, writes, traps⟩ := fpResult_spec (fetched s c (insLen k p)) c p k rd x.1 x.2
  simp only [engineAt_fetched, regsAt_fetched] at inflight writes traps
  refine ⟨fun imprecise notr => ⟨_, runs, ?_⟩, fun precise quiet => ?_, fun precise enabled => ⟨_, runs, ?_⟩⟩
  · rw [inflight imprecise notr]
    refine ⟨onlyStrand_setEngine_fetched .., ?_⟩
    rw [engineAt_setEngine_same, after, engineAt_afterTo]
    rfl
  · rw [runs, writes precise quiet]; rfl
  · obtain ⟨only, phase, regs, -⟩ := trapStop_spec (onlyStrand_fetched s c (insLen k p)) false x.2
      (x.2 &&& mwTrapen (engineAt s c).mode)
    rw [traps precise enabled]
    exact ⟨phase, regs.trans (regsAt_fetched ..), only⟩

/-! ## The operations' forms (Table 06-13) -/

theorem exec_fadd (c p rd rs s) : exec (.fadd c p rd rs) s = execFadd c p rd rs s := rfl
theorem exec_fsub (c p rd rs s) : exec (.fsub c p rd rs) s = execFsub c p rd rs s := rfl
theorem exec_fmul (c p rd rs s) : exec (.fmul c p rd rs) s = execFmul c p rd rs s := rfl
theorem exec_fdiv (c p rd rs s) : exec (.fdiv c p rd rs) s = execFdiv c p rd rs s := rfl
theorem exec_fmin (c p rd rs s) : exec (.fmin c p rd rs) s = execFmin c p rd rs s := rfl
theorem exec_fmax (c p rd rs s) : exec (.fmax c p rd rs) s = execFmax c p rd rs s := rfl
theorem exec_fcmpeq (c p rd rs s) : exec (.fcmpeq c p rd rs) s = execFcmpeq c p rd rs s := rfl
theorem exec_fcmplt (c p rd rs s) : exec (.fcmplt c p rd rs) s = execFcmplt c p rd rs s := rfl
theorem exec_fcmple (c p rd rs s) : exec (.fcmple c p rd rs) s = execFcmple c p rd rs s := rfl
theorem exec_fcmpun (c p rd rs s) : exec (.fcmpun c p rd rs) s = execFcmpun c p rd rs s := rfl
theorem exec_fcvtf (c p rd rs s) : exec (.fcvtf c p rd rs) s = execFcvtf c p rd rs s := rfl
theorem exec_fcvti (c p rd rs s) : exec (.fcvti c p rd rs) s = execFcvti c p rd rs s := rfl
theorem exec_fcvtiz (c p rd rs s) : exec (.fcvtiz c p rd rs) s = execFcvtiz c p rd rs s := rfl
theorem exec_fcvtu (c p rd rs s) : exec (.fcvtu c p rd rs) s = execFcvtu c p rd rs s := rfl
theorem exec_icvtf (c p rd rs s) : exec (.icvtf c p rd rs) s = execIcvtf c p rd rs s := rfl
theorem exec_ucvtf (c p rd rs s) : exec (.ucvtf c p rd rs) s = execUcvtf c p rd rs s := rfl
theorem exec_fma (c p rd rs rt s) : exec (.fma c p rd rs rt) s = execFma c p rd rs rt s := rfl
theorem exec_fms (c p rd rs rt s) : exec (.fms c p rd rs rt) s = execFms c p rd rs rt s := rfl
theorem exec_fnma (c p rd rs rt s) : exec (.fnma c p rd rs rt) s = execFnma c p rd rs rt s := rfl
theorem exec_fpComplete (c k s) : exec (.fpComplete c k) s = execFpComplete c k s := rfl
theorem exec_fneg (c p rd rs s) : exec (.fneg c p rd rs) s = execFneg c p rd rs s := rfl
theorem exec_fabs (c p rd rs s) : exec (.fabs c p rd rs) s = execFabs c p rd rs s := rfl

/-- An operation of rd and rs whose form is `fpBin`. -/
theorem exec_fpBin {s : State} {i : Instr} {c : CellId} {p : Pfx} {rd rs : Reg} {f : BitVec 2 → W64 → W64 → W64 × BitVec 5}
    (form : exec i s = fpBin s i c p rd rs f) (h : Executes s i c p encBFT [rd, rs]) :
    FloatEnds s i c p encBFT rd (f (mwRmode (engineAt s c).mode) (getG (regsAt s c) rd) (getG (regsAt s c) rs)) :=
  exec_float h (form.trans (by rw [fpBin])) rfl

/-- A conversion to an integer between the bounds of its width (R244). -/
theorem exec_fpToInt {s : State} {i : Instr} {c : CellId} {p : Pfx} {rd rs : Reg} {signed toZero : Bool}
    (form : exec i s = fpToIntIns s i c p rd rs signed toZero) {rm : BitVec 2}
    (mode : (if toZero then 1 else mwRmode (engineAt s c).mode) = rm) {lo hi : Int}
    (lower : (if signed then -(2 ^ (opWidth p - 1)) else 0) = lo)
    (upper : (if signed then 2 ^ (opWidth p - 1) - 1 else 2 ^ opWidth p - 1) = hi) {x : W64 × BitVec 5}
    (value : (cut p (BitVec.ofInt 64 (fpToInt (fmtOf p) rm lo hi (getG (regsAt s c) rs)).1),
      (fpToInt (fmtOf p) rm lo hi (getG (regsAt s c) rs)).2) = x) (h : Executes s i c p encBFTWS [rd, rs]) :
    FloatEnds s i c p encBFTWS rd x :=
  exec_float h (form.trans (by rw [fpToIntIns])) (by simp only [place_eq_cut, mode, lower, upper, value])

/-- A fused operation (R277). -/
theorem exec_fused {s : State} {i : Instr} {c : CellId} {p : Pfx} {rd rs rt : Reg} {negProd negAdd : Bool}
    (form : exec i s = fmaIns s i c p rd rs rt negProd negAdd) (h : Executes s i c p encCFT [rd, rs, rt]) :
    FloatEnds s i c p encCFT rd (fpFma (fmtOf p) (mwRmode (engineAt s c).mode) negProd negAdd (getG (regsAt s c) rs)
      (getG (regsAt s c) rt) (getG (regsAt s c) rd)) :=
  exec_float h (form.trans (by rw [fmaIns])) rfl

/-! ## Signs (R242) -/

theorem narrow_eq_low (b : Bool) (x : W64) : narrow b x = if b then (x.extractLsb' 0 32).setWidth 64 else x :=
  BitVec.eq_of_toNat_eq ((narrow_toNat { Pfx.none with w32 := b } x).trans (usedWord_toNat _ x).symm)

theorem signMask_getLsbD (p : Pfx) {j : Nat} (hj : j < 64) :
    (signMask p).getLsbD j = decide (j = if p.fs32 then 31 else 63) := by
  have single : signMask p = BitVec.twoPow 64 (if p.fs32 then 31 else 63) := by
    rw [signMask]; split <;> decide
  rw [single, BitVec.getLsbD_twoPow]
  split <;> simp <;> omega

/-! ## Tables in the instruction store (R246 to R250, R340) -/

theorem istoreCorrect_of_ok {x : Cell} (ok : ∀ w, mget Ecc.ok x.istoreEcc w = .ok) (ws : List Nat) :
    istoreCorrect x ws = x := by
  induction ws with
  | nil => rfl
  | cons w r ih => rw [istoreCorrect, ok, if_neg (by decide), ih]

theorem istoreRead_of_ok {x : Cell} (ok : ∀ w, mget Ecc.ok x.istoreEcc w = .ok) (ws : List Nat) : istoreRead x ws = x := by
  have none : doubleCount x ws = 0 := by simp [doubleCount, ok]
  have same : satAdd x.uncorrect 0 = x.uncorrect := by simp [satAdd, x.uncorrect.isLt]
  simp only [istoreRead, istoreCorrect_of_ok ok, none, same]

theorem lookupIndex_eq (n : Nat) (b : W64) :
    lookupIndex n b = (if b.toInt < 0 then 0 else if 2 ^ n ≤ (b >>> 16).toNat then 2 ^ n else (b >>> 16).toNat,
      decide (0 ≤ b.toInt) && decide ((b >>> 16).toNat < 2 ^ n)) := by
  rw [lookupIndex]
  generalize (b >>> 16).toNat = q
  by_cases negative : b.toInt < 0
  · simp [negative]
  · have least : 0 ≤ b.toInt := not_lt.mp negative
    by_cases high : 2 ^ n ≤ q
    · simp [negative, high]
    · simp [negative, high, least, not_le.mp high]

/-- A lookup whose entries are good ends as its value and its flags say. -/
theorem lookupStore_of_ok {s : State} {c : CellId} (ok : ∀ w, mget Ecc.ok (cellAt s c).istoreEcc w = .ok) (p : Pfx)
    (k : Enc) (float : Bool) (rd : Reg) (base : Nat) (i : Nat × Bool) (frac : BitVec 16) :
    lookupStore s c p k float rd base i frac =
      lookupEnd (setCell s c (cellAt s c)) c p.tr rd (nextAddr (regsAt s c) k p)
        (some (lookupValue float (mwRmode (engineAt s c).mode) frac (istoreEntry (cellAt s c) (base + 4 * i.1))
          (if i.2 then some (istoreEntry (cellAt s c) (base + 4 * i.1 + 4)) else none))) := by
  have good (ws : List Nat) : ws.filter (fun a => istoreDouble (cellAt s c) [a / 8]) = [] := by simp [istoreDouble, ok]
  simp only [lookupStore, good, istoreRead_of_ok ok, ne_eq, not_true_eq_false, if_false, regsAt]

theorem setEngine_setCell_self (u : State) (c : CellId) (e : Engine) :
    setEngine (setCell u c (cellAt u c)) c e = setEngine u c e := by
  rw [setEngine, cellAt_setCell_same, setCell_setCell, setEngine]

theorem fetched_of_ok {s : State} {c : CellId} (ok : ∀ w, mget Ecc.ok (cellAt s c).istoreEcc w = .ok) (n : Nat) :
    cellAt (fetched s c n) c = cellAt s c := by
  rw [fetched, cellAt_setCell_same, istoreCorrect_of_ok ok]

theorem onlyStrand_setCell_self {s u : State} {c : CellId} (h : OnlyStrand s u c) :
    OnlyStrand s (setCell u c (cellAt u c)) c := by
  obtain ⟨same, others, own⟩ := h
  refine ⟨?_, fun d hd => ?_, ?_⟩
  · exact congrArg (fun t : State => { t with cells := (setCell u c (cellAt u c)).cells }) same
  · rw [cellAt_setCell_other _ hd.symm, others d hd]
  · rw [engineAt, cellAt_setCell_same]; exact own

/-- How a lookup with a value ends: it completes, or it traps on an enabled flag. -/
theorem lookupEnd_spec {s : State} {c : CellId} (running : (engineAt s c).phase = .running) (precise : Bool) (rd : Reg)
    (next : BitVec 15) (x : W64 × BitVec 5) :
    (x.2 &&& mwTrapen (engineAt s c).mode = 0 ∨ (mwPrecise (engineAt s c).mode = false ∧ precise = false) →
      lookupEnd (setCell s c (cellAt s c)) c precise rd next (some x) =
        complete s c (fpWrite (regsAt s c) rd x.1 x.2) none next) ∧
    (x.2 &&& mwTrapen (engineAt s c).mode ≠ 0 → mwPrecise (engineAt s c).mode = true ∨ precise = true →
      lookupEnd (setCell s c (cellAt s c)) c precise rd next (some x) =
        trapStop (setCell s c (cellAt s c)) c false x.2 (x.2 &&& mwTrapen (engineAt s c).mode)) := by
  have own : engineAt (setCell s c (cellAt s c)) c = engineAt s c := engineAt_setCell_same ..
  have still : ({ engineAt s c with phase := .running } : Engine) = engineAt s c := by rw [← running]
  constructor
  · intro quiet
    have keeps : ((precise || mwPrecise (engineAt s c).mode) && x.2 &&& mwTrapen (engineAt s c).mode != 0) = false := by
      rcases quiet with quiet | ⟨imprecise, notr⟩
      · simp [quiet]
      · simp [imprecise, notr]
    simp only [lookupEnd, own, keeps, Bool.false_eq_true, if_false, still]
    rw [setEngine_setCell_self, complete, regsAt]
  · intro enabled pt
    have traps : ((precise || mwPrecise (engineAt s c).mode) && x.2 &&& mwTrapen (engineAt s c).mode != 0) = true := by
      rw [Bool.and_eq_true, bne_iff_ne, Bool.or_eq_true]
      exact ⟨pt.symm, enabled⟩
    simp only [lookupEnd, own, traps, if_true]

/-- A lookup in the instruction store, whose entries are good, from `s` itself. -/
theorem exec_lookup_store {s : State} {i : Instr} {c : CellId} {p : Pfx} {k : Enc} {float : Bool} {rd rs rt : Reg}
    {kc : BitVec 4} (h : Executes s i c p k [rd, rs, rt]) (form : exec i s = lookupIns s i c p k float rd rs rt kc)
    (legal : kc.toNat < 9) (inside : (getG (regsAt s c) rt).getLsbD 63 = true)
    (fits : (getG (regsAt s c) rt).toNat % 0x4000 / 4 * 4 + 4 * (2 ^ (kc.toNat + 2) + 1) ≤ 0x4000)
    (ok : ∀ w, mget Ecc.ok (cellAt s c).istoreEcc w = .ok) {x : W64 × BitVec 5}
    (value : lookupValue float (mwRmode (engineAt s c).mode) ((getG (regsAt s c) rs).extractLsb' 0 16)
      (istoreEntry (cellAt s c) ((getG (regsAt s c) rt).toNat % 0x4000 / 4 * 4 +
        4 * (lookupIndex (kc.toNat + 2) (getG (regsAt s c) rs)).1))
      (if (lookupIndex (kc.toNat + 2) (getG (regsAt s c) rs)).2 then
        some (istoreEntry (cellAt s c) ((getG (regsAt s c) rt).toNat % 0x4000 / 4 * 4 +
          4 * ((lookupIndex (kc.toNat + 2) (getG (regsAt s c) rs)).1 + 1))) else none) = x) :
    exec i s = .next (lookupEnd (setCell (fetched s c (insLen k p)) c (cellAt (fetched s c (insLen k p)) c)) c p.tr rd
      (nextAddr (regsAt s c) k p) (some x)) := by
  have bad : (if 9 ≤ kc.toNat then some 246 else none).or (tableBad (regsAt s c) rs rt kc) = none := by
    simp only [if_neg (not_le.mpr legal), tableBad, inside, if_true, if_neg (not_lt.mpr fits)]
    rfl
  have same := fetched_of_ok ok (insLen k p)
  have good : ∀ w, mget Ecc.ok (cellAt (fetched s c (insLen k p)) c).istoreEcc w = .ok := by rwa [same]
  rw [form, lookupIns, issue_of_executes h bad]
  simp only [regsAt_fetched, inside, if_true, lookupStore_of_ok good, engineAt_fetched, same, ← value,
    BitVec.setWidth_eq_extractLsb' (show 16 ≤ 64 by decide), Nat.mul_succ, Nat.add_assoc]

theorem lookupValue_integer (rm : BitVec 2) (frac : BitVec 16) (t0 t1 : BitVec 32) (two : Bool) :
    lookupValue false rm frac t0 (if two then some t1 else none) =
      (if two then tliValue t0 t1 frac else t0.signExtend 64, 0) := by
  cases two <;> rfl

theorem lookupValue_float (rm : BitVec 2) (frac : BitVec 16) (t0 t1 : BitVec 32) (two : Bool) :
    lookupValue true rm frac t0 (if two then some t1 else none) =
      ((if two ∧ frac ≠ 0 then fpInterp rm t0 t1 frac else fpSingle t0).1.setWidth 64,
        (if two ∧ frac ≠ 0 then fpInterp rm t0 t1 frac else fpSingle t0).2) := by
  cases two
  · simp [lookupValue]
  · by_cases whole : frac = 0 <;> simp [lookupValue, whole]

/-- A lookup's value is written, or an enabled flag stops the strand for a trap. -/
def LookupEnds (s : State) (i : Instr) (c : CellId) (p : Pfx) (k : Enc) (rd : Reg) (x : W64 × BitVec 5) : Prop :=
  (x.2 &&& mwTrapen (engineAt s c).mode = 0 ∨ (mwPrecise (engineAt s c).mode = false ∧ p.tr = false) →
    exec i s = .next (after s c p k { setG (regsAt s c) rd x.1 with fs := (regsAt s c).fs ||| x.2 })) ∧
  (x.2 &&& mwTrapen (engineAt s c).mode ≠ 0 → mwPrecise (engineAt s c).mode = true ∨ p.tr = true → Yields i s fun t =>
    (engineAt t c).phase = .stopped false x.2 (x.2 &&& mwTrapen (engineAt s c).mode) true ∧ regsAt t c = regsAt s c ∧
    SameBytes s.mem t.mem)

theorem lookupEnds {s : State} {i : Instr} {c : CellId} {p : Pfx} {k : Enc} {rd : Reg} {uses : List Reg}
    {x : W64 × BitVec 5} (h : Executes s i c p k uses)
    (ends : exec i s = .next (lookupEnd (setCell (fetched s c (insLen k p)) c (cellAt (fetched s c (insLen k p)) c)) c
      p.tr rd (nextAddr (regsAt s c) k p) (some x))) : LookupEnds s i c p k rd x := by
  have running : (engineAt (fetched s c (insLen k p)) c).phase = .running := by
    rw [engineAt_fetched]; exact h.1.2.2.1
  obtain ⟨writes, traps⟩ := lookupEnd_spec running p.tr rd (nextAddr (regsAt s c) k p) x
  simp only [engineAt_fetched, regsAt_fetched] at writes traps
  refine ⟨fun quiet => by rw [ends, writes quiet]; rfl, fun enabled pt => ⟨_, ends, ?_⟩⟩
  rw [traps enabled pt]
  obtain ⟨-, phase, regs, bytes⟩ := trapStop_spec (onlyStrand_setCell_self (onlyStrand_fetched s c (insLen k p))) false
    x.2 (x.2 &&& mwTrapen (engineAt s c).mode)
  refine ⟨phase, regs.trans ?_, bytes⟩
  rw [regsAt, engineAt, cellAt_setCell_same]
  exact regsAt_fetched ..

theorem exec_lookup_beyond {s : State} {i : Instr} {c : CellId} {p : Pfx} {k : Enc} {float : Bool} {rd rs rt : Reg}
    {kc : BitVec 4} (h : Executes s i c p k [rd, rs, rt]) (form : exec i s = lookupIns s i c p k float rd rs rt kc)
    (legal : kc.toNat < 9) (inside : (getG (regsAt s c) rt).getLsbD 63 = true)
    (beyond : 0x4000 < (getG (regsAt s c) rt).toNat % 0x4000 / 4 * 4 + 4 * (2 ^ (kc.toNat + 2) + 1)) :
    Unpredictable i s 247 := by
  refine form.trans (lookupIns_of_bad h ?_ float)
  simp only [if_neg (not_le.mpr legal), tableBad, inside, if_true, if_pos beyond]
  rfl

/-! ## Tables in fabric memory (R199, R247) -/

/-- `s` after the strand has sent the reads of a lookup of entries from index `i` on, and waits for their answers. -/
def lookupReads (s : State) (c : CellId) (p : Pfx) (k : Enc) (float : Bool) (rd : Reg) (base : Addr) (i : Nat × Bool)
    (frac : BitVec 16) : State :=
  let s0 := fetched s c (insLen k p)
  let r := regsAt s c
  let read := fun (j : Nat) (second : Bool) => Msg.read (base + BitVec.ofNat 48 (4 * j)) (.table c second) r.tag0
  let s1 := offered s0 c (read i.1 false)
  let s2 := if i.2 then produce s1 (tileOf c) false (strandOffer s0 c (read (i.1 + 1) true)) else s1
  setEngine s2 c { engineAt s c with stall := 0, phase := .lookup ⟨float, rd, frac, i.2, p.tr, none, none,
    r.pc + BitVec.ofNat 15 (insLen k p)⟩ }

theorem exec_lookup_fabric {s : State} {i : Instr} {c : CellId} {p : Pfx} {k : Enc} {float : Bool} {rd rs rt : Reg}
    {kc : BitVec 4} (h : Executes s i c p k [rd, rs, rt]) (form : exec i s = lookupIns s i c p k float rd rs rt kc)
    (legal : kc.toNat < 9) (outside : (getG (regsAt s c) rt).getLsbD 63 = false) {x : Nat × Bool}
    (index : lookupIndex (kc.toNat + 2) (getG (regsAt s c) rs) = x)
    (first : rangeOf (accessAddr 2 (getG (regsAt s c) rt) + BitVec.ofNat 48 (4 * x.1)) ≠ .none)
    (second : x.2 = true → rangeOf (accessAddr 2 (getG (regsAt s c) rt) + BitVec.ofNat 48 (4 * (x.1 + 1))) ≠ .none) :
    exec i s = .next (lookupReads s c p k float rd (accessAddr 2 (getG (regsAt s c) rt)) x
      ((getG (regsAt s c) rs).extractLsb' 0 16)) := by
  have bad : (if 9 ≤ kc.toNat then some 246 else none).or (tableBad (regsAt s c) rs rt kc) = none := by
    simp only [if_neg (not_le.mpr legal), tableBad, outside, Bool.false_eq_true, if_false, index, alignTo_addrOf,
      mapBad_of_mapped first]
    cases two : x.2
    · rfl
    · simp [mapBad_of_mapped (second two)]
  rw [form, lookupIns, issue_of_executes h bad]
  simp only [regsAt_fetched, outside, Bool.false_eq_true, if_false, index, alignTo_addrOf, lookupFabric, lookupReads,
    engineAt_fetched, BitVec.setWidth_eq_extractLsb' (show 16 ≤ 64 by decide)]
  cases x.2 <;> rfl

end Sys2Proof.Machine

namespace Sys2Proof.Floats

open Sys2Proof Machine

/-- Settles O29: every operation ends as `FloatEnds` says, with the result and flags of its own function. -/
theorem floatingPointIssue : Obligations.FloatingPointIssue := by
  unfold Obligations.FloatingPointIssue
  intro s c p rd rs rt r e rm f a b w ask done two int
  refine ⟨exec_fpBin (exec_fadd ..), exec_fpBin (exec_fsub ..), exec_fpBin (exec_fmul ..), exec_fpBin (exec_fdiv ..),
    exec_fpBin (exec_fmin ..), exec_fpBin (exec_fmax ..), exec_fpBin (exec_fcmpeq ..), exec_fpBin (exec_fcmplt ..),
    exec_fpBin (exec_fcmple ..), exec_fpBin (exec_fcmpun ..), fun h => exec_float h ((exec_fcvtf ..).trans (by rw [execFcvtf])) rfl,
    exec_fpToInt (exec_fcvti ..) rfl rfl rfl rfl,
    exec_fpToInt (exec_fcvtiz ..) rfl rfl rfl rfl, exec_fpToInt (exec_fcvtu ..) rfl rfl rfl rfl,
    fun h => exec_float h ((exec_icvtf ..).trans (by rw [execIcvtf])) (by rw [signedV_eq_usedInt]),
    fun h => exec_float h ((exec_ucvtf ..).trans (by rw [execUcvtf])) (by rw [narrow_toNat]), exec_fused (exec_fma ..), exec_fused (exec_fms ..),
    exec_fused (exec_fnma ..), fun k o up owed => ⟨_, ?_, onlyStrand_setEngine s c _, engineAt_setEngine_same ..⟩⟩
  rw [exec_fpComplete, execFpComplete]
  simp only [up, Bool.not_true, Bool.false_eq_true, if_false, owed, e, fpWrite]
  rfl

/-- Settles O30: signs by their mask; a lookup by where its table lies and by its clamps. -/
theorem signInstructionsAndLookups : Obligations.SignInstructionsAndLookups := by
  unfold Obligations.SignInstructionsAndLookups
  intro s c p rd rs rt kc r e b b1 sign
  refine ⟨fun h => ⟨narrow p.fs32 b ^^^ signMask p, ?_, fun j hj => ?_⟩,
    fun h => ⟨narrow p.fs32 b &&& ~~~signMask p, ?_, fun j hj => ?_⟩, ?_⟩
  · exact (exec_fneg ..).trans ((regIns_of_executes h rfl ..))
  · rw [BitVec.getLsbD_xor, narrow_eq_low, signMask_getLsbD p hj]
    by_cases top : j = sign
    · rw [if_pos top, decide_eq_true top, Bool.xor_true]
    · rw [if_neg top, decide_eq_false top, Bool.xor_false]
  · exact (exec_fabs ..).trans ((regIns_of_executes h rfl ..))
  · rw [BitVec.getLsbD_and, BitVec.getLsbD_not, narrow_eq_low, signMask_getLsbD p hj, decide_eq_true hj, Bool.true_and]
    by_cases top : j = sign
    · rw [if_pos top, decide_eq_true top, Bool.not_true, Bool.and_false]
    · rw [if_neg top, decide_eq_false top, Bool.not_false, Bool.and_true]
  intro n i two frac legal
  have index : lookupIndex n b = (i, two) := lookupIndex_eq n b
  constructor
  · intro base entry tli tlif inside
    refine ⟨fun h beyond => ?_, fun fits ok => ⟨fun h => ?_, fun h => ?_⟩⟩
    · exact exec_lookup_beyond h ((exec_tli ..).trans (by rw [execTli])) legal inside beyond
    · have ends : LookupEnds s (.tli c p rd rs rt kc) c p encC rd (tli, 0) := by
        refine lookupEnds h (exec_lookup_store h ((exec_tli ..).trans (by rw [execTli])) legal inside fits ok ?_)
        rw [index]; exact lookupValue_integer ..
      refine (ends.1 (.inl BitVec.zero_and)).trans ?_
      rw [show r.fs ||| (tli, (0 : BitVec 5)).2 = r.fs from BitVec.or_zero]
      rfl
    · refine lookupEnds h (exec_lookup_store h ((exec_tlif ..).trans (by rw [execTlif])) legal inside fits ok
        (x := (tlif.1.setWidth 64, tlif.2)) ?_)
      rw [index]; exact lookupValue_float ..
  intro base at' reads outside first second
  refine ⟨fun h => ?_, fun h => ?_⟩
  · exact exec_lookup_fabric h ((exec_tli ..).trans (by rw [execTli])) legal outside index first second
  · exact exec_lookup_fabric h ((exec_tlif ..).trans (by rw [execTlif])) legal outside index first second

end Sys2Proof.Floats
end

/-! # Words of memory, bit by bit, and how a bank comes to serve a request (chapter 8) -/

section
namespace Sys2Proof.Machine

open Sys2Proof

/-! ## Bytes and the bits of a word (R12) -/

theorem leNat_testBit (bs : List Byte) (j : Nat) : (leNat bs).testBit j = (bs.getD (j / 8) 0).getLsbD (j % 8) := by
  induction bs generalizing j with
  | nil => simp [leNat]
  | cons b r ih =>
    rw [leNat, Nat.add_comm, show (256 : Nat) = 2 ^ 8 from rfl, Nat.testBit_two_pow_mul_add _ b.isLt]
    by_cases low : j < 8
    · rw [if_pos low, Nat.div_eq_of_lt low, Nat.mod_eq_of_lt low, List.getD_cons_zero, BitVec.testBit_toNat]
    · obtain ⟨k, rfl⟩ := Nat.exists_eq_add_of_le (not_lt.mp low)
      rw [if_neg low, Nat.add_sub_cancel_left, ih, Nat.add_div_left k (by decide), Nat.add_mod_left, List.getD_cons_succ]

/-- A bit of the word that bytes spell. -/
theorem word_getLsbD (bs : List Byte) {j : Nat} (hj : j < 64) :
    (BitVec.ofNat 64 (leNat bs)).getLsbD j = (bs.getD (j / 8) 0).getLsbD (j % 8) := by
  rw [BitVec.getLsbD_ofNat, decide_eq_true hj, Bool.true_and, leNat_testBit]

theorem maskBits_getLsbD (mask : BitVec 8) {j : Nat} (hj : j < 64) :
    (maskBits mask).getLsbD j = mask.getLsbD (j / 8) := by
  have hi : j / 8 < 8 := by omega
  rw [maskBits, word_getLsbD _ hj, List.getD_eq_getElem _ _ (by simpa using hi), List.getElem_map, List.getElem_range]
  have ones : (0xFF : Byte).getLsbD (j % 8) = true := by
    rw [show (0xFF : Byte) = BitVec.allOnes 8 from rfl, BitVec.getLsbD_allOnes, decide_eq_true (Nat.mod_lt _ (by decide))]
  cases mask.getLsbD (j / 8)
  · simp
  · simpa using ones

theorem mergeWord_getLsbD (old v : W64) (mask : BitVec 8) {j : Nat} (hj : j < 64) :
    (mergeWord old v mask).getLsbD j = if mask.getLsbD (j / 8) then v.getLsbD j else old.getLsbD j := by
  rw [mergeWord, BitVec.getLsbD_or, BitVec.getLsbD_and, BitVec.getLsbD_and, BitVec.getLsbD_not, maskBits_getLsbD mask hj,
    decide_eq_true hj]
  cases mask.getLsbD (j / 8) <;> simp

theorem mergeWord_full (old v : W64) : mergeWord old v 0xFF = v :=
  BitVec.eq_of_getLsbD_eq fun j hj => by
    rw [mergeWord_getLsbD old v 0xFF hj, show (0xFF : BitVec 8) = BitVec.allOnes 8 from rfl, BitVec.getLsbD_allOnes,
      decide_eq_true (show j / 8 < 8 by omega), if_pos rfl]

/-! ## Words that show no error (Table 08-4) -/

theorem wordBad_of_ok {m : Mem} {a : Addr} (ok : eccAt m a.toNat = .ok) : wordBad m a = false := by
  rw [wordBad, ok]; rfl

theorem checkWord_of_ok {m : Mem} {a : Addr} (ok : eccAt m a.toNat = .ok) (pl : Place) : checkWord m pl a = m := by
  rw [checkWord, ok]

theorem readByte_checkWord (m : Mem) (pl : Place) (a : Addr) (x : Nat) : readByte (checkWord m pl a) x = readByte m x := by
  rw [checkWord]
  split
  · rfl
  all_goals cases pl <;> rfl

@[simp] theorem readWord_setPres (m : Mem) (a x : Nat) (p : BitVec 2) : readWord (setPres m a p) x = readWord m x := rfl
@[simp] theorem readWord_setEcc (m : Mem) (a x : Nat) (e : Ecc) : readWord (setEcc m a e) x = readWord m x := rfl
@[simp] theorem readWord_setBank (m : Mem) (t : TileId) (b : Bank) (x : Nat) : readWord (setBank m t b) x = readWord m x := rfl

theorem presAt_putWord (m : Mem) (a : Addr) (v : W64) (x : Nat) : presAt (putWord m a v) x = presAt m x := rfl
theorem bankAt_putWord (m : Mem) (a : Addr) (v : W64) (t : TileId) : bankAt (putWord m a v) t = bankAt m t := rfl
theorem bankAt_setPres (m : Mem) (a : Nat) (p : BitVec 2) (t : TileId) : bankAt (setPres m a p) t = bankAt m t := rfl

theorem presAt_setPres_same (m : Mem) (a : Nat) (p : BitVec 2) : presAt (setPres m a p) a = p := by
  rw [presAt_setPres, if_pos rfl]

theorem eccAt_setEcc (m : Mem) (a x : Nat) (e : Ecc) : eccAt (setEcc m a e) x = if a / 8 = x / 8 then e else eccAt m x :=
  mget_mset ..

/-- A word written leaves the bytes outside it. -/
theorem sameOutside_putWord (m : Mem) (a : Addr) (v : W64) : SameOutside m (putWord m a v) (a.toNat / 8 * 8) 8 :=
  fun x h => readByte_writeWord_outside m _ x v h

theorem readWord_putWord (m : Mem) (a : Addr) (v : W64) : readWord (putWord m a v) (a.toNat / 8 * 8) = v :=
  readWord_writeWord ..

/-! ## How a bank comes to serve a request (R299) -/

theorem serveBank_accepts {s : State} {b : TileId} {f : Flit} (up : bankUp s b = true) {kind : Flit → Bool}
    (head : takeHead s.weave b false 1 isBankRequest kind = some f) (accepts : bankAccepts s b f = true)
    (serve : State → Flit → Host.Outcome State Fault Refusal) :
    serveBank s b kind serve = serve (taken s b false f) f := by
  rw [serveBank, up, head]
  simp only [Bool.not_true, Bool.false_eq_true, if_false, accepts, if_true]

theorem serveBank_waits {s : State} {b : TileId} {f : Flit} (up : bankUp s b = true) {kind : Flit → Bool}
    (head : takeHead s.weave b false 1 isBankRequest kind = some f) (busy : bankAccepts s b f = false)
    (serve : State → Flit → Host.Outcome State Fault Refusal) : serveBank s b kind serve = .next s := by
  rw [serveBank, up, head]
  simp only [Bool.not_true, Bool.false_eq_true, if_false, busy]

/-! ## Reports change no presence state and no started graph (R659, R660) -/

theorem readForReport_marks (s : State) (c : BitVec 14) : MarksOnly s.mem (readForReport s c).mem := by
  have step (m : Mem) (i : Nat) : MarksOnly m (readDescriptor m c i) := readDescriptor_shape m c i
  exact (step _ 0).trans ((step _ 1).trans ((step _ 2).trans (step _ 3)))

theorem readDlOffset_stw (s : State) (c : BitVec 14) : (readDlOffset s c).1.stw = s.stw := by
  rw [readDlOffset]; split <;> rfl

/-- A report counts itself in the node's serial at most. -/
theorem contextReport_stw (s : State) (c : BitVec 14) (code : BitVec 8) (access : BitVec 4) (info : BitVec 48)
    (subject : W64) :
    ∃ n, (contextReport s c code access info subject).stw = { s.stw with nodeSerial := n } := by
  rw [contextReport]
  split
  · exact ⟨_, rfl⟩
  · dsimp only
    split
    · exact ⟨s.stw.nodeSerial, produceAll_stw ..⟩
    · rw [nodeReport]
      split
      · exact ⟨_, produceAll_stw ..⟩
      · exact ⟨_, rfl⟩

theorem serialWrite_congr {s t : State} (started : t.stw.started = s.stw.started) (image : t.stw.image = s.stw.image)
    (a : Addr) (mask : BitVec 8) : serialWrite t a mask = serialWrite s a mask := by
  have limit : ctxLimit t = ctxLimit s := by rw [ctxLimit, ctxLimit, started, image]
  simp only [serialWrite, limit, started]

theorem disturbSerial_of_none {s : State} {a : Addr} {mask : BitVec 8} (h : serialWrite s a mask = none) :
    disturbSerial s a mask = s := by
  rw [disturbSerial, h]

end Sys2Proof.Machine
end

/-! # What banks, keep memory and the flash window answer, store and leave (chapter 8) -/

section
namespace Sys2Proof.Machine

open Sys2Proof

theorem exec_bankRead (b s) : exec (.bankRead b) s = execBankRead b s := rfl
theorem exec_bankWrite (b s) : exec (.bankWrite b) s = execBankWrite b s := rfl
theorem exec_bankIread (b s) : exec (.bankIread b) s = execBankIread b s := rfl
theorem exec_bankIwrite (b s) : exec (.bankIwrite b) s = execBankIwrite b s := rfl
theorem exec_bankIclear (b s) : exec (.bankIclear b) s = execBankIclear b s := rfl
theorem exec_deferredAnswer (b s) : exec (.deferredAnswer b) s = execDeferredAnswer b s := rfl
theorem exec_retryReceive (c s) : exec (.retryReceive c) s = execRetryReceive c s := rfl
theorem exec_bankScrub (b s) : exec (.bankScrub b) s = execBankScrub b s := rfl
theorem exec_spillSlotAccess (b s) : exec (.spillSlotAccess b) s = execSpillSlotAccess b s := rfl
theorem exec_keepAccess (s) : exec .keepAccess s = execKeepAccess s := rfl
theorem exec_flashWindowRead (s) : exec .flashWindowRead s = execFlashWindowRead s := rfl

/-! ## Structure accesses (Table 08-3, R302 to R305) -/

/-- An I-read of a word that shows no error. -/
theorem bankIread_of_ok {s : State} {b : TileId} {f : Flit} {q : IReq} (msg : f.msg = .iread q)
    (ok : eccAt s.mem q.addr.toNat = .ok) (plain : q.elem = none) :
    (presAt s.mem q.addr.toNat = presFull ∨ presAt s.mem q.addr.toNat = presPlain →
      bankIread s b f = placeSend s (.bank b) f.pri (.token (tokenTo q.tag (wordAt s.mem q.addr) q.dl q.fl 0))) ∧
    (¬ (presAt s.mem q.addr.toNat = presFull ∨ presAt s.mem q.addr.toNat = presPlain) →
      (bankAt s.mem b).deferred.length + (bankAt s.mem b).answering.length < 1024 →
      ∃ n, bankIread s b f = { s with mem := setPres (setBank s.mem b { bankAt s.mem b with
        deferred := (bankAt s.mem b).deferred ++ [⟨q, f.pri, false⟩], high := n }) q.addr.toNat presDeferred }) ∧
    (¬ (presAt s.mem q.addr.toNat = presFull ∨ presAt s.mem q.addr.toNat = presPlain) →
      ¬ (bankAt s.mem b).deferred.length + (bankAt s.mem b).answering.length < 1024 →
      bankIread s b f = placeSend { s with mem := setBank s.mem b { bankAt s.mem b with
        retries := satAdd (bankAt s.mem b).retries 1 } } (.bank b) 3 (.retry q)) := by
  let n := (bankAt s.mem b).deferred.length + (bankAt s.mem b).answering.length + 1
  refine ⟨fun held => ?_, fun absent room => ⟨if (bankAt s.mem b).high.toNat < n then BitVec.ofNat 11 n else
    (bankAt s.mem b).high, ?_⟩, fun absent full => ?_⟩
  · simp only [bankIread, msg, wordBad_of_ok ok, checkWord_of_ok ok, Bool.false_eq_true, if_false, if_pos held,
      answerIread, plain]
    rfl
  · simp only [bankIread, msg, wordBad_of_ok ok, checkWord_of_ok ok, Bool.false_eq_true, if_false, if_neg absent,
      if_pos room, plain]
    rfl
  · simp only [bankIread, msg, wordBad_of_ok ok, checkWord_of_ok ok, Bool.false_eq_true, if_false, if_neg absent,
      if_neg full]

theorem not_held_of_absent {p : BitVec 2} (h : p = presEmpty ∨ p = presDeferred) : ¬ (p = presFull ∨ p = presPlain) := by
  rcases h with rfl | rfl <;> decide

theorem bankIwrite_of_full {s : State} {b : TileId} {f : Flit} {a : Addr} {v tag0 : W64}
    (msg : f.msg = .iwrite a v none tag0) (ok : eccAt s.mem a.toNat = .ok) (full : presAt s.mem a.toNat = presFull) :
    bankIwrite s b f = firingReport s tag0 fDouble 0x4 (wordAddr a) := by
  simp only [bankIwrite, msg, wordBad_of_ok ok, checkWord_of_ok ok, Bool.false_eq_true, if_false, full, if_true]

/-- Memory after an I-write of a word that was not FULL. -/
def istored (m : Mem) (b : TileId) (a : Addr) (v : W64) : Mem :=
  let m2 := setPres (putWord m a v) a.toNat (if presAt m a.toNat = presPlain then presPlain else presFull)
  if presAt m a.toNat = presDeferred then setBank m2 b (beginAnswers (bankAt m b) (wordAddr a) v) else m2

theorem bankIwrite_of_not_full {s : State} {b : TileId} {f : Flit} {a : Addr} {v tag0 : W64}
    (msg : f.msg = .iwrite a v none tag0) (ok : eccAt s.mem a.toNat = .ok) (absent : presAt s.mem a.toNat ≠ presFull) :
    bankIwrite s b f = { s with mem := istored s.mem b a v } := by
  simp only [bankIwrite, msg, wordBad_of_ok ok, checkWord_of_ok ok, Bool.false_eq_true, if_false, absent, istored]
  rfl

theorem istored_spec (m : Mem) (b : TileId) (a : Addr) (v : W64) :
    readWord (istored m b a v) (a.toNat / 8 * 8) = v ∧ SameOutside m (istored m b a v) (a.toNat / 8 * 8) 8 ∧
    presAt (istored m b a v) a.toNat = (if presAt m a.toNat = presPlain then presPlain else presFull) ∧
    (presAt m a.toNat = presDeferred → bankAt (istored m b a v) b = beginAnswers (bankAt m b) (wordAddr a) v) := by
  rw [istored]
  refine ⟨?_, ?_, ?_, fun chain => ?_⟩
  · split <;> exact readWord_putWord ..
  · split <;> exact fun x h => sameOutside_putWord m a v x h
  · split <;> exact presAt_setPres_same ..
  · rw [if_pos chain, bankAt_setBank_same]

/-- An I-write or a clear, where no page is in use and no serial is touched, is served as the bank serves it. -/
theorem pageWriteBad_of_free {s : State} {a : Addr} (free : pageUseAt s.locks a = none) (st : Bool) :
    pageWriteBad s a st = none := by
  rw [pageWriteBad, free]

theorem bankIclear_of_ok {s : State} {b : TileId} {f : Flit} {a : Addr} {tag0 : W64} (msg : f.msg = .iclear a tag0)
    (ok : eccAt s.mem a.toNat = .ok) :
    bankIclear s b f = if presAt s.mem a.toNat = presFull ∨ presAt s.mem a.toNat = presPlain then
      { s with mem := setPres (putWord s.mem a 0) a.toNat presEmpty } else s := by
  simp only [bankIclear, msg, wordBad_of_ok ok, checkWord_of_ok ok, Bool.false_eq_true, if_false]

theorem exec_bankIread_serves {s : State} {b : TileId} {f : Flit} (up : bankUp s b = true)
    (head : takeHead s.weave b false 1 isBankRequest isIread = some f) (accepts : bankAccepts s b f = true) :
    exec (.bankIread b) s = .next (bankIread (taken s b false f) b f) :=
  (exec_bankIread ..).trans (serveBank_accepts up head accepts _)

theorem exec_bankIwrite_serves {s : State} {b : TileId} {f : Flit} {a : Addr} {v tag0 : W64} {e : Option Elem}
    (up : bankUp s b = true) (head : takeHead s.weave b false 1 isBankRequest isIwrite = some f)
    (accepts : bankAccepts s b f = true) (msg : f.msg = .iwrite a v e tag0) (free : pageUseAt s.locks a = none) :
    exec (.bankIwrite b) s = .next (disturbSerial (bankIwrite (taken s b false f) b f) a 0xFF) := by
  rw [exec_bankIwrite, execBankIwrite, serveBank_accepts up head accepts]
  simp only [msg]
  rw [pageWriteBad_of_free (s := taken s b false f) free]

theorem exec_bankIclear_serves {s : State} {b : TileId} {f : Flit} {a : Addr} {tag0 : W64}
    (up : bankUp s b = true) (head : takeHead s.weave b false 1 isBankRequest isIclear = some f)
    (accepts : bankAccepts s b f = true) (msg : f.msg = .iclear a tag0) (free : pageUseAt s.locks a = none) :
    exec (.bankIclear b) s = .next (disturbSerial (bankIclear (taken s b false f) b f) a 0xFF) := by
  rw [exec_bankIclear, execBankIclear, serveBank_accepts up head accepts]
  simp only [msg]
  rw [pageWriteBad_of_free (s := taken s b false f) free]

theorem disturbSerial_mem {s : State} {a : Addr} {mask : BitVec 8} (h : serialWrite s a mask = none) (m : Mem) :
    disturbSerial { s with mem := m } a mask = { s with mem := m } :=
  disturbSerial_of_none h

/-- A report leaves the started graph, so that R136 forbids what it forbade. -/
theorem serialWrite_firingReport (s : State) (tag0 : W64) (code : BitVec 8) (access : BitVec 4) (info : BitVec 48)
    (a : Addr) (mask : BitVec 8) :
    serialWrite (firingReport s tag0 code access info) a mask = serialWrite s a mask := by
  obtain ⟨n, counted⟩ := contextReport_stw s (tagContext tag0) code access info tag0
  exact serialWrite_congr (by rw [firingReport, counted]) (by rw [firingReport, counted]) a mask

/-! ## Answers, retries and the scrubber (R304, R305, R309) -/

theorem exec_deferredAnswer_answers {s : State} {b : TileId} {d : Deferred} {v : W64} {rest : List (Deferred × W64)}
    (up : bankUp s b = true) (chain : (bankAt s.mem b).answering = (d, v) :: rest) :
    exec (.deferredAnswer b) s = if !bankStuck s b && portRoom s b false 0 then
      .next { (placeSend { s with mem := setBank s.mem b { bankAt s.mem b with answering := rest } } (.bank b) d.pri
        (.token (tokenTo d.req.tag v d.req.dl d.req.fl (if d.late then 0x002 else 0)))) with
        time := { s.time with progress := true } }
    else .next s := by
  rw [exec_deferredAnswer, execDeferredAnswer]
  simp only [up, Bool.not_true, Bool.false_eq_true, if_false, chain]
  rfl

section Retry

variable {s s1 : State} {c : CellId} {r : IReq} (up : cellUp s c = true) (waits : waitingRetry s c = some (r, s1))
include up waits

theorem exec_retryReceive_again (retries : r.retry ≠ 4095) :
    exec (.retryReceive c) s = if chanRoom s.weave (chanKey (tileOf c) 4 1 0) then
      .next (drain (offerEnters s1 (tileOf c) false ⟨(slotOf c).toNat, some (tagContext r.tag0),
        mkFlit s1 (tileOf c) 0 .strand (.iread { r with retry := r.retry + 1 })⟩) (tileOf c) false)
    else .next s := by
  rw [exec_retryReceive, execRetryReceive]
  simp only [up, waits, Bool.not_true, Bool.false_eq_true, if_false, retries]

theorem exec_retryReceive_giveUp (last : r.retry = 4095) (plain : r.elem = none) :
    exec (.retryReceive c) s = .next (drain (firingReport
      (produce s1 (tileOf c) false ⟨(slotOf c).toNat, some (tagContext r.tag0),
        mkFlit s1 (tileOf c) 0 .strand (.token (tokenTo r.tag 0x11 r.dl r.fl flagPoison))⟩) r.tag0 0x11 0x1 r.addr)
      (tileOf c) false) := by
  rw [exec_retryReceive, execRetryReceive]
  simp only [up, waits, Bool.not_true, Bool.false_eq_true, if_false, last, if_true, giveUp, plain]
  rfl

end Retry

/-- What the scrubber's read of a word makes of its marks and its bank's counts (R308, R309). -/
theorem checkWord_spec (m : Mem) (b : TileId) (a : Addr) :
    SameBytes m (checkWord m (.bank b) a) ∧ (checkWord m (.bank b) a).pres = m.pres ∧
    (bankAt (checkWord m (.bank b) a) b).scrub = (bankAt m b).scrub ∧
    (eccAt m a.toNat = .ok → (checkWord m (.bank b) a).ecc = m.ecc) ∧
    (∀ i, eccAt m a.toNat = .single i → eccAt (checkWord m (.bank b) a) a.toNat = .ok ∧
      (bankAt (checkWord m (.bank b) a) b).corrected = satAdd (bankAt m b).corrected 1) ∧
    (eccAt m a.toNat = .double → (checkWord m (.bank b) a).ecc = m.ecc ∧
      (bankAt (checkWord m (.bank b) a) b).uncorrect = satAdd (bankAt m b).uncorrect 1) := by
  refine ⟨fun x => readByte_checkWord m _ a x, ?_⟩
  rw [checkWord]
  generalize mark : eccAt m a.toNat = e
  cases e with
  | ok => simp
  | double => simp [countDouble, setBank, bankAt]
  | single i =>
    have fixed : eccAt (countCorrected (setEcc m a.toNat .ok) (.bank b)) a.toNat = .ok := by
      show eccAt (setEcc m a.toNat .ok) a.toNat = .ok
      rw [eccAt_setEcc, if_pos rfl]
    have counted : bankAt (countCorrected (setEcc m a.toNat .ok) (.bank b)) b =
        { bankAt m b with corrected := satAdd (bankAt m b).corrected 1 } := bankAt_setBank_same ..
    simp [fixed, counted]
    rfl

theorem exec_bankScrub_reads {s : State} {b : TileId} (up : bankUp s b = true) :
    exec (.bankScrub b) s = .next { s with
      mem := checkWord (setBank s.mem b { bankAt s.mem b with scrub := (bankAt s.mem b).scrub + 1 }) (.bank b)
        (BitVec.ofNat 48 (b.toNat * 0x80000 + (bankAt s.mem b).scrub.toNat * 8)) } := by
  rw [exec_bankScrub, execBankScrub]
  simp only [up, Bool.not_true, Bool.false_eq_true, if_false]

/-! ## Spill slots and records (Tables 07-9 and 08-5) -/

theorem exec_spillSlotAccess_serves {s : State} {b : TileId} {f : Flit} (up : bankUp s b = true)
    (accepts : bankAccepts s b f = true) (head : takeHead s.weave b false 1 isBankRequest isSlot = some f) :
    exec (.spillSlotAccess b) s = .next (bankSlot (taken s b false f) b f) :=
  (exec_spillSlotAccess ..).trans (serveBank_accepts up head accepts _)

theorem readByte_writePlain (m : Mem) (a : Nat) (bs : List Byte) (x : Nat) :
    readByte (writePlain m a bs) x = readByte (writeBytes m a bs) x := by
  rw [writePlain]
  generalize List.range (bs.length / 8) = is
  generalize writeBytes m a bs = u
  induction is generalizing u with
  | nil => rfl
  | cons i r ih => rw [List.foldl_cons, ih]; rfl

theorem sameOutside_writePlain (m : Mem) (a : Nat) (bs : List Byte) : SameOutside m (writePlain m a bs) a bs.length :=
  fun x h => by rw [readByte_writePlain, readByte_writeBytes_outside m a x bs h]

theorem readByte_writePlain_at (m : Mem) (a i : Nat) (bs : List Byte) (h : i < bs.length) :
    readByte (writePlain m a bs) (a + i) = bs[i] := by rw [readByte_writePlain, readByte_writeBytes_at m a i bs h]

theorem readBytes_congr {m m' : Mem} (h : SameBytes m' m) (a n : Nat) : readBytes m a n = readBytes m' a n := by
  induction n generalizing a with
  | zero => rfl
  | succ n ih => rw [readBytes, readBytes, h a, ih]

/-- The first bytes of what was written read as they were. -/
theorem readBytes_writeBytes_prefix (m : Mem) (a : Nat) (bs cs : List Byte) :
    readBytes (writeBytes m a (bs ++ cs)) a bs.length = bs := by
  have key : ∀ (n k : Nat), k + n = bs.length → readBytes (writeBytes m a (bs ++ cs)) (a + k) n = bs.drop k := by
    intro n
    induction n with
    | zero => intro k hk; rw [List.drop_of_length_le (by omega)]; rfl
    | succ n ih =>
      intro k hk
      have hlt : k < bs.length := by omega
      rw [readBytes, readByte_writeBytes_at m a k _ (by simp; omega), List.getElem_append_left hlt, Nat.add_assoc,
        ih (k + 1) (by omega), ← List.drop_eq_getElem_cons hlt]
  simpa using key bs.length 0 (by omega)

theorem readWord_writePlain (m : Mem) (a : Nat) (v : W64) : readWord (writePlain m a (leBytes 8 v.toNat)) a = v := by
  have same : SameBytes (writeWord m a v) (writePlain m a (leBytes 8 v.toNat)) := fun x => readByte_writePlain m a _ x
  rw [readWord, readBytes_congr same, ← readWord, readWord_writeWord]

theorem tokenBytes_length (t : Token) : (tokenBytes t).length = 20 := by simp [tokenBytes]

theorem slotBytes_length (t : Token) (cause : BitVec 8) (beat : BitVec 48) : (slotBytes t cause beat).length = 32 := by
  simp [slotBytes, tokenBytes_length]

theorem readByte_readSlot (m : Mem) (b : TileId) (a : Addr) : SameBytes m (readSlot m b a) := fun x => by
  simp only [readSlot, List.range_succ, List.range_zero, List.nil_append, List.cons_append, List.foldl_cons,
    List.foldl_nil, readByte_checkWord]

theorem readSlot_of_ok {m : Mem} (ok : ∀ x, eccAt m x = .ok) (b : TileId) (a : Addr) : readSlot m b a = m := by
  simp only [readSlot, List.range_succ, List.range_zero, List.nil_append, List.cons_append, List.foldl_cons,
    List.foldl_nil, checkWord_of_ok (ok _)]

theorem slotWrite_spec (m : Mem) (a : Nat) (tok : Token) (cause : BitVec 8) (beat : BitVec 48) :
    readBytes (writePlain m a (slotBytes tok cause beat)) a 20 = tokenBytes tok ∧
    readByte (writePlain m a (slotBytes tok cause beat)) (a + 20) = cause ∧
    SameOutside m (writePlain m a (slotBytes tok cause beat)) a 32 := by
  have outside := sameOutside_writePlain m a (slotBytes tok cause beat)
  rw [slotBytes_length] at outside
  have same : SameBytes (writeBytes m a (slotBytes tok cause beat)) (writePlain m a (slotBytes tok cause beat)) :=
    fun x => readByte_writePlain m a _ x
  refine ⟨?_, ?_, outside⟩
  · rw [readBytes_congr same, ← tokenBytes_length tok, slotBytes, List.append_assoc, List.append_assoc]
    exact readBytes_writeBytes_prefix ..
  · rw [readByte_writePlain_at m a 20 _ (by rw [slotBytes_length]; decide)]
    simp [slotBytes, tokenBytes_length, List.getElem_append]

section Slots

variable {s : State} {b : TileId} {f : Flit}

theorem bankSlot_write {a : Addr} {tok : Token} {cause : BitVec 8} (msg : f.msg = .slotWrite a tok cause) :
    bankSlot s b f = { s with mem := writePlain s.mem a.toNat (slotBytes tok cause s.time.beat) } := by
  rw [bankSlot, msg]

theorem bankSlot_link {a : Addr} {next : BitVec 13} (msg : f.msg = .slotLink a next) :
    bankSlot s b f = { s with mem := writeBytes s.mem (a.toNat + 0x1C) (leBytes 4 (next.toNat + 2 ^ 31)) } := by
  rw [bankSlot, msg]

theorem slotLink_spec (m : Mem) (a : Nat) (next : BitVec 13) :
    readBytes (writeBytes m (a + 0x1C) (leBytes 4 (next.toNat + 2 ^ 31))) (a + 0x1C) 4 = leBytes 4 (next.toNat + 2 ^ 31) ∧
    SameOutside m (writeBytes m (a + 0x1C) (leBytes 4 (next.toNat + 2 ^ 31))) (a + 0x1C) 4 := by
  refine ⟨?_, fun x h => readByte_writeBytes_outside m _ x _ (by rwa [leBytes_length])⟩
  have reads := readBytes_writeBytes m (a + 0x1C) (leBytes 4 (next.toNat + 2 ^ 31))
  rwa [leBytes_length] at reads

/-- Which tag words of a slot were read in error (R323). -/
def slotBad (s : State) (a : Addr) : BitVec 2 :=
  if eccAt s.mem (a.toNat + 8 * 1) = .double ∨ eccAt s.mem (a.toNat + 8 * 2) = .double then 2
  else if eccAt s.mem (a.toNat + 8 * 0) = .double then 1 else 0

/-- A single-bit error of a slot lay in its token (R308). -/
def slotFixed (s : State) (a : Addr) : Bool :=
  (eccAt s.mem (a.toNat + 8 * 0)).singleBelow 64 || (eccAt s.mem (a.toNat + 8 * 1)).singleBelow 64 ||
    (eccAt s.mem (a.toNat + 8 * 2)).singleBelow 32

theorem bankSlot_read {c : CellId} {a : Addr} (msg : f.msg = .slotRead c a) :
    bankSlot s b f = placeSend { s with mem := readSlot s.mem b a } (.bank b) 3 (.slotReturn c a
      (if slotFixed s a then { tokenOfBytes (readBytes s.mem a.toNat 20) with
        flags := (tokenOfBytes (readBytes s.mem a.toNat 20)).flags ||| 0x080 }
      else tokenOfBytes (readBytes s.mem a.toNat 20)) (slotBad s a)) := by
  rw [bankSlot, msg]
  rfl

theorem bankSlot_recordRead {c : CellId} {a : Addr} {i : Nat} (msg : f.msg = .recordRead c a i)
    (ok : eccAt s.mem a.toNat = .ok) :
    bankSlot s b f = placeSend s (.bank b) 3 (.recordReturn c i (some (wordAt s.mem a))) := by
  simp only [bankSlot, msg, checkWord_of_ok ok, wordBad_of_ok ok, Bool.false_eq_true, if_false]

theorem bankSlot_recordWrite {c : CellId} {a : Addr} {v : W64} (msg : f.msg = .recordWrite c a v) :
    (bankSlot s b f).mem = writePlain s.mem a.toNat (leBytes 8 v.toNat) ∧ (bankSlot s b f).weave = s.weave ∧
    (∀ page left id, (engineAt s c).phase = .recording page left id →
      (engineAt (bankSlot s b f) c).phase = .recording page (left - 1) id) := by
  have same : engineAt { s with mem := writePlain s.mem a.toNat (leBytes 8 v.toNat) } c = engineAt s c := rfl
  rw [bankSlot, msg]
  dsimp only
  rw [same]
  generalize (engineAt s c).phase = ph
  cases ph with
  | recording page left id =>
    refine ⟨rfl, rfl, fun page' left' id' h => ?_⟩
    cases h
    rw [engineAt_setEngine_same]
  | _ => exact ⟨rfl, rfl, fun _ _ _ h => nomatch h⟩

end Slots

theorem sameOutside_recordWrite (m : Mem) (a : Nat) (v : W64) :
    SameOutside m (writePlain m a (leBytes 8 v.toNat)) a 8 := by
  have outside := sameOutside_writePlain m a (leBytes 8 v.toNat)
  rwa [leBytes_length] at outside

/-! ## Keep memory (R227, R310) -/

theorem exec_keepAccess_serves {s : State} {f : Flit} (up : tileUp s 63 = true)
    (head : takeHead s.weave 63 true 1 (keepTurn s) isKeep = some f) :
    exec .keepAccess s = .next (keepServe (taken s 63 true f) f) := by
  rw [exec_keepAccess, execKeepAccess]
  simp only [up, Bool.not_true, Bool.false_eq_true, if_false, head]

theorem loadValue_word (w : W64) {a : Addr} (aligned : a.toNat % 8 = 0) (sx : Bool) : loadValue w a 3 sx = w := by
  simp [loadValue, aligned]

section Keep

variable {s : State} {f : Flit} {a : Addr} {tag0 : W64} (ok : eccAt s.mem a.toNat = .ok)
include ok

theorem keepWord_of_ok : keepWord s.mem a = .ok (wordAt s.mem a) := by
  rw [keepWord, wordBad_of_ok ok]; rfl

theorem keepServe_load {l : LoadReq} (size : l.size = 3) (aligned : a.toNat % 8 = 0)
    (msg : f.msg = .read a (.load l) tag0) :
    keepServe s f = placeSend s .keep f.pri (.token (tokenTo l.tag (wordAt s.mem a) l.dl l.fl 0)) := by
  simp only [keepServe, msg, checkWord_of_ok ok, keepWord_of_ok ok, answerRead, size, loadValue_word _ aligned]
  rfl

theorem keepServe_iread {q : IReq} (here : q.addr = a) (plain : q.elem = none) (msg : f.msg = .iread q) :
    keepServe s f = placeSend s .keep f.pri (.token (tokenTo q.tag (wordAt s.mem a) q.dl q.fl 0)) := by
  simp only [keepServe, msg, here, checkWord_of_ok ok, keepWord_of_ok ok, answerIread, plain]
  rfl

theorem keepWrite_of_ok (mask : BitVec 8) (v : W64) (wf : WriteFor) :
    keepWrite s a mask v wf tag0 =
      { s with mem := setEcc (putWord s.mem a (mergeWord (wordAt s.mem a) v mask)) a.toNat .ok } := by
  simp only [keepWrite, wordBad_of_ok ok, Bool.false_and, Bool.false_eq_true, if_false, checkWord_of_ok ok, ite_self]

end Keep

/-! ## The flash window (R69, R227, R312, R434) -/

theorem exec_flashWindowRead_serves {s : State} {f : Flit} (up : tileUp s 63 = true)
    (head : takeHead s.weave 63 true 1 (if flashOn s.straps then isFlash else keepTurn s) isFlash = some f) :
    exec .flashWindowRead s = if s.stw.boot = .reading ∨ s.jtag.ir = 0 then .next s
      else .next (flashServe (taken s 63 true f) f) := by
  rw [exec_flashWindowRead, execFlashWindowRead]
  simp only [up, Bool.not_true, Bool.false_eq_true, if_false, head, Bool.or_eq_true, beq_iff_eq]

theorem exec_flashWindowRead_rom {s : State} (up : tileUp s 63 = true)
    (none : takeHead s.weave 63 true 1 (if flashOn s.straps then isFlash else keepTurn s) isFlash = none)
    (opened : romOpen s = true) (idle : s.stw.boot ≠ .reading) (quiet : s.jtag.ir ≠ 0) :
    exec .flashWindowRead s = .next (romRead s) := by
  rw [exec_flashWindowRead, execFlashWindowRead]
  simp only [up, Bool.not_true, Bool.false_eq_true, if_false, none, opened, Bool.or_eq_true, beq_iff_eq, idle, quiet,
    or_self]

/-- `t` is `s` but for what has been sent out and the free values drawn. -/
def OnlySends (s t : State) : Prop := t = { s with out := t.out, freeCounter := t.freeCounter }

theorem OnlySends.trans {a b c : State} (h : OnlySends a b) (g : OnlySends b c) : OnlySends a c := by
  unfold OnlySends at *; rw [g, h]

theorem onlySends_emit (s : State) (o : Out) : OnlySends s (emit s o) := rfl

theorem onlySends_foldl {α : Type} (f : α → Out) (xs : List α) (s : State) :
    OnlySends s (xs.foldl (fun s x => emit s (f x)) s) := by
  induction xs generalizing s with
  | nil => rfl
  | cons x r ih => exact (onlySends_emit s (f x)).trans (ih _)

theorem onlySends_flashCommand (s : State) (off len : Nat) : OnlySends s (flashCommand s off len) := by
  rw [flashCommand]; split <;> rfl

theorem onlySends_romRead (s : State) : OnlySends s (romRead s) := by
  have drawn : OnlySends s { s with freeCounter := s.freeCounter + 2 } := rfl
  exact drawn.trans ((onlySends_flashCommand ..).trans (onlySends_foldl _ _ _))

theorem flashServe_load {s : State} {f : Flit} {a : Addr} {tag0 : W64} {l : LoadReq} (size : l.size = 3)
    (aligned : a.toNat % 8 = 0) (msg : f.msg = .read a (.load l) tag0) :
    flashServe s f = placeSend (windowCommand s a) (.extra 63) f.pri
      (.token (tokenTo l.tag (flashWord s a) l.dl l.fl 0)) := by
  simp only [flashServe, msg, answerRead, size, loadValue_word _ aligned]
  rfl

/-- The commands that a load of a window word sends to the flash. -/
def windowCommands (s : State) (a : Addr) : List Out :=
  if flashOn s.straps then [.flashRead (flashMode s.straps).1 (flashMode s.straps).2.1 (flashMode s.straps).2.2
    (BitVec.ofNat 24 (a.toNat / 8 * 8 - 0x20000000)) 8] else []

theorem window_offset (a : Nat) : (a - 0x20000000) / 8 * 8 = a / 8 * 8 - 0x20000000 := by omega

theorem windowCommand_eq (s : State) (a : Addr) : windowCommand s a = { s with out := windowCommands s a ++ s.out } := by
  rw [windowCommand, flashCommand, windowCommands, window_offset]
  split <;> rfl

theorem word_byte (f : Nat → Byte) {i : Nat} (hi : i < 8) :
    (BitVec.ofNat 64 (leNat ((List.range 8).map f))).extractLsb' (8 * i) 8 = f i := by
  ext k hk
  rw [BitVec.getElem_extractLsb', word_getLsbD _ (by omega), show (8 * i + k) / 8 = i by omega,
    show (8 * i + k) % 8 = k by omega, List.getD_eq_getElem _ _ (by simpa using hi), List.getElem_map, List.getElem_range,
    BitVec.getLsbD_eq_getElem]

theorem flashWord_byte (s : State) (a : Addr) {i : Nat} (hi : i < 8) :
    (flashWord s a).extractLsb' (8 * i) 8 = flashByte s (a.toNat / 8 * 8 - 0x20000000 + i) := by
  rw [flashWord, window_offset]
  exact word_byte _ hi

theorem flashWord_off {s : State} (off : flashOn s.straps = false) (a : Addr) : flashWord s a = BitVec.allOnes 64 := by
  have ones (o : Nat) : flashByte s o = 0xFF := by simp [flashByte, off]
  simp only [flashWord, ones]
  decide

/-! ## A write that R136 forbids, above the contexts that there are -/

/-- A full store to FAULT_SERIAL of a context 16404. -/
def strayStore : Flit :=
  { vn := 1, vc := 0, pri := 0, age := 0, dest := 0, extra := false, src := 0, origin := .strand, waits := 0, home := 0,
    admitted := 0, msg := .write 0x100518 0xFF 7 .store 0 }

/-- A started graph whose context limit exceeds the 2^14 contexts, with that store at bank 0. -/
def strayed : State :=
  { State.reset with
    pwr := { State.reset.pwr with pd := 4, clkok := true }
    stw := { State.reset.stw with started := true, image := some ⟨0, 17000, 0, 0, 0, 0, 0, []⟩ }
    weave := setOut State.reset.weave (outKey 0 false 1) [strayStore] }

/-- `strayed` where byte 0x518, of context 20, holds `x`. -/
def straying (x : Byte) : State := { strayed with mem := writeByte strayed.mem 0x518 x }

theorem straying_up (x : Byte) : bankUp (straying x) 0 = true := (by decide : bankUp strayed 0 = true)

theorem straying_head (x : Byte) : takeHead (straying x).weave 0 false 1 isBankRequest isWrite = some strayStore :=
  (by decide : takeHead strayed.weave 0 false 1 isBankRequest isWrite = some strayStore)

theorem straying_accepts (x : Byte) : bankAccepts (straying x) 0 strayStore = true := by
  rw [bankAccepts, show bankStuck (straying x) 0 = false from (by decide : bankStuck strayed 0 = false)]
  rfl

theorem straying_free (x : Byte) : pageUseAt (straying x).locks 0x100518 = none :=
  (by decide : pageUseAt strayed.locks 0x100518 = none)

theorem straying_serial (x : Byte) : serialWrite (straying x) 0x100518 0xFF = some 20 :=
  (by decide : serialWrite strayed 0x100518 0xFF = some 20)

theorem exec_bankWrite_serves {s : State} {b : TileId} {f : Flit} {a : Addr} {mask : BitVec 8} {v tag0 : W64}
    {wf : WriteFor} (up : bankUp s b = true) (head : takeHead s.weave b false 1 isBankRequest isWrite = some f)
    (accepts : bankAccepts s b f = true) (msg : f.msg = .write a mask v wf tag0) (free : pageUseAt s.locks a = none) :
    exec (.bankWrite b) s = .next (disturbSerial (noteRecord (bankWrite (taken s b false f) b f) a true) a mask) := by
  rw [exec_bankWrite, execBankWrite, serveBank_accepts up head accepts]
  simp only [msg]
  rw [pageWriteBad_of_free (s := taken s b false f) free]

/-- What a forbidden write makes of the first byte of its context's serial: a free value. -/
theorem readByte_disturbSerial {s : State} {a : Addr} {mask : BitVec 8} {c : BitVec 14}
    (h : serialWrite s a mask = some c) :
    readByte (disturbSerial s a mask).mem (descAddr c + 24) = BitVec.ofNat 8 (freeNow s).toNat := by
  rw [disturbSerial, h]
  exact readByte_writeBytes_at s.mem (descAddr c + 24) 0 (leBytes 4 (freeNow s).toNat) (by simp)

theorem straying_disturbs (x : Byte) : ∃ t, exec (.bankWrite 0) (straying x) = .next t ∧
    readByte t.mem 0x518 = BitVec.ofNat 8 (Config.freeValue 0).toNat := by
  have serves := exec_bankWrite_serves (straying_up x) (straying_head x) (straying_accepts x) rfl (straying_free x)
  generalize served : noteRecord (bankWrite (taken (straying x) 0 false strayStore) 0 strayStore) 0x100518 true = u at serves
  have started : u.stw.started = (straying x).stw.started := by rw [← served]; rfl
  have image : u.stw.image = (straying x).stw.image := by rw [← served]; rfl
  have fresh : u.freeCounter = 0 := by rw [← served]; rfl
  refine ⟨_, serves, ?_⟩
  have disturbed := readByte_disturbSerial ((serialWrite_congr started image ..).trans (straying_serial x))
  rwa [freeNow, fresh] at disturbed

end Sys2Proof.Machine

namespace Sys2Proof.Banks

open Sys2Proof Machine

/-- Settles O32: the presence state of the word chooses the case of Table 08-3. -/
theorem bankStructureAccesses : Obligations.BankStructureAccesses := by
  unfold Obligations.BankStructureAccesses
  intro s b f u up accepts
  refine ⟨?_, ?_, ?_⟩
  · intro q head msg plain ok p bk
    obtain ⟨answers, defers, returns⟩ := bankIread_of_ok (s := taken s b false f) (b := b) msg ok plain
    have serves := exec_bankIread_serves up head accepts
    refine ⟨fun held => serves.trans (congrArg _ (answers held)), fun absent room => ?_, fun absent full =>
      serves.trans (congrArg _ (returns (not_held_of_absent absent) (not_lt.mpr full)))⟩
    obtain ⟨n, deferred⟩ := defers (not_held_of_absent absent) room
    refine ⟨_, serves.trans (congrArg _ deferred), rfl, fun _ => rfl, presAt_setPres_same .., ?_⟩
    rw [bankAt_setPres, bankAt_setBank_same]
    exact ⟨rfl, rfl⟩
  · intro a v tag0 head msg ok free serial p w
    have untouched : serialWrite (taken s b false f) a 0xFF = none := serial
    have serves := exec_bankIwrite_serves up head accepts msg free
    refine ⟨fun full => ?_, fun absent => ?_⟩
    · rw [serves, bankIwrite_of_full (s := taken s b false f) msg ok full, disturbSerial_of_none]
      rw [serialWrite_firingReport]
      exact serial
    · obtain ⟨word, outside, pres, chain⟩ := istored_spec s.mem b a v
      rw [bankIwrite_of_not_full (s := taken s b false f) msg ok absent, disturbSerial_mem untouched] at serves
      refine ⟨_, serves, rfl, word, outside, pres, fun deferred => ?_⟩
      have own : bankAt (istored s.mem b a v) b = _ := chain deferred
      exact ⟨congrArg Bank.deferred own, congrArg Bank.answering own⟩
  · intro a tag0 head msg ok free serial p w
    have untouched : serialWrite (taken s b false f) a 0xFF = none := serial
    have serves := exec_bankIclear_serves up head accepts msg free
    rw [bankIclear_of_ok (s := taken s b false f) msg ok] at serves
    refine ⟨fun absent => ?_, fun held => ?_⟩
    · rw [serves, if_neg (not_held_of_absent (p := presAt (taken s b false f).mem a.toNat) absent),
        disturbSerial_of_none untouched]
    · have here : presAt (taken s b false f).mem a.toNat = presFull ∨ presAt (taken s b false f).mem a.toNat = presPlain :=
        held
      rw [if_pos here, disturbSerial_mem untouched] at serves
      exact ⟨_, serves, rfl, readWord_putWord s.mem a 0, fun x h => sameOutside_putWord s.mem a 0 x h,
        presAt_setPres_same (putWord s.mem a 0) a.toNat presEmpty⟩

/-- Settles O33: one lemma for each command, and for the slots what a write puts in place. -/
theorem bankAnswersScrubsAndSlots : Obligations.BankAnswersScrubsAndSlots := by
  unfold Obligations.BankAnswersScrubsAndSlots
  intro s b c f
  refine ⟨fun d v rest up chain => ?_, fun r s1 up waits => ?_, fun up => ?_, fun up accepts head => ?_⟩
  · rw [exec_deferredAnswer_answers up chain]
    refine ⟨fun free room => if_pos (by rw [free, room]; rfl), fun busy => if_neg ?_⟩
    rcases busy with busy | busy <;> rw [busy]
    · exact Bool.false_ne_true
    · rw [Bool.and_false]; exact Bool.false_ne_true
  · intro t
    refine ⟨fun again room => ?_, fun again full => ?_, fun last plain => exec_retryReceive_giveUp up waits last plain⟩
    · rw [exec_retryReceive_again up waits again, if_pos room]
    · rw [exec_retryReceive_again up waits again, if_neg (Bool.eq_false_iff.mp full)]
  · intro x a
    have address : (BitVec.ofNat 48 a).toNat = a := by
      have := b.isLt; have := x.scrub.isLt
      rw [BitVec.toNat_ofNat, Nat.mod_eq_of_lt]
      omega
    obtain ⟨bytes, pres, scrub, ok, single, double⟩ := checkWord_spec (setBank s.mem b { x with scrub := x.scrub + 1 }) b
      (BitVec.ofNat 48 a)
    rw [bankAt_setBank_same] at scrub single double
    rw [address] at ok single double
    exact ⟨_, exec_bankScrub_reads up, rfl, bytes, pres, scrub, ok, single, double⟩
  · intro u
    have serves := exec_spillSlotAccess_serves up accepts head
    refine ⟨fun a tok cause msg => ?_, fun a next msg => ?_, ?_, fun d a i msg ok => ?_, fun d a v msg => ?_⟩
    · obtain ⟨token, code, outside⟩ := slotWrite_spec s.mem a.toNat tok cause s.time.beat
      exact ⟨_, serves.trans (congrArg _ (bankSlot_write msg)), rfl, token, code, outside⟩
    · obtain ⟨link, outside⟩ := slotLink_spec s.mem a.toNat next
      exact ⟨_, serves.trans (congrArg _ (bankSlot_link msg)), rfl, link, outside⟩
    · intro d a msg tok
      have reads := serves.trans (congrArg _ (bankSlot_read msg))
      refine ⟨fun ok => ?_, fun i low ok0 ok1 single => ?_⟩
      · have bad : slotBad (taken s b false f) a = 0 := by simp [slotBad, ok]
        have fixed : slotFixed (taken s b false f) a = false := by simp [slotFixed, ok, Ecc.singleBelow]
        rw [reads, bad, fixed, readSlot_of_ok (m := (taken s b false f).mem) ok]
        rfl
      · have bad : slotBad (taken s b false f) a = 0 := by simp [slotBad, ok0, ok1, single]
        have fixed : slotFixed (taken s b false f) a = decide (i.toNat < 32) := by
          simp [slotFixed, ok0, ok1, single, Ecc.singleBelow]
        rw [bad, fixed] at reads
        refine ⟨_, reads.trans ?_, readByte_readSlot s.mem b a⟩
        simp only [decide_eq_true_eq]
        rfl
    · exact serves.trans (congrArg _ (bankSlot_recordRead msg ok))
    · obtain ⟨mem, weave, left⟩ := bankSlot_recordWrite (s := taken s b false f) (b := b) msg
      refine ⟨_, serves, ?_, ?_, weave, left⟩
      · rw [mem]; exact readWord_writePlain ..
      · rw [mem]; exact sameOutside_recordWrite s.mem a.toNat v

/-- Settles O34: keep memory writes its words as a bank does and answers loads with them; the flash controller answers
loads alone. -/
theorem keepMemoryAndFlash : Obligations.KeepMemoryAndFlash := by
  unfold Obligations.KeepMemoryAndFlash
  intro s f a tag0 u w o up
  refine ⟨fun head ok => ?_, fun head => ?_, fun none opened idle quiet =>
    ⟨_, exec_flashWindowRead_rom up none opened idle quiet, onlySends_romRead s⟩⟩
  · have serves := exec_keepAccess_serves up head
    have stored (mask : BitVec 8) (v : W64) := keepWrite_of_ok (s := taken s 63 true f) (tag0 := tag0) ok mask v
    refine ⟨fun l size aligned msg => ?_, fun q here plain msg => ?_, fun mask v wf msg => ?_, fun v msg => ?_,
      fun msg => ?_⟩
    · exact serves.trans (congrArg _ (keepServe_load (s := taken s 63 true f) ok size aligned msg))
    · exact serves.trans (congrArg _ (keepServe_iread (s := taken s 63 true f) ok here plain msg))
    · rw [keepServe, msg] at serves
      refine ⟨_, serves.trans (congrArg _ (stored mask v wf)), rfl, fun j hj => ?_,
        fun x h => sameOutside_putWord s.mem a _ x h, rfl⟩
      rw [readWord_setEcc, show w = a.toNat / 8 * 8 from rfl, readWord_putWord, mergeWord_getLsbD _ _ _ hj]
      rfl
    · rw [keepServe, msg] at serves
      refine ⟨_, serves.trans (congrArg _ (stored 0xFF v .store)), rfl, ?_,
        fun x h => sameOutside_putWord s.mem a _ x h, rfl⟩
      rw [readWord_setEcc, show w = a.toNat / 8 * 8 from rfl, readWord_putWord, mergeWord_full]
    · rw [serves, keepServe, msg]
  · have serves := exec_flashWindowRead_serves up head
    refine ⟨fun waits => serves.trans (if_pos waits), fun idle quiet => ?_⟩
    rw [if_neg (not_or.mpr ⟨idle, quiet⟩)] at serves
    refine ⟨fun l size aligned msg => ⟨flashWord s a, windowCommands s a, ?_, fun off => ⟨flashWord_off off a, ?_⟩,
      fun on => ⟨?_, fun fits i hi => ?_⟩⟩, fun mask v wf msg => ?_⟩
    · rw [flashServe_load size aligned msg, windowCommand_eq] at serves
      exact serves
    · simp [windowCommands, off]
    · simp only [windowCommands, on, if_true]; rfl
    · rw [flashWord_byte s a hi, flashByte, on, Bool.not_true, if_neg Bool.false_ne_true, if_pos (by omega)]
    · rw [serves, flashServe, msg]

/-- Refutes O31: where a graph's context limit exceeds 2^14 (its field has 15 bits), a store to word 3 of a block beyond
context 16383 disturbs the serial of the context with the block's low 14 bits, outside the word stored to. -/
theorem not_bankPlainReadsAndWrites : ¬ Obligations.BankPlainReadsAndWrites := by
  unfold Obligations.BankPlainReadsAndWrites
  intro h
  have kept (x : Byte) : x = BitVec.ofNat 8 (Config.freeValue 0).toNat := by
    obtain ⟨-, -, -, writes, -⟩ := h (straying x) 0 strayStore 0x100518 0 (straying_up x) rfl
    obtain ⟨t, answers, outside, -⟩ := (writes 0xFF 7 .store (straying_head x) (straying_accepts x) rfl (straying_free x)).2
      (by rw [straying_serial]; exact Option.some_ne_none _)
    obtain ⟨t', answers', free⟩ := straying_disturbs x
    have same : t = t' := by rw [answers] at answers'; exact Host.Outcome.next.inj answers'
    rw [← free, ← same, outside 0x518 (by decide)]
    exact (readByte_writeByte_same ..).symm
  exact absurd ((kept 0).trans (kept 1).symm) (by decide)

end Sys2Proof.Banks
end

/-! # Pages, records, and what comes back to a cell (chapters 5 to 8) -/

section
namespace Sys2Proof.Machine

open Sys2Proof

/-! ## What cells and units send -/

theorem cellSend_enters (s : State) (c : CellId) (m : Msg) : Enters s (cellSend s c m) := produce_enters ..

theorem unitSend_enters (s : State) (q pri : BitVec 2) (m : Msg) : Enters s (unitSend s q pri m) := produce_enters ..

theorem cellSends_enter {α : Type} (c : CellId) (m : α → Msg) (xs : List α) (s : State) :
    Enters s (xs.foldl (fun s x => cellSend s c (m x)) s) := by
  induction xs generalizing s with
  | nil => exact Enters.refl s
  | cons x r ih => exact (cellSend_enters s c (m x)).trans (ih _)

theorem Enters.cellAt {s t : State} (h : Enters s t) (c : CellId) : cellAt t c = cellAt s c := by
  rw [Machine.cellAt, h.cells, Machine.cellAt]

theorem Enters.sameBytes {s t : State} (h : Enters s t) : SameBytes s.mem t.mem := h.mem.readByte

theorem exec_pageRequest (q s) : exec (.pageRequest q) s = execPageRequest q s := rfl
theorem exec_pageRelease (q s) : exec (.pageRelease q) s = execPageRelease q s := rfl
theorem exec_pageGrant (c s) : exec (.pageGrant c) s = execPageGrant c s := rfl
theorem exec_trapTokenSend (c s) : exec (.trapTokenSend c) s = execTrapTokenSend c s := rfl
theorem exec_strandRestore (c s) : exec (.strandRestore c) s = execStrandRestore c s := rfl
theorem exec_spillReturn (c s) : exec (.spillReturn c) s = execSpillReturn c s := rfl
theorem exec_elementAck (c s) : exec (.elementAck c) s = execElementAck c s := rfl
theorem exec_dataReturn (t extra s) : exec (.dataReturn t extra) s = execDataReturn t extra s := rfl

/-! ## The page directory (R325, R741) -/

section Unit

variable {s : State} {q : BitVec 2} {f : Flit} (up : tileUp s (lockTile q) = true)
include up

theorem exec_pageRequest_serves (head : takeHead s.weave (lockTile q) false 1 isPageFlit isPageRequest = some f) :
    exec (.pageRequest q) s = .next (pageRequest (taken s (lockTile q) false f) q f.msg) := by
  rw [exec_pageRequest, execPageRequest]
  simp only [up, Bool.not_true, Bool.false_eq_true, if_false, head]

theorem exec_pageRelease_serves (head : takeHead s.weave (lockTile q) false 1 isPageFlit isPageRelease = some f) :
    exec (.pageRelease q) s = .next (pageRelease (taken s (lockTile q) false f) q f.msg) := by
  rw [exec_pageRelease, execPageRelease]
  simp only [up, Bool.not_true, Bool.false_eq_true, if_false, head]

end Unit

/-- A unit that holds free pages grants one of them. -/
theorem grantPage_of_free {u : LockUnit} (free : u.free ≠ []) (x : W64) (c : CellId) (use : PageUse) :
    ∃ p ∈ u.free, ∃ high, grantPage u x c use =
      ({ u with free := u.free.erase p, dir := u.dir ++ [⟨p, c, use, u.grants⟩], grants := u.grants + 1, high := high },
        some p) := by
  have inside : x.toNat % u.free.length < u.free.length := Nat.mod_lt _ (List.length_pos_of_ne_nil free)
  refine ⟨u.free[x.toNat % u.free.length], List.getElem_mem inside, ?high, ?grant⟩
  case grant => rw [grantPage, List.getElem?_eq_getElem inside]

theorem grantPage_of_none {u : LockUnit} (free : u.free = []) (x : W64) (c : CellId) (use : PageUse) :
    grantPage u x c use = (u, none) := by
  rw [grantPage, free]; rfl

theorem pageRequest_granted {s : State} {q : BitVec 2} {c : CellId} {use : PageUse} {sub : Option W64}
    {u : LockUnit} {p : BitVec 13} (grant : grantPage (unitAt s.locks q) (freeNow s) c use = (u, some p))
    (latch : u.latch = (unitAt s.locks q).latch) :
    pageRequest s q (.pageRequest c use sub) =
      unitSend { bumpFree s with locks := setUnit s.locks q u } q 3 (.ackPage c use (some p) none) := by
  have same : ({ u with latch := (unitAt s.locks q).latch } : LockUnit) = u := by rw [← latch]
  simp only [pageRequest, grant, Option.isNone_some, Bool.false_and, Bool.or_false, same, Bool.false_eq_true, if_false]
  rfl

theorem pageRequest_refused {s : State} {q : BitVec 2} {c : CellId} {use : PageUse} {sub : Option W64}
    (free : (unitAt s.locks q).free = []) {say : Bool} (report : (sub.isSome && !(unitAt s.locks q).latch) = say) :
    pageRequest s q (.pageRequest c use sub) = unitSend { bumpFree s with
      locks := setUnit s.locks q { unitAt s.locks q with latch := (unitAt s.locks q).latch || say }
      tab := { s.tab with raised := s.tab.raised ++ (if say then [4] else []) } } q 3
      (.ackPage c use none (if say then sub else none)) := by
  simp only [pageRequest, grantPage_of_none free, Option.isNone_none, Bool.true_and, report]
  cases say
  · simp only [Bool.false_eq_true, if_false, List.append_nil]
  · rfl

theorem unitAt_setUnit_same (l : Locks) (q : BitVec 2) (u : LockUnit) : unitAt (setUnit l q u) q = u := mget_mset_same ..

theorem unitAt_setUnit_other (l : Locks) {q q' : BitVec 2} (h : q ≠ q') (u : LockUnit) :
    unitAt (setUnit l q u) q' = unitAt l q' :=
  mget_mset_other _ _ (fun e => h (BitVec.eq_of_toNat_eq e)) _

/-! ## Record pages at the cell (R193, R194, R281, R282) -/

/-- A cell after a page answer for a record has left its room. -/
def answered (s : State) (c : CellId) (page : Option (BitVec 13)) (rep : Option W64) : State :=
  setCell s c { cellAt s c with room := (cellAt s c).room.erase (.ackPage c .record page rep)
                                asks := (cellAt s c).asks.filter (fun a => a.1 != .record) }

section Grant

variable {s : State} {c : CellId} {cause : Bool} {raised trapped : BitVec 5} {asked : Bool} {rep : Option W64}
  (up : cellUp s c = true) (stopped : (engineAt s c).phase = .stopped cause raised trapped asked)
include up

theorem exec_pageGrant_record {p : BitVec 13}
    (found : (cellAt s c).room.find? isAckPage = some (.ackPage c .record (some p) rep)) :
    exec (.pageGrant c) s = .next (beginRecord (answered s c (some p) rep) c p) := by
  rw [exec_pageGrant, execPageGrant]
  simp only [up, Bool.not_true, Bool.false_eq_true, if_false, found, answered]

include stopped in
theorem exec_pageGrant_refused (found : (cellAt s c).room.find? isAckPage = some (.ackPage c .record none rep)) :
    exec (.pageGrant c) s = .next (setCell s c { cellAt s c with
      room := (cellAt s c).room.erase (.ackPage c .record none rep)
      asks := (cellAt s c).asks.filter (fun a => a.1 != .record)
      engine := { (cellAt s c).engine with phase := .stopped cause raised trapped false } }) := by
  rw [engineAt] at stopped
  rw [exec_pageGrant, execPageGrant]
  simp only [up, Bool.not_true, Bool.false_eq_true, if_false, found, stopped]
  rw [setEngine, setCell_setCell, engineAt, cellAt_setCell_same]

end Grant

theorem recordWords_length (e : Engine) (id : W64) : (recordWords e id).length = 46 := by
  simp [recordWords]

/-- A record that begins: its identifier's words are offered to the bank, and the strand counts them. -/
theorem beginRecord_spec {s : State} {c : CellId} {cause : Bool} {raised trapped : BitVec 5} {asked : Bool}
    (stopped : (engineAt s c).phase = .stopped cause raised trapped asked) (page : BitVec 13) :
    ∃ e : Engine, (∃ id, e.phase = .recording page 46 id) ∧
      Enters (setCell s c { cellAt s c with gen := (cellAt s c).gen + 1, engine := e }) (beginRecord s c page) := by
  rw [engineAt] at stopped
  rw [beginRecord]
  simp only [stopped, recordWords_length]
  exact ⟨_, ⟨_, rfl⟩, cellSends_enter c _ _ _⟩

/-! ## The trap token (R193, R280, R663, R664) -/

/-- `s` with the record of trap `id` parked. -/
def parking (s : State) (id : W64) : State :=
  { s with stw := { s.stw with parked := s.stw.parked ++ [⟨id, false⟩] } }

/-- `u` after cell `c` has sent the trap token to a tag. -/
def trapSent (u : State) (c : CellId) (id tag : W64) (serial : BitVec 16) (dl : BitVec 20) : State :=
  produce u (tileOf c) false (faultOffer u (tileOf c) (slotOf c).toNat (faultToken tag id serial (now20 u + dl)))

theorem trapToken_before {s : State} (c : CellId) (ctx : BitVec 14) (id : W64) (started : s.stw.started = false) :
    trapToken s c ctx id = parking s id := by
  simp only [trapToken, started, Bool.not_false, if_true, parking]

theorem trapToken_context {s : State} (c : CellId) {ctx : BitVec 14} (id : W64) (started : s.stw.started = true)
    (route : contextRoute s ctx = true) :
    trapToken s c ctx id = trapSent { readForReport (parking s id) ctx with
      mem := bumpSerial (readForReport (parking s id) ctx).mem ctx } c id (handlerFor s ctx) (ctxSerial s.mem ctx)
      (ctxDlOffset s.mem ctx) := by
  rw [trapToken]
  dsimp only
  rw [if_neg (by rw [started]; exact Bool.false_ne_true), if_pos route]
  rfl

theorem trapToken_node {s : State} (c : CellId) {ctx : BitVec 14} (id : W64) (started : s.stw.started = true)
    (route : contextRoute s ctx = false) (below : tagInLimit s (defaultHandler s) = true)
    (readable : descBad s.mem ctx 1 = false) :
    trapToken s c ctx id = trapSent { bumpFree (readForReport (parking s id) ctx) with
      stw := { (readForReport (parking s id) ctx).stw with nodeSerial := s.stw.nodeSerial + 1 } } c id
      (defaultHandler s) s.stw.nodeSerial (ctxDlOffset s.mem ctx) := by
  rw [trapToken]
  dsimp only
  rw [if_neg (by rw [started]; exact Bool.false_ne_true), if_neg (Bool.eq_false_iff.mp route), if_pos below,
    if_neg (Bool.eq_false_iff.mp readable)]
  rfl

theorem trapSent_time (u : State) (c : CellId) (id tag : W64) (serial : BitVec 16) (dl : BitVec 20) :
    (trapSent u c id tag serial dl).time = u.time := produce_time ..

theorem exec_trapTokenSend_recording {s : State} {c : CellId} (up : cellUp s c = true) {page : BitVec 13} {left : Nat}
    {id : W64} (recording : (engineAt s c).phase = .recording page left id) :
    exec (.trapTokenSend c) s = if left = 0 then
      .next { setEngine (trapToken s c (tagContext (engineAt s c).regs.tag0) id) c Engine.idle with
        time := markProgress (trapToken s c (tagContext (engineAt s c).regs.tag0) id).time }
    else .next s := by
  rw [exec_trapTokenSend, execTrapTokenSend]
  simp only [up, Bool.not_true, Bool.false_eq_true, if_false, recording]

theorem exec_trapTokenSend_done {s : State} {c : CellId} (up : cellUp s c = true) {page : BitVec 13} {left : Nat}
    {id : W64} (recording : (engineAt s c).phase = .recording page left id) (done : left = 0) {u : State}
    (token : trapToken s c (tagContext (engineAt s c).regs.tag0) id = u) (time : u.time = s.time) :
    exec (.trapTokenSend c) s =
      .next { setEngine u c Engine.idle with time := { s.time with progress := true } } := by
  rw [exec_trapTokenSend_recording up recording, if_pos done, token, time, markProgress]

/-! ## Restoring a strand (R195, R285, R742) -/

section Restore

variable {s : State} {c : CellId} {r : Resumed} {rest : List Resumed} (up : cellUp s c = true)
  (next : (cellAt s c).resumed = r :: rest)
include up next

theorem exec_strandRestore_asks (fresh : r.asked = false) :
    exec (.strandRestore c) s =
      .next (askRecord (setCell s c { cellAt s c with resumed := { r with asked := true } :: rest }) c r) := by
  rw [exec_strandRestore, execStrandRestore]
  simp only [up, Bool.not_true, Bool.false_eq_true, if_false, next, fresh, Bool.not_false, if_true]

theorem exec_strandRestore_gathers (asked : r.asked = true) (partly : (gatherWords (cellAt s c) r).words.length < 46) :
    exec (.strandRestore c) s = .next (setCell s c { cellAt s c with
      room := (cellAt s c).room.filter (fun m => !isRecordReturn m), resumed := gatherWords (cellAt s c) r :: rest }) := by
  rw [exec_strandRestore, execStrandRestore]
  simp only [up, Bool.not_true, Bool.false_eq_true, if_false, next, asked, recordLength, partly, true_or, if_true]

theorem exec_strandRestore_restores (asked : r.asked = true) (whole : 46 ≤ (gatherWords (cellAt s c) r).words.length)
    (room : badWords (gatherWords (cellAt s c) r) = [] → (cellAt s c).queue.length + (cellAt s c).inFlight < 16) :
    exec (.strandRestore c) s = .next (restore (setCell s c { cellAt s c with
      room := (cellAt s c).room.filter (fun m => !isRecordReturn m), resumed := rest }) c
      (gatherWords (cellAt s c) r)) := by
  have waits : ¬ ((gatherWords (cellAt s c) r).words.length < 46 ∨
      badWords (gatherWords (cellAt s c) r) = [] ∧ 16 ≤ (cellAt s c).queue.length + (cellAt s c).inFlight) := by
    rintro (partly | ⟨good, full⟩)
    · omega
    · have := room good; omega
  rw [exec_strandRestore, execStrandRestore]
  simp only [up, Bool.not_true, Bool.false_eq_true, if_false, next, asked, recordLength, waits]

end Restore

theorem badWords_eq_nil (r : Resumed) : badWords r = [] ↔ ∀ e ∈ r.words, e.2 ≠ none := by
  simp [badWords, List.filter_eq_nil_iff]

theorem readDescriptor_bytes (m : Mem) (c : BitVec 14) (w : Nat) : SameBytes m (readDescriptor m c w) :=
  MarksOnly.readByte (readDescriptor_shape m c w)

/-- A good record, whose context's mode word can be read, enters the queue as a strand. -/
theorem restore_good {s : State} {c : CellId} {r : Resumed} (good : badWords r = [])
    (readable : descBad s.mem (tagContext (resumedWord r 37)) 0 = false) :
    cellAt (restore s c r) c = enqueue (cellAt s c) (restoredFiring s r) ∧
    (∀ d, d ≠ c → cellAt (restore s c r) d = cellAt s d) ∧ SameBytes s.mem (restore s c r).mem := by
  simp only [restore, good, if_true, readable, Bool.and_false, Bool.false_eq_true, if_false]
  generalize hu : ({ setCell s c (enqueue (cellAt s c) (restoredFiring s r)) with
    mem := readDescriptor s.mem (tagContext (resumedWord r 37)) 0, freeCounter := s.freeCounter + 1 } : State) = u
  have enters := cellSend_enters u c (.pageRelease (trapPage r.trapId))
  have cells (d : CellId) : cellAt u d = cellAt (setCell s c (enqueue (cellAt s c) (restoredFiring s r))) d := by
    rw [← hu]; rfl
  have bytes : SameBytes s.mem u.mem := by rw [← hu]; exact fun x => readDescriptor_bytes s.mem _ 0 x
  refine ⟨?_, fun d hd => ?_, fun x => (enters.sameBytes x).trans (bytes x)⟩
  · exact (enters.cellAt c).trans ((cells c).trans (cellAt_setCell_same ..))
  · exact (enters.cellAt d).trans ((cells d).trans (cellAt_setCell_other _ hd.symm _))

theorem restore_bad {s : State} {c : CellId} {r : Resumed} (bad : badWords r ≠ []) :
    restore s c r = { cellSend (recordReport s r (badWords r)) c (.pageRelease (trapPage r.trapId)) with
      time := markProgress (recordReport s r (badWords r)).time } := by
  simp only [restore, bad, if_false]

theorem restoredFiring_strand {s : State} {r : Resumed}
    (readable : descBad s.mem (tagContext (resumedWord r 37)) 0 = false) :
    (restoredFiring s r).strand = some ⟨recordRegs (resumedWord r), r.skip, modeWord s.mem (tagContext (resumedWord r 37))⟩ := by
  have mode : (if (decide (16 ≤ (tagContext (resumedWord r 37)).toNat) && descBad s.mem (tagContext (resumedWord r 37)) 0)
      = true then freeNow s else modeWord s.mem (tagContext (resumedWord r 37))) =
      modeWord s.mem (tagContext (resumedWord r 37)) := by
    rw [readable, Bool.and_false, if_neg Bool.false_ne_true]
  exact congrArg (fun m => some (⟨recordRegs (resumedWord r), r.skip, m⟩ : Restored)) mode

/-- The general registers and the loops that a record restores (Table 07-9). -/
theorem recordRegs_spec (w : Nat → W64) :
    (∀ j : Reg, getG (recordRegs w) j = w j.toNat) ∧
    ∀ j : Fin 4, (recordRegs w).ls[j] = (w (22 + j)).extractLsb' 0 14 ∧
      (recordRegs w).le[j] = (w (26 + j)).extractLsb' 0 14 ∧ (recordRegs w).lc[j] = (w (30 + j)).extractLsb' 0 32 := by
  refine ⟨fun j => by simp [getG, recordRegs], fun j => ⟨?_, ?_, ?_⟩⟩
  all_goals simp [recordRegs, BitVec.setWidth_eq_extractLsb']

/-! ## Spilled tokens that come back (R321, R323) -/

theorem exec_spillReturn_reads {s : State} {c : CellId} (up : cellUp s c = true)
    (none : (cellAt s c).room.find? isSlotReturn = none) {d : BitVec 13 × BitVec 7} (slot : nextSlot (cellAt s c) = some d) :
    exec (.spillReturn c) s =
      if (cellAt s c).queue.length + (cellAt s c).inFlight + (cellAt s c).resumed.length < 16 then
        .next (cellSend (setCell s c { cellAt s c with
          due := (cellAt s c).due.erase d, spill := markReading (cellAt s c).spill d
          hold := markReading (cellAt s c).hold d, inFlight := (cellAt s c).inFlight + 1 }) c
          (.slotRead c (slotAddr d.1 d.2)))
      else .next s := by
  rw [exec_spillReturn, execSpillReturn]
  simp only [up, Bool.not_true, Bool.false_eq_true, if_false, none, slot, Option.isNone_some, readSlotNext, queueRoom,
    Bool.toNat_false, Nat.sub_zero, decide_eq_true_eq]
  split <;> rfl

/-- A report by the node route counts itself and enters its flits. -/
theorem nodeReport_enters (s : State) (code : BitVec 8) (access : BitVec 4) (info : BitVec 48) (subject : W64) :
    ∃ n, Enters { s with stw := { s.stw with nodeSerial := n } } (nodeReport s code access info subject) := by
  rw [nodeReport]
  split
  · have read (n : BitVec 16) : Enters { s with stw := { s.stw with nodeSerial := n } }
        { (readDlOffset s (tagContext (defaultHandler s))).1 with stw := { s.stw with nodeSerial := n } } := by
      rw [readDlOffset]
      split <;> exact ⟨rfl, readDescriptor_shape ..⟩
    exact ⟨_, (read _).trans (produceAll_enters ..)⟩
  · exact ⟨s.stw.nodeSerial, Enters.refl s⟩

theorem exec_spillReturn_bad {s : State} {c d : CellId} {a : Addr} {tok : Token} (up : cellUp s c = true)
    (found : (cellAt s c).room.find? isSlotReturn = some (.slotReturn d a tok 2)) :
    exec (.spillReturn c) s = .next (roomDone (slotBack (fatalReport s 0x9 a) c a) c (.slotReturn d a tok 2)) := by
  rw [exec_spillReturn, execSpillReturn]
  simp only [up, Bool.not_true, Bool.false_eq_true, if_false, found, if_true]

/-- A slot that has been read back leaves its chain; of the cell, its chains alone change. -/
theorem slotBack_spec (s : State) (c : CellId) (a : Addr) : ∃ spill hold,
    Enters (setCell s c { cellAt s c with spill := spill, hold := hold }) (slotBack s c a) := by
  rw [slotBack]
  exact ⟨_, _, cellSends_enter c _ _ _⟩

/-! ## Elements and their tallies (R313, R658) -/

theorem exec_elementAck_found {s : State} {c : CellId} {e : Elem} {code : BitVec 8} (up : cellUp s c = true)
    (found : (cellAt s c).room.find? isAckElement = some (.ackElement e code)) :
    exec (.elementAck c) s = .next (ackTally (setCell s c { cellAt s c with
      room := (cellAt s c).room.erase (.ackElement e code) }) c e code) := by
  rw [exec_elementAck, execElementAck]
  simp only [up, Bool.not_true, Bool.false_eq_true, if_false, found]

/-- A tally with one more element resolved. -/
def tallied (tl : Tally) (e : Elem) (code : BitVec 8) : Tally :=
  { tl with resolved := tl.resolved ||| 1#16 <<< e.j.toNat
            failed := if code = 0 then tl.failed else tl.failed ||| 1#16 <<< e.j.toNat
            codes := if code = 0 then tl.codes else mset 0 tl.codes e.j.toNat code }

section Tallies

variable {s : State} {c : CellId} {e : Elem} {i : BitVec 4} {tl : Tally} (code : BitVec 8) (own : e.tally = some i)
  (held : mget none (cellAt s c).tallies i.toNat = some tl)
include own held

theorem ackTally_open (more : tl.resolved ||| 1#16 <<< e.j.toNat ≠ 0xFFFF) :
    ackTally s c e code = setCell s c { cellAt s c with
      tallies := mset none (cellAt s c).tallies i.toNat (some (tallied tl e code)) } := by
  simp only [ackTally, own, held, more, if_false]
  rfl

theorem ackTally_last (last : tl.resolved ||| 1#16 <<< e.j.toNat = 0xFFFF) (clean : tl.codes = []) :
    ackTally s c e code =
      if code = 0 then setCell s c { cellAt s c with tallies := mset none (cellAt s c).tallies i.toNat none }
      else contextReport (setCell s c { cellAt s c with tallies := mset none (cellAt s c).tallies i.toNat none })
        (tagContext tl.tag0) code (if tl.scatter then 0x6 else 0x5)
        ((tl.failed ||| 1#16 <<< e.j.toNat) ++ (0 : BitVec 32)) tl.base := by
  simp only [ackTally, own, held, last, if_true, clean]
  by_cases good : code = 0
  · simp only [good, if_true]
  · have one : mset 0 ([] : List (Nat × BitVec 8)) e.j.toNat code = [(e.j.toNat, code)] := by
      rw [mset, if_neg good]; rfl
    simp only [good, if_false, one]
    rfl

end Tallies

/-! ## Table entries that return (R199, R250) -/

/-- A cell after a table entry has left its room. -/
def entryTaken (s : State) (c d : CellId) (second : Bool) (v : Option (BitVec 32)) : State :=
  setCell s c { cellAt s c with room := (cellAt s c).room.erase (.tableData d second v) }

theorem engineAt_entryTaken (s : State) (c d : CellId) (second : Bool) (v : Option (BitVec 32)) :
    engineAt (entryTaken s c d second v) c = engineAt s c := by rw [entryTaken, engineAt_setCell_same, engineAt]

theorem exec_dataReturn_table {s : State} {c d : CellId} {second : Bool} {v : Option (BitVec 32)}
    (up : tileUp s (tileOf c) = true) (found : tableCell s (tileOf c) = some (c, .tableData d second v)) :
    exec (.dataReturn (tileOf c) false) s = .next (tableEntry (entryTaken s c d second v) c second v) := by
  rw [exec_dataReturn, execDataReturn]
  simp only [up, Bool.not_true, Bool.false_eq_true, if_false, found, entryTaken]

section Entries

variable {s : State} {c : CellId} {l : Lookup} (waits : (engineAt s c).phase = .lookup l)
include waits

theorem tableEntry_single {v : Option (BitVec 32)} (one : l.needTwo = false) :
    tableEntry s c false v = lookupEnd s c l.precise l.rd l.after
      (v.map fun x => lookupValue l.float (mwRmode (engineAt s c).mode) l.frac x none) := by
  simp only [tableEntry, waits, Bool.false_eq_true, if_false, one]

theorem tableEntry_second {x y : BitVec 32} (two : l.needTwo = true) (first : l.first = some (some x)) :
    tableEntry s c true (some y) = lookupEnd s c l.precise l.rd l.after
      (some (lookupValue l.float (mwRmode (engineAt s c).mode) l.frac x (some y))) := by
  simp only [tableEntry, waits, if_true, two, first]
  rfl

theorem tableEntry_first {v : Option (BitVec 32)} (two : l.needTwo = true) (second : l.second = none) :
    tableEntry s c false v =
      setEngine s c { engineAt s c with phase := .lookup { l with first := some v } } := by
  simp only [tableEntry, waits, Bool.false_eq_true, if_false, two, second]

end Entries

/-- `s` after the strand's lookup has ended with registers `r`. -/
def lookedUp (s : State) (c : CellId) (l : Lookup) (r : Regs) : State :=
  setEngine s c (({ engineAt s c with phase := .running } : Engine).at (retire r none l.after))

theorem lookedUp_spec (s : State) (c : CellId) (l : Lookup) (r : Regs) :
    OnlyStrand s (lookedUp s c l r) c ∧ (engineAt (lookedUp s c l r) c).phase = .running ∧
    regsAt (lookedUp s c l r) c = retire r none l.after := by
  refine ⟨onlyStrand_setEngine .., ?_, ?_⟩
  · rw [lookedUp, engineAt_setEngine_same]; rfl
  · rw [lookedUp, regsAt, engineAt_setEngine_same]; rfl

theorem lookupEnd_value {s : State} {c : CellId} {l : Lookup} (x : W64 × BitVec 5)
    (quiet : (l.precise || mwPrecise (engineAt s c).mode) = false ∨ x.2 &&& mwTrapen (engineAt s c).mode = 0) :
    lookupEnd s c l.precise l.rd l.after (some x) =
      lookedUp s c l { setG (engineAt s c).regs l.rd x.1 with fs := (engineAt s c).regs.fs ||| x.2 } := by
  have keeps : ((l.precise || mwPrecise (engineAt s c).mode) && x.2 &&& mwTrapen (engineAt s c).mode != 0) = false := by
    rcases quiet with off | none
    · rw [off, Bool.false_and]
    · rw [none, Bool.and_eq_false_iff]; exact .inr rfl
  simp only [lookupEnd, keeps, Bool.false_eq_true, if_false]
  rfl

theorem lookupEnd_none (s : State) (c : CellId) (l : Lookup) :
    lookupEnd s c l.precise l.rd l.after none = lookedUp s c l (setG (engineAt s c).regs l.rd 0) := rfl

/-! ## Words that return to the host (R432) -/

theorem exec_dataReturn_host {s : State} {t : TileId} {f : Flit} {id v : W64} {bad : Bool} (up : tileUp s t = true)
    (head : takeHead s.weave t true 2 isHostData isHostData = some f) (msg : f.msg = .hostData id v bad) :
    exec (.dataReturn t true) s = .next (hostWordArrives (taken s t true f) id v bad) := by
  rw [exec_dataReturn, execDataReturn]
  simp only [up, Bool.not_true, Bool.false_eq_true, if_false, if_true, head, msg]

theorem eight_le_maxPayload (h : HostFace) : 8 ≤ maxPayload h ∧ maxPayload h % 8 = 0 := by
  rw [maxPayload]; split <;> decide

/-- Eight bytes that begin at a word make one piece. -/
theorem pieces_word (h : HostFace) {a : Nat} (aligned : a % 8 = 0) {bs : List Byte} (len : bs.length = 8) :
    pieces (maxPayload h) 9 a 0 bs = [(0, bs)] := by
  obtain ⟨-, whole⟩ := eight_le_maxPayload h
  have room : 8 ≤ maxPayload h - a % maxPayload h := by
    have positive : 0 < maxPayload h := by rw [maxPayload]; split <;> decide
    have below := Nat.mod_lt a positive
    have : a % maxPayload h % 8 = 0 := by
      rw [Nat.mod_mod_of_dvd a (Nat.dvd_of_mod_eq_zero whole)]; exact aligned
    omega
  have some : bs ≠ [] := fun e => by rw [e] at len; simp at len
  rw [pieces, if_neg some]
  dsimp only
  rw [List.take_of_length_le (by omega), List.drop_of_length_le (by omega), pieces, if_pos rfl]

/-- The bytes of a word that a host read has whole. -/
theorem readBytesAt_word (s : State) {r : HostRead} (aligned : r.addr.toNat % 8 = 0) {v : W64}
    (words : r.words = [(0, (v, false))]) :
    (List.range 8).map (readByteAt s r) = (leBytes 8 v.toNat).map (·, false) := by
  have byte (i : Nat) (hi : i < 8) : readByteAt s r i = (BitVec.ofNat 8 (v.toNat / 256 ^ i), false) := by
    have word : mget ((0 : W64), false) r.words ((r.addr.toNat % 8 + i) / 8) = (v, false) := by
      rw [words, aligned, Nat.zero_add, Nat.div_eq_of_lt hi]; rfl
    simp only [readByteAt, word, Bool.false_eq_true, if_false]
    rw [aligned, Nat.zero_add, Nat.mod_eq_of_lt hi]
  rw [List.map_congr_left fun i hi => byte i (List.mem_range.mp hi)]
  simp [List.range_succ, leBytes, Nat.div_div_eq_div_mul]

theorem completions_word (s : State) {a : Nat} (aligned : a % 8 = 0) {bs : List Byte} (len : bs.length = 8) :
    completions s a (bs.map (·, false)) = emit s (.completion .ok bs) := by
  have plain : (bs.map (·, false)).map Prod.fst = bs := by rw [List.map_map]; exact List.map_id _
  have good : ((bs.map (·, false)).any (·.2)) = false := by simp
  rw [completions, plain, List.length_map, len, pieces_word s.host aligned len, List.foldl_cons, List.foldl_nil,
    List.drop_zero, List.take_of_length_le (by rw [List.length_map]), if_neg (by rw [good]; exact Bool.false_ne_true)]

theorem hostWordArrives_last {s : State} {id v : W64} {r : HostRead}
    (found : s.host.reads.find? (fun r => r.number == id.toNat / 1024) = some r) (fresh : r.words = [])
    (first : id.toNat % 1024 = 0) (len : r.len = 8) (aligned : r.addr.toNat % 8 = 0)
    (spans : wordsSpanned r.addr r.len = 1) :
    hostWordArrives s id v false = emit { s with host := { s.host with reads := s.host.reads.erase r }
                                                 freeCounter := s.freeCounter + r.len }
      (.completion .ok (leBytes 8 v.toNat)) := by
  have words : minsert (id.toNat % 1024) (v, false) (mdrop (id.toNat % 1024) r.words) = [(0, (v, false))] := by
    rw [fresh, first]; rfl
  have bytes : (List.range r.len).map (readByteAt s { r with words := [(0, (v, false))] }) =
      (leBytes 8 v.toNat).map (·, false) :=
    (congrArg (fun n => (List.range n).map _) len).trans (readBytesAt_word s (r := ⟨r.number, r.addr, r.len, [(0, (v, false))]⟩) aligned rfl)
  rw [hostWordArrives, found]
  dsimp only
  rw [words, List.length_singleton, if_pos spans.symm, bytes, completions_word _ aligned (leBytes_length ..)]

end Sys2Proof.Machine

namespace Sys2Proof.Pages

open Sys2Proof Machine

/-- Settles O36: a unit's answer by whether it holds a free page, a cell's next step by the answer. -/
theorem pagesGrantedAndReturned : Obligations.PagesGrantedAndReturned := by
  unfold Obligations.PagesGrantedAndReturned
  intro s q f c
  refine ⟨fun up => ?_, fun cause raised trapped asked up stopped => ?_⟩
  · intro u s1
    refine ⟨fun d use sub head msg => ⟨fun free => ?_, fun free => ?_⟩, fun p head msg => ?_⟩
    · have serves := exec_pageRequest_serves up head
      rw [msg] at serves
      obtain ⟨p, hp, high, grant⟩ := grantPage_of_free free (freeNow s) d use
      exact ⟨p, hp, high, serves.trans (congrArg _ (pageRequest_granted (s := taken s (lockTile q) false f) grant rfl))⟩
    · have serves := exec_pageRequest_serves up head
      rw [msg] at serves
      exact serves.trans (congrArg _ (pageRequest_refused (s := taken s (lockTile q) false f) free rfl))
    · have serves := exec_pageRelease_serves up head
      rw [msg] at serves
      exact ⟨_, serves, rfl, unitAt_setUnit_same .., fun q' h => unitAt_setUnit_other _ h.symm _⟩
  · intro x asks
    refine ⟨fun p rep found => ?_, fun rep found => exec_pageGrant_refused up stopped found⟩
    have own : cellAt (answered s c (some p) rep) c = _ := cellAt_setCell_same ..
    have still : (engineAt (answered s c (some p) rep) c).phase = .stopped cause raised trapped asked := by
      rw [engineAt, own]; exact stopped
    obtain ⟨e, ⟨id, recording⟩, enters⟩ := beginRecord_spec still p
    have now := enters.cellAt c
    rw [cellAt_setCell_same, own] at now
    refine ⟨_, exec_pageGrant_record up found, ⟨id, ?_⟩, ?_, ?_, enters.sameBytes, fun d hd => ?_⟩
    · rw [engineAt, now, recording]
    · rw [now]
    · rw [now]
    · rw [enters.cellAt, cellAt_setCell_other _ hd.symm, answered, cellAt_setCell_other _ hd.symm]

/-- Settles O37: a record's trap token, its words, and the strand that it restores; a slot's read and its return. -/
theorem parkedStrandsAndSpilledTokens : Obligations.ParkedStrandsAndSpilledTokens := by
  unfold Obligations.ParkedStrandsAndSpilledTokens
  intro s c x up
  refine ⟨?_, ?_, ?_, ?_⟩
  · intro page left id recording s1 ctx goes send freed
    have sends := exec_trapTokenSend_recording up recording
    refine ⟨fun more => sends.trans (if_neg more), fun done before =>
      exec_trapTokenSend_done up recording done (trapToken_before c _ id before) rfl, fun done started route =>
      exec_trapTokenSend_done up recording done (trapToken_context c id started route) (trapSent_time ..),
      fun done started route below readable =>
      exec_trapTokenSend_done up recording done (trapToken_node c id started route below readable) (trapSent_time ..)⟩
  · intro r rest next a r1 w room
    refine ⟨fun fresh => exec_strandRestore_asks up next fresh, fun asked partly =>
      exec_strandRestore_gathers up next asked partly, fun asked whole good space readable => ?_, fun asked whole bad => ?_⟩
    · have clean : badWords (gatherWords (cellAt s c) r) = [] := (badWords_eq_nil _).mpr good
      generalize hv : setCell s c { cellAt s c with room := room, resumed := rest } = v
      have restores : exec (.strandRestore c) s = .next (restore v c r1) :=
        (exec_strandRestore_restores up next asked whole fun _ => space).trans (by rw [← hv])
      have own : cellAt v c = { cellAt s c with room := room, resumed := rest } := by rw [← hv, cellAt_setCell_same]
      have mem : v.mem = s.mem := by rw [← hv]; rfl
      rw [← mem] at readable
      obtain ⟨here, others, bytes⟩ := restore_good (c := c) clean readable
      have low {n : Nat} (hn : n ≤ 64) (i : Nat) : (w i).setWidth n = (w i).extractLsb' 0 n :=
        BitVec.setWidth_eq_extractLsb' hn
      obtain ⟨general, loops⟩ := recordRegs_spec w
      refine ⟨_, restores, { restoredFiring v r1 with seq := x.nextSeq }, recordRegs w, ?_, ?_, ?_, rfl, ?_, rfl,
        low (by decide) 45, rfl, general, rfl, rfl, rfl, low (by decide) 19, low (by decide) 20, low (by decide) 21, loops,
        low (by decide) 34, low (by decide) 35, low (by decide) 36, rfl,
        congrArg (fun y : BitVec 14 => y.setWidth 15) (low (by decide) 41), rfl,
        fun y => (bytes y).trans (by rw [mem]), fun d hd => (others d hd).trans ?_⟩
      · rw [here, own]; rfl
      · rw [here, own]; rfl
      · rw [here, own]; rfl
      · exact (restoredFiring_strand readable).trans (by rw [mem]; rfl)
      · rw [← hv, cellAt_setCell_other _ hd.symm]
    · have dirty : badWords (gatherWords (cellAt s c) r) ≠ [] := fun clean => by
        obtain ⟨e, he, none⟩ := bad
        exact (badWords_eq_nil _).mp clean e he none
      rw [exec_strandRestore_restores up next asked whole (fun clean => absurd clean dirty), restore_bad dirty]
      rfl
  · intro none d slot x1
    have reads := exec_spillReturn_reads up none slot
    exact ⟨fun room => reads.trans (if_pos room), fun full => reads.trans (if_neg (not_lt.mpr full))⟩
  · intro d a tok found
    obtain ⟨n, reported⟩ := nodeReport_enters s fEcc 0x9 a 0
    obtain ⟨spill, hold, back⟩ := slotBack_spec (fatalReport s 0x9 a) c a
    have own : cellAt (fatalReport s 0x9 a) c = cellAt s c := reported.cellAt c
    have now := back.cellAt c
    rw [cellAt_setCell_same, own] at now
    refine ⟨_, exec_spillReturn_bad up found, ?_, ?_, ?_, ?_, ?_⟩
    · rw [roomDone, cellAt_setCell_same, now]
    · rw [roomDone, cellAt_setCell_same, now]
    · rw [roomDone, cellAt_setCell_same, now]
    · have tab : (slotBack (fatalReport s 0x9 a) c a).tab = (fatalReport s 0x9 a).tab := back.tab
      rw [roomDone, setCell_tab, tab]
      rfl
    · have time : (slotBack (fatalReport s 0x9 a) c a).time = (fatalReport s 0x9 a).time := back.time
      rw [roomDone, setCell_time, time]
      exact reported.time

/-- Settles O38: an element by whether its tally is complete; an entry by what its lookup waits for; a host's word as
the whole of its read. -/
theorem elementsAndReadDataReturn : Obligations.ElementsAndReadDataReturn := by
  unfold Obligations.ElementsAndReadDataReturn
  intro s c x
  refine ⟨?_, ?_, ?_⟩
  · intro e code i tl up found own held bit left
    have acks := exec_elementAck_found up found
    generalize hv : setCell s c { cellAt s c with room := (cellAt s c).room.erase (.ackElement e code) } = v at acks
    have here : cellAt v c = left := by rw [← hv, cellAt_setCell_same]
    have held' : mget none (cellAt v c).tallies i.toNat = some tl := by rw [here]; exact held
    refine ⟨fun more => ⟨tallied tl e code, ?_, rfl, rfl, rfl, rfl, rfl, fun failed => ?_⟩, fun last clean => ?_⟩
    · rw [acks, ackTally_open code own held' more, here, ← hv, setCell_setCell]
    · have codes : (tallied tl e code).codes = mset 0 tl.codes e.j.toNat code := if_neg failed
      rw [codes, mget_mset_same]
    · have ends := ackTally_last code own held' last clean
      rw [here, ← hv, setCell_setCell, hv] at ends
      exact ⟨fun good => acks.trans (congrArg _ (ends.trans (if_pos good))),
        fun failed => acks.trans (congrArg _ (ends.trans (if_neg failed)))⟩
  · intro d second v l up found waits ends quiet wrote
    have returns := exec_dataReturn_table up found
    have here := engineAt_entryTaken s c d second v
    have still : (engineAt (entryTaken s c d second v) c).phase = .lookup l := by rw [here]; exact waits
    refine ⟨fun w one first entry silent => ?_, fun w w' two last entry first silent => ?_, fun two first none => ?_,
      fun one first none => ?_⟩
    · subst first entry
      have value := lookupEnd_value (s := entryTaken s c d false (some w)) (c := c) (l := l)
        (lookupValue l.float (mwRmode x.engine.mode) l.frac w Option.none) (by rw [here]; exact silent)
      rw [tableEntry_single still one, here] at returns
      rw [here] at value
      exact ⟨_, returns.trans (congrArg _ value), lookedUp_spec ..⟩
    · subst last entry
      have value := lookupEnd_value (s := entryTaken s c d true (some w')) (c := c) (l := l)
        (lookupValue l.float (mwRmode x.engine.mode) l.frac w (some w')) (by rw [here]; exact silent)
      rw [tableEntry_second still two first, here] at returns
      rw [here] at value
      exact ⟨_, returns.trans (congrArg _ value), lookedUp_spec ..⟩
    · subst first
      rw [returns, tableEntry_first still two none, here, entryTaken, setEngine, setCell_setCell, cellAt_setCell_same]
      rfl
    · subst first none
      rw [tableEntry_single still one, Option.map_none, lookupEnd_none, here] at returns
      exact ⟨_, returns, lookedUp_spec ..⟩
  · intro t0 f id v r up head msg found fresh first len aligned spans payload
    have arrives := exec_dataReturn_host up head msg
    rw [hostWordArrives_last (s := taken s t0 true f) found fresh first len aligned spans] at arrives
    exact ⟨_, arrives, rfl, rfl, rfl, rfl⟩

end Sys2Proof.Pages
end

/-! # Stream ports and sinks (R131, R132, R147, R148) -/

section
namespace Sys2Proof.Machine

open Sys2Proof

theorem exec_streamTakeRequest (port s) : exec (.streamTakeRequest port) s = execStreamTakeRequest port s := rfl
theorem exec_streamPutRequest (port s) : exec (.streamPutRequest port) s = execStreamPutRequest port s := rfl
theorem exec_tokenToHostSink (net3 s) : exec (.tokenToHostSink net3) s = execTokenToHostSink net3 s := rfl
theorem exec_tokenToShuttleSink (net3 s) : exec (.tokenToShuttleSink net3) s = execTokenToShuttleSink net3 s := rfl
theorem exec_tokenToFieldSink (net3 s) : exec (.tokenToFieldSink net3) s = execTokenToFieldSink net3 s := rfl
theorem exec_sinkDiscard (t net3 s) : exec (.sinkDiscard t net3) s = execSinkDiscard t net3 s := rfl

/-! ## TAKE -/

theorem exec_take_serves {s : State} {port : BitVec 8} {f : Flit} {tag : W64} {dl : BitVec 20} {fl : BitVec 12}
    (legal : port.toNat < 6) (up : tileUp s (portTile port) = true)
    (head : takeHead s.weave (portTile port) true 1 (isPortRequest port) (isTake port) = some f)
    (msg : f.msg = .take port tag dl fl) :
    exec (.streamTakeRequest port) s =
      .next (placeSend (afterTake (taken s (portTile port) true f) port) (.extra (portTile port)) f.pri
        (.token (tokenTo tag (takeAnswer s port).1 dl fl (takeAnswer s port).2))) := by
  rw [exec_streamTakeRequest, execStreamTakeRequest]
  simp only [if_neg (not_le.mpr legal), up, Bool.not_true, Bool.false_eq_true, if_false, head, msg]

/-- The streams after the oldest word of a port has been taken. -/
def takenStreams (st : Streams) (port : BitVec 8) (w : W64) (rest : List W64) : Streams :=
  { setTakeSide st port rest with last := mset 0 st.last port.toNat w }

theorem setTakeSide_last (st : Streams) (port : BitVec 8) (ws : List W64) : (setTakeSide st port ws).last = st.last := by
  rw [setTakeSide]; split <;> rfl

theorem afterTake_empty {s : State} {port : BitVec 8} (none : takeSide s port = []) : afterTake s port = s := by
  rw [afterTake, none]

theorem afterTake_word {s : State} {port : BitVec 8} {w : W64} {rest : List W64} (words : takeSide s port = w :: rest)
    (settled : (port ≠ 2 ∧ port ≠ 3) ∨ (s.rowA.answers = [] ∧ s.rowB.answers = [])) :
    afterTake s port = { s with streams := takenStreams s.streams port w rest } := by
  rw [afterTake, words]
  simp only [setTakeSide_last]
  rcases settled with ⟨notA, notB⟩ | ⟨emptyA, emptyB⟩
  · rw [if_neg notA, if_neg notB]; rfl
  · rw [emptyA, emptyB]
    split
    · rfl
    · split <;> rfl

/-- The port of a take side that holds words. -/
theorem port_of_takeSide {s : State} {port : BitVec 8} {w : W64} {rest : List W64} (words : takeSide s port = w :: rest) :
    port = 0 ∨ port = 2 ∨ port = 3 ∨ port = 4 ∨ port = 5 := by
  rw [takeSide] at words
  split at words
  case h_6 => cases words
  case h_1 number => exact .inl (BitVec.eq_of_toNat_eq number)
  case h_2 number => exact .inr (.inl (BitVec.eq_of_toNat_eq number))
  case h_3 number => exact .inr (.inr (.inl (BitVec.eq_of_toNat_eq number)))
  case h_4 number => exact .inr (.inr (.inr (.inl (BitVec.eq_of_toNat_eq number))))
  case h_5 number => exact .inr (.inr (.inr (.inr (BitVec.eq_of_toNat_eq number))))

theorem takeSide_taken {s : State} {port : BitVec 8} {w : W64} {rest : List W64} (words : takeSide s port = w :: rest)
    {t : State} (streams : t.streams = takenStreams s.streams port w rest) : takeSide t port = rest := by
  rcases port_of_takeSide words with rfl | rfl | rfl | rfl | rfl <;> simp [takeSide, streams, takenStreams, setTakeSide]

/-! ## PUT -/

theorem exec_put_serves {s : State} {port : BitVec 8} {f : Flit} {v : W64} (legal : ¬ (port = 0 ∨ 5 ≤ port.toNat))
    (up : tileUp s (portTile port) = true)
    (head : takeHead s.weave (portTile port) true 1 (isPortRequest port) (isPut port) = some f)
    (msg : f.msg = .put port v) :
    exec (.streamPutRequest port) s = match putWordAt (taken s (portTile port) true f) port v with
      | .done t => .next t
      | .waits => .next s
      | .reserved => unpredictable 23 s := by
  rw [exec_streamPutRequest, execStreamPutRequest, if_neg legal]
  simp only [up, Bool.not_true, Bool.false_eq_true, if_false, head, msg] <;> rfl

theorem putWordAt_field (s : State) (v : W64) : putWordAt s 1 v =
    if s.streams.fieldOut.length < 16 then
      .done { s with streams := { s.streams with fieldOut := s.streams.fieldOut ++ [v] } } else .waits := rfl

theorem putWordAt_shuttle {s : State} (on : shutOn s.straps = true) (v : W64) : putWordAt s 4 v =
    if s.streams.shPut.length < 128 then
      .done { s with streams := { s.streams with shPut := s.streams.shPut ++ [v] } } else .waits := by
  show (if !shutOn s.straps then _ else _) = _
  rw [on]; rfl

theorem putWordAt_off {s : State} {port : BitVec 8} (off : port = 4 ∧ shutOn s.straps = false ∨
    port = 2 ∧ rowAOn s.straps = false ∨ port = 3 ∧ rowBOn s.straps = false) (v : W64) :
    putWordAt s port v = .done (countDiscard s) := by
  rcases off with ⟨rfl, off⟩ | ⟨rfl, off⟩ | ⟨rfl, off⟩
  · show (if !shutOn s.straps then _ else _) = _
    rw [off]; rfl
  · show (if rowAOn s.straps then _ else _) = _
    rw [off]; rfl
  · show (if rowBOn s.straps then _ else _) = _
    rw [off]; rfl

/-! ## Sinks -/

theorem sinkToken_serves {s : State} {t : TileId} {net3 : Bool} {kind : Flit → Bool} {f : Flit} {x : Token}
    (head : takeHead s.weave t true (if net3 then 3 else 0) kind kind = some f) (msg : f.msg = .token x)
    (body : State → Token → Option State) :
    sinkToken s t net3 kind body = match body (taken s t true f) x with | some u => .next u | none => .next s := by
  rw [sinkToken, show tokenVn net3 = if net3 then 3 else 0 from rfl, head]
  simp only [msg] <;> rfl

section Sinks

variable {s : State} {net3 : Bool} {f : Flit} {x : Token} (msg : f.msg = .token x)
include msg

theorem exec_tokenToHostSink_serves (tile : tileUp s 0 = true) (face : hostUp s = true)
    (head : takeHead s.weave 0 true (if net3 then 3 else 0) (sinkOn s) (sinkOn s) = some f)
    (other : ¬ (x.context = 0 ∧ x.flow = 0x009)) :
    exec (.tokenToHostSink net3) s =
      if stagingRoom s 1 || !s.host.bme then .next (hostBound (taken s 0 true f) [x]) else .next s := by
  have plain : afterAttach (taken s 0 true f) x = taken s 0 true f := by
    rw [afterAttach, if_neg (by simpa using other)]
  rw [exec_tokenToHostSink, execTokenToHostSink]
  simp only [tile, face, Bool.not_true, Bool.or_self, Bool.false_eq_true, if_false]
  rw [sinkToken_serves head msg]
  rw [plain]
  cases stagingRoom s 1 || !s.host.bme <;> rfl

theorem exec_tokenToShuttleSink_serves (tile : tileUp s 7 = true) (face : shuttleUp s = true)
    (head : takeHead s.weave 7 true (if net3 then 3 else 0) (sinkOn s) (sinkOn s) = some f) :
    exec (.tokenToShuttleSink net3) s = if s.sh.held.length < 8 ∧ s.sh.tx.length < 4 then
      .next { taken s 7 true f with sh := { s.sh with tx := s.sh.tx ++ [x] } } else .next s := by
  have room : shuttleRoom s.sh 1 = decide (s.sh.held.length < 8 ∧ s.sh.tx.length < 4) := by
    rw [shuttleRoom, Bool.decide_and]; rfl
  rw [exec_tokenToShuttleSink, execTokenToShuttleSink]
  simp only [tile, face, Bool.not_true, Bool.or_self, Bool.false_eq_true, if_false]
  rw [sinkToken_serves head msg]
  simp only [room, decide_eq_true_eq]
  by_cases h : s.sh.held.length < 8 ∧ s.sh.tx.length < 4
  · rw [if_pos h, if_pos h]; rfl
  · rw [if_neg h, if_neg h]

theorem exec_tokenToFieldSink_serves (tile : tileUp s 63 = true) (face : selUp s = true)
    (head : takeHead s.weave 63 true (if net3 then 3 else 0) isFieldToken isFieldToken = some f) :
    exec (.tokenToFieldSink net3) s = if s.streams.fieldOut.length < 16 then
      .next { taken s 63 true f with streams := { s.streams with fieldOut := s.streams.fieldOut ++ [x.value] } }
    else .next s := by
  rw [exec_tokenToFieldSink, execTokenToFieldSink]
  simp only [tile, face, Bool.not_true, Bool.or_self, Bool.false_eq_true, if_false]
  rw [sinkToken_serves head msg]
  by_cases h : s.streams.fieldOut.length < 16
  · rw [if_pos h, if_pos h]
  · rw [if_neg h, if_neg h]

theorem exec_sinkDiscard_serves {t : TileId} (face : t = 0 ∨ t = 7 ∨ t = 56) (tile : tileUp s t = true)
    (head : takeHead s.weave t true (if net3 then 3 else 0) (sinkOff s) (sinkOff s) = some f) :
    exec (.sinkDiscard t net3) s = .next (countDiscard (taken s t true f)) := by
  have sink : ¬ (t ≠ 0 ∧ t ≠ 7 ∧ t ≠ 56) := by tauto
  rw [exec_sinkDiscard, execSinkDiscard, if_neg sink]
  simp only [tile, Bool.not_true, Bool.false_eq_true, if_false]
  rw [sinkToken_serves head msg]

end Sinks

end Sys2Proof.Machine

namespace Sys2Proof.Sinks

open Sys2Proof Machine

/-- Settles O39: each port and sink by whether it has a word, or room. -/
theorem streamPortsAndSinks : Obligations.StreamPortsAndSinks := by
  unfold Obligations.StreamPortsAndSinks
  intro s f st
  refine ⟨?_, ?_, ?_⟩
  · intro port tag dl fl legal up head msg u answers
    have serves := exec_take_serves legal up head msg
    refine ⟨fun none => ?_, fun w rest words notA notB => ?_, fun w rest words emptyA emptyB => ?_⟩
    · rw [afterTake_empty (s := taken s (portTile port) true f) none, takeAnswer, none] at serves
      exact serves
    · rw [afterTake_word (s := taken s (portTile port) true f) words (.inl ⟨notA, notB⟩), takeAnswer, words] at serves
      exact ⟨_, serves, rfl, takeSide_taken words rfl⟩
    · rw [afterTake_word (s := taken s (portTile port) true f) words (.inr ⟨emptyA, emptyB⟩)] at serves
      have streams (v : State) (m : Msg) : (placeSend v (.extra (portTile port)) f.pri m).streams = v.streams :=
        produce_streams ..
      refine ⟨_, serves, takeSide_taken words (streams ..), ?_⟩
      rw [streams]
      exact mget_mset_same ..
  · intro port v up head msg u
    refine ⟨fun field => ?_, fun shuttle on => ?_, fun off => ?_⟩
    · subst field
      have serves := exec_put_serves (by decide) up head msg
      rw [putWordAt_field] at serves
      refine ⟨fun room => ?_, fun full => ?_⟩
      · rw [serves, if_pos (show (taken s (portTile 1) true f).streams.fieldOut.length < 16 from room)]; rfl
      · rw [serves, if_neg (show ¬ (taken s (portTile 1) true f).streams.fieldOut.length < 16 from not_lt.mpr full)]
    · subst shuttle
      have serves := exec_put_serves (by decide) up head msg
      rw [putWordAt_shuttle (s := taken s (portTile 4) true f) on] at serves
      refine ⟨fun room => ?_, fun full => ?_⟩
      · rw [serves, if_pos (show (taken s (portTile 4) true f).streams.shPut.length < 128 from room)]; rfl
      · rw [serves, if_neg (show ¬ (taken s (portTile 4) true f).streams.shPut.length < 128 from not_lt.mpr full)]
    · have legal : ¬ (port = 0 ∨ 5 ≤ port.toNat) := by
        rcases off with ⟨rfl, -⟩ | ⟨rfl, -⟩ | ⟨rfl, -⟩ <;> decide
      have serves := exec_put_serves legal up head msg
      rw [putWordAt_off (s := taken s (portTile port) true f) off] at serves
      exact serves
  · intro net3 x t0 msg vn
    refine ⟨fun tile face head other => ?_, fun tile face head => ?_, fun tile face head => ?_, fun sink tile head => ?_⟩
    · have serves := exec_tokenToHostSink_serves msg tile face head other
      refine ⟨fun room on => ?_, fun full on => ?_, fun off => ?_⟩
      · rw [if_pos (by simp [stagingRoom, room])] at serves
        have bound : hostBound (taken s 0 true f) [x] = { taken s 0 true f with
            host := { s.host with staging := s.host.staging ++ [x], busy := true } } := if_pos on
        rw [bound] at serves
        exact ⟨_, serves, rfl, rfl⟩
      · rw [serves, if_neg (by simp [stagingRoom, on]; omega)]
      · have bound : hostBound (taken s 0 true f) [x] = { taken s 0 true f with
            host := { s.host with discards := satAdd s.host.discards 1 } } := if_neg (by simp [off])
        rw [serves, if_pos (by simp [off]), bound]
    · have serves := exec_tokenToShuttleSink_serves msg tile face head
      exact ⟨fun held tx => serves.trans (if_pos ⟨held, tx⟩), fun full => serves.trans (if_neg (by omega))⟩
    · have serves := exec_tokenToFieldSink_serves msg tile face head
      exact ⟨fun room => serves.trans (if_pos room), fun full => serves.trans (if_neg (not_lt.mpr full))⟩
    · exact exec_sinkDiscard_serves msg sink tile head

end Sys2Proof.Sinks
end

/-! # Routers (R378 to R393, R740) -/

section
namespace Sys2Proof.Machine

open Sys2Proof

theorem exec_flitForward (t p waited s) : exec (.flitForward t p waited) s = execFlitForward t p waited s := rfl
theorem exec_creditReturn (t p vn vc s) : exec (.creditReturn t p vn vc) s = execCreditReturn t p vn vc s := rfl
theorem exec_ageIncrement (t p vn vc second s) :
    exec (.ageIncrement t p vn vc second) s = execAgeIncrement t p vn vc second s := rfl

/-! ## The choice of a port -/

/-- The best of a list is no worse than any of it. -/
theorem bestBy_max {α : Type} (rank : α → Nat) {l : List α} {x : α} (best : bestBy rank l = some x) :
    ∀ y ∈ l, rank y ≤ rank x := by
  induction l generalizing x with
  | nil => cases best
  | cons z r ih =>
    have rest : ∀ y ∈ r, ∃ w, bestBy rank r = some w := fun y mem => Option.isSome_iff_exists.mp (bestBy_isSome rank mem)
    rw [bestBy] at best
    split at best
    case h_1 nothing =>
      cases best
      intro y mem
      rcases List.mem_cons.mp mem with rfl | mem
      · exact le_refl _
      · obtain ⟨w, some⟩ := rest y mem; rw [nothing] at some; cases some
    case h_2 w some =>
      have below := ih some
      split at best <;> cases best <;> intro y mem <;> rcases List.mem_cons.mp mem with rfl | mem
      · omega
      · exact below y mem
      · exact le_refl _
      · have := below y mem; omega

/-- What stands among the heads that a port considers, whichever channel its turn begins at. -/
theorem mem_heads {w : Weave} {t : TileId} {port start n : Nat} {f : Flit} : (n, f) ∈ heads w t port start ↔
    n < 48 ∧ (chanAt w (chanOfNumber t n)).head? = some f ∧ routePort t f = port := by
  have channel (i : Nat) : (match chanAt w (chanOfNumber t ((start + i) % 48)) with
      | f :: _ => if routePort t f = port then some ((start + i) % 48, f) else none
      | [] => none) = some (n, f) ↔ (start + i) % 48 = n ∧ (chanAt w (chanOfNumber t n)).head? = some f ∧
        routePort t f = port := by
    constructor
    · intro found
      split at found
      · rename_i g rest here
        split at found
        · rename_i route
          obtain ⟨rfl, rfl⟩ := Prod.mk.inj (Option.some.inj found)
          exact ⟨rfl, by rw [here]; rfl, route⟩
        · cases found
      · cases found
    · rintro ⟨rfl, head, route⟩
      cases here : chanAt w (chanOfNumber t ((start + i) % 48)) with
      | nil => rw [here] at head; cases head
      | cons g rest => rw [here] at head; cases head; simp [route]
  rw [heads, List.mem_filterMap]
  constructor
  · rintro ⟨i, mem, found⟩
    obtain ⟨rfl, rest⟩ := (channel i).mp found
    exact ⟨Nat.mod_lt _ (by decide), rest⟩
  · rintro ⟨bound, rest⟩
    exact ⟨(n + 48 * start - start) % 48, List.mem_range.mpr (Nat.mod_lt _ (by decide)), (channel _).mpr ⟨by omega, rest⟩⟩

/-- What the chosen flit of a port is. -/
theorem chosen_spec {s : State} {t : TileId} {port n : Nat} {f : Flit} (choice : chosen s t port = some (n, f)) :
    n < 48 ∧ (chanAt s.weave (chanOfNumber t n)).head? = some f ∧ routePort t f = port ∧
    downstreamRoom s t (n / 8) port f = true ∧
    (∀ m g, m < 48 → (chanAt s.weave (chanOfNumber t m)).head? = some g → routePort t g = port →
      downstreamRoom s t (m / 8) port g = true → urgency g ≤ urgency f) := by
  obtain ⟨mem, room⟩ := List.mem_filter.mp (bestBy_mem _ choice)
  obtain ⟨bound, head, route⟩ := mem_heads.mp mem
  exact ⟨bound, head, route, room, fun m g small front way free =>
    bestBy_max _ choice (m, g) (List.mem_filter.mpr ⟨mem_heads.mpr ⟨small, front, way⟩, free⟩)⟩

/-! ## The move of the chosen flit -/

section Forward

variable {s : State} {t : TileId} {port : BitVec 3} {waited : BitVec 5} (up : tileUp s t = true)
include up

theorem exec_flitForward_chosen {n : Nat} {f : Flit} (small : port.toNat < 5)
    (choice : chosen s t port.toNat = some (n, f)) :
    exec (.flitForward t port waited) s = .next (moveOn s t port.toNat n f waited) := by
  obtain ⟨bound, head, route, -, -⟩ := chosen_spec choice
  have some : heads s.weave t port.toNat 0 ≠ [] := List.ne_nil_of_mem (mem_heads.mpr ⟨bound, head, route⟩)
  have local5 : ¬ (port = 5 ∧ t = 63 ∧ badRequest f = true) := by rintro ⟨rfl, -⟩; exact absurd small (by decide)
  rw [exec_flitForward, execFlitForward, if_neg (by omega), up, if_neg (by simp), if_neg some, choice]
  exact if_neg local5

theorem exec_flitForward_none (small : port.toNat < 6) (some : heads s.weave t port.toNat 0 ≠ [])
    (none : chosen s t port.toNat = none) : exec (.flitForward t port waited) s = .next s := by
  rw [exec_flitForward, execFlitForward, if_neg (by omega), up, if_neg (by simp), if_neg some, none]

end Forward

/-- The weave after the flit at the head of a link's channel has left its slot. -/
def slotLeft (w : Weave) (t : TileId) (n : Nat) : Weave :=
  { w with chans := mset [] w.chans (chanOfNumber t n) (chanAt w (chanOfNumber t n)).tail
           owed := mset 0 w.owed (chanOfNumber t n) (mget 0 w.owed (chanOfNumber t n) + 1) }

theorem leaveSlot_link (s : State) (t : TileId) {n : Nat} (link : n < 32) :
    leaveSlot s t n = { s with weave := slotLeft s.weave t n } := by
  rw [leaveSlot]
  exact if_pos (by omega)

theorem finishRelease_none {t : TileId} (none : lockQuad t = none) (s : State) : finishRelease s t = s := by
  rw [finishRelease, none]

/-- The weave in which the probes have seen a flit leave. -/
def seenLeaving (s : State) (t : TileId) (port n : Nat) (f : Flit) (waited : BitVec 5) : Weave :=
  { s.weave with probes := probesSee s.weave s.time.beat t port true { f with vc := nextVc t (n / 8) port f }
                             (f.waits + waited.toNat) }

/-- An I-structure read that reaches its port waits there. -/
theorem deliver_iread (s : State) (t : TileId) (extra : Bool) {f : Flit} {q : IReq} (msg : f.msg = .iread q) :
    deliver s t extra f =
      { s with weave := setOut s.weave (outKey t extra f.vn) (outAt s.weave (outKey t extra f.vn) ++ [f]) } := by
  cases f; subst msg; rfl

section MoveOn

variable {s : State} {t : TileId} {port n : Nat} {f : Flit} {waited : BitVec 5} (unlocked : lockQuad t = none) (link : n < 32)
include unlocked link

theorem moveOn_link (out : port < 4) : moveOn s t port n f waited = { s with
    weave := enter (slotLeft (seenLeaving s t port n f waited) t n) s.time.beat (neighbour t port) (farPort port)
      { f with vc := nextVc t (n / 8) port f, waits := 0 } } := by
  rw [moveOn, finishRelease_none unlocked]
  simp only [leaveSlot_link _ t link, if_pos out]
  rfl

theorem moveOn_local {q : IReq} (msg : f.msg = .iread q) : moveOn s t 4 n f waited = { s with
    weave := setOut (slotLeft (seenLeaving s t 4 n f waited) t n) (outKey t false f.vn)
      (outAt s.weave (outKey t false f.vn) ++ [{ f with waits := 0 }]) } := by
  rw [moveOn, finishRelease_none unlocked]
  simp only [leaveSlot_link _ t link]
  rw [if_neg (show ¬ 4 < 4 by decide), deliver_iread _ t _ (f := { f with waits := 0 }) msg]
  rfl

end MoveOn

/-! ## Channels of two tiles -/

theorem neighbour_ne (t : TileId) (port : Nat) : neighbour t port ≠ t := by
  have step (x : BitVec 3) : x + 1 ≠ x ∧ x - 1 ≠ x := by revert x; decide
  have atX (x y : BitVec 3) : tileX (tileAt x y) = x := by revert x y; decide
  have atY (x y : BitVec 3) : tileY (tileAt x y) = y := by revert x y; decide
  intro same
  unfold neighbour at same
  split at same
  · exact (step (tileX t)).1 ((atX ..).symm.trans (congrArg tileX same))
  · exact (step (tileX t)).2 ((atX ..).symm.trans (congrArg tileX same))
  · exact (step (tileY t)).1 ((atY ..).symm.trans (congrArg tileY same))
  · exact (step (tileY t)).2 ((atY ..).symm.trans (congrArg tileY same))

theorem chanOfNumber_ne_chanKey {t t' : TileId} (other : t' ≠ t) {port n : Nat} (small : port < 6) (bound : n < 48) (vn : BitVec 2)
    (vc : BitVec 1) : chanOfNumber t n ≠ chanKey t' port vn vc := by
  intro same
  have := vn.isLt
  have := vc.isLt
  rw [chanOfNumber, chanKey] at same
  exact other (BitVec.eq_of_toNat_eq (by omega))

theorem farPort_lt (port : Nat) : farPort port < 6 := by unfold farPort; split <;> decide

end Sys2Proof.Machine

namespace Sys2Proof.Routers

open Sys2Proof Sys2Proof.Machine

/-- Settles O40: a port's choice is the most urgent head with room; on a link it leaves one channel and enters another,
since a link leads to another tile. -/
theorem routersMoveFlits : Obligations.RoutersMoveFlits := by
  intro s t up
  refine ⟨fun port waited n f small choice => ?_, fun port waited small some none => exec_flitForward_none up small some none,
    ?_⟩
  · obtain ⟨bound, head, route, room, most⟩ := chosen_spec choice
    refine ⟨head, route, room, most, fun out link unlocked => ?_, fun q out link unlocked msg => ?_⟩
    · have serves := exec_flitForward_chosen (waited := waited) up (by omega) choice
      rw [moveOn_link unlocked link out] at serves
      have apart := chanOfNumber_ne_chanKey (neighbour_ne t port.toNat) (farPort_lt port.toNat) bound f.vn (nextVc t (n / 8) port.toNat f)
      refine ⟨_, serves, rfl, ?_, mget_mset_same 0 s.weave.owed (chanOfNumber t n) (mget 0 s.weave.owed (chanOfNumber t n) + 1), ?_, rfl, rfl, fun j notHere notThere => ?_⟩
      · exact (mget_mset_other _ _ apart.symm _).trans (mget_mset_same ..)
      · refine (mget_mset_same ..).trans (congrArg (· ++ _) ?_)
        exact mget_mset_other _ _ apart _
      · exact (mget_mset_other _ _ (Ne.symm notThere) _).trans (mget_mset_other _ _ (Ne.symm notHere) _)
    · have serves := exec_flitForward_chosen (waited := waited) up (by omega) choice
      rw [out, moveOn_local unlocked link msg] at serves
      exact ⟨_, serves, rfl, mget_mset_same .., mget_mset_same ..⟩
  · intro port vn vc k
    refine ⟨fun small owes => ?_, fun f g small => ⟨fun rest here => ?_, fun here => ?_⟩⟩
    · have serves : exec (.creditReturn t port vn vc) s = .next { s with weave := { s.weave with
          owed := mset 0 s.weave.owed k (mget 0 s.weave.owed k - 1) } } := by
        rw [exec_creditReturn, execCreditReturn]
        simp only [if_neg (not_le.mpr small), up, Bool.not_true, Bool.false_eq_true, if_false]
        exact if_neg owes
      refine ⟨_, serves, rfl, ?_, fun j other => mget_mset_other _ _ (Ne.symm other) _⟩
      exact (congrArg (· + 1) (mget_mset_same ..)).trans (Nat.sub_add_cancel (Nat.pos_of_ne_zero owes))
    · have serves : exec (.ageIncrement t port vn vc false) s = .next { s with weave := { s.weave with
          chans := mset [] s.weave.chans k (aged f :: rest) } } := by
        rw [exec_ageIncrement, execAgeIncrement]
        simp only [if_neg (not_le.mpr small), up, Bool.not_true, Bool.false_eq_true, if_false]
        rw [if_neg (by rw [here]; simp), here]
        rfl
      exact ⟨_, serves, rfl, mget_mset_same [] s.weave.chans k (aged f :: rest)⟩
    · have serves : exec (.ageIncrement t port vn vc true) s = .next { s with weave := { s.weave with
          chans := mset [] s.weave.chans k [g, aged f] } } := by
        rw [exec_ageIncrement, execAgeIncrement]
        simp only [if_neg (not_le.mpr small), up, Bool.not_true, Bool.false_eq_true, if_false]
        rw [if_neg (by rw [here]; simp), here]
        rfl
      exact ⟨_, serves, rfl, mget_mset_same [] s.weave.chans k [g, aged f]⟩

end Sys2Proof.Routers
end

/-! # Flow locks and iteration bases (R140, R347 to R353) -/

section
namespace Sys2Proof.Machine

open Sys2Proof

theorem exec_lockAcquireRequest (q s) : exec (.lockAcquireRequest q) s = execLockAcquireRequest q s := rfl
theorem exec_lockNotice (t s) : exec (.lockNotice t) s = execLockNotice t s := rfl
theorem exec_lockNoticeAck (t q s) : exec (.lockNoticeAck t q) s = execLockNoticeAck t q s := rfl
theorem exec_lockAckReceive (q s) : exec (.lockAckReceive q) s = execLockAckReceive q s := rfl
theorem exec_lockReleaseRequest (q s) : exec (.lockReleaseRequest q) s = execLockReleaseRequest q s := rfl
theorem exec_unlockNotice (t s) : exec (.unlockNotice t) s = execUnlockNotice t s := rfl
theorem exec_iterBaseNotice (t s) : exec (.iterBaseNotice t) s = execIterBaseNotice t s := rfl

theorem lockQuad_lockTile (q : BitVec 2) : lockQuad (lockTile q) = some q := by revert q; decide

/-! ## Requests to a lock unit -/

section Unit

variable {s : State} {q : BitVec 2} {f : Flit} (up : tileUp s (lockTile q) = true)
include up

theorem exec_lockAcquireRequest_serves (head : takeHead s.weave (lockTile q) false 1 isLockRequest isAcquire = some f) :
    exec (.lockAcquireRequest q) s =
      .next (if (unitAt s.locks q).work = .none then acquire (taken s (lockTile q) false f) q f else s) := by
  rw [exec_lockAcquireRequest, execLockAcquireRequest, up, if_neg (by simp), head]

theorem exec_lockAckReceive_serves (head : takeHead s.weave (lockTile q) false 2 isAckLock isAckLock = some f) :
    exec (.lockAckReceive q) s = .next (countAck (taken s (lockTile q) false f) q) := by
  rw [exec_lockAckReceive, execLockAckReceive, up, if_neg (by simp), head]

theorem exec_lockReleaseRequest_serves (head : takeHead s.weave (lockTile q) false 1 isLockRequest isRelease = some f) :
    exec (.lockReleaseRequest q) s = .next (if (unitAt s.locks q).work = .none then
      finishRelease (release (taken s (lockTile q) false f) q f.msg) (lockTile q) else s) := by
  rw [exec_lockReleaseRequest, execLockReleaseRequest, up, if_neg (by simp), head]

end Unit

theorem acquire_eq {f : Flit} {q' ctx fl tag dl tf} (msg : f.msg = .acquire q' ctx fl tag dl tf) (s : State)
    (q : BitVec 2) : acquire s q f = acquireFor s q f.pri ctx fl tag dl tf := by
  rw [acquire, msg]

section Acquire

variable {s : State} {q pri : BitVec 2} {ctx : BitVec 14} {fl : BitVec 12} {tag : W64} {dl : BitVec 20} {tf : BitVec 12}

theorem acquireFor_held {i : Nat} {l : Lock} (slot : slotOfFlow (unitAt s.locks q) fl = some (i, l)) (own : l.owner = ctx) :
    acquireFor s q pri ctx fl tag dl tf =
      { unitSend s q pri (.token (tokenTo tag 0 dl tf 0)) with time := markProgress s.time } := by
  rw [acquireFor, slot]
  exact if_pos own

theorem acquireFor_refused (no : (∃ i l, slotOfFlow (unitAt s.locks q) fl = some (i, l) ∧ l.owner ≠ ctx) ∨
      (slotOfFlow (unitAt s.locks q) fl = none ∧ freeSlot (unitAt s.locks q) = none)) :
    acquireFor s q pri ctx fl tag dl tf = unitSend { s with
        locks := setUnit s.locks q
          { unitAt s.locks q with refused := satAdd (unitAt s.locks q).refused 1 } } q pri
      (.token (tokenTo tag (fFlowLock.setWidth 64) dl tf flagPoison)) := by
  rw [acquireFor]
  rcases no with ⟨i, l, slot, other⟩ | ⟨slot, full⟩
  · rw [slot]; exact if_neg other
  · rw [slot, full]

theorem acquireFor_free {i : Nat} (slot : slotOfFlow (unitAt s.locks q) fl = none)
    (free : freeSlot (unitAt s.locks q) = some i) :
    acquireFor s q pri ctx fl tag dl tf = unitNotices { s with
        locks := setUnit s.locks q
          { unitAt s.locks q with slots := mset none (unitAt s.locks q).slots i (some ⟨fl, ctx⟩),
                                  work := .granting (BitVec.ofNat 6 i) tag dl tf pri 0 } } q
      (.lock q (BitVec.ofNat 6 i) fl ctx) := by
  rw [acquireFor, slot, free]

end Acquire

theorem freeSlot_spec {u : LockUnit} {i : Nat} (free : freeSlot u = some i) : i < 64 ∧ mget none u.slots i = none := by
  rw [freeSlot] at free
  exact ⟨List.mem_range.mp (List.mem_of_find?_eq_some free), by simpa using List.find?_some free⟩

theorem unitNotices_eq (s : State) (q : BitVec 2) (m : Msg) : unitNotices s q m = produceAll s (lockTile q) false
    ((List.range 64).map fun n => ⟨6, none, mkNotice (lockTile q) (BitVec.ofNat 6 n) m⟩) := by
  rw [unitNotices, allTiles, List.map_map]
  rfl

theorem countAck_last {s : State} {q : BitVec 2} {slot tag dl tf pri}
    (work : (unitAt s.locks q).work = .granting slot tag dl tf pri 63) : countAck s q =
      unitSend { s with locks := setUnit s.locks q { unitAt s.locks q with work := .none }, time := markProgress s.time } q pri
        (.token (tokenTo tag 0 dl tf 0)) := by
  rw [countAck, work]
  exact if_pos rfl

theorem countAck_more {s : State} {q : BitVec 2} {slot tag dl tf pri acks}
    (work : (unitAt s.locks q).work = .granting slot tag dl tf pri acks) (more : acks ≠ 63) : countAck s q =
      { s with locks := setUnit s.locks q { unitAt s.locks q with work := .granting slot tag dl tf pri (acks + 1) } } := by
  rw [countAck, work]
  exact if_neg more

theorem release_owner {s : State} {q : BitVec 2} {q' ctx fl} {i : Nat} {l : Lock}
    (slot : slotOfFlow (unitAt s.locks q) fl = some (i, l)) (own : l.owner = ctx) : release s q (.release q' ctx fl) =
      unitNotices { s with locks := setUnit s.locks q { unitAt s.locks q with work := .releasing (BitVec.ofNat 6 i) } } q
        (.unlock q (BitVec.ofNat 6 i)) := by
  rw [release, slot]
  exact if_pos own

theorem release_other {s : State} {q : BitVec 2} {q' ctx fl} {i : Nat} {l : Lock}
    (slot : slotOfFlow (unitAt s.locks q) fl = some (i, l)) (other : l.owner ≠ ctx) :
    release s q (.release q' ctx fl) = s := by
  rw [release, slot]
  exact if_neg other

theorem finishRelease_idle {s : State} {q : BitVec 2} (idle : (unitAt s.locks q).work = .none) :
    finishRelease s (lockTile q) = s := by
  rw [finishRelease, lockQuad_lockTile]
  simp only [idle]

/-! ## Notices at a tile -/

section Notice

variable {s : State} {t : TileId} {f : Flit} (up : tileUp s t = true)
include up

theorem exec_lockNotice_serves (head : takeHead s.weave t false 3 isMirrorNotice isLock = some f) :
    exec (.lockNotice t) s = .next (mirrorNotice (taken s t false f) t f.msg) := by
  rw [exec_lockNotice, execLockNotice, up, if_neg (by simp), head]

theorem exec_unlockNotice_serves (head : takeHead s.weave t false 3 isMirrorNotice isUnlock = some f) :
    exec (.unlockNotice t) s = .next (mirrorNotice (taken s t false f) t f.msg) := by
  rw [exec_unlockNotice, execUnlockNotice, up, if_neg (by simp), head]

theorem exec_iterBaseNotice_serves (head : takeHead s.weave t false 3 isIterBase isIterBase = some f) :
    exec (.iterBaseNotice t) s = .next (tileBase (taken s t false f) t f.msg) := by
  rw [exec_iterBaseNotice, execIterBaseNotice, up, if_neg (by simp), head]

theorem exec_lockNoticeAck_owed {q : BitVec 2} {o : BitVec 2 × Lock}
    (owed : (mget [] s.locks.owed t.toNat).find? (fun o => o.1 == q) = some o) :
    exec (.lockNoticeAck t q) s = if ∃ i : BitVec 2, runsBlocked s q o.2 (cellOf t i) = true then .next s else
      .next (produceLocal { s with locks := { s.locks with
          owed := mset [] s.locks.owed t.toNat ((mget [] s.locks.owed t.toNat).erase o) } } t 5
        (mkFlit s t 3 .strand (.ackLock q))) := by
  have all (p : BitVec 2 → Bool) : [0, 1, 2, 3].any p = true ↔ ∃ i, p i = true := by
    rw [List.any_eq_true]
    have every (i : BitVec 2) : i ∈ [0, 1, 2, 3] := by revert i; decide
    exact ⟨fun ⟨i, _, h⟩ => ⟨i, h⟩, fun ⟨i, h⟩ => ⟨i, every i, h⟩⟩
  rw [exec_lockNoticeAck, execLockNoticeAck, up, if_neg (by simp)]
  simp only [owed]
  by_cases blocked : ∃ i : BitVec 2, runsBlocked s q o.2 (cellOf t i) = true
  · rw [if_pos blocked, if_pos ((all _).mpr blocked)]
  · rw [if_neg blocked, if_neg (fun h => blocked ((all _).mp h))]

end Notice

/-! ## A new iteration base -/

theorem tileOf_cellOf (t : TileId) (i : BitVec 2) : tileOf (cellOf t i) = t := by revert t i; decide

theorem cellOf_inj {t : TileId} {i j : BitVec 2} (same : cellOf t i = cellOf t j) : i = j := by
  have slot (t : TileId) (i : BitVec 2) : slotOf (cellOf t i) = i := by revert t i; decide
  exact (slot t i).symm.trans ((congrArg slotOf same).trans (slot t j))

/-- What a change of some cells of a tile in turn does to the list of cells. -/
def tileCells (g : Cell → Cell) (t : TileId) (is : List (BitVec 2)) (m : List (Nat × Cell)) : List (Nat × Cell) :=
  is.foldl (fun m i => cellsSet m (cellOf t i) (g (mget Cell.clear m (cellOf t i).toNat))) m

theorem mget_tileCells_other (g : Cell → Cell) (t : TileId) {d : CellId} (is : List (BitVec 2))
    (other : ∀ i ∈ is, cellOf t i ≠ d) (m : List (Nat × Cell)) :
    mget Cell.clear (tileCells g t is m) d.toNat = mget Cell.clear m d.toNat := by
  induction is generalizing m with
  | nil => rfl
  | cons i is ih =>
    refine (ih (fun j mem => other j (List.mem_cons_of_mem _ mem)) _).trans (mget_mset_other _ _ ?_ _)
    exact fun same => other i List.mem_cons_self (BitVec.eq_of_toNat_eq same)

theorem mget_tileCells_mem (g : Cell → Cell) (t : TileId) {i : BitVec 2} {is : List (BitVec 2)} (distinct : is.Nodup)
    (mem : i ∈ is) (m : List (Nat × Cell)) :
    mget Cell.clear (tileCells g t is m) (cellOf t i).toNat = g (mget Cell.clear m (cellOf t i).toNat) := by
  induction is generalizing m with
  | nil => cases mem
  | cons j is ih =>
    obtain ⟨fresh, distinct⟩ := List.nodup_cons.mp distinct
    rcases List.mem_cons.mp mem with rfl | mem
    · refine (mget_tileCells_other g t is (fun j mem same => ?_) _).trans (mget_mset_same ..)
      exact fresh (cellOf_inj same ▸ mem)
    · refine (ih distinct mem _).trans (congrArg g (mget_mset_other _ _ ?_ _))
      exact fun same => fresh (cellOf_inj (BitVec.eq_of_toNat_eq same) ▸ mem)

theorem tileBase_eq {s : State} {t : TileId} {ctx : BitVec 14} (ok : eccAt s.mem (descAddr ctx) = .ok) (base : BitVec 16) :
    tileBase s t (.iterBase ctx base) =
      { s with cells := tileCells (newBase (ctxWindow s.mem ctx) ctx base) t [0, 1, 2, 3] s.cells } := by
  have same : readDescriptor s.mem ctx 0 = s.mem := by
    have address : (BitVec.ofNat 48 (descAddr ctx + 8 * 0) : Addr).toNat = descAddr ctx := by
      have := ctx.isLt
      rw [BitVec.toNat_ofNat, descAddr]; omega
    rw [readDescriptor]
    split
    · rfl
    · exact checkWord_of_ok (by rw [address, ok]) _
  rw [tileBase]
  simp only [same]
  rfl

end Sys2Proof.Machine

namespace Sys2Proof.Locks

open Sys2Proof Sys2Proof.Machine

/-- Settles O41: each lock unit command is one case of its state's work and slots, each notice one change of its tile's
mirror, and a new base one change of each of the tile's four cells. -/
theorem flowLocks : Obligations.FlowLocks := by
  intro s q f u lt
  refine ⟨fun up => ⟨fun q' ctx fl tag dl tf head msg => ?_, fun slot tag dl tf pri acks head work => ?_,
    fun q' ctx fl i l head msg => ?_⟩, fun t0 r slot fl owner up => ⟨fun head msg => ?_, fun head msg => ?_,
    fun o owed => ?_, fun ctx base head msg ok => ?_⟩⟩
  · have serves := exec_lockAcquireRequest_serves up head
    rw [acquire_eq msg] at serves
    refine ⟨fun busy => by rw [serves, if_neg busy], fun idle => ?_⟩
    rw [if_pos idle] at serves
    refine ⟨fun i l held own => ?_, fun no => ?_, fun i new free => ?_⟩
    · exact serves.trans (congrArg _ (acquireFor_held (s := taken s lt false f) held own))
    · exact serves.trans (congrArg _ (acquireFor_refused (s := taken s lt false f) no))
    · obtain ⟨small, empty⟩ := freeSlot_spec free
      refine ⟨small, empty, serves.trans (congrArg _ ?_)⟩
      exact (acquireFor_free (s := taken s lt false f) new free).trans (unitNotices_eq ..)
  · have serves := exec_lockAckReceive_serves up head
    refine ⟨fun more => ?_, fun last => ?_⟩
    · exact serves.trans (congrArg _ (countAck_more (s := taken s lt false f) work more))
    · subst last
      exact serves.trans (congrArg _ (countAck_last (s := taken s lt false f) work))
  · have serves := exec_lockReleaseRequest_serves up head
    refine ⟨fun busy => by rw [serves, if_neg busy], fun idle held => ⟨fun other => ?_, fun own => ?_⟩⟩
    · rw [if_pos idle, msg, release_other (s := taken s lt false f) held other] at serves
      exact serves.trans (congrArg _ (finishRelease_idle (s := taken s lt false f) idle))
    · rw [if_pos idle, msg, release_owner (s := taken s lt false f) held own, unitNotices_eq] at serves
      exact serves
  · have serves := exec_lockNotice_serves up head
    rw [msg] at serves
    exact ⟨_, serves, mget_mset_same .., rfl, mget_mset_same .., rfl⟩
  · have serves := exec_unlockNotice_serves up head
    rw [msg] at serves
    have mirror : mirrorAt (mirrorNotice (taken s t0 false f) t0 (.unlock r slot)).locks t0 =
      mdrop (64 * r.toNat + slot.toNat) (mirrorAt s.locks t0) := mget_mset_same ..
    refine ⟨_, serves, ?_, ?_, rfl, rfl, rfl⟩
    · rw [mirror]
      exact fun e mem => by simpa using (List.mem_filter.mp mem).2
    · rw [mirror]
      exact fun e other => ⟨fun mem => (List.mem_filter.mp mem).1, fun mem => List.mem_filter.mpr ⟨mem, by simpa using other⟩⟩
  · have serves := exec_lockNoticeAck_owed up owed
    refine ⟨fun free => ?_, fun blocked => serves.trans (if_pos blocked)⟩
    rw [if_neg (by simp [free])] at serves
    exact serves
  · have serves := exec_iterBaseNotice_serves up head
    rw [msg, tileBase_eq (s := taken s t0 false f) ok] at serves
    have here (i : BitVec 2) := mget_tileCells_mem (newBase (ctxWindow s.mem ctx) ctx base) t0
      (show [(0 : BitVec 2), 1, 2, 3].Nodup by decide) (show i ∈ [0, 1, 2, 3] by revert i; decide) s.cells
    refine ⟨_, serves, rfl, fun i => ⟨?_, (congrArg Cell.engine (here i)).trans rfl⟩, fun d other => ?_⟩
    · exact (congrArg (fun x : Cell => mget none x.bases ctx.toNat) (here i)).trans (mget_mset_same none _ ctx.toNat (some base))
    · refine mget_tileCells_other _ t0 _ (fun i _ same => ?_) _
      exact other (same ▸ tileOf_cellOf t0 i)

end Sys2Proof.Locks
end

/-! # The beat boundary (R86, R98, R164, R325, R356, R362) -/

section
namespace Sys2Proof.Machine

open Sys2Proof

theorem exec_beatBoundary (s) : exec .beatBoundary s = execBeatBoundary s := rfl

/-! ## Answers -/

theorem readDlOffset_enters (s : State) (c : BitVec 14) : Enters s (readDlOffset s c).1 := by
  rw [readDlOffset]
  split <;> exact ⟨rfl, readDescriptor_shape ..⟩

theorem hookToken_enters (s : State) (flags : BitVec 10) (serial : BitVec 16) (flow : BitVec 12) (v : W64) :
    Enters s (hookToken s flags serial flow v).1 := readDlOffset_enters ..

theorem answerOffer_enters (s : State) (r : Req) (i : Nat) (v : W64) : Enters s (answerOffer s r i v).1 := by
  rw [answerOffer]
  split
  · exact hookToken_enters s kindSystem (r.serial + BitVec.ofNat 16 i) r.code v
  · exact Enters.refl s

/-- What each step of a fold keeps, the whole fold keeps. -/
theorem Enters.foldl {α : Type} {g : State → α → State} (step : ∀ s a, Enters s (g s a)) (l : List α) (s : State) :
    Enters s (l.foldl g s) := by
  induction l generalizing s with
  | nil => exact Enters.refl s
  | cons a l ih => exact (step s a).trans (ih _)

theorem sendAnswer_enters (s : State) (a : Answer) : Enters s (sendAnswer s a) :=
  Enters.foldl (fun s _ => (answerOffer_enters s ..).trans (produce_enters ..)) _ s

/-- The state with other answers kept. -/
def setReady (s : State) (r : List (Nat × Answer)) : State := { s with stw := { s.stw with ready := r } }

/-- Answers that leave change the answers kept, and enter their flits. -/
theorem flushAnswers_enters (s : State) : ∃ r, Enters (setReady s r) (flushAnswers s) := by
  refine ⟨s.stw.ready.filter (fun e => !mayLeave s e.2), ?_⟩
  rw [flushAnswers]
  generalize s.stw.ready.filter (fun e => !mayLeave s e.2) = kept
  generalize s.stw.ready.filter (fun e => mayLeave s e.2) = leaving
  exact Enters.foldl (g := fun (s : State) (e : Nat × Answer) => sendAnswer s e.2) (fun s e => sendAnswer_enters s e.2)
    leaving (setReady s kept)

theorem answer_enters (s : State) (r : Req) (status : BitVec 8) (data : List W64) :
    ∃ k, Enters (setReady s k) (answer s r status data) := by
  rw [answer]
  exact flushAnswers_enters (setReady s (minsert r.taken ⟨r, status, data⟩ s.stw.ready))

/-! ## What the work of a boundary leaves as it was -/

/-- Time, the collector, every byte of memory, the inbox, and each cell's queue and refusals are as they were; no request
joins those that wait for a freeze or a boundary. -/
structure Calm (s t : State) : Prop where
  time : t.time = s.time
  tab : t.tab = s.tab
  bytes : SameBytes s.mem t.mem
  inbox : t.stw.inbox = s.stw.inbox
  queue : ∀ d, (cellAt t d).queue = (cellAt s d).queue
  refusing : ∀ d, (cellAt t d).refusing = (cellAt s d).refusing
  tableau : s.stw.tableau = [] → t.stw.tableau = []
  counters : s.stw.counters = [] → t.stw.counters = []

theorem Calm.refl (s : State) : Calm s s := ⟨rfl, rfl, fun _ => rfl, rfl, fun _ => rfl, fun _ => rfl, id, id⟩

theorem Calm.trans {a b c : State} (h : Calm a b) (g : Calm b c) : Calm a c :=
  ⟨g.time.trans h.time, g.tab.trans h.tab, fun x => (g.bytes x).trans (h.bytes x), g.inbox.trans h.inbox,
    fun d => (g.queue d).trans (h.queue d), fun d => (g.refusing d).trans (h.refusing d), g.tableau ∘ h.tableau,
    g.counters ∘ h.counters⟩

theorem Enters.calm {s t : State} (h : Enters s t) : Calm s t :=
  ⟨h.time, h.tab, h.sameBytes, by rw [h.stw], fun d => by rw [h.cellAt], fun d => by rw [h.cellAt],
    fun none => by rw [h.stw, none], fun none => by rw [h.stw, none]⟩

theorem Calm.foldl {α : Type} {g : State → α → State} (step : ∀ s a, Calm s (g s a)) (l : List α) (s : State) :
    Calm s (l.foldl g s) := by
  induction l generalizing s with
  | nil => exact Calm.refl s
  | cons a l ih => exact (step s a).trans (ih _)

/-- A change of the steward that leaves its inbox and adds no request to those that wait. -/
theorem calm_stw (s : State) {k : Steward} (inbox : k.inbox = s.stw.inbox)
    (tableau : s.stw.tableau = [] → k.tableau = []) (counters : s.stw.counters = [] → k.counters = []) :
    Calm s { s with stw := k } :=
  ⟨rfl, rfl, fun _ => rfl, inbox, fun _ => rfl, fun _ => rfl, tableau, counters⟩

/-- A change of a cell that leaves its queue and its refusals. -/
theorem calm_setCell (s : State) {c : CellId} {x : Cell} (queue : x.queue = (cellAt s c).queue)
    (refusing : x.refusing = (cellAt s c).refusing) : Calm s (setCell s c x) := by
  have cell (d : CellId) : cellAt (setCell s c x) d = if c = d then x else cellAt s d := by
    split
    · rename_i same; subst same; exact cellAt_setCell_same ..
    · rename_i other; exact cellAt_setCell_other s other x
  refine ⟨rfl, rfl, fun _ => rfl, rfl, fun d => ?_, fun d => ?_, id, id⟩ <;> rw [cell] <;> split
  · rename_i same; rw [queue, same]
  · rfl
  · rename_i same; rw [refusing, same]
  · rfl

theorem setReady_calm (s : State) (r : List (Nat × Answer)) : Calm s (setReady s r) := calm_stw s rfl id id

theorem answer_calm (s : State) (r : Req) (status : BitVec 8) (data : List W64) : Calm s (answer s r status data) := by
  obtain ⟨k, enters⟩ := answer_enters s r status data
  exact (setReady_calm s k).trans enters.calm

theorem flushAnswers_calm (s : State) : Calm s (flushAnswers s) := by
  obtain ⟨k, enters⟩ := flushAnswers_enters s
  exact (setReady_calm s k).trans enters.calm

theorem answerCounters_calm (s : State) : Calm s (answerCounters s) := by
  rw [answerCounters]
  refine Calm.trans (b := { s with stw := { s.stw with counters := [] } }) (calm_stw s rfl id fun _ => rfl) (Calm.foldl ?_ _ _)
  exact fun s r => answer_calm s ..

theorem answerTableau_calm (s : State) (status : BitVec 8) : Calm s (answerTableau s status) := by
  rw [answerTableau]
  refine Calm.trans (b := { s with stw := { s.stw with tableau := [] } }) (calm_stw s rfl (fun _ => rfl) id) (Calm.foldl ?_ _ _)
  exact fun s r => answer_calm s ..

theorem sendStale_calm (s : State) : Calm s (sendStale s) := by
  rw [sendStale]
  split
  · exact Calm.refl s
  · rename_i v kept
    have noticed : Calm s (noticeToken s 0x080 v).1 := by
      rw [noticeToken]
      exact Calm.trans (b := { s with stw := { s.stw with noticeSerial := s.stw.noticeSerial + 1 } }) (calm_stw s rfl id id)
        (hookToken_enters ..).calm
    dsimp only
    split
    · rw [stewardSend]
      exact noticed.trans (Calm.trans (b := { (noticeToken s 0x080 v).1 with
        stw := { (noticeToken s 0x080 v).1.stw with stale := none } }) (calm_stw _ rfl id id) (produce_enters ..).calm)
    · exact Calm.refl s

theorem askPage_calm (s : State) (c : CellId) (u : PageUse) (ch : Nat) (subject : Option W64) :
    Calm s (askPage s c u ch subject) := by
  rw [askPage]
  exact (calm_setCell s (c := c) (x := { cellAt s c with asks := (cellAt s c).asks ++ [(u, ch)] }) rfl rfl).trans
    (cellSend_enters ..).calm

theorem reaskRecord_calm (s : State) (c : CellId) : Calm s (reaskRecord s c) := by
  rw [reaskRecord]
  split
  · rename_i cause raised trapped stopped
    generalize { engineAt s c with phase := .stopped cause raised trapped true } = e
    exact (calm_setCell s (c := c) (x := { cellAt s c with engine := e }) rfl rfl).trans (askPage_calm ..)
  · exact Calm.refl s

/-- With no token refused, a cell at a boundary asks for its record page at most. -/
theorem reaskCell_calm {s : State} (c : CellId) (none : (cellAt s c).refusing = []) :
    ∃ t, reaskCell s c = .ok t ∧ Calm s t := by
  rw [reaskCell]
  split
  · have channels : [0, 1, 2, 3, 4].filter (fun ch => mget 0 (cellAt s c).refusing ch == 2) = [] := by rw [none]; rfl
    rw [channels]
    exact ⟨_, rfl, reaskRecord_calm s c⟩
  · exact ⟨s, rfl, Calm.refl s⟩

theorem reaskAll_calm (cs : List CellId) {s : State} (none : NoneRefused s) : ∃ t, reaskAll cs s = .ok t ∧ Calm s t := by
  induction cs generalizing s with
  | nil => exact ⟨s, rfl, Calm.refl s⟩
  | cons c cs ih =>
    obtain ⟨u, asked, calm⟩ := reaskCell_calm c (none c)
    obtain ⟨t, rest, calm'⟩ := ih (s := u) (fun d => (calm.refusing d).trans (none d))
    refine ⟨t, ?_, calm.trans calm'⟩
    rw [reaskAll, asked]
    exact rest

theorem answerCounters_none (s : State) : (answerCounters s).stw.counters = [] := by
  rw [answerCounters]
  exact (Calm.foldl (fun s r => answer_calm s ..) _ { s with stw := { s.stw with counters := [] } }).counters rfl

theorem answerTableau_none (s : State) (status : BitVec 8) : (answerTableau s status).stw.tableau = [] := by
  rw [answerTableau]
  exact (Calm.foldl (fun s r => answer_calm s ..) _ { s with stw := { s.stw with tableau := [] } }).tableau rfl

theorem boundaryWork_calm {s : State} (none : NoneRefused s) :
    ∃ t, boundaryWork s = .next t ∧ Calm s t ∧ t.stw.counters = [] := by
  have before : Calm s (sendStale (flushAnswers (answerCounters s))) :=
    (answerCounters_calm s).trans ((flushAnswers_calm _).trans (sendStale_calm _))
  obtain ⟨t, asked, calm⟩ := reaskAll_calm (turnOrder (sendStale (flushAnswers (answerCounters s))))
    (fun d => (before.refusing d).trans (none d))
  refine ⟨t, ?_, before.trans calm, ?_⟩
  case refine_2 =>
    exact calm.counters ((sendStale_calm _).counters ((flushAnswers_calm _).counters (answerCounters_none s)))
  rw [boundaryWork]
  rw [asked]

/-! ## The host face at a boundary -/

/-- Nothing but the host face and what is sent has changed. -/
def HostOnly (s t : State) : Prop := t = { s with out := t.out, host := t.host }

theorem HostOnly.refl (s : State) : HostOnly s s := rfl

theorem HostOnly.trans {a b c : State} (h : HostOnly a b) (g : HostOnly b c) : HostOnly a c := by
  unfold HostOnly at *; rw [g, h]

theorem HostOnly.foldl {α : Type} {g : State → α → State} (step : ∀ s a, HostOnly s (g s a)) (l : List α) (s : State) :
    HostOnly s (l.foldl g s) := by
  induction l generalizing s with
  | nil => exact HostOnly.refl s
  | cons a l ih => exact (step s a).trans (ih _)

theorem HostOnly.calm {s t : State} (h : HostOnly s t) : Calm s t := by
  rw [h]
  exact ⟨rfl, rfl, fun _ => rfl, rfl, fun _ => rfl, fun _ => rfl, id, id⟩

theorem postMsi_hostOnly (s : State) (v : Nat) : HostOnly s (postMsi s v) := by
  rw [postMsi]; split <;> rfl

theorem sendMsi_hostOnly (s : State) (v : Nat) : HostOnly s (sendMsi s v) := by
  rw [sendMsi]
  split
  · rfl
  · split
    · rfl
    · split
      · rfl
      · exact postMsi_hostOnly s v

theorem msiBoundary_hostOnly (s : State) : HostOnly s (msiBoundary s) := by
  rw [msiBoundary]
  split
  · rfl
  · refine HostOnly.trans (b := { s with host := { s.host with msiSent := 0, msiOwed := 0 } }) rfl (HostOnly.foldl ?_ _ _)
    intro u v
    split
    · exact postMsi_hostOnly u v
    · exact HostOnly.refl u

theorem creditBoundary_hostOnly (s : State) : HostOnly s (creditBoundary s) := by
  rw [creditBoundary]
  split
  · rfl
  · dsimp only
    split
    · exact HostOnly.trans (by rfl) (sendMsi_hostOnly ..)
    · rfl

theorem askConsumed_hostOnly (s : State) (g : Ring) : HostOnly s (askConsumed s g) := by
  rw [askConsumed]; split <;> rfl

theorem consumedBoundary_hostOnly (s : State) : HostOnly s (consumedBoundary s) := by
  rw [consumedBoundary]
  split
  · split
    · exact askConsumed_hostOnly ..
    · rfl
  · rfl

theorem ltrMessage_hostOnly (s : State) (c : BitVec 3) : HostOnly s (ltrMessage s c) := by
  rw [ltrMessage]; split <;> rfl

theorem ltrBoundary_hostOnly (s : State) : HostOnly s (ltrBoundary s) := by
  have message := ltrMessage_hostOnly { s with host := { s.host with ltrSent := false } } (ltrCondition s)
  exact HostOnly.trans (HostOnly.trans (by rfl) message) rfl

theorem hostBoundary_hostOnly (s : State) : HostOnly s (hostBoundary s) := by
  rw [hostBoundary]
  split
  · exact (msiBoundary_hostOnly s).trans ((creditBoundary_hostOnly _).trans
      ((consumedBoundary_hostOnly _).trans (ltrBoundary_hostOnly _)))
  · rfl

/-! ## The boundary -/

/-- The credits noted at a boundary are the faces' own: LIMIT, CREDIT and LCREDIT. -/
theorem trackCredits_eq (s : State) : trackCredits s = { s with
    host := (trackCredits s).host, sh := (trackCredits s).sh, rowA := (trackCredits s).rowA, rowB := (trackCredits s).rowB } := by
  rw [trackCredits, trackRows, trackLimit]
  split <;> rfl

theorem scrubKeep_bytes (s : State) : SameBytes s.mem (scrubKeep s) := by
  intro x
  rw [scrubKeep]
  split
  · exact readByte_checkWord ..
  · rfl

theorem staleStep_progress {s : State} (progress : s.time.progress = true) : (staleStep s).1 = 0 := by
  simp only [staleStep, progress, if_true]
  split <;> rfl

/-- What a boundary brings, up to the work that a freeze puts off. -/
structure Crossed (s t : State) : Prop where
  time : ∃ hold stale latched, t.time = timeBoundary (trackCredits s) hold stale latched ∧
    (s.time.progress = true → stale = 0)
  due : s.tab.held = none → ∀ x ∈ s.tab.raised, x ∈ t.tab.due
  bytes : SameBytes s.mem t.mem
  inbox : t.stw.inbox = s.stw.inbox
  queue : ∀ d, (cellAt t d).queue = (cellAt s d).queue
  refusing : ∀ d, (cellAt t d).refusing = (cellAt s d).refusing

theorem Crossed.calm {s t u : State} (h : Crossed s t) (g : Calm t u) : Crossed s u where
  time := by rw [g.time]; exact h.time
  due := by rw [g.tab]; exact h.due
  bytes x := (g.bytes x).trans (h.bytes x)
  inbox := g.inbox.trans h.inbox
  queue d := (g.queue d).trans (h.queue d)
  refusing d := (g.refusing d).trans (h.refusing d)

theorem crossBoundary_crossed (s : State) : Crossed s (crossBoundary s) := by
  rw [crossBoundary]
  dsimp only
  refine Crossed.calm ?_ (hostBoundary_hostOnly _).calm
  generalize tracked : trackCredits s = u
  have shape := trackCredits_eq s
  rw [tracked] at shape
  have due : s.tab.held = none → ∀ x ∈ s.tab.raised, x ∈ (tabBoundary u.tab (boundaryTriggers u (staleStep u).2.2)).due := by
    intro free x mem
    rw [tabBoundary, if_neg (by rw [shape]; simp [free])]
    refine List.mem_append_left _ (List.mem_append_left _ ?_)
    rw [shape]; exact mem
  have bytes : SameBytes s.mem (scrubKeep u) := by
    have same : u.mem = s.mem := by rw [shape]
    rw [← same]; exact scrubKeep_bytes u
  have cells : ∀ d, cellAt u d = cellAt s d := fun d => by rw [shape]; rfl
  have inbox : u.stw.inbox = s.stw.inbox := by rw [shape]
  have crossed (k : Steward) (stays : k.inbox = u.stw.inbox) : Crossed s { u with
      time := timeBoundary u (staleStep u).2.1 (staleStep u).1 u.tab.held.isNone
      tab := tabBoundary u.tab (boundaryTriggers u (staleStep u).2.2)
      pwr := { u.pwr with vid := descentVid u.pwr, wakeNew := false }
      weave := { u.weave with probes := mmap Probe.idle probeBoundary u.weave.probes }
      mem := scrubKeep u
      stw := k } :=
    { time := ⟨_, _, _, by rw [tracked], fun progress => staleStep_progress (by rw [shape]; exact progress)⟩
      due := due
      bytes := bytes
      inbox := stays.trans inbox
      queue := fun d => congrArg Cell.queue (cells d)
      refusing := fun d => congrArg Cell.refusing (cells d) }
  split
  · split
    · exact crossed _ rfl
    · exact crossed _ rfl
  · split
    · refine Crossed.calm ?_ (answerTableau_calm _ _)
      exact crossed _ rfl
    · refine Crossed.calm ?_ (answerTableau_calm _ _)
      exact crossed u.stw rfl

theorem exec_beatBoundary_crosses {s : State} (clock : s.pwr.clkok = true) (moving : halted s = false)
    (none : NoneRefused s) : ∃ t, exec .beatBoundary s = .next t ∧ Crossed s t := by
  have crossed := crossBoundary_crossed s
  obtain ⟨t, work, calm, -⟩ := boundaryWork_calm (s := crossBoundary s) (fun d => (crossed.refusing d).trans (none d))
  rw [exec_beatBoundary, execBeatBoundary, clock, moving]
  simp only [Bool.not_true, Bool.false_eq_true, if_false]
  split
  · exact ⟨t, work, crossed.calm calm⟩
  · exact ⟨_, rfl, crossed⟩

theorem withholds_trackCredits (s : State) : withholds (trackCredits s) = withholds s := by
  rw [trackCredits_eq]; rfl

end Sys2Proof.Machine
end

/-! # Admission (R98, R121, R145, R532) and the deadline guard (R104) -/

section
namespace Sys2Proof.Machine

open Sys2Proof

theorem exec_admitEvent (s) : exec .admitEvent s = execAdmitEvent s := rfl
theorem exec_deadlineGuardVisit (p s) : exec (.deadlineGuardVisit p) s = execDeadlineGuardVisit p s := rfl

/-! ## The event that is admitted next -/

theorem nextEvent_spec {s : State} {e : OutEvent} (next : nextEvent s = some e) :
    e ∈ s.time.held ∧ e.stamp ≠ s.time.beat ∧
    ∀ g ∈ s.time.held, g.stamp ≠ s.time.beat → admissionRank s g ≤ admissionRank s e := by
  obtain ⟨held, old⟩ := List.mem_filter.mp (bestBy_mem _ next)
  exact ⟨held, by simpa using old, fun g mem late =>
    bestBy_max _ next g (List.mem_filter.mpr ⟨mem, by simpa using late⟩)⟩

theorem admissionRank_le {s : State} {g e : OutEvent} (le : admissionRank s g ≤ admissionRank s e) :
    ageOf s g.stamp ≤ ageOf s e.stamp ∧ (g.stamp = e.stamp → g.rank ≤ 8 → e.rank ≤ g.rank) := by
  rw [admissionRank, admissionRank] at le
  refine ⟨by omega, fun same small => ?_⟩
  rw [same] at le
  omega

section Admit

variable {s : State} {e : OutEvent} (admits : admitting s = true) (steady : s.time.beat ≠ s.time.steadyAt)
  (next : nextEvent s = some e)
include admits steady next

theorem exec_admitEvent_enters {t : State} (enters : admitKind (admitted s e) e = .enters t)
    (done : afterAdmission t e = .next t) : exec .admitEvent s = .next t := by
  rw [exec_admitEvent, execAdmitEvent, if_neg (by simp [admits, steady]), next]
  simp only [enters, done]

theorem exec_admitEvent_waits (waits : admitKind (admitted s e) e = .waits) : exec .admitEvent s = .next s := by
  rw [exec_admitEvent, execAdmitEvent, if_neg (by simp [admits, steady]), next]
  simp only [waits]

end Admit

/-- A face's flags keep KIND and POISON of what arrived. -/
theorem faceFlags_eq (f : BitVec 10) (late : Bool) :
    faceFlags f late false = (f &&& 0x19) ||| (if late then 2 else 0) := by
  rw [faceFlags]
  simp [kindSystem, flagPoison, flagLate]

theorem kindOf_faceFlags (f : BitVec 10) (late : Bool) : kindOf (faceFlags f late false) = kindOf f := by
  have kind : ∀ f : BitVec 10, kindOf (faceFlags f true false) = kindOf f ∧ kindOf (faceFlags f false false) = kindOf f := by
    decide
  cases late
  · exact (kind f).2
  · exact (kind f).1

theorem noticeToken_enters (s : State) (code : BitVec 12) (v : W64) :
    Enters { s with stw := { s.stw with noticeSerial := s.stw.noticeSerial + 1 } } (noticeToken s code v).1 :=
  hookToken_enters ..

/-! ## The deadline guard -/

theorem exec_guardVisit {s : State} (clock : s.pwr.clkok = true) (moving : halted s = false) (place : GuardPlace) :
    exec (.deadlineGuardVisit place) s = .next (guardVisit s place) := by
  rw [exec_deadlineGuardVisit, execDeadlineGuardVisit, clock, moving]
  rfl

theorem guardToken_eq (now : BitVec 20) : guardToken now = fun t => if decide (delta t.deadline now < -2 ^ 18) then
    { t with deadline := now - 0x40000, flags := t.flags ||| 2 } else t := by
  funext t
  rw [guardToken]
  by_cases late : tooLate now t.deadline = true
  · rw [if_pos late, guardDeadline, if_pos late]
    exact (if_pos late).symm
  · rw [if_neg late]
    exact (if_neg late).symm

theorem guardVisit_shape (s : State) (place : GuardPlace) : (guardVisit s place).time.beat = s.time.beat ∧
    ((∀ p, place ≠ .spillPage p) → SameBytes s.mem (guardVisit s place).mem) := by
  cases place with
  | spillPage p => exact ⟨rfl, fun other => absurd rfl (other p)⟩
  | rowTx b => cases b <;> exact ⟨rfl, fun _ _ => rfl⟩
  | _ => exact ⟨rfl, fun _ _ => rfl⟩

/-! ### A spill page -/

theorem sameOutside_refl (m : Mem) (a n : Nat) : SameOutside m m a n := fun _ _ => rfl

theorem sameOutside_within {m m' : Mem} {a b n k : Nat} (same : SameOutside m m' b k) (from' : a ≤ b) (upto : b + k ≤ a + n) :
    SameOutside m m' a n := fun x out => same x (by omega)

theorem sameOutside_trans {m m' m'' : Mem} {a n : Nat} (first : SameOutside m m' a n) (second : SameOutside m' m'' a n) :
    SameOutside m m'' a n := fun x out => (second x out).trans (first x out)

theorem sameOutside_foldl {α : Type} {g : Mem → α → Mem} {a n : Nat} (step : ∀ m i, SameOutside m (g m i) a n)
    (l : List α) (m : Mem) : SameOutside m (l.foldl g m) a n := by
  induction l generalizing m with
  | nil => exact fun _ _ => rfl
  | cons i l ih => exact sameOutside_trans (fun x out => step m i x out) (fun x out => ih _ x out)

theorem guardSlot_outside (now : BitVec 20) (m : Mem) (a : Nat) : SameOutside m (guardSlot now m a) a 20 := fun x out =>
  readByte_writeBytes_outside m a x _ (by rwa [tokenBytes_length])

theorem guardRecord_outside (now : BitVec 20) (m : Mem) (a : Nat) : SameOutside m (guardRecord now m a) a 4096 := by
  intro x out
  have word (m : Mem) (k : Nat) (v : W64) (small : k ≤ 4088) : readByte (writeWord m (a + k) v) x = readByte m x :=
    readByte_writeWord_outside m (a + k) x v (by omega)
  rw [guardRecord]
  dsimp only
  split
  · simp only [List.foldl_cons, List.foldl_nil]
    rw [word _ _ _ (by decide), word _ _ _ (by decide), word _ _ _ (by decide), word _ _ _ (by decide)]
  · rfl

theorem pageAddr_toNat (p : BitVec 13) : (pageAddr p).toNat = p.toNat * 4096 := by
  have := p.isLt
  rw [pageAddr, BitVec.toNat_shiftLeft, BitVec.toNat_setWidth, Nat.shiftLeft_eq]
  omega

theorem guardPage_outside (s : State) (p : BitVec 13) : SameOutside s.mem (guardPage s p) (p.toNat * 4096) 4096 := by
  rw [guardPage, pageAddr_toNat]
  have slots : SameOutside s.mem ((slotsOfPage s p).foldl
      (fun m i => guardSlot (now20 s) m (p.toNat * 4096 + 32 * i.toNat)) s.mem) (p.toNat * 4096) 4096 := by
    refine sameOutside_foldl (fun m (i : BitVec 7) x out => ?_) _ _
    have := i.isLt
    exact sameOutside_within (fun x out => guardSlot_outside (now20 s) m _ x out) (by omega) (by omega) x out
  split
  · exact sameOutside_trans (fun x out => slots x out) (fun x out => guardRecord_outside (now20 s) _ _ x out)
  · exact fun x out => slots x out

/-! ### The packet in progress -/

theorem leNat_leBytes_toNat {n k : Nat} (v : BitVec k) (w : k = 8 * n) : BitVec.ofNat k (leNat (leBytes n v.toNat)) = v := by
  have bound : v.toNat < 256 ^ n :=
    calc v.toNat < 2 ^ k := v.isLt
      _ = 256 ^ n := by rw [w, Nat.pow_mul]
  rw [leNat_leBytes, Nat.mod_eq_of_lt bound, BitVec.ofNat_toNat, BitVec.setWidth_eq]

theorem extract_two {a b : Nat} (x : BitVec a) (y : BitVec b) :
    (x ++ y).extractLsb' 0 b = y ∧ (x ++ y).extractLsb' b a = x := by
  constructor
  · ext j hj; simp [BitVec.getLsbD_append, hj]
  · ext j hj; simp [BitVec.getLsbD_append, BitVec.getLsbD_eq_getElem hj]

theorem tokenOfBytes_tokenBytes (t : Token) : tokenOfBytes (tokenBytes t) = t := by
  have words : tokenOfBytes (tokenBytes t) = tokenOfWords t.value (tokenW2 t) (tokenW3 t) (tokenW4 t) := by
    rw [tokenOfBytes]
    simp [tokenBytes, List.drop_append, List.drop_of_length_le, List.take_of_length_le,
      leNat_leBytes_toNat]
  have three {a b c : Nat} (x : BitVec a) (y : BitVec b) (z : BitVec c) : (x ++ y ++ z).extractLsb' 0 c = z ∧
      (x ++ y ++ z).extractLsb' c b = y ∧ (x ++ y ++ z).extractLsb' (c + b) a = x := by
    refine ⟨?_, ?_, ?_⟩
    · ext j hj; simp [BitVec.getLsbD_append, hj]
    · ext j hj; simp [BitVec.getLsbD_append, hj]
    · ext j hj
      simp [BitVec.getLsbD_append, show ¬ c + b + j < c by omega, show c + b + j - c = b + j by omega,
        BitVec.getLsbD_eq_getElem hj]
  obtain ⟨port, iteration, context⟩ := three t.context t.iteration t.port
  obtain ⟨flags, iaddr, cell⟩ := three t.cell t.iaddr t.flags
  rw [words, tokenOfWords, tokenW2, tokenW3, tokenW4, (extract_two t.deadline t.flow).1, (extract_two t.deadline t.flow).2]
  rw [port, iteration, flags, iaddr, show (t.context ++ t.iteration ++ t.port).extractLsb' 18 14 = t.context from context,
    show (t.cell ++ t.iaddr ++ t.flags).extractLsb' 24 8 = t.cell from cell]

theorem tokensOfBytes_tokenBytes (ts : List Token) {fuel : Nat} (enough : ts.length ≤ fuel) :
    tokensOfBytes fuel (ts.flatMap tokenBytes) = ts := by
  induction ts generalizing fuel with
  | nil => cases fuel <;> simp [tokensOfBytes]
  | cons t ts ih =>
    cases fuel with
    | zero => simp at enough
    | succ fuel =>
      have length := tokenBytes_length t
      rw [tokensOfBytes, List.flatMap_cons, if_neg (by simp [length]), List.take_left' length, List.drop_left' length,
        tokenOfBytes_tokenBytes, ih (by simpa using enough)]

theorem guardPacket_tokens (now : BitVec 20) {p : Packet} {hd : List Byte} {ts : List Token} (tokens : p.dump = false)
    (fresh : p.written = 0) (bytes : p.bytes = hd ++ ts.flatMap tokenBytes) (head : hd.length = 16) (few : ts.length ≤ 32) :
    guardPacket now p = { p with bytes := hd ++ (ts.map (guardToken now)).flatMap tokenBytes } := by
  have each : guardPacketToken now 0 = fun x => tokenBytes (guardToken now x.1) := by
    funext x
    rw [guardPacketToken, if_pos (Nat.zero_le _)]
  have all : ts.zipIdx.flatMap (fun x => tokenBytes (guardToken now x.1)) = (ts.map (guardToken now)).flatMap tokenBytes := by
    conv_rhs => rw [← List.zipIdx_map_fst 0 ts]
    rw [List.map_map, List.flatMap_map]
    rfl
  rw [guardPacket, tokens, bytes, fresh, List.take_left' head, List.drop_left' head, tokensOfBytes_tokenBytes ts few, each, all]
  rfl

end Sys2Proof.Machine

namespace Sys2Proof.Admission

open Sys2Proof Sys2Proof.Machine

/-- Settles O42: what a boundary does after it has stepped its counters leaves them alone; the sequencer's rank orders
stamps before ranks; and the guard's rewriting is a function of one deadline. -/
theorem beatsAdmissionAndGuard : Obligations.BeatsAdmissionAndGuard := by
  refine ⟨fun s clock moving none => ?_, fun s e next => ?_, fun s clock moving => ?_⟩
  · obtain ⟨t, crosses, crossed⟩ := exec_beatBoundary_crosses clock moving none
    obtain ⟨hold, stale, latched, time, zero⟩ := crossed.time
    have shape := trackCredits_eq s
    refine ⟨t, crosses, ?_, fun x => crossed.bytes x, ?_, ?_, fun progress => ?_, ?_, crossed.inbox, crossed.due, crossed.queue⟩
    · rw [time, timeBoundary, shape]
    · rw [time]; exact withholds_trackCredits s
    · rw [time]; rfl
    · rw [time]; exact zero progress
    · rw [time, timeBoundary, shape]
  · obtain ⟨held, old, best⟩ := nextEvent_spec next
    refine ⟨held, old, fun g mem late => admissionRank_le (best g mem late), fun admits steady => ⟨fun v kind => ?_,
      fun u kind legal started => ?_, fun code v kind => ⟨fun before => ?_, fun started => ⟨fun room => ?_, ?_⟩⟩⟩⟩
    · have enters : admitKind (admitted s e) e = .enters (fieldIn (admitted s e) v) := by rw [admitKind, kind]
      have serves := exec_admitEvent_enters admits steady next enters (by rw [afterAdmission, kind])
      by_cases room : s.streams.fieldIn.length < 32
      · rw [fieldIn, if_pos (show (admitted s e).streams.fieldIn.length < 32 from room)] at serves
        exact ⟨_, serves, s.streams.fieldIn, rfl, rfl, by rw [if_pos room]; exact ⟨rfl, rfl⟩⟩
      · rw [fieldIn, if_neg (show ¬ (admitted s e).streams.fieldIn.length < 32 from room)] at serves
        exact ⟨_, serves, s.streams.fieldIn.tail, rfl, rfl, by rw [if_neg room]; exact ⟨rfl, rfl⟩⟩
    · intro s2 u1 f
      have token : ({ u with flags := faceFlags u.flags e.late false } : Token) = u1 := by rw [faceFlags_eq]
      have admits' : admitKind (admitted s e) e =
          if portRoom s2 7 true f.vn then .enters (produceExtra s2 7 f) else .waits := by
        rw [admitKind, kind]
        dsimp only
        rw [token, admitToken]
        dsimp only
        rw [if_neg (show ¬ kindOf u1.flags = 1 by rw [← token, kindOf_faceFlags]; exact legal),
          show (!(admitted s e).stw.started && decide (16 ≤ u1.context.toNat)) = false by
            rw [show (admitted s e).stw.started = true from started]; rfl]
        rfl
      refine ⟨fun room => exec_admitEvent_enters admits steady next (admits'.trans (if_pos room)) ?_, fun full =>
        exec_admitEvent_waits admits steady next (admits'.trans (if_neg (by rw [full]; decide)))⟩
      rw [afterAdmission, kind]
    · have enters : admitKind (admitted s e) e = .enters (admitted s e) := by
        rw [admitKind, kind]
        exact if_neg (by rw [show (admitted s e).stw.started = false from before]; decide)
      exact exec_admitEvent_enters admits steady next enters (by rw [afterAdmission, kind])
    · have enters : admitKind (admitted s e) e =
          .enters (stewardSend (noticeToken (admitted s e) code v).1 (noticeToken (admitted s e) code v).2) := by
        rw [admitKind, kind]
        exact (if_pos started).trans (if_pos room)
      exact exec_admitEvent_enters admits steady next enters (by rw [afterAdmission, kind])
    · have enters := noticeToken_enters (admitted s e) code v
      exact ⟨rfl, rfl, rfl, rfl, rfl, enters.stw, enters.time, enters.sameBytes⟩
  · intro far g
    have guard : guardToken (now20 s) = g := guardToken_eq (now20 s)
    have serves := exec_guardVisit clock moving
    refine ⟨fun place other => ⟨_, serves place, (guardVisit_shape s place).2 other, (guardVisit_shape s place).1⟩,
      fun p => ⟨_, serves _, rfl, fun x out => guardPage_outside s p x out⟩, ⟨_, serves _, ?_, rfl⟩,
      ⟨_, serves _, rfl, ?_, fun none => ?_, fun p here dump => ?_, fun p hd ts here tokens fresh bytes head few => ?_⟩, ?_,
      fun c => ⟨_, serves _, ?_, fun d other => cellAt_setCell_other s (Ne.symm other) _⟩⟩
    · rw [← guard]; rfl
    · rw [← guard]; rfl
    · exact congrArg (Option.map (guardPacket (now20 s))) none
    · refine (congrArg (Option.map (guardPacket (now20 s))) here).trans (congrArg some ?_)
      rw [guardPacket, if_pos dump]
    · rw [← guard, ← guardPacket_tokens (now20 s) tokens fresh bytes head few]
      exact congrArg (Option.map (guardPacket (now20 s))) here
    · rw [serves, ← guard]; rfl
    · refine (congrArg (fun x : Cell => x.queue.map (·.deadline)) (cellAt_setCell_same ..)).trans ?_
      exact List.map_map

end Sys2Proof.Admission
end

/-! # Requests to the steward (R141, R146), and alarms (R105 to R108) -/

section
namespace Sys2Proof.Machine

open Sys2Proof

theorem exec_alarmSet (s) : exec .alarmSet s = execAlarmSet s := rfl
theorem exec_alarmDue (slot s) : exec (.alarmDue slot) s = execAlarmDue slot s := rfl
theorem exec_alarmPendingAdmit (s) : exec .alarmPendingAdmit s = execAlarmPendingAdmit s := rfl

/-! ## A request is taken -/

/-- The token that a request to the steward arrived as. -/
structure AskedBy (code : BitVec 12) (cell : BitVec 8) (v : W64) (t : Token) : Prop where
  flow : t.flow = code
  cell : t.cell = cell
  value : t.value = v

/-- A request with EXT 0 goes to the body of its command. -/
theorem takeRequest_asks {s : State} {code : BitVec 12} {cell : BitVec 8} {v : W64} {r : Req} (asks : Asks s code cell v r)
    {codes : BitVec 12 → Bool} (mine : codes code = true) :
    ∃ t, AskedBy code cell v t ∧ ∀ body, takeRequest s codes body = body (asked s) t r := by
  obtain ⟨up, steady, rcode, number, t, b, rest, inbox, flow, ext, toCell, value, serial⟩ := asks
  refine ⟨t, ⟨flow, toCell, value⟩, fun body => ?_⟩
  have same : (⟨t.iteration, t.flow, r.origin, s.stw.taken⟩ : Req) = r := by
    rw [serial, flow, ← rcode, ← number]
  have after : ({ s with stw := { s.stw with inbox := rest, taken := s.stw.taken + 1 } } : State) = asked s := by
    rw [asked, inbox]; rfl
  rw [takeRequest, up, steady, if_neg (by simp), if_neg (by simp), inbox]
  dsimp only
  rw [if_neg (by rw [flow, mine]; simp), if_neg (by simp [ext]), after, same]

theorem offsetBase_eq {s : State} {t : Token} {o : Origin} {b : BitVec 48} {rest : List (Token × Origin × BitVec 48)}
    (inbox : s.stw.inbox = (t, o, b) :: rest) : offsetBase s = if o = .strand then s.time.beat else b := by
  rw [offsetBase, inbox]
  cases o <;> rfl

/-- A block that lies where it may, with no word in error, reads as its words. -/
theorem readParams_of_ok {s : State} (ok : ∀ x, eccAt s.mem x = .ok) (n : Nat) (a : Addr)
    (places : ∀ i < n, (paramPlace (a + BitVec.ofNat 48 (8 * i))).isSome = true) :
    readParams s a n = (s, (List.range n).map fun i => wordAt s.mem (a + BitVec.ofNat 48 (8 * i))) := by
  induction n generalizing a with
  | zero => rfl
  | succ n ih =>
    have first : readParam s a = (s, wordAt s.mem a) := by
      obtain ⟨pl, place⟩ := Option.isSome_iff_exists.mp (places 0 (by omega))
      rw [Nat.mul_zero, BitVec.add_zero] at place
      rw [readParam, place]
      dsimp only
      rw [wordBad_of_ok (ok _), checkWord_of_ok (ok _)]
      rfl
    have shift (i : Nat) : a + 8 + BitVec.ofNat 48 (8 * i) = a + BitVec.ofNat 48 (8 * (i + 1)) := by
      rw [show 8 * (i + 1) = 8 + 8 * i by ring, BitVec.ofNat_add, BitVec.add_assoc]; rfl
    have rest := ih (a + 8) (fun i small => by rw [shift]; exact places (i + 1) (by omega))
    rw [readParams, first]
    dsimp only
    rw [rest, List.range_succ_eq_map, List.map_cons, List.map_map, Nat.mul_zero, BitVec.add_zero]
    exact Prod.ext rfl (congrArg (wordAt s.mem a :: ·) (List.map_congr_left fun i _ => congrArg (wordAt s.mem) (shift i)))

theorem paramPlaces {v : W64} {n : Nat} (address : paramAddress v n = true) :
    ∀ i < n, (paramPlace ((v.setWidth 48 : Addr) + BitVec.ofNat 48 (8 * i))).isSome = true := by
  rw [paramAddress, Bool.and_eq_true] at address
  exact fun i small => List.all_eq_true.mp address.2 i (List.mem_range.mpr small)

/-! ## Alarms -/

theorem setAlarm_eq (now : BitVec 48) (a : Alarm) (target period : BitVec 48) (tag : W64) :
    setAlarm now a target period tag = if period = 0 ∧ (now - target).toNat < 2 ^ 47 then { Alarm.clear with pend := a.pend }
      else ⟨true, now, target, period, tag, a.pend⟩ := by
  simp only [setAlarm, targetDue, decide_eq_true_eq]

theorem wakeSource_run {s : State} (run : s.pwr.phase = .run) (settled : s.pwr.wakeNew = false) (cause : BitVec 4) :
    wakeSource s cause = s := by
  have same : lowerCause s s.pwr.wakeCause cause = s.pwr.wakeCause := by
    rw [lowerCause, settled]; rfl
  rw [wakeSource, run]
  dsimp only
  rw [wakeAgain, same]
  split <;> rfl

theorem exec_alarmDue_falls {s : State} {slot : BitVec 3} (run : s.pwr.phase = .run) (settled : s.pwr.wakeNew = false)
    (set : (mget Alarm.clear s.time.alarms slot.toNat).set = true)
    (due : (s.time.beat - (mget Alarm.clear s.time.alarms slot.toNat).target).toNat < 2 ^ 47) :
    exec (.alarmDue slot) s = .next { s with time := { s.time with
      alarms := mset Alarm.clear s.time.alarms slot.toNat (alarmFalls (mget Alarm.clear s.time.alarms slot.toNat)
        (dueBeat (mget Alarm.clear s.time.alarms slot.toNat)))
      held := s.time.held ++ if (mget Alarm.clear s.time.alarms slot.toNat).pend.isSome then [] else
        [⟨dueBeat (mget Alarm.clear s.time.alarms slot.toNat), 8, slot.toNat, false, .alarm slot⟩] } } := by
  have on : ¬ s.pwr.phase = .off := by rw [run]; simp
  rw [exec_alarmDue, execAlarmDue]
  dsimp only
  have falls : targetDue s.time.beat (mget Alarm.clear s.time.alarms slot.toNat).target = true := decide_eq_true due
  rw [if_neg on, set, falls, if_neg (by simp)]
  have idle (x : Time) : wakeSource { s with time := x } 5 = { s with time := x } :=
    wakeSource_run (s := { s with time := x }) run settled 5
  exact congrArg _ (idle _)

theorem dueBeat_eq (a : Alarm) : dueBeat a = if (a.armed - a.target).toNat < 2 ^ 47 then a.armed else a.target := by
  rw [dueBeat, targetDue]
  simp only [decide_eq_true_eq]

/-- The fields of an ALARM word (Table 03-7). -/
theorem alarmWord_fields (slot : BitVec 3) (p : PendingAlarm) :
    (alarmWord slot p).extractLsb' 0 48 = p.due ∧ (alarmWord slot p).extractLsb' 48 8 = p.missed ∧
    (alarmWord slot p).extractLsb' 56 3 = slot ∧ (alarmWord slot p).extractLsb' 59 5 = 0 := by
  exact ⟨(extract_two ((0 : BitVec 5) ++ slot ++ p.missed) p.due).1, extract_four (0 : BitVec 5) slot p.missed p.due⟩

theorem setWidth_low48 (v : W64) : v.setWidth 48 = v.extractLsb' 0 48 := by
  ext j hj; simp [hj]

/-- An ALARM_SET whose block is readable: its reserved bits, its tag's, and else the slot that its words set. -/
theorem exec_alarmSet_good {s : State} {cell : BitVec 8} {v : W64} {r : Req} (asks : Asks s 0x010 cell v r)
    (high : cell.extractLsb' 4 4 = 0) (address : paramAddress v 3 = true)
    (plain : blockPlain s.mem (v.setWidth 48) 3 = true) (ok : ∀ x, eccAt s.mem x = .ok) :
    let w := fun (i : Nat) => wordAt s.mem ((v.extractLsb' 0 48 : Addr) + BitVec.ofNat 48 (8 * i))
    let slot := (cell.extractLsb' 0 3).toNat
    exec .alarmSet s =
      if (w 0).extractLsb' 48 16 ≠ 0 ∨ (w 1).extractLsb' 48 16 ≠ 0 then .next (answer (asked s) r stArgument [])
      else if (w 2).extractLsb' 0 10 ≠ 0 then unpredictable 23 (asked s)
      else .next (answer { asked s with time := { s.time with
        alarms := mset Alarm.clear s.time.alarms slot (setAlarm s.time.beat (mget Alarm.clear s.time.alarms slot)
          (if cell.getLsbD 3 then (w 0).extractLsb' 0 48 else offsetBase s + (w 0).extractLsb' 0 48)
          ((w 1).extractLsb' 0 48) (w 2)) } } r stOk []) := by
  intro w slot
  obtain ⟨t, ⟨-, rfl, rfl⟩, takes⟩ := takeRequest_asks asks (codes := (· == 0x010)) rfl
  rw [exec_alarmSet, execAlarmSet]
  dsimp only
  rw [takes, if_neg (by simp [high, address]), if_neg (by rw [show (asked s).mem = s.mem from rfl, plain]; simp),
    readParams_of_ok (s := asked s) ok 3 _ (paramPlaces address)]
  simp only [setWidth_low48]
  rfl

section Pending

variable {s : State} {slot : BitVec 3} {p : PendingAlarm} (admits : admitting s = true)
  (oldest : bestBy (fun x : BitVec 3 × PendingAlarm => (s.time.beat - x.2.due).toNat) (waitingSlots s) = some (slot, p))
include admits oldest

theorem exec_alarmPendingAdmit_waiting : exec .alarmPendingAdmit s =
    .next (if alarmSpace s && alarmRoom s p then admitAlarm s slot p else s) := by
  have found : bestBy (fun x : BitVec 3 × PendingAlarm => ageOf s x.2.due) (waitingSlots s) = some (slot, p) := oldest
  rw [exec_alarmPendingAdmit, execAlarmPendingAdmit, if_neg (by simp [admits]), found]

end Pending

theorem alarmSpace_false {s : State} (none : s.time.alarmSpace = 0 ∨ 8 ≤ s.streams.alarm.length) : alarmSpace s = false := by
  rw [alarmSpace, Bool.and_eq_false_iff]
  rcases none with none | full
  · exact .inl (by simp [none])
  · exact .inr (by simp; omega)

end Sys2Proof.Machine

namespace Sys2Proof.Alarms

open Sys2Proof Sys2Proof.Machine

/-- Settles O43: an ALARM_SET with a readable block is one case of its words, an alarm that falls due changes its slot and
the events held, and a kept alarm enters the port when there is a word. -/
theorem alarmsFallDueAndAreAdmitted : Obligations.AlarmsFallDueAndAreAdmitted := by
  refine ⟨fun s cell v r b asks base high address plain ok => ?_, fun s slot => ?_, fun s slot p admits oldest => ⟨fun none => ?_,
    fun space room tag => ?_⟩⟩
  · intro a w slot target period old new high0 high1
    have from' : (if r.origin = .strand then s.time.beat else b) = offsetBase s := by
      obtain ⟨-, -, -, -, t, b', rest, inbox, -⟩ := asks
      rw [inbox] at base
      cases base
      exact (offsetBase_eq inbox).symm
    have serves := exec_alarmSet_good asks high address plain ok
    have readable := serves.trans (if_neg (not_or.mpr ⟨not_not.mpr high0, not_not.mpr high1⟩))
    refine ⟨fun legal => (readable.trans (if_neg (not_not.mpr legal))).trans ?_, fun reserved =>
      readable.trans (if_pos reserved)⟩
    have slotIs : setAlarm s.time.beat old (if cell.getLsbD 3 then (w 0).extractLsb' 0 48
        else offsetBase s + (w 0).extractLsb' 0 48) period (w 2) = new := by
      rw [setAlarm_eq, ← from']
    exact congrArg (fun a => Host.Outcome.next (answer { asked s with
      time := { s.time with alarms := mset Alarm.clear s.time.alarms slot a } } r stOk [])) slotIs
  · intro a due run settled set late
    have serves := exec_alarmDue_falls run settled set late
    have slotIs : mget Alarm.clear (mset Alarm.clear s.time.alarms slot.toNat (alarmFalls a (dueBeat a))) slot.toNat =
      alarmFalls a (dueBeat a) := mget_mset_same ..
    refine ⟨_, serves, ?_⟩
    dsimp only
    rw [slotIs]
    refine ⟨rfl, rfl, rfl, rfl, rfl, fun none => ⟨?_, ?_⟩, fun p some => ⟨?_, ?_⟩⟩
    · rw [alarmFalls, none, dueBeat_eq]
    · rw [show (mget Alarm.clear s.time.alarms slot.toNat).pend = Option.none from none, show due = dueBeat a from
        (dueBeat_eq a).symm]
      rfl
    · rw [alarmFalls, some]
    · rw [show (mget Alarm.clear s.time.alarms slot.toNat).pend = Option.some p from some]; simp
  · have serves := exec_alarmPendingAdmit_waiting admits oldest
    rw [alarmSpace_false none] at serves
    exact serves
  · have serves := exec_alarmPendingAdmit_waiting admits oldest
    rw [if_pos (by simp [alarmSpace, alarmRoom, tag, room]; omega), admitAlarm] at serves
    dsimp only at serves
    rw [if_pos tag] at serves
    obtain ⟨due, missed, number, zero⟩ := alarmWord_fields slot p
    refine ⟨_, serves, alarmWord slot p, due, missed, number, zero, rfl, ?_, rfl, rfl⟩
    refine (congrArg Alarm.pend (mget_mset_same ..)).trans ?_
    split <;> rfl

end Sys2Proof.Alarms
end

/-! # Frames that wait at a row port (R490, R495), and the tableau (R611 to R620) -/

section
namespace Sys2Proof.Machine

open Sys2Proof

theorem exec_tableauNAssert (s) : exec .tableauNAssert s = execTableauNAssert s := rfl
theorem exec_tableauRequest (s) : exec .tableauRequest s = execTableauRequest s := rfl
theorem exec_tableauFreeze (s) : exec .tableauFreeze s = execTableauFreeze s := rfl
theorem exec_tableauFreezeEnd (s) : exec .tableauFreezeEnd s = execTableauFreezeEnd s := rfl
theorem exec_tableauDump (s) : exec .tableauDump s = execTableauDump s := rfl
theorem exec_tableauDumpComplete (s) : exec .tableauDumpComplete s = execTableauDumpComplete s := rfl

/-! ## What a frame that begins to wait leaves as it was -/

/-- Nothing but the row ports, the node's fault serial and the flits of reports has changed. -/
structure RowTreats (s t : State) : Prop where
  shape : t = { s with rowA := t.rowA, rowB := t.rowB, stw := { s.stw with nodeSerial := t.stw.nodeSerial }
                       weave := t.weave, mem := t.mem, freeCounter := t.freeCounter }
  mem : MarksOnly s.mem t.mem

theorem RowTreats.refl (s : State) : RowTreats s s := ⟨rfl, MarksOnly.refl _⟩

theorem RowTreats.trans {a b c : State} (h : RowTreats a b) (g : RowTreats b c) : RowTreats a c :=
  ⟨by rw [g.shape, h.shape], h.mem.trans g.mem⟩

theorem RowTreats.foldl {α : Type} {g : State → α → State} (step : ∀ s a, RowTreats s (g s a)) (l : List α) (s : State) :
    RowTreats s (l.foldl g s) := by
  induction l generalizing s with
  | nil => exact RowTreats.refl s
  | cons a l ih => exact (step s a).trans (ih _)

theorem RowTreats.calm {s t : State} (h : RowTreats s t) : Calm s t :=
  ⟨by rw [h.shape], by rw [h.shape], h.mem.readByte, by rw [h.shape], fun d => by rw [h.shape]; rfl,
    fun d => by rw [h.shape]; rfl, fun none => by rw [h.shape]; exact none, fun none => by rw [h.shape]; exact none⟩

theorem setRow_treats (s : State) (r : RowId) (p : RowPort) : RowTreats s (setRow s r p) := by
  cases r <;> exact ⟨rfl, MarksOnly.refl _⟩

theorem nodeReport_treats (s : State) (code : BitVec 8) (access : BitVec 4) (info : BitVec 48) (subject : W64) :
    RowTreats s (nodeReport s code access info subject) := by
  obtain ⟨n, enters⟩ := nodeReport_enters s code access info subject
  exact ⟨by rw [enters.shape], enters.mem⟩

theorem countConverted_treats (s : State) (r : RowId) : RowTreats s (countConverted s r) := by
  rw [countConverted]
  split
  · exact setRow_treats ..
  · exact RowTreats.refl s

theorem convertDown_treats (r : RowId) (s : State) (t : Token) : RowTreats s (convertDown r s t) :=
  (countConverted_treats s r).trans (nodeReport_treats ..)

theorem convertFrame_treats (r : RowId) (s : State) (f : List Byte) : RowTreats s (convertFrame r s f) :=
  RowTreats.foldl (fun s _ => (countConverted_treats s r).trans (nodeReport_treats ..)) _ s

theorem treatOwn_treats (r : RowId) (s : State) (o : RowOwn) : RowTreats s (treatOwn r s o) := by
  cases o with
  | token d x => exact convertDown_treats ..
  | answer d more ts =>
    have all : RowTreats s (ts.foldl (convertDown r) s) := RowTreats.foldl (fun s t => convertDown_treats r s t) ts s
    rw [treatOwn]
    dsimp only
    split
    · exact all
    · exact all.trans (setRow_treats ..)
  | undeliverable f => exact convertFrame_treats ..
  | sink t => exact setRow_treats ..
  | raw bs => exact setRow_treats ..
  | dump bs => exact setRow_treats ..

theorem treatWaiting_treats (s : State) (r : RowId) : RowTreats s (treatWaiting s r) :=
  (setRow_treats ..).trans (RowTreats.foldl (fun s o => treatOwn_treats r s o) _ _)

theorem settleFrame_treats (s : State) (r : RowId) : RowTreats s (settleReady (frameWaits s r) r) :=
  (setRow_treats ..).trans (setRow_treats ..)

theorem setOwn_treats (s : State) (r : RowId) (own : List RowOwn) : RowTreats s (setOwn s r own) := by
  rw [setOwn]
  refine (setRow_treats s r { rowAt s r with own := own }).trans (RowTreats.trans ?_ (settleFrame_treats _ r))
  split
  · exact treatWaiting_treats ..
  · exact RowTreats.refl _

theorem queueOwn_treats (s : State) (r : RowId) (o : RowOwn) : RowTreats s (queueOwn s r o) := setOwn_treats ..

/-- Before the end of its grace, a port takes a frame in, and nothing else changes. -/
theorem queueOwn_rows {s : State} {r : RowId} (open' : graceGone (rowAt s r) = false) (o : RowOwn) :
    queueOwn s r o = { s with rowA := (queueOwn s r o).rowA, rowB := (queueOwn s r o).rowB } := by
  rw [queueOwn, setOwn, open']
  cases r <;> rfl

/-! ## Dumps -/

/-- The state in which a dump has begun. -/
def dumping (s : State) (sink : BitVec 8) (req : Option Req) : State :=
  { s with tab := { s.tab with dump := some ⟨sink, 0, req⟩ } }

theorem beginDump_treats (s : State) (sink : BitVec 8) (req : Option Req) :
    RowTreats (dumping s sink req) (beginDump s sink req) := by
  rw [beginDump]
  dsimp only
  split
  · exact queueOwn_treats ..
  · split
    · exact queueOwn_treats ..
    · exact RowTreats.refl _

theorem beginDump_faces {s : State} {sink : BitVec 8} (face : sink.toNat ≤ 2) (req : Option Req) :
    beginDump s sink req = dumping s sink req := by
  rw [beginDump]
  dsimp only
  rw [if_neg (by rintro rfl; exact absurd face (by decide)), if_neg (by rintro rfl; exact absurd face (by decide))]
  rfl

theorem beginDump_rows {s : State} {sink : BitVec 8} (req : Option Req)
    (open' : graceGone (rowAt s (if sink = 3 then .a else .b)) = false) : beginDump s sink req =
      { dumping s sink req with rowA := (beginDump s sink req).rowA, rowB := (beginDump s sink req).rowB } := by
  rw [beginDump]
  dsimp only
  split
  · rename_i rowA
    rw [if_pos rowA] at open'
    exact queueOwn_rows (s := dumping s sink req) (r := .a) open' _
  · rename_i notA
    rw [if_neg notA] at open'
    split
    · exact queueOwn_rows (s := dumping s sink req) (r := .b) open' _
    · rfl

/-- Nothing but the faces and the dump of the collector has changed by an automatic dump. -/
theorem autoDump_spec (s : State) : ∃ d, Calm { s with tab := { s.tab with dump := d } } (autoDump s) := by
  rw [autoDump]
  split
  · split
    · exact ⟨_, (beginDump_treats s _ none).calm⟩
    · exact ⟨s.tab.dump, Calm.refl s⟩
  · exact ⟨s.tab.dump, Calm.refl s⟩

theorem exec_tableauDump_asks {s : State} {sink : BitVec 8} {r : Req} (asks : Asks s 0x008 sink 0 r)
    (least : 1 ≤ sink.toNat) (most : sink.toNat ≤ 4) : exec .tableauDump s =
      if dumpSinkOn s.straps sink then
        if s.tab.dump.isSome then .next { asked s with stw := { (asked s).stw with dumps := s.stw.dumps ++ [(r, sink)] } }
        else if s.tab.held.isNone then .next (answer (asked s) r stRefused [])
        else .next (beginDump (asked s) sink (some r))
      else .next (answer (asked s) r stArgument []) := by
  obtain ⟨t, ⟨-, rfl, value⟩, takes⟩ := takeRequest_asks asks (codes := (· == 0x008)) rfl
  have named : t.cell ≠ 0 := by rintro zero; rw [zero] at least; exact absurd least (by decide)
  rw [exec_tableauDump, execTableauDump, takes]
  dsimp only
  rw [if_neg named]
  cases on : dumpSinkOn s.straps t.cell
  · rw [if_pos (Or.inr (Or.inr (by simpa [asked] using on)))]; rfl
  · rw [if_neg (by simp [value, asked, on]; omega)]; rfl

theorem discardDump_none (s : State) : discardDump s 0 = s := rfl

theorem Enters.answered {a b c : State} {k k' : List (Nat × Answer)} (first : Enters (setReady a k) b)
    (rest : Enters (setReady b k') c) : Enters (setReady a k') c :=
  ⟨by rw [rest.shape, setReady, first.shape]; rfl, first.mem.trans rest.mem⟩

/-- Answers to a list of requests. -/
theorem answers_enter {α : Type} (rs : List (Req × α)) (status : BitVec 8) (s : State) :
    ∃ k, Enters (setReady s k) (rs.foldl (fun s r => answer s r.1 status []) s) := by
  induction rs generalizing s with
  | nil => exact ⟨s.stw.ready, Enters.refl s⟩
  | cons r rs ih =>
    obtain ⟨k, first⟩ := answer_enters s r.1 status []
    obtain ⟨k', rest⟩ := ih (answer s r.1 status [])
    exact ⟨k', first.answered rest⟩

theorem exec_tableauFreezeEnd_ends {s : State} (clock : s.pwr.clkok = true) (power : powered s 1 = true)
    (frozen : s.tab.frozen = true) (none : NoneRefused s) : ∃ u t d, exec .tableauFreezeEnd s = .next t ∧
      u = answerTableau { s with tab := { s.tab with frozen := false } } stOk ∧
      Calm { u with tab := { u.tab with dump := d } } t ∧ t.stw.counters = [] := by
  have answered := answerTableau_calm { s with tab := { s.tab with frozen := false } } stOk
  obtain ⟨d, dumped⟩ := autoDump_spec (answerTableau { s with tab := { s.tab with frozen := false } } stOk)
  obtain ⟨t, work, calm, counted⟩ := boundaryWork_calm
    (s := autoDump (answerTableau { s with tab := { s.tab with frozen := false } } stOk))
    (fun c => (dumped.refusing c).trans ((answered.refusing c).trans (none c)))
  refine ⟨_, t, d, ?_, rfl, dumped.trans calm, counted⟩
  rw [exec_tableauFreezeEnd, execTableauFreezeEnd, clock, power, frozen]
  exact work

/-- The state in which the cells have stopped and the snapshot is held (R613, R614). -/
def latched (s : State) : State :=
  let stopped := { s with cells := mmap Cell.clear (fun x => { x with engine := freezeEngine x.engine }) s.cells }
  { stopped with
    freeCounter := s.freeCounter + 65
    tab := { s.tab with due := [], held := some (dumpBytes stopped), frozen := true, ignored := 0,
                        latched := satAdd s.tab.latched 1, serial := s.tab.serial + 1 } }

/-- The state in which a dump has ended and its requests are to be answered. -/
def dumped (s : State) : State :=
  { s with tab := { s.tab with held := none, dump := none, dumps := satAdd s.tab.dumps 1 }, stw := { s.stw with dumps := [] } }

theorem exec_tableauDumpComplete_ends {s : State} {d : Dump} {bs : List Byte} (clock : s.pwr.clkok = true)
    (power : powered s 1 = true) (dump : s.tab.dump = some d) (held : s.tab.held = some bs) (all : d.pos = bs.length)
    (moving : halted s = false) :
    ∃ t, exec .tableauDumpComplete s = .next t ∧ ∃ k, Enters (setReady (dumped s) k) t := by
  have nothing : (if (d.sink == 1 && !s.host.bme) = true then discardDump s (bs.length - d.pos) else s) = s := by
    rw [all, Nat.sub_self]
    exact ite_self s
  have serves : exec .tableauDumpComplete s = .next (s.stw.dumps.foldl (fun s r => answer s r.1 stRefused [])
      (match d.req with | some r => answer (dumped s) r stOk [] | none => dumped s)) := by
    rw [exec_tableauDumpComplete, execTableauDumpComplete, clock, power, dump, held]
    dsimp only
    rw [if_neg (by simp), if_neg (by simp [moving, all]), nothing]
    rfl
  refine ⟨_, serves, ?_⟩
  cases d.req with
  | none => exact answers_enter s.stw.dumps stRefused (dumped s)
  | some r =>
    obtain ⟨_, first⟩ := answer_enters (dumped s) r stOk []
    obtain ⟨k, rest⟩ := answers_enter s.stw.dumps stRefused (answer (dumped s) r stOk [])
    exact ⟨k, first.answered rest⟩

end Sys2Proof.Machine

namespace Sys2Proof.Tableau

open Sys2Proof Sys2Proof.Machine

/-- Settles O44: each trigger and each step of the collector is one case of its state; what a dump offers to a row port
changes that port and its reports alone. -/
theorem tableauTriggersFreezesAndDumps : Obligations.TableauTriggersFreezesAndDumps := by
  intro s
  refine ⟨fun stopped => ?_, fun clock moving => ?_, fun clock still => ?_, fun r asks => ?_, fun clock power =>
    ⟨fun thawed due => ?_, fun frozen none => ?_, fun d bs dump held all moving => ?_⟩, fun sink r asks least most =>
    ⟨fun off => ?_, fun on => ⟨fun busy => ?_, fun idle no => ?_, fun idle held => ?_⟩⟩⟩
  · rw [exec_tableauNAssert, execTableauNAssert, stopped]; rfl
  · rw [exec_tableauNAssert, execTableauNAssert, clock, moving]; rfl
  · have serves : exec .tableauNAssert s = .next (if s.stw.started then
        stampEvent { s with tab := ignoreTriggers s.tab 1 } 4 0 (.tableau (some ((s.time.beat + 1).setWidth 64)))
        else { s with tab := ignoreTriggers s.tab 1 }) := by
      rw [exec_tableauNAssert, execTableauNAssert, clock, still]; rfl
    refine ⟨_, serves, ?_⟩
    cases s.stw.started <;> exact ⟨rfl, rfl⟩
  · obtain ⟨t, ⟨-, cell, value⟩, takes⟩ := takeRequest_asks asks (codes := (· == 0x007)) rfl
    rw [exec_tableauRequest, execTableauRequest, takes, if_neg (by simp [cell, value])]
    rfl
  · have waits : ¬ (s.tab.frozen || s.tab.due.isEmpty) = true := by simp [thawed, due]
    have serves : exec .tableauFreeze s = .next (latched s) := by
      rw [exec_tableauFreeze, execTableauFreeze, clock, power]
      exact if_neg waits
    exact ⟨_, serves, rfl, rfl, rfl, rfl, rfl, rfl, rfl, rfl, rfl, rfl, rfl⟩
  · obtain ⟨u, t, d, ends, rfl, calm, counted⟩ := exec_tableauFreezeEnd_ends clock power frozen none
    have answered := answerTableau_calm { s with tab := { s.tab with frozen := false } } stOk
    refine ⟨t, ends, ?_, fun x => (calm.bytes x).trans (answered.bytes x), ?_, ?_, calm.tableau (answerTableau_none ..), counted⟩
    · rw [calm.tab, answered.tab]
    · rw [calm.time, answered.time]
    · rw [calm.tab, answered.tab]
  · obtain ⟨t, ends, k, enters⟩ := exec_tableauDumpComplete_ends clock power dump held all moving
    exact ⟨t, ends, enters.tab, by rw [enters.stw]; rfl, enters.sameBytes, enters.cells⟩
  · exact (exec_tableauDump_asks asks least most).trans (if_neg (by rw [off]; decide))
  · exact (exec_tableauDump_asks asks least most).trans ((if_pos on).trans (if_pos busy))
  · refine (exec_tableauDump_asks asks least most).trans ((if_pos on).trans ((if_neg ?_).trans (if_pos ?_)))
    · rw [idle]; decide
    · rw [no]; rfl
  · have serves : exec .tableauDump s = .next (beginDump (asked s) sink (some r)) := by
      refine (exec_tableauDump_asks asks least most).trans ((if_pos on).trans ((if_neg ?_).trans (if_neg ?_)))
      · rw [idle]; decide
      · rw [Option.isNone_iff_eq_none]; exact fun no => by rw [no] at held; cases held
    have treats := beginDump_treats (asked s) sink (some r)
    refine ⟨_, serves, treats.calm.tab, treats.calm.bytes, by rw [treats.shape]; rfl, fun face => ?_, fun open' => ?_⟩
    · rw [beginDump_faces face]; rfl
    · rw [beginDump_rows (s := asked s) (some r) open']; rfl

end Sys2Proof.Tableau
end

/-! # How answers leave (R142, R164), and the requests that report, set and act (chapter 4) -/

section
namespace Sys2Proof.Machine

open Sys2Proof

theorem exec_describe (s) : exec .describe s = execDescribe s := rfl
theorem exec_counters (s) : exec .counters s = execCounters s := rfl
theorem exec_energyQuery (s) : exec .energyQuery s = execEnergyQuery s := rfl
theorem exec_reservedSystemCode (s) : exec .reservedSystemCode s = execReservedSystemCode s := rfl
theorem exec_probeSet (s) : exec .probeSet s = execProbeSet s := rfl
theorem exec_probeDump (s) : exec .probeDump s = execProbeDump s := rfl
theorem exec_xlateIn (s) : exec .xlateIn s = execXlateIn s := rfl
theorem exec_xlateOut (s) : exec .xlateOut s = execXlateOut s := rfl
theorem exec_sleep (s) : exec .sleep s = execSleep s := rfl
theorem exec_resume (s) : exec .resume s = execResume s := rfl
theorem exec_fieldRelease (s) : exec .fieldRelease s = execFieldRelease s := rfl
theorem exec_fieldReleaseTimeout (s) : exec .fieldReleaseTimeout s = execFieldReleaseTimeout s := rfl

/-! ## Answers -/

theorem mayLeave_iff (s : State) (a : Answer) : mayLeave s a = true ↔
    ∀ q ∈ openRequests s, sameFace q.origin a.req.origin = true → a.req.taken ≤ q.taken := by
  simp only [mayLeave, List.all_eq_true, Bool.or_eq_true, Bool.not_eq_true', decide_eq_true_eq]
  refine forall₂_congr fun q mem => ?_
  cases sameFace q.origin a.req.origin <;> simp

section Answer

variable {s : State} {r : Req} {status : BitVec 8} {data : List W64} (none : s.stw.ready = [])
include none

theorem answer_leaves (first : mayLeave s ⟨r, status, data⟩ = true) :
    answer s r status data = sendAnswer s ⟨r, status, data⟩ := by
  have kept : ({ s with stw := { s.stw with ready := [] } } : State) = s := by rw [← none]
  have leaves : mayLeave { s with stw := { s.stw with ready := [(r.taken, ⟨r, status, data⟩)] } } ⟨r, status, data⟩ = true := first
  rw [answer, none, minsert, flushAnswers]
  simp only [List.filter_cons, leaves, Bool.not_true, List.filter_nil, if_true, List.foldl_cons, List.foldl_nil]
  exact congrArg (sendAnswer · _) kept

theorem answer_stays (behind : mayLeave s ⟨r, status, data⟩ = false) : answer s r status data =
    { s with stw := { s.stw with ready := [(r.taken, ⟨r, status, data⟩)] } } := by
  have stays : mayLeave { s with stw := { s.stw with ready := [(r.taken, ⟨r, status, data⟩)] } } ⟨r, status, data⟩ = false := behind
  rw [answer, none, minsert, flushAnswers]
  simp only [List.filter_cons, stays, Bool.not_false, List.filter_nil, if_true, Bool.false_eq_true, if_false, List.foldl_nil]

end Answer

/-- An answer's token to a face (R142). -/
def faceOffer (s : State) (r : Req) (i : Nat) (v : W64) : Offer :=
  ⟨0, none, { vn := 3, vc := 0, pri := 3, age := 0, dest := faceTile r.origin, extra := true, src := 63, origin := r.origin,
              waits := 0, home := 0, admitted := 0, msg := .token (faceAnswer s (r.serial + BitVec.ofNat 16 i) r.code v) }⟩

theorem answerOffer_face {r : Req} (face : r.origin ≠ .strand) (s : State) (i : Nat) (v : W64) :
    answerOffer s r i v = (s, faceOffer s r i v) := by
  rw [answerOffer, faceOffer]
  cases o : r.origin with
  | strand => exact absurd o face
  | _ => rfl

theorem statusWord_fields (status : BitVec 8) (n : Nat) :
    (statusWord status n).extractLsb' 0 8 = status ∧ (statusWord status n).extractLsb' 8 16 = BitVec.ofNat 16 n := by
  have low {a : Nat} (k j : Nat) (x : BitVec a) (v : Nat) (within : k + j ≤ a) (wide : a ≤ v) :
      (x.setWidth v).extractLsb' k j = x.extractLsb' k j := by
    ext i hi
    simp [show k + i < v by omega]
  rw [statusWord, low 0 8 _ 64 (by decide) (by decide), low 8 16 _ 64 (by decide) (by decide)]
  exact extract_two _ _

/-! ## Requests that report -/

theorem stateWord_fields (s : State) :
    (stateWord s).getLsbD 8 = s.stw.started ∧ (stateWord s).extractLsb' 0 8 = s.stw.loadStatus := by
  refine ⟨?_, (extract_two _ s.stw.loadStatus).1⟩
  rw [stateWord, BitVec.getLsbD_append, if_neg (by decide), BitVec.getLsbD_append]
  cases s.stw.started <;> rfl

theorem energyWord_fields (s : State) : (energyWord s).extractLsb' 0 12 = s.pwr.reading ∧
    (energyWord s).extractLsb' 12 3 = s.pwr.level ∧ (energyWord s).extractLsb' 18 3 = s.pwr.limitQuads ∧
    (energyWord s).extractLsb' 21 2 = s.pwr.rate ∧ (energyWord s).extractLsb' 23 4 = s.pwr.running ∧
    (energyWord s).extractLsb' 27 5 = s.pwr.vid := by
  have above {a b : Nat} (x : BitVec a) (y : BitVec b) (k j : Nat) : (x ++ y).extractLsb' (b + k) j = x.extractLsb' k j := by
    ext i hi
    simp [BitVec.getLsbD_append, show ¬ b + k + i < b by omega, show b + k + i - b = k + i by omega]
  have low {a b : Nat} (x : BitVec a) (y : BitVec b) : (x ++ y).extractLsb' 0 b = y := (extract_two x y).1
  rw [energyWord]
  refine ⟨low _ _, (above _ _ 0 3).trans (low _ _), (above _ _ 6 3).trans ((above _ _ 3 3).trans ((above _ _ 0 3).trans (low _ _))),
    (above _ _ 9 2).trans ((above _ _ 6 2).trans ((above _ _ 3 2).trans ((above _ _ 0 2).trans (low _ _)))),
    (above _ _ 11 4).trans ((above _ _ 8 4).trans ((above _ _ 5 4).trans ((above _ _ 2 4).trans ((above _ _ 0 4).trans (low _ _))))),
    (above _ _ 15 5).trans ((above _ _ 12 5).trans ((above _ _ 9 5).trans ((above _ _ 6 5).trans ((above _ _ 4 5).trans
      ((above _ _ 0 5).trans (low _ _))))))⟩

end Sys2Proof.Machine

namespace Sys2Proof.Requests

open Sys2Proof Sys2Proof.Machine

/-- Settles O45: an answer leaves at once or is kept as R164 says, and each request that reports is one case of its
arguments. -/
theorem requestsThatReport : Obligations.RequestsThatReport := by
  intro s r cell v t
  refine ⟨fun status data none => ⟨fun first => answer_leaves none ((mayLeave_iff s _).mpr first), fun ⟨q, mem, same, earlier⟩ =>
      answer_stays none (Bool.eq_false_iff.mpr fun leaves =>
        absurd ((mayLeave_iff s _).mp leaves q mem same) (not_le.mpr earlier))⟩,
    fun status face => ?_, fun asks => ?_, fun asks bad => ?_, fun asks => ?_, fun asks bad => ?_, fun code asks reserved => ?_,
    fun asks small => ?_, fun asks bad => ?_, fun asks small address => ?_, fun asks small => ?_, fun asks bad => ?_⟩
  · obtain ⟨low, high⟩ := statusWord_fields status 1
    refine ⟨faceOffer s r 0 (statusWord status 1), faceOffer (produce s 63 true (faceOffer s r 0 (statusWord status 1))) r 1 v,
      _, _, ?_, rfl, rfl, rfl, rfl, low, high, rfl, BitVec.add_zero _, rfl, rfl, rfl, rfl, rfl⟩
    rw [sendAnswer]
    simp only [List.length_singleton, List.zipIdx_cons, List.zipIdx_nil, List.foldl_cons, List.foldl_nil, answerOffer_face face]
  · obtain ⟨x, ⟨-, toCell, value⟩, takes⟩ := takeRequest_asks asks (codes := (· == 0x003)) rfl
    refine ⟨feat0, feat1, feat2, feat3 s.straps, stateWord s, ?_, stateWord_fields s⟩
    rw [OnlyAnswers, exec_describe, execDescribe, takes, if_neg (by simp [toCell, value])]
    rfl
  · obtain ⟨x, ⟨-, rfl, rfl⟩, takes⟩ := takeRequest_asks asks (codes := (· == 0x003)) rfl
    rw [OnlyAnswers, exec_describe, execDescribe, takes, if_pos bad]
    rfl
  · obtain ⟨x, ⟨-, toCell, value⟩, takes⟩ := takeRequest_asks asks (codes := (· == 0x00E)) rfl
    refine ⟨energyWord s, ?_, energyWord_fields s⟩
    rw [OnlyAnswers, exec_energyQuery, execEnergyQuery, takes, if_neg (by simp [toCell, value])]
    rfl
  · obtain ⟨x, ⟨-, rfl, rfl⟩, takes⟩ := takeRequest_asks asks (codes := (· == 0x00E)) rfl
    rw [OnlyAnswers, exec_energyQuery, execEnergyQuery, takes, if_pos bad]
    rfl
  · obtain ⟨x, -, takes⟩ := takeRequest_asks asks (codes := fun k => k == 0 || decide (0x012 ≤ k.toNat)) (by simpa using reserved)
    rw [OnlyAnswers, exec_reservedSystemCode, execReservedSystemCode, takes]
    rfl
  · obtain ⟨x, ⟨-, rfl, value⟩, takes⟩ := takeRequest_asks asks (codes := (· == 0x004)) rfl
    rw [exec_counters, execCounters, takes, if_neg (by simp [value]; omega)]
    rfl
  · obtain ⟨x, ⟨-, rfl, rfl⟩, takes⟩ := takeRequest_asks asks (codes := (· == 0x004)) rfl
    rw [OnlyAnswers, exec_counters, execCounters, takes, if_pos bad.symm]
    rfl
  · obtain ⟨x, ⟨-, rfl, rfl⟩, takes⟩ := takeRequest_asks asks (codes := (· == 0x005)) rfl
    have here : ¬ (32 ≤ x.cell.toNat ∨ (!paramAddress x.value 5) = true) := by simp [address]; omega
    refine ⟨fun notPlain => ?_, fun plain ok => ?_⟩
    · rw [exec_probeSet, execProbeSet, takes, if_neg here, if_pos (by rw [show (asked s).mem = s.mem from rfl, notPlain]; rfl)]
      rfl
    · intro ws p
      have serves : exec .probeSet s = if probeBad x.cell.toNat ws then .next (answer (asked s) r stArgument []) else
          .next (answer { asked s with weave := { s.weave with
            probes := mset Probe.idle s.weave.probes x.cell.toNat { p with next := some (probeOf ws) } } } r stOk []) := by
        rw [exec_probeSet, execProbeSet, takes, if_neg here,
          if_neg (by rw [show (asked s).mem = s.mem from rfl, plain]; simp),
          readParams_of_ok (s := asked s) ok 5 _ (paramPlaces address)]
        simp only [setWidth_low48]
        rfl
      exact ⟨fun bad => serves.trans (if_pos bad), fun good => serves.trans (if_neg (by rw [good]; decide))⟩
  · obtain ⟨x, ⟨-, rfl, value⟩, takes⟩ := takeRequest_asks asks (codes := (· == 0x006)) rfl
    intro p
    have here : ¬ (32 ≤ x.cell.toNat ∨ x.value ≠ 0) := by simp [value]; omega
    rw [OnlyAnswers, exec_probeDump, execProbeDump, takes, if_neg here]
    exact ⟨fun off => if_pos (by rw [Bool.not_eq_true']; exact off), fun on => if_neg (by
      rw [Bool.not_eq_true', Bool.not_eq_false]; exact on)⟩
  · obtain ⟨x, ⟨-, rfl, rfl⟩, takes⟩ := takeRequest_asks asks (codes := (· == 0x006)) rfl
    rw [OnlyAnswers, exec_probeDump, execProbeDump, takes, if_pos bad]
    rfl

end Sys2Proof.Requests
end

/-! # The requests that set and act (R203, R284, R430, R435, R527, R565) -/

section
namespace Sys2Proof.Machine

open Sys2Proof

section Asked

variable {s : State} {r : Req} {cell : BitVec 8} {v : W64}

theorem exec_xlateIn_asks (asks : Asks s 0x00B cell v r) : exec .xlateIn s =
    if 16 ≤ cell.toNat || xlateInBad v then .next (answer (asked s) r stArgument [])
    else if !hostUp s then .next (answer (bumpFree (asked s)) r (if (freeNow s).getLsbD 0 then stOk else stRefused) [])
    else if inbInUse s (mget 0 s.host.inb cell.toNat) then unpredictable 454 (asked s)
    else if (List.range 16).any (fun i => i != cell.toNat && overlap v (mget 0 s.host.inb i)) then unpredictable 454 (asked s)
    else .next (answer { asked s with host := { s.host with inb := mset 0 s.host.inb cell.toNat v } } r stOk []) := by
  obtain ⟨x, ⟨-, rfl, rfl⟩, takes⟩ := takeRequest_asks asks (codes := (· == 0x00B)) rfl
  rw [exec_xlateIn, execXlateIn, takes]
  rfl

theorem exec_xlateOut_asks (asks : Asks s 0x00C cell v r) : exec .xlateOut s =
    if 16 ≤ cell.toNat || v.extractLsb' 6 5 != 0 || decide ((v.extractLsb' 0 6).toNat < 12) ||
        decide (43 < (v.extractLsb' 0 6).toNat) then .next (answer (asked s) r stArgument [])
    else if !hostUp s then .next (answer (bumpFree (asked s)) r (if (freeNow s).getLsbD 0 then stOk else stRefused) [])
    else if outbInUse s.host cell.toNat then unpredictable 454 (asked s)
    else .next (answer { asked s with host := { s.host with outb := mset 0 s.host.outb cell.toNat v } } r stOk []) := by
  obtain ⟨x, ⟨-, rfl, rfl⟩, takes⟩ := takeRequest_asks asks (codes := (· == 0x00C)) rfl
  rw [exec_xlateOut, execXlateOut, takes]
  rfl

theorem exec_sleep_asks (asks : Asks s 0x00F cell v r) : exec .sleep s =
    if v ≠ 0 ∨ 3 ≤ cell.toNat then .next (answer (asked s) r stArgument [])
    else if s.pwr.grace then .next { asked s with
      pwr := { s.pwr with graceSleep := eitherSleep s s.pwr.graceSleep (sleepTo cell) }, freeCounter := s.freeCounter + 1 }
    else .next { asked s with
      pwr := { s.pwr with sleepReq := eitherSleep s s.pwr.sleepReq (sleepTo cell) }, freeCounter := s.freeCounter + 1 } := by
  obtain ⟨x, ⟨-, rfl, rfl⟩, takes⟩ := takeRequest_asks asks (codes := (· == 0x00F)) rfl
  rw [exec_sleep, execSleep, takes]
  rfl

/-- A parked strand that is to be restored by its cell. -/
def resumed (s : State) (p : Parked) (skip : Bool) : State :=
  let c : CellId := p.trapId.extractLsb' 20 8
  setCell { s with stw := { s.stw with parked := s.stw.parked.erase p } } c
    { cellAt s c with resumed := (cellAt s c).resumed ++ [⟨p.trapId, skip, false, []⟩] }

theorem exec_resume_none (asks : Asks s 0x011 cell v r)
    (bad : 2 ≤ cell.toNat ∨ s.stw.parked.find? (fun p => sameTrap v p.trapId) = none) :
    exec .resume s = .next (answer (asked s) r stArgument []) := by
  obtain ⟨x, ⟨-, rfl, rfl⟩, takes⟩ := takeRequest_asks asks (codes := (· == 0x011)) rfl
  rw [exec_resume, execResume, takes]
  split
  · rfl
  · rename_i small
    rw [show (asked s).stw.parked = s.stw.parked from rfl, bad.resolve_left small]

theorem exec_resume_found {p : Parked} (asks : Asks s 0x011 cell v r) (small : cell.toNat < 2)
    (found : s.stw.parked.find? (fun p => sameTrap v p.trapId) = some p) : exec .resume s =
      if recordUnsettled s p then unpredictable 284 (asked s) else .next (resumed (asked s) p (cell == 1)) := by
  obtain ⟨x, ⟨-, rfl, rfl⟩, takes⟩ := takeRequest_asks asks (codes := (· == 0x011)) rfl
  rw [exec_resume, execResume, takes, if_neg (not_le.mpr small), show (asked s).stw.parked = s.stw.parked from rfl, found]
  rfl

theorem exec_fieldRelease_asks (asks : Asks s 0x00D cell v r) : exec .fieldRelease s =
    if cell ≠ 0 ∨ v ≠ 0 then .next (answer (asked s) r stArgument [])
    else if !selUp s || !s.sel.linkUp then .next (answer (asked s) r stRefused [])
    else match s.sel.last with
    | some u =>
      if u.state = 2 then .next (answer (asked s) r stOk [])
      else .next { asked s with
        sel := { s.sel with relLeft := 4 }, stw := { (asked s).stw with release := s.stw.release ++ [(r, 0)] } }
    | none => .next (answer (asked s) r stRefused []) := by
  obtain ⟨x, ⟨-, rfl, rfl⟩, takes⟩ := takeRequest_asks asks (codes := (· == 0x00D)) rfl
  rw [exec_fieldRelease, execFieldRelease, takes]
  rfl

end Asked

theorem exec_fieldReleaseTimeout_late {s : State} (up : stewardUp s = true) (field : selUp s = true)
    (late : ∃ x ∈ s.stw.release, 16 < x.2) :
    exec .fieldReleaseTimeout s = .next (answerReleases s stRefused (fun r => decide (16 < r.2))) := by
  have which : (fun r => releaseLate r || !selUp s) = fun r : Req × Nat => decide (16 < r.2) := by
    funext r
    rw [field, releaseLate]
    exact Bool.or_false _
  obtain ⟨x, mem, past⟩ := late
  rw [exec_fieldReleaseTimeout, execFieldReleaseTimeout, up, which]
  exact if_pos (List.any_eq_true.mpr ⟨x, mem, decide_eq_true past⟩)

end Sys2Proof.Machine

namespace Sys2Proof.Actions

open Sys2Proof Sys2Proof.Machine

/-- Settles O46: each request is one case of its arguments and of the state that it asks about. -/
theorem requestsThatSetAndAct : Obligations.RequestsThatSetAndAct := by
  intro s r cell v t
  refine ⟨fun asks bad => ?_, fun asks small good host => ⟨fun busy => ?_, fun free apart => ?_⟩, fun asks large => ?_,
    fun asks small zero least most host free => ?_, fun asks bad => ?_, fun asks small => ?_, fun asks none => ?_,
    fun p asks small found => ?_, fun asks bad => (exec_fieldRelease_asks asks).trans (if_pos bad), fun asks down => ?_,
    fun up asks powered link last => ?_, fun up field late => ?_⟩
  · exact (exec_xlateIn_asks asks).trans (if_pos (by simpa using bad))
  · rw [exec_xlateIn_asks asks, if_neg (by simp [good]; omega), if_neg (by simp [host]), if_pos busy]
    rfl
  · have clear : ¬ (List.range 16).any (fun i => i != cell.toNat && overlap v (mget 0 s.host.inb i)) = true := by
      rw [List.any_eq_true]
      rintro ⟨i, mem, hit⟩
      rw [Bool.and_eq_true, bne_iff_ne] at hit
      rw [apart i (List.mem_range.mp mem) hit.1] at hit
      exact absurd hit.2 (by decide)
    rw [exec_xlateIn_asks asks, if_neg (by simp [good]; omega), if_neg (by simp [host]), if_neg (Bool.eq_false_iff.mp free), if_neg clear]
    rfl
  · exact (exec_xlateOut_asks asks).trans (if_pos (by simp [large]))
  · have legal : ¬ (16 ≤ cell.toNat || v.extractLsb' 6 5 != 0 || decide ((v.extractLsb' 0 6).toNat < 12) ||
        decide (43 < (v.extractLsb' 0 6).toNat)) = true := by
      simp only [Bool.or_eq_true, decide_eq_true_eq, bne_iff_ne, not_or, not_le, not_lt, not_not]
      exact ⟨⟨⟨small, zero⟩, least⟩, most⟩
    rw [exec_xlateOut_asks asks, if_neg legal, if_neg (by simp [host]), if_neg (Bool.eq_false_iff.mp free)]
    rfl
  · exact (exec_sleep_asks asks).trans (if_pos bad)
  · intro to' drawn
    have serves := (exec_sleep_asks asks).trans (if_neg (by simp; omega))
    refine ⟨fun grace none => ?_, fun grace none => ?_⟩
    · rw [serves, if_neg (by rw [grace]; decide), none]; rfl
    · rw [serves, if_pos grace, none]; rfl
  · refine exec_resume_none asks (none.imp_right fun no => List.find?_eq_none.mpr fun p mem => ?_)
    rw [no p mem]; decide
  · intro c
    have serves := exec_resume_found asks small found
    refine ⟨fun busy => serves.trans (if_pos busy), fun settled => ?_⟩
    exact ⟨_, serves.trans (if_neg (by rw [settled]; decide)), rfl, rfl,
      fun d other => cellAt_setCell_other _ (Ne.symm other) _, cellAt_setCell_same ..⟩
  · rw [OnlyAnswers, exec_fieldRelease_asks asks, if_neg (by simp), if_pos]
    · rfl
    · rcases down with down | down <;> simp [down]
  · have serves : exec .fieldRelease s = if up.state = 2 then .next (answer (asked s) r stOk []) else .next { asked s with
        sel := { s.sel with relLeft := 4 }, stw := { (asked s).stw with release := s.stw.release ++ [(r, 0)] } } := by
      rw [exec_fieldRelease_asks asks, if_neg (by simp), if_neg (by simp [powered, link]), last]
    exact ⟨fun operating => serves.trans (if_pos operating), fun not => serves.trans (if_neg not)⟩
  · have serves := exec_fieldReleaseTimeout_late up field late
    have which : (fun r : Req × Nat => !decide (16 < r.2)) = fun r => decide (r.2 ≤ 16) := by
      funext r
      rw [← decide_not]
      exact decide_eq_decide.mpr not_lt
    obtain ⟨k, enters⟩ := answers_enter (s.stw.release.filter fun r => decide (16 < r.2)) stRefused
      { s with stw := { s.stw with release := s.stw.release.filter fun r => !decide (16 < r.2) } }
    refine ⟨_, serves, ?_, enters.sameBytes, fun q n only => ?_⟩
    · rw [← which]
      exact congrArg Steward.release enters.stw
    · have past : 16 < n := by
        obtain ⟨x, mem, past⟩ := late
        rw [only, List.mem_singleton] at mem
        rwa [mem] at past
      rw [answerReleases, only]
      simp [past, stRefused]

end Sys2Proof.Actions
end

/-! # LOAD, verification and START (R155 to R160, R594, R595, R634 to R639) -/

section
namespace Sys2Proof.Machine

open Sys2Proof

theorem exec_loadChunk (s) : exec .loadChunk s = execLoadChunk s := rfl
theorem exec_loadTimeout (s) : exec .loadTimeout s = execLoadTimeout s := rfl
theorem exec_flashReadDone (s) : exec .flashReadDone s = execFlashReadDone s := rfl
theorem exec_imageVerifyDone (s) : exec .imageVerifyDone s = execImageVerifyDone s := rfl
theorem exec_start (s) : exec .start s = execStart s := rfl

/-! ## Sections go to memory, and to the cells' instruction stores -/

/-- Nothing but memory, the cells and the free values drawn has changed. -/
def StoresOnly (s t : State) : Prop := t = { s with mem := t.mem, cells := t.cells, freeCounter := t.freeCounter }

theorem StoresOnly.refl (s : State) : StoresOnly s s := rfl

theorem StoresOnly.trans {a b c : State} (h : StoresOnly a b) (g : StoresOnly b c) : StoresOnly a c := by
  unfold StoresOnly at *; rw [g, h]

theorem StoresOnly.foldl {α : Type} {g : State → α → State} (step : ∀ s a, StoresOnly s (g s a)) (l : List α) (s : State) :
    StoresOnly s (l.foldl g s) := by
  induction l generalizing s with
  | nil => exact StoresOnly.refl s
  | cons a l ih => exact (step s a).trans (ih _)

theorem StoresOnly.stw {s t : State} (h : StoresOnly s t) : t.stw = s.stw := by rw [h]
theorem StoresOnly.locks {s t : State} (h : StoresOnly s t) : t.locks = s.locks := by rw [h]
theorem StoresOnly.keys {s t : State} (h : StoresOnly s t) : t.keys = s.keys := by rw [h]

theorem putSection_storesOnly (s : State) (x : Section) (at' : Nat) (bs : List Byte) :
    StoresOnly s (putSection s x at' bs) := by
  unfold putSection
  split
  · rfl
  · rfl
  · rfl
  · dsimp only
    split <;> rfl
  · rfl

theorem fillSection_storesOnly (s : State) (x : Section) : StoresOnly s (fillSection s x) := by
  rw [fillSection]
  split <;> rfl

theorem arrive_storesOnly (old : Nat) (bs : List Byte) (s : State) (x : Section) : StoresOnly s (arrive old bs s x) := by
  rw [arrive]
  split
  · rfl
  · dsimp only
    split
    · exact putSection_storesOnly ..
    · rfl

theorem spoil_storesOnly (s : State) (x : Section) : StoresOnly s (spoil s x) := by
  rw [spoil]
  dsimp only
  have put := putSection_storesOnly s { x with type := if x.type = 3 then 2 else x.type } 0 (freeBytes s x.len)
  split <;> exact put.trans rfl

theorem spoilImage_storesOnly (s : State) (bs : List Byte) : StoresOnly s (spoilImage s bs) := by
  rw [spoilImage]
  split
  · exact StoresOnly.foldl spoil_storesOnly _ s
  · rfl

theorem writeSealed_storesOnly (k : Keys) (bs : List Byte) (s : State) (x : Section) :
    StoresOnly s (writeSealed k bs s x) := by
  rw [writeSealed]
  split
  · exact putSection_storesOnly ..
  · rfl

theorem endLoad_stw (s : State) (l : Load) (status : BitVec 8) :
    (endLoad s l status).stw = { s.stw with load := none, loadStatus := status } := by
  rw [endLoad]
  dsimp only
  rw [(spoilImage_storesOnly s l.bytes).stw]

theorem answer_stw (s : State) (r : Req) (status : BitVec 8) (data : List W64) :
    ∃ k, (answer s r status data).stw = { s.stw with ready := k } := by
  obtain ⟨k, enters⟩ := answer_enters s r status data
  exact ⟨k, enters.stw⟩

/-! ## Chunks -/

/-- A LOAD goes to its body whatever its EXT is (R156, R165). -/
theorem takeRequest_load {s : State} {t : Token} {o : Origin} {b : BitVec 48} {rest : List (Token × Origin × BitVec 48)}
    (up : stewardUp s = true) (steady : s.pwr.steady = true) (inbox : s.stw.inbox = (t, o, b) :: rest) (flow : t.flow = 0x001)
    {codes : BitVec 12 → Bool} (mine : codes 0x001 = true) {body : State → Token → Req → Host.Outcome State Fault Refusal} :
    takeRequest s codes body = body (asked s) t ⟨t.iteration, 0x001, o, s.stw.taken⟩ := by
  have after : ({ s with stw := { s.stw with inbox := rest, taken := s.stw.taken + 1 } } : State) = asked s := by
    rw [asked, inbox]; rfl
  rw [takeRequest, up, steady, if_neg (by simp), if_neg (by simp), inbox]
  dsimp only
  rw [if_neg (by rw [flow, mine]; decide), if_neg (by simp [flow]), after, flow]

theorem exec_loadChunk_takes {s : State} {t : Token} {o : Origin} {b : BitVec 48} {rest : List (Token × Origin × BitVec 48)}
    (up : stewardUp s = true) (steady : s.pwr.steady = true) (inbox : s.stw.inbox = (t, o, b) :: rest) (flow : t.flow = 0x001) :
    let r : Req := ⟨t.iteration, 0x001, o, s.stw.taken⟩
    exec .loadChunk s =
      if !faceAdmitted s.straps o then .next (answer (asked s) r stFace [])
      else if t.cell ≠ 0 then .next (answer (asked s) r stArgument [])
      else if loadBusy s o then .next (answer (asked s) r stBusy [])
      else match s.stw.load with
      | some l =>
        if chunkIndex t = l.bytes.length / 8 then .next (takeChunk (asked s) l t r)
        else .next (answer (endLoad (asked s) l stSequence) r stSequence [])
      | none =>
        if chunkIndex t = 0 then
          .next (takeChunk { asked s with stw := { (asked s).stw with image := none } } ⟨some o, [], none⟩ t r)
        else .next (answer { asked s with stw := { (asked s).stw with loadStatus := stSequence } } r stSequence []) := by
  rw [exec_loadChunk, execLoadChunk, takeRequest_load up steady inbox flow rfl]
  rfl

/-- Bytes within a header that is not whole yet are kept, and nothing else is done with them. -/
theorem feed_header (s : State) (l : Load) (new : List Byte) (short : l.bytes.length + new.length < 64) :
    feed s l new = (0, { s with stw := { s.stw with load := some { l with bytes := l.bytes ++ new } } }) := by
  have small : (l.bytes ++ new).length < 64 := by rw [List.length_append]; exact short
  have header : decide (64 ≤ (l.bytes ++ new).length) = false := decide_eq_false (by omega)
  have table : tableHere (l.bytes ++ new) = false := by rw [tableHere, header]; rfl
  rw [feed]
  dsimp only
  rw [header, table]
  simp

theorem takeChunk_header (s : State) (l : Load) (t : Token) (r : Req) (short : l.bytes.length + 8 < 64) :
    takeChunk s l t r = { s with stw := { s.stw with
      load := some { l with bytes := l.bytes ++ leBytes 8 t.value.toNat, req := some r } } } := by
  rw [takeChunk, feed_header s { l with req := some r } (leBytes 8 t.value.toNat) (by rw [leBytes_length]; exact short)]
  rfl

theorem exec_loadTimeout_ends {s : State} {l : Load} {f : Origin} (up : stewardUp s = true) (load : s.stw.load = some l)
    (face : l.face = some f) (unknown : verifying s = false) : exec .loadTimeout s =
      .next (match l.req with
        | some r => answer (endLoad s l stSequence) r stSequence []
        | none => endLoad s l stSequence) := by
  rw [exec_loadTimeout, execLoadTimeout, up, load]
  have phase : ¬ (l.face = none ∨ verifying s = true) := by simp [face, unknown]
  dsimp only
  rw [if_neg (by simp)]
  exact if_neg phase

/-! ## Flash reads -/

theorem imgField_append {bs new : List Byte} {off n : Nat} (here : off + n ≤ bs.length) :
    imgField (bs ++ new) off n = imgField bs off n := by
  rw [imgField, imgField, List.drop_append_of_le_length (by omega), List.take_append_of_le_length (by
    rw [List.length_drop]; omega)]

theorem tableHere_append {bs : List Byte} (here : tableHere bs = true) (new : List Byte) :
    tableHere (bs ++ new) = true := by
  rw [tableHere, Bool.and_eq_true, decide_eq_true_eq, decide_eq_true_eq] at here ⊢
  have same : imgNsect (bs ++ new) = imgNsect bs := imgField_append (by omega)
  rw [same, List.length_append]
  omega

/-- Bytes after the section table go to their destinations. -/
theorem feed_table {s : State} {l : Load} (here : tableHere l.bytes = true) (new : List Byte) : ∃ t, feed s l new = (0, t) ∧
    t.stw = { s.stw with load := some { l with bytes := l.bytes ++ new } } ∧ t.straps = s.straps := by
  have length : ¬ l.bytes.length < 64 := by
    rw [tableHere, Bool.and_eq_true, decide_eq_true_eq] at here
    exact not_lt.mpr here.1
  have stored := StoresOnly.foldl (arrive_storesOnly l.bytes.length new) (sectionsOf (l.bytes ++ new))
    { s with stw := { s.stw with load := some { l with bytes := l.bytes ++ new } } }
  refine ⟨_, ?_, stored.stw, by rw [stored]⟩
  rw [feed]
  dsimp only
  simp only [here, tableHere_append here, length, decide_false, Bool.false_and, Bool.not_true, Bool.false_eq_true, if_false,
    ne_eq, not_true_eq_false]

theorem flashRead_table {s : State} {l : Load} (here : tableHere l.bytes = true) :
    (flashRead s l).stw.load = some { l with bytes := l.bytes ++ nextRead s l } ∧
    (flashRead s l).stw.boot = if imageHere (l.bytes ++ nextRead s l) then .verifying else .reading := by
  obtain ⟨t, fed, stw, -⟩ := feed_table (s := s) here (nextRead s l)
  rw [flashRead]
  dsimp only
  rw [fed, if_neg (by simp)]
  split
  · exact ⟨by rw [stw], rfl⟩
  · have kept (u : State) (l : Load) : (beginRead u l).stw = u.stw := by
      rw [beginRead, flashCommand]
      split <;> rfl
    rw [kept]
    exact ⟨by rw [stw], rfl⟩

/-! ## Verification -/

/-- The lock units of some quadrants with every page of their regions free. -/
theorem unitAt_pagesFree (pages : Nat) (q : BitVec 2) (qs : List (BitVec 2)) (l : Locks)
    (set : q ∈ qs ∨ ((unitAt l q).free = quadPages pages q ∧ (unitAt l q).dir = [])) :
    let l' := qs.foldl (fun l q => setUnit l q { unitAt l q with free := quadPages pages q, dir := [], latch := false }) l
    (unitAt l' q).free = quadPages pages q ∧ (unitAt l' q).dir = [] := by
  induction qs generalizing l with
  | nil => exact set.resolve_left (by simp)
  | cons p qs ih =>
    refine ih _ ?_
    by_cases same : p = q
    · subst same
      rw [unitAt_setUnit_same]
      exact .inr ⟨rfl, rfl⟩
    · rw [unitAt_setUnit_other l same]
      exact set.imp_left fun mem => (List.mem_cons.mp mem).resolve_left (Ne.symm same)

theorem unitAt_setPages (l : Locks) (pages : Nat) (q : BitVec 2) :
    (unitAt (setPages l pages) q).free = quadPages pages q ∧ (unitAt (setPages l pages) q).dir = [] :=
  unitAt_pagesFree pages q [0, 1, 2, 3] l (.inl (by revert q; decide))

/-- The state that a load's verification leaves, before its status is answered. -/
def verified (s : State) (l : Load) : State :=
  let status := finalStatus s l
  let s1 := if status = stOk then acceptImage s l else endLoad s l status
  { s1 with keys := keysAfter s.keys (signatureChecked s l) (wholeImage l) status
            stw := { s1.stw with boot := if l.face.isNone then .done else s1.stw.boot } }

/-- An answer leaves everything of a verified state but the answers kept. -/
theorem verifyDone_enters (s : State) (l : Load) : ∃ k, Enters (setReady (verified s l) k) (verifyDone s l) := by
  rw [verifyDone]
  split
  · exact answer_enters ..
  · exact ⟨(verified s l).stw.ready, Enters.refl _⟩

theorem acceptImage_stw (s : State) (l : Load) : (acceptImage s l).stw =
    { s.stw with image := some (imageOf s.keys (wholeImage l)), load := none, loadStatus := stOk } := by
  have stored := StoresOnly.foldl (writeSealed_storesOnly s.keys (wholeImage l)) (sectionsOf (wholeImage l)) s
  rw [acceptImage]
  dsimp only
  rw [stored.stw]

/-- The key block after a load counts its status, and under OK may revoke slots below the signer's (R636). -/
theorem keysAfter_cases (k : Keys) (checked : Bool) (bs : List Byte) (status : BitVec 8) :
    ∃ k1 : Keys, (k1.slot0 = k.slot0 ∧ k1.slot1 = k.slot1 ∧ k1.slot2 = k.slot2 ∧ k1.device = k.device) ∧
      (keysAfter k checked bs status = k1 ∨ (status = stOk ∧ ∃ n, keysAfter k checked bs status = revokeBelow k1 n)) := by
  refine ⟨{ k with verified := satIf (checked && status == stOk) k.verified, sigFails := satIf (status == stSignature) k.sigFails
                   revoked := satIf (status == stRevoked) k.revoked, seals := satIf (status == stSeal) k.seals },
    ⟨rfl, rfl, rfl, rfl⟩, ?_⟩
  rw [keysAfter]
  by_cases good : (checked && status == stOk) = true
  · exact .inr ⟨by simpa using (Bool.and_eq_true_iff.mp good).2, _, if_pos good⟩
  · exact .inl (if_neg good)

theorem revokeSlot_revoked {x : SignerSlot} (revoked : x.state = 2) : revokeSlot x = x := by
  rw [revokeSlot, revoked]; rfl

/-- A loaded image's slots: none but a valid one becomes revoked, and that only under status OK (R636). -/
theorem keysAfter_slots (k : Keys) (checked : Bool) (bs : List Byte) (status : BitVec 8) :
    let u := keysAfter k checked bs status
    (status ≠ stOk → u.slot0 = k.slot0 ∧ u.slot1 = k.slot1) ∧ (k.slot0.state = 2 → u.slot0 = k.slot0) ∧
    (k.slot1.state = 2 → u.slot1 = k.slot1) ∧ u.slot2 = k.slot2 ∧ u.device = k.device := by
  intro u
  obtain ⟨k1, ⟨slot0, slot1, slot2, device⟩, same | ⟨ok, n, rolled⟩⟩ := keysAfter_cases k checked bs status
  · rw [show u = k1 from same]
    exact ⟨fun _ => ⟨slot0, slot1⟩, fun _ => slot0, fun _ => slot1, slot2, device⟩
  · rw [show u = revokeBelow k1 n from rolled]
    refine ⟨fun bad => absurd ok bad, fun revoked => ?_, fun revoked => ?_, slot2, device⟩
    · show (if 0 < n then revokeSlot k1.slot0 else k1.slot0) = _
      rw [slot0, revokeSlot_revoked revoked, ite_self]
    · show (if 1 < n then revokeSlot k1.slot1 else k1.slot1) = _
      rw [slot1, revokeSlot_revoked revoked, ite_self]

theorem exec_imageVerifyDone_here {s : State} {l : Load} (up : stewardUp s = true) (load : s.stw.load = some l)
    (here : imageHere l.bytes = true) : exec .imageVerifyDone s =
      if finalStatus s l == stOk && imageReserved s.keys (wholeImage l) then unpredictable 23 s else .next (verifyDone s l) := by
  rw [exec_imageVerifyDone, execImageVerifyDone, up, load]
  dsimp only
  rw [if_neg (by simp), if_neg (by simp [here])]

theorem finalStatus_crc {s : State} {l : Load} (bad : crcMatches (wholeImage l) = false) : finalStatus s l = stCrc := by
  rw [finalStatus, bad]
  rfl

/-! ## START -/

theorem exec_start_asks {s : State} {r : Req} (asks : Asks s 0x002 0 0 r) : exec .start s =
    if s.stw.started then .next (answer (asked s) r stBusy [])
    else if s.stw.image = none then .next (answer (asked s) r stNoImage [])
    else .next (answer (startGraph (asked s) (offsetBase s)) r stOk []) := by
  obtain ⟨t, ⟨-, cell, value⟩, takes⟩ := takeRequest_asks asks (codes := (· == 0x002)) rfl
  rw [exec_start, execStart, takes, if_neg (by simp [cell, value])]
  rfl

end Sys2Proof.Machine

namespace Sys2Proof.Loading

open Sys2Proof Sys2Proof.Machine

/-- Settles O47: a chunk, a flash read and a verification are each one case of the load, whose sections go to memory and
to the cells alone; START enters the image's tokens. -/
theorem loadingAndStarting : Obligations.LoadingAndStarting := by
  intro s
  refine ⟨fun t o b rest => ?_, fun l f up load face unknown => ?_, fun l up reading load => ⟨fun extest => ?_, fun free here => ?_⟩,
    fun l up load here => ?_, fun r asks => ⟨fun started => ?_, fun fresh none => ?_, fun im b fresh loaded head => ?_⟩⟩
  · intro r i x up steady inbox flow
    have serves := exec_loadChunk_takes up steady inbox flow
    refine ⟨fun off => serves.trans (if_pos (by rw [off]; rfl)), fun on cell => ?_⟩
    have taken := (serves.trans (if_neg (by rw [on]; decide))).trans (if_neg (not_not.mpr cell))
    refine ⟨fun started => taken.trans (if_pos ?_), fun idle none later => ?_, fun idle none first => ?_,
      fun l idle load => ⟨fun next short => ?_, fun gap => ?_⟩⟩
    · rw [loadBusy, started]; rfl
    · rw [if_neg (by rw [idle]; decide), none] at taken
      exact taken.trans (if_neg later)
    · rw [if_neg (by rw [idle]; decide), none] at taken
      refine taken.trans ((if_pos first).trans (congrArg _ ?_))
      exact takeChunk_header _ ⟨some o, [], Option.none⟩ t r (show 0 + 8 < 64 by decide)
    · rw [if_neg (by rw [idle]; decide), load] at taken
      refine taken.trans ((if_pos (show i = l.bytes.length / 8 by omega)).trans (congrArg _ ?_))
      exact takeChunk_header _ l t r short
    · rw [if_neg (by rw [idle]; decide), load] at taken
      obtain ⟨k, stw⟩ := answer_stw (endLoad (asked s) l stSequence) r stSequence []
      refine ⟨_, taken.trans (if_neg gap), ?_⟩
      show (answer (endLoad (asked s) l stSequence) r stSequence []).stw.load = none ∧ _ ∧ _
      rw [stw, endLoad_stw]
      exact ⟨rfl, rfl, by simp [asked, inbox]⟩
  · refine ⟨_, exec_loadTimeout_ends up load face unknown, ?_⟩
    cases l.req with
    | none => dsimp only; rw [endLoad_stw]; exact ⟨rfl, rfl, rfl⟩
    | some r =>
      obtain ⟨k, stw⟩ := answer_stw (endLoad s l stSequence) r stSequence []
      dsimp only
      rw [stw, endLoad_stw]
      exact ⟨rfl, rfl, rfl⟩
  · rw [exec_flashReadDone, execFlashReadDone, up, reading, load]
    exact if_pos extest
  · intro new
    have length : nextLength l = min 4096 (imgTotal l.bytes - l.bytes.length) := by
      refine if_neg fun empty => ?_
      rw [empty] at here
      exact absurd here (by decide)
    have bytes : nextRead s l = new := by rw [nextRead, length]
    have serves : exec .flashReadDone s = .next (flashRead s l) := by
      rw [exec_flashReadDone, execFlashReadDone, up, reading, load]
      exact if_neg free
    rw [← bytes]
    exact ⟨_, serves, flashRead_table here⟩
  · intro bs
    have serves := exec_imageVerifyDone_here up load here
    refine ⟨fun ok reserved => serves.trans (if_pos ?_), fun legal => ?_⟩
    · rw [ok, show wholeImage l = bs from rfl, reserved]; rfl
    obtain ⟨k, enters⟩ := verifyDone_enters s l
    obtain ⟨rolled, revoked0, revoked1, slot2, device⟩ :=
      keysAfter_slots s.keys (signatureChecked s l) (wholeImage l) (finalStatus s l)
    have status : (verified s l).stw.load = Option.none ∧ (verified s l).stw.loadStatus = finalStatus s l ∧
        (finalStatus s l ≠ 0 → (verified s l).stw.image = s.stw.image) := by
      rw [verified]
      dsimp only
      split
      · rename_i ok
        rw [acceptImage_stw]
        exact ⟨rfl, ok.symm, fun bad => absurd ok bad⟩
      · rw [endLoad_stw]
        exact ⟨rfl, rfl, fun _ => rfl⟩
    obtain ⟨ended, reported, image⟩ := status
    refine ⟨_, serves.trans (if_neg ?_), ?_⟩
    · rw [Bool.and_eq_true, beq_iff_eq]
      rintro ⟨ok, reserved⟩
      rw [show imageReserved s.keys (wholeImage l) = false from legal ok] at reserved
      cases reserved
    dsimp only
    rw [enters.stw, enters.keys, enters.locks]
    refine ⟨ended, reported, fun bad => reported.trans (finalStatus_crc bad), fun ok => ⟨?_, fun q => ?_⟩,
      fun bad => ⟨image bad, rolled bad⟩, revoked0, revoked1, slot2, device⟩
    · show (verified s l).stw.image = _
      rw [verified]
      dsimp only
      rw [if_pos (show finalStatus s l = stOk from ok), acceptImage_stw]
      rfl
    · have locks : (verified s l).locks = setPages ((sectionsOf bs).foldl (writeSealed s.keys bs) s).locks (imgPages bs) := by
        rw [verified]
        dsimp only
        rw [if_pos (show finalStatus s l = stOk from ok)]
        rfl
      show (unitAt (verified s l).locks q).free = _ ∧ (unitAt (verified s l).locks q).dir = _
      rw [locks]
      exact unitAt_setPages ..
  · exact (exec_start_asks asks).trans (if_pos started)
  · exact (exec_start_asks asks).trans ((if_neg (by rw [fresh]; decide)).trans (if_pos none))
  · intro s1 base os
    have from' : offsetBase s = base := by
      obtain ⟨-, -, -, -, t, b', rest, inbox, -⟩ := asks
      rw [inbox] at head
      cases head
      exact offsetBase_eq inbox
    rw [exec_start_asks asks, if_neg (by rw [fresh]; decide), if_neg (by rw [loaded]; simp), from', startGraph,
      show (asked s).stw.image = some im from loaded]
    rfl

end Sys2Proof.Loading
end

/-! # The host ring (R420 to R428) -/

section
namespace Sys2Proof.Machine

open Sys2Proof

theorem exec_attachRing (s) : exec .attachRing s = execAttachRing s := rfl
theorem exec_ringParamsReadDone (status data s) : exec (.ringParamsReadDone status data) s = execRingParamsReadDone status data s := rfl
theorem exec_detachRing (s) : exec .detachRing s = execDetachRing s := rfl
theorem exec_ringPacketStart (s) : exec .ringPacketStart s = execRingPacketStart s := rfl
theorem exec_ringPacketComplete (s) : exec .ringPacketComplete s = execRingPacketComplete s := rfl
theorem exec_consumedWordRead (status value s) : exec (.consumedWordRead status value) s = execConsumedWordRead status value s := rfl

/-! ## ATTACH_RING and DETACH_RING -/

section Asked

variable {s : State} {r : Req} {cell : BitVec 8} {v : W64}

theorem exec_attachRing_asks (asks : Asks s 0x009 cell v r) : exec .attachRing s =
    if cell ≠ 0 then .next (answer (bootAgain (asked s)) r stArgument [])
    else if s.host.ring.isSome then .next (answer (asked s) r stRefused [])
    else if s.stw.attach.isSome then .next s
    else if !hostIssues s then .next (attachFails (asked s) r stRefused)
    else match freeTag s.host with
    | none => .next s
    | some tag => .next (sendRead { asked s with stw := { (asked s).stw with attach := some r } } tag .params v 64) := by
  obtain ⟨x, ⟨-, rfl, rfl⟩, takes⟩ := takeRequest_asks asks (codes := (· == 0x009)) rfl
  exact (exec_attachRing s).trans ((takes _).trans rfl)

theorem exec_detachRing_asks (asks : Asks s 0x00A 0 0 r) (ring : s.host.ring.isSome = true) (none : s.stw.detach = none) :
    exec .detachRing s = .next { asked s with stw := { (asked s).stw with detach := some r } } := by
  obtain ⟨x, ⟨-, cell, value⟩, takes⟩ := takeRequest_asks asks (codes := (· == 0x00A)) rfl
  rw [exec_detachRing, execDetachRing, takes, if_neg (by simp [cell, value]),
    if_neg (by rw [Option.isNone_iff_eq_none]; exact fun no => by rw [no] at ring; cases ring), if_neg (by rw [none]; decide)]

end Asked

theorem attachFails_idle {s : State} (none : s.stw.attach = none) (r : Req) (status : BitVec 8) :
    attachFails s r status = answer (bootAgain s) r status [] := by
  have same : ({ s with stw := { s.stw with attach := Option.none } } : State) = s := by rw [← none]
  rw [attachFails, same]

/-! ## The parameter read -/

/-- The face after a read of the parameter block has ended, and its tag is free. -/
def paramsFreed (s : State) (tag : BitVec 5) (status : CplStatus) : State :=
  completionState { s with host := setTag s.host tag none } status

theorem paramsFreed_failed {status : CplStatus} (failed : status ≠ .ok) (s : State) (tag : BitVec 5) :
    paramsFreed s tag status = { s with
      out := reportOf status ++ s.out
      host := { setTag s.host tag none with errors := satAdd s.host.errors 1 } } := by
  have counts : (status != .ok) = true := bne_iff_ne.mpr failed
  rw [paramsFreed, completionState, counts]
  rfl

theorem exec_ringParamsReadDone_ends {s : State} {tag : BitVec 5} {r : Req} (host : hostUp s = true)
    (steward : stewardUp s = true) (found : tagFor s.host .params = some tag) (waits : s.stw.attach = some r)
    (status : CplStatus) (data : List Byte) : exec (.ringParamsReadDone status data) s =
      if status ≠ .ok ∨ data.length ≠ 64 then .next (attachFails (paramsFreed s tag status) r stRefused)
      else if paramsBad data then .next (attachFails (paramsFreed s tag status) r stArgument)
      else .next (attachRing (paramsFreed s tag status) r (ringOf data)) := by
  rw [exec_ringParamsReadDone, execRingParamsReadDone, host, steward, found, waits]
  rfl

/-- A ring that is attached is there, opened at once where the answer does not go to the host. -/
theorem attachRing_spec (s : State) (r : Req) (g : Ring) (closed : g.opened = false) : ∃ n : Ring,
    (attachRing s r g).host = { s.host with ring := some n, bootUsed := false, lastWord := 0 } ∧
    (attachRing s r g).stw.attach = none ∧ (n.opened = (r.origin != .host)) ∧
    n = { g with opened := n.opened, firsts := n.firsts } ∧
    (r.origin = .host → attachRing s r g = answer { s with
      stw := { s.stw with attach := none }, host := { s.host with ring := some n, bootUsed := false, lastWord := 0 } } r stOk []) := by
  obtain ⟨k, enters⟩ := answer_enters { s with
    stw := { s.stw with attach := none }, host := { s.host with ring := some g, bootUsed := false, lastWord := 0 } } r stOk []
  rw [attachRing]
  by_cases toHost : (r.origin == .host) = true
  · dsimp only
    rw [if_pos toHost, enters.host, enters.stw]
    refine ⟨g, rfl, rfl, ?_, rfl, fun _ => rfl⟩
    rw [closed, bne, toHost]; rfl
  · dsimp only
    rw [if_neg toHost, openRing, enters.host]
    refine ⟨_, rfl, ?_, ?_, rfl, fun host => absurd (beq_iff_eq.mpr host) toHost⟩
    · show (answer _ _ _ _).stw.attach = none
      rw [enters.stw]; rfl
    · rw [bne, Bool.eq_false_iff.mpr toHost]; rfl

/-! ## Packets -/

theorem packetBytes_length (s : State) (g : Ring) (type : Byte) (count : Nat) (payload : List Byte) :
    (packetBytes s g type count payload).length = 16 + payload.length := by
  simp [packetBytes]
  omega

theorem tokens_length (ts : List Token) : (ts.flatMap tokenBytes).length = 20 * ts.length := by
  induction ts with
  | nil => rfl
  | cons t ts ih => rw [List.flatMap_cons, List.length_append, ih, tokenBytes_length, List.length_cons]; ring

theorem packetBytes_parts (s : State) (g : Ring) (type : Byte) (count : Nat) (payload : List Byte) :
    (packetBytes s g type count payload).take 4 = leBytes 4 (16 + payload.length) ∧
    (packetBytes s g type count payload).drop 16 = payload := by
  constructor
  · rw [packetBytes]
    simp only [List.append_assoc]
    exact List.take_left' (leBytes_length ..)
  · rw [packetBytes]
    exact List.drop_left' (by simp)

section Start

variable {s : State} {g : Ring} (issues : hostIssues s = true) (ring : s.host.ring = some g) (opened : g.opened = true)
  (idle : s.host.packet = none) (attached : s.stw.detach = none) (noDump : hostDump s = none) (some' : s.host.staging ≠ [])
include issues ring opened idle attached noDump some'

theorem exec_ringPacketStart_tokens : exec .ringPacketStart s =
    let p := tokensPacket s g (s.host.staging.take 32) false
    if ringRoom g p.bytes.length then
      .next (markBusy { s with host := { s.host with
        packet := some p, staging := s.host.staging.drop 32
        ring := some { g with asking := false, firsts := g.firsts - 32 } } })
    else .next (if g.asking then s else askConsumed s g) := by
  have away : detachAway s = none := by rw [detachAway, attached]; rfl
  have next : nextPacket s g = some (startTokens s g) := by
    rw [nextPacket, attached, opened, noDump]
    exact if_neg some'
  rw [exec_ringPacketStart, execRingPacketStart, issues, ring, idle, if_neg (by simp)]
  dsimp only
  rw [away, next]
  rfl

end Start

theorem askConsumed_host (s : State) (g : Ring) : (askConsumed s g).host.ring = some { g with asking := true } ∧
    (askConsumed s g).host.staging = s.host.staging ∧ (askConsumed s g).host.packet = s.host.packet := by
  rw [askConsumed]
  split <;> exact ⟨rfl, rfl, rfl⟩

theorem tokensPacket_length (s : State) (g : Ring) (ts : List Token) (last : Bool) :
    (tokensPacket s g (ts.take 32) last).bytes.length = 16 + 20 * min 32 ts.length := by
  rw [tokensPacket, packetBytes_length, tokens_length, List.length_take]

/-! ### What a packet writes -/

/-- Nothing but what is sent, and the face's marks of messages and of work, has changed. -/
def WritesOut (s t : State) : Prop := t = { s with
  out := t.out
  host := { s.host with busy := t.host.busy, msiHeld := t.host.msiHeld, msiSent := t.host.msiSent, msis := t.host.msis
                        msiOwed := t.host.msiOwed } }

theorem WritesOut.refl (s : State) : WritesOut s s := rfl

theorem WritesOut.trans {a b c : State} (h : WritesOut a b) (g : WritesOut b c) : WritesOut a c := by
  unfold WritesOut at *; rw [g, h]

theorem WritesOut.foldl {α : Type} {g : State → α → State} (step : ∀ s a, WritesOut s (g s a)) (l : List α) (s : State) :
    WritesOut s (l.foldl g s) := by
  induction l generalizing s with
  | nil => exact WritesOut.refl s
  | cons a l ih => exact (step s a).trans (ih _)

theorem emit_writesOut (s : State) (o : Out) : WritesOut s (emit s o) := rfl

theorem postMsi_writesOut (s : State) (v : Nat) : WritesOut s (postMsi s v) := by
  rw [postMsi]; split <;> rfl

theorem sendMsi_writesOut (s : State) (v : Nat) : WritesOut s (sendMsi s v) := by
  rw [sendMsi]
  split
  · rfl
  · split
    · rfl
    · split
      · rfl
      · exact postMsi_writesOut s v

theorem memWrites_writesOut (s : State) (a : W64) (bs : List Byte) : WritesOut s (memWrites s a bs) :=
  WritesOut.foldl (fun s _ => emit_writesOut s _) _ s

theorem ringWrite_writesOut (s : State) (g : Ring) (at' : Nat) (bs : List Byte) : WritesOut s (ringWrite s g at' bs) :=
  (memWrites_writesOut ..).trans (memWrites_writesOut ..)

theorem writeBody_writesOut (g : Ring) (p : Packet) (fuel from' : Nat) (s : State) :
    WritesOut s (writeBody s g p fuel from') := by
  induction fuel generalizing from' s with
  | zero => exact WritesOut.refl s
  | succ fuel ih =>
    have first (c : Prop) [Decidable c] (at' : Nat) (bs : List Byte) : WritesOut s (if c then ringWrite s g at' bs else s) := by
      split
      · exact ringWrite_writesOut ..
      · exact WritesOut.refl s
    rw [writeBody]
    split
    · exact first _ _ _
    · exact (first _ _ _).trans ((ringWrite_writesOut ..).trans ((sendMsi_writesOut ..).trans (ih _ _)))

theorem writeRest_writesOut (s : State) (g : Ring) (p : Packet) : WritesOut s (writeRest s g p) := by
  rw [writeRest]
  refine WritesOut.trans ?_ (writeBody_writesOut ..)
  split
  · exact (ringWrite_writesOut ..).trans (sendMsi_writesOut ..)
  · exact WritesOut.refl s

/-- The end of a packet steps the ring's counts, and else writes. -/
theorem endPacket_spec (s : State) (g : Ring) (length : Nat) (truncated urgent : Bool) : ∃ t, WritesOut s t ∧
    endPacket s g length truncated urgent = { t with host := { t.host with
      packet := none, busy := true
      ring := some { g with produced := g.produced + BitVec.ofNat 64 (packetSpan length), seq := g.seq + 1
                            ends := g.ends ++ [g.produced + BitVec.ofNat 64 (packetSpan length)] } } } :=
  ⟨_, (ringWrite_writesOut ..).trans ((ringWrite_writesOut ..).trans (sendMsi_writesOut ..)), rfl⟩

/-- The ring once a packet of a length has ended. -/
def ringEnded (g : Ring) (length : Nat) : Ring :=
  { g with produced := g.produced + BitVec.ofNat 64 (packetSpan length), seq := g.seq + 1
           ends := g.ends ++ [g.produced + BitVec.ofNat 64 (packetSpan length)] }

/-- The face once a packet has been written and has ended. -/
def packetEnded (t : State) (g : Ring) (length : Nat) : State :=
  { t with host := { t.host with packet := none, busy := true, ring := some (ringEnded g length) } }

/-- The last packet of a ring ends it. -/
def ringGone (t : State) : State :=
  { t with stw := { t.stw with detach := none }, host := { t.host with ring := none, bootUsed := false } }

theorem exec_ringPacketComplete_ends {s : State} {g : Ring} {p : Packet} (issues : hostIssues s = true)
    (ring : s.host.ring = some g) (packet : s.host.packet = some p) (tokens : p.dump = false) (whole : p.cut = false) :
    ∃ t, WritesOut s t ∧
      (p.last = false → exec .ringPacketComplete s = .next (packetEnded t g p.bytes.length)) ∧
      (p.last = true → ∃ k, exec .ringPacketComplete s = .next (flushAnswers (ringGone (packetEnded t g p.bytes.length))) ∧
        Enters (setReady (ringGone (packetEnded t g p.bytes.length)) k)
          (flushAnswers (ringGone (packetEnded t g p.bytes.length)))) := by
  obtain ⟨t, writes, ends⟩ := endPacket_spec (writeRest s g p) g p.bytes.length false (p.dump || p.urgent)
  have serves : exec .ringPacketComplete s = if p.last then .next (flushAnswers (ringGone (packetEnded t g p.bytes.length)))
      else .next (packetEnded t g p.bytes.length) := by
    rw [exec_ringPacketComplete, execRingPacketComplete, issues, ring, packet, if_neg (by simp)]
    dsimp only
    rw [if_neg (by rw [whole, tokens]; exact Bool.false_ne_true), ends]
    rfl
  refine ⟨t, (writeRest_writesOut s g p).trans writes, fun more => serves.trans (if_neg (by rw [more]; decide)), fun last => ?_⟩
  obtain ⟨k, enters⟩ := flushAnswers_enters (ringGone (packetEnded t g p.bytes.length))
  exact ⟨k, serves.trans (if_pos last), enters⟩

/-! ## The consumed word -/

/-- Garbled records are the host's events only. -/
theorem mem_garbled (s : State) {e : OutEvent} (other : isHostEvent e.kind = false) :
    e ∈ (garbleRecords s).time.held ↔ e ∈ s.time.held := by
  have notHost : ∀ t : Token, e.kind ≠ .host t := fun t host => by rw [host] at other; cases other
  rw [garbleRecords]
  simp only [bumpFree, List.mem_append, List.mem_filter, List.mem_map, other]
  constructor
  · rintro (⟨old, -⟩ | ⟨t, -, rfl⟩)
    · exact old
    · exact absurd rfl (notHost t)
  · exact fun old => .inl ⟨old, rfl⟩

theorem endsAfter_mem {v : W64} {l m : List W64} (first : v ∉ l) : endsAfter v (l ++ v :: m) = some m := by
  induction l with
  | nil => exact if_pos rfl
  | cons e l ih =>
    obtain ⟨other, first⟩ := not_or.mp (fun h => first (List.mem_cons.mpr h))
    exact (if_neg (Ne.symm other)).trans (ih first)

theorem endsAfter_none {v : W64} {l : List W64} (none : v ∉ l) : endsAfter v l = Option.none := by
  induction l with
  | nil => rfl
  | cons e l ih =>
    obtain ⟨other, none⟩ := not_or.mp (fun h => none (List.mem_cons.mpr h))
    exact (if_neg (Ne.symm other)).trans (ih none)

section Read

variable {s : State} {tag : BitVec 5} {g : Ring} {v : W64} (up : hostUp s = true) (link : s.host.linkUp = true)
  (found : tagFor s.host .consumed = some tag) (ring : s.host.ring = some g)
include up link found ring

theorem exec_consumedWordRead_grants {es : List W64} (granted : consumedTo g v = some es) :
    exec (.consumedWordRead .ok v) s = .next { paramsFreed s tag .ok with
      host := { (paramsFreed s tag .ok).host with ring := some { g with consumed := v, ends := es } } } := by
  rw [exec_consumedWordRead, execConsumedWordRead, onLink, up, link, found]
  dsimp only
  rw [ring]
  dsimp only
  rw [granted]
  rfl

theorem exec_consumedWordRead_garbles (never : consumedTo g v = none) :
    exec (.consumedWordRead .ok v) s = .next (garbleRecords (paramsFreed s tag .ok)) := by
  rw [exec_consumedWordRead, execConsumedWordRead, onLink, up, link, found]
  dsimp only
  rw [ring]
  dsimp only
  rw [never]
  rfl

end Read

end Sys2Proof.Machine

namespace Sys2Proof.Rings

open Sys2Proof Sys2Proof.Machine

/-- Settles O48: the ring's requests and reads are each one case of the face, and what a packet writes changes nothing but
what is sent and the face's marks. -/
theorem hostRingPackets : Obligations.HostRingPackets := by
  intro s r cell v tag g
  refine ⟨fun asks bad => (exec_attachRing_asks asks).trans (if_pos bad), fun asks ring => ?_, fun asks noRing idle =>
    ⟨fun silent => ?_, fun issues free => ?_⟩, fun data host steward found waits => ?_, fun asks ring none =>
    exec_detachRing_asks asks ring none, ?_, fun p issues ring packet tokens => ⟨fun cut => ?_, fun whole => ?_⟩,
    fun up link found ring => ?_⟩
  · exact (exec_attachRing_asks asks).trans ((if_neg (by simp)).trans (if_pos ring))
  · rw [exec_attachRing_asks asks, if_neg (by simp), if_neg (by rw [noRing]; decide), if_neg (by rw [idle]; decide),
      if_pos (by rw [silent]; rfl), attachFails_idle (s := asked s) idle]
    rfl
  · rw [exec_attachRing_asks asks, if_neg (by simp), if_neg (by rw [noRing]; decide), if_neg (by rw [idle]; decide),
      if_neg (by rw [issues]; decide), free]
    rfl
  · intro free idle
    have serves := exec_ringParamsReadDone_ends host steward found waits
    refine ⟨fun length bad => ?_, fun length good => ?_, fun st failed => ?_⟩
    · rw [serves, if_neg (by simp [length]), if_pos bad]
      rfl
    · have attaches : exec (.ringParamsReadDone .ok data) s = .next (attachRing (paramsFreed s tag .ok) r (ringOf data)) := by
        rw [serves, if_neg (by simp [length]), if_neg (by rw [good]; decide)]
      obtain ⟨n, face, none, opened, ringIs, toHost⟩ := attachRing_spec (paramsFreed s tag .ok) r (ringOf data) rfl
      refine ⟨_, attaches, n, by rw [face], ?_⟩
      refine ⟨by rw [ringIs]; rfl, by rw [ringIs]; rfl, by rw [ringIs]; rfl, by rw [ringIs]; rfl, by rw [ringIs]; rfl,
        by rw [ringIs]; rfl, opened, none, by rw [face], ?_, toHost⟩
      rw [face]
      exact mget_mset_same Option.none s.host.tags tag.toNat Option.none
    · rw [serves, if_pos (.inl failed), paramsFreed_failed failed]
      rfl
  · intro n length fits issues ring opened idle attached noDump some'
    have serves := exec_ringPacketStart_tokens issues ring opened idle attached noDump some'
    dsimp only at serves
    rw [tokensPacket_length] at serves
    constructor
    · intro room
      obtain ⟨parts, payload⟩ := packetBytes_parts s g 1 (s.host.staging.take 32).length ((s.host.staging.take 32).flatMap tokenBytes)
      refine ⟨_, serves.trans (if_pos (decide_eq_true room)), tokensPacket s g (s.host.staging.take 32) false, rfl, rfl, rfl, rfl,
        rfl, tokensPacket_length .., parts.trans ?_, payload⟩
      rw [tokens_length, List.length_take]
    · intro full
      have none : ¬ ringRoom g (16 + 20 * min 32 s.host.staging.length) = true := fun room => full (of_decide_eq_true room)
      refine ⟨_, serves.trans (if_neg none), ?_⟩
      by_cases asking : g.asking = true
      · rw [if_pos asking]
        have same : ({ g with asking := true } : Ring) = g := by rw [← asking]
        exact ⟨by rw [ring, same], fun _ => rfl, rfl, idle⟩
      · rw [if_neg asking]
        obtain ⟨asks, staging, packet⟩ := askConsumed_host s g
        exact ⟨asks, fun yes => absurd yes asking, staging, packet.trans idle⟩
  · rw [exec_ringPacketComplete, execRingPacketComplete, issues, ring, packet, if_neg (by simp)]
    exact if_pos (by rw [cut]; rfl)
  · obtain ⟨t, writes, ends⟩ := exec_ringPacketComplete_ends issues ring packet tokens whole
    obtain ⟨more, last⟩ := ends
    rcases Bool.eq_false_or_eq_true p.last with isLast | notLast
    · obtain ⟨k, enters⟩ := last isLast
      refine ⟨_, enters.1, ?_, fun x => ?_, ?_, fun no => absurd (no.symm.trans isLast) (by decide), fun _ => ⟨?_, ?_⟩⟩
      · rw [enters.2.host]; rfl
      · rw [enters.2.sameBytes x]; show readByte t.mem x = _; rw [writes]
      · rw [enters.2.host]; show t.host.staging = _; rw [writes]
      · rw [enters.2.host]; rfl
      · rw [enters.2.stw]; rfl
    · refine ⟨_, more notLast, rfl, fun x => ?_, ?_, fun _ => rfl, fun yes => absurd (yes.symm.trans notLast) (by decide)⟩
      · show readByte t.mem x = _; rw [writes]
      · show t.host.staging = _; rw [writes]
  · refine ⟨fun old => ⟨_, exec_consumedWordRead_grants up link found ring (if_pos old), rfl, rfl, ?_⟩, fun l m new at' first =>
      ⟨_, exec_consumedWordRead_grants up link found ring (es := m) ?_, rfl, rfl, ?_⟩, fun new never =>
      ⟨_, exec_consumedWordRead_garbles up link found ring ((if_neg new).trans (endsAfter_none never)), ?_, rfl, fun e other => ?_⟩⟩
    · exact mget_mset_same none s.host.tags tag.toNat none
    · rw [consumedTo, if_neg new, at', endsAfter_mem first]
    · exact mget_mset_same none s.host.tags tag.toNat none
    · rfl
    · exact mem_garbled s other

end Sys2Proof.Rings
end

/-! # The memory windows and the requests of the host face (R414 to R437) -/

section
namespace Sys2Proof.Machine

open Sys2Proof

theorem exec_expansionRomWrite (offset data s) : exec (.expansionRomWrite offset data) s = execExpansionRomWrite offset data s := rfl
theorem exec_bar0Write (offset data poisoned s) : exec (.bar0Write offset data poisoned) s = execBar0Write offset data poisoned s := rfl
theorem exec_bar0Read (offset len s) : exec (.bar0Read offset len) s = execBar0Read offset len s := rfl
theorem exec_bar23Write (offset data poisoned s) : exec (.bar23Write offset data poisoned) s = execBar23Write offset data poisoned s := rfl
theorem exec_bar23Read (offset len s) : exec (.bar23Read offset len) s = execBar23Read offset len s := rfl
theorem exec_configWrite (offset data enables s) : exec (.configWrite offset data enables) s = execConfigWrite offset data enables s := rfl
theorem exec_hostRequestIssue (s) : exec .hostRequestIssue s = execHostRequestIssue s := rfl
theorem exec_hostCompletion (tag status data s) : exec (.hostCompletion tag status data) s = execHostCompletion tag status data s := rfl
theorem exec_hostCompletionTimeout (tag s) : exec (.hostCompletionTimeout tag) s = execHostCompletionTimeout tag s := rfl

/-! ## Completions (Table 11-1) -/

theorem maxPayload_bounds (h : HostFace) : 0 < maxPayload h ∧ maxPayload h ≤ 256 := by
  rw [maxPayload]; split <;> decide

/-- Pieces hold the bytes in order, and none is empty or longer than the size. -/
theorem pieces_spec {size : Nat} (positive : 0 < size) (k a before : Nat) (bs : List Byte) (fuel : bs.length < k) :
    (pieces size k a before bs).flatMap (·.2) = bs ∧
    ∀ p ∈ pieces size k a before bs, 0 < p.2.length ∧ p.2.length ≤ size := by
  induction k generalizing a before bs with
  | zero => omega
  | succ k ih =>
    rw [pieces]
    by_cases empty : bs = []
    · rw [if_pos empty, empty]
      exact ⟨rfl, fun p h => absurd h List.not_mem_nil⟩
    · rw [if_neg empty]
      have below := Nat.mod_lt a positive
      have some := List.length_pos_iff.mpr empty
      obtain ⟨whole, sizes⟩ := ih (a + (size - a % size)) (before + (size - a % size)) (bs.drop (size - a % size))
        (by rw [List.length_drop]; omega)
      constructor
      · rw [List.flatMap_cons, whole, List.take_append_drop]
      · rintro p (_ | ⟨_, rest⟩)
        · rw [List.length_take]; omega
        · exact sizes p rest

theorem foldl_emit {α : Type} (g : α → Out) (l : List α) (s : State) :
    l.foldl (fun s x => emit s (g x)) s = { s with out := (l.map g).reverse ++ s.out } := by
  induction l generalizing s with
  | nil => rfl
  | cons x l ih => rw [List.foldl_cons, ih, List.map_cons, List.reverse_cons, List.append_assoc]; rfl

/-- A read of the host is answered by its bytes in order, in completions of 1 to 256 bytes. -/
theorem completions_spec (s : State) (a : Nat) (bs : List (Byte × Bool)) : ∃ ps : List (CplStatus × List Byte),
    completions s a bs = { s with out := (ps.map fun p => Out.completion p.1 p.2).reverse ++ s.out } ∧
    ps.flatMap (·.2) = bs.map (·.1) ∧ ∀ p ∈ ps, 0 < p.2.length ∧ p.2.length ≤ 256 := by
  obtain ⟨positive, limit⟩ := maxPayload_bounds s.host
  obtain ⟨whole, sizes⟩ := pieces_spec positive (bs.length + 1) a 0 (bs.map (·.1)) (by simp)
  refine ⟨(pieces (maxPayload s.host) (bs.length + 1) a 0 (bs.map (·.1))).map fun p =>
    (if ((bs.drop p.1).take p.2.length).any (·.2) then .ep else .ok, p.2), ?_, ?_, fun q found => ?_⟩
  · rw [completions, foldl_emit, List.map_map]
    rfl
  · rw [List.flatMap_map]
    exact whole
  · obtain ⟨p, piece, rfl⟩ := List.mem_map.mp found
    exact ⟨(sizes p piece).1, (sizes p piece).2.trans limit⟩

/-! ## Configuration space (R409) -/

theorem releaseMsi_writesOut (s : State) : WritesOut s (releaseMsi s) := by
  refine WritesOut.foldl (fun s n => ?_) _ s
  split <;> rfl

theorem getLsbD_enableBits : ∀ (en : BitVec 4) (j : Fin 32), (enableBits en).getLsbD j = en.getLsbD (j / 8) := by decide

/-- A bit of a configuration dword is written where software sets it and its byte is enabled. -/
theorem getLsbD_written (old m data : BitVec 32) (en : BitVec 4) {j : Nat} (small : j < 32) :
    ((old &&& ~~~(m &&& enableBits en)) ||| (data &&& (m &&& enableBits en))).getLsbD j =
      if m.getLsbD j && en.getLsbD (j / 8) then data.getLsbD j else old.getLsbD j := by
  have enables := getLsbD_enableBits en ⟨j, small⟩
  dsimp only at enables
  simp only [BitVec.getLsbD_or, BitVec.getLsbD_and, BitVec.getLsbD_not, enables, small, decide_true, Bool.true_and]
  cases m.getLsbD j <;> cases en.getLsbD (j / 8) <;> simp

/-! ## Link, release and answers -/

theorem exec_configWrite_writes {s : State} (up : hostUp s = true) (link : s.host.linkUp = true)
    (released : s.host.released = true) (ready : s.host.flr = false) (offset : BitVec 12) (data : BitVec 32)
    (en : BitVec 4) : ∃ u, exec (.configWrite offset data en) s = .next u ∧
      cfgAt u.host (offset.toNat / 4) =
        (cfgAt s.host (offset.toNat / 4) &&& ~~~(cfgMask s.straps (offset.toNat / 4) &&& enableBits en)) |||
          (data &&& (cfgMask s.straps (offset.toNat / 4) &&& enableBits en)) ∧
      (∀ e, e ≠ offset.toNat / 4 → cfgAt u.host e = cfgAt s.host e) ∧ u.mem = s.mem := by
  have serves := exec_configWrite offset data en s
  rw [execConfigWrite, configRequest, onLink, up, link, released, ready] at serves
  refine ⟨_, serves, ?_, fun e other => ?_, ?_⟩
  · rw [releaseMsi_writesOut]
    simp only [cfgAt, mget_mset_same]
    rw [BitVec.xor_assoc, BitVec.xor_self, BitVec.xor_zero]
  · rw [releaseMsi_writesOut]
    simp only [cfgAt, mget_mset_other _ _ (Ne.symm other)]
  · rw [releaseMsi_writesOut]

theorem onLink_up {s : State} (up : hostUp s = true) (link : s.host.linkUp = true) (o : Host.Outcome State Fault Refusal) :
    onLink s o = o := by
  rw [onLink, up, link]; rfl

theorem link_of_answers {s : State} (answers : hostAnswers s = true) : hostUp s = true ∧ s.host.linkUp = true := by
  simp only [hostAnswers, Bool.and_eq_true] at answers
  obtain ⟨⟨⟨⟨⟨up, link⟩, -⟩, -⟩, -⟩, -⟩ := answers
  exact ⟨up, link⟩

section Answers

variable {s : State} (answers : hostAnswers s = true)
include answers

theorem exec_bar0Write_answers {offset : BitVec 16} {data : List Byte} (fits : offset.toNat + data.length ≤ 0x10000) :
    exec (.bar0Write offset data false) s =
      if (slotsWritten offset.toNat data.length).any (fun k => !recordGranted s.host (slotNumber s.host k)) then
        .next (garbleRecords s)
      else takingRecords { s with host := { s.host with bar0 := putOptBytes s.host.bar0 offset.toNat data } } := by
  obtain ⟨up, link⟩ := link_of_answers answers
  rw [exec_bar0Write, execBar0Write, onLink_up up link, List.take_of_length_le (by omega), answers, if_neg (by decide),
    if_neg (by decide)]

theorem exec_bar23Read_answers (offset : BitVec 26) {len : Nat} (short : len ≤ 4096) : exec (.bar23Read offset len) s =
    match windowAddr s offset len with
    | none => .next (emit (countMiss s) (.completion .ur []))
    | some (a, _) => .next (produceAll { s with host := { s.host with
        reads := s.host.reads ++ [⟨s.host.readNo, a, len, []⟩], readNo := s.host.readNo + 1 } } 0 true
        (offersOf (hostReadFlits s a len))) := by
  obtain ⟨up, link⟩ := link_of_answers answers
  rw [exec_bar23Read, execBar23Read, onLink_up up link, answers, Nat.min_eq_left short]
  rfl

theorem exec_bar23Write_answers (offset : BitVec 26) (data : List Byte) : exec (.bar23Write offset data false) s =
    match windowAddr s offset data.length with
    | none => .next (unsupportedWrite (countMiss s))
    | some (a, rdonly) => if rdonly || rangeOf a == .flash then .next (countMiss s)
      else .next (produceAll s 0 true (offersOf (hostWriteFlits s a data))) := by
  obtain ⟨up, link⟩ := link_of_answers answers
  rw [exec_bar23Write, execBar23Write, onLink_up up link, answers]
  rfl

end Answers

/-! ## The token window (R414 to R417) -/

theorem mget_putOptBytes (m : List (Nat × Option Byte)) (a : Nat) (bs : List Byte) (x : Nat) :
    mget none (putOptBytes m a bs) x = if a ≤ x ∧ x < a + bs.length then bs[x - a]? else mget none m x := by
  induction bs generalizing m a with
  | nil => rw [putOptBytes, if_neg (by simp)]
  | cons b bs ih =>
    rw [putOptBytes, ih, List.length_cons]
    rcases Nat.lt_trichotomy x a with below | rfl | above
    · rw [if_neg (by omega), if_neg (by omega), mget_mset_other none m (by omega)]
    · rw [if_neg (by omega), if_pos (by omega), mget_mset_same none m, Nat.sub_self]; rfl
    · obtain ⟨i, at'⟩ : ∃ i, x - a = i + 1 := ⟨x - a - 1, by omega⟩
      rw [at', List.getElem?_cons_succ]
      split
      · rw [if_pos (by omega)]; congr 1; omega
      · rw [if_neg (by omega), mget_mset_other none m (by omega)]

theorem keys_mset {α : Type} [DecidableEq α] (d : α) {m : List (Nat × α)} {k : Nat} {v : α} {e : Nat × α}
    (h : e ∈ mset d m k v) : e ∈ m ∨ e.1 = k := by
  rw [mset] at h
  split at h
  · exact .inl (List.mem_of_mem_filter h)
  · rcases (mem_minsert ..).mp h with rfl | old
    · exact .inr rfl
    · exact .inl (List.mem_of_mem_filter old)

theorem keys_putOptBytes {m : List (Nat × Option Byte)} {a : Nat} {bs : List Byte} {e : Nat × Option Byte}
    (h : e ∈ putOptBytes m a bs) : e ∈ m ∨ a ≤ e.1 ∧ e.1 < a + bs.length := by
  induction bs generalizing m a with
  | nil => exact .inl h
  | cons b bs ih =>
    rw [putOptBytes] at h
    rw [List.length_cons]
    rcases ih h with old | new
    · rcases keys_mset none old with old | rfl
      · exact .inl old
      · exact .inr (by omega)
    · exact .inr (by omega)

/-- A slot that has been written whole holds its record. -/
theorem slotRecord_whole (h : HostFace) (slot : Nat) {data : List Byte} (len : data.length = 32)
    (written : h.bar0 = putOptBytes [] (32 * slot) data) : slotRecord h slot = some data := by
  have bytes : slotData h slot = data.map some := by
    refine List.ext_getElem (by simp [slotData, len]) fun i below _ => ?_
    rw [slotData, List.length_map, List.length_range] at below
    simp only [slotData, List.getElem_map, List.getElem_range]
    rw [written, mget_putOptBytes, if_pos (by omega), Nat.add_sub_cancel_left]
    exact List.getElem?_eq_getElem (by omega)
  rw [slotRecord, bytes, if_pos (by simp)]
  simp

/-- The slot of the next record has its number. -/
theorem slotNumber_next (h : HostFace) : slotNumber h (h.nextSeq.toNat % 2048) = h.nextSeq := by
  have zero : (h.nextSeq.toNat % 2048 + 2048 - h.nextSeq.toNat % 2048) % 2048 = 0 := by omega
  rw [slotNumber, zero]
  exact BitVec.add_zero _

theorem slotsWritten_one {slot k : Nat} (h : k ∈ slotsWritten (32 * slot) 32) : k = slot := by
  simp only [slotsWritten, List.mem_filter, Bool.and_eq_true, decide_eq_true_eq] at h
  omega

section Record

variable {s : State} {slot : Nat} {data : List Byte} (next : s.host.nextSeq.toNat % 2048 = slot) (len : data.length = 32)
  (written : s.host.bar0 = putOptBytes [] (32 * slot) data) (good : recordBad data = none)
include next len written good

/-- A record in the next slot is taken while the buffer has room; the one after it has not been written. -/
theorem takeRecords_one (room : (heldOf s isHostEvent).length < 256) (fuel : Nat) : ∃ h : HostFace,
    h.nextSeq = s.host.nextSeq + 1 ∧ h.bar0 = [] ∧
    takeRecords (fuel + 1) s = .ok (stampEvent { s with host := h } 6 0 (.host (tokenOfBytes data))) := by
  have gone : s.host.bar0.filter (fun e => e.1 / 32 != slot) = [] := by
    refine List.filter_eq_nil_iff.mpr fun e member => ?_
    rw [written] at member
    rcases keys_putOptBytes member with old | ⟨low, high⟩
    · exact absurd old List.not_mem_nil
    · have : e.1 / 32 = slot := by omega
      simp [this]
  have stops (t : State) (empty : t.host.bar0 = []) (k : Nat) : takeRecords k t = .ok t := by
    have none : slotRecord t.host (t.host.nextSeq.toNat % 2048) = none := by
      rw [slotRecord, if_neg]
      simp [slotData, empty, mget]
    cases k with
    | zero => rfl
    | succ k =>
      rw [takeRecords]
      dsimp only
      rw [none]
      exact ite_self _
  rw [takeRecords]
  dsimp only
  rw [next, if_neg (by omega), slotRecord_whole s.host slot len written]
  dsimp only
  rw [good, gone]
  exact ⟨_, rfl, rfl, stops _ rfl fuel⟩

end Record

/-! ## The memory window (R430 to R433) -/

/-- Bytes placed in a word: the mask names them and the data holds them. -/
theorem placeInWord_spec {o : Nat} {bs : List Byte} (fits : o + bs.length ≤ 8) :
    (∀ j < 8, (placeInWord o bs).1.getLsbD j = (decide (o ≤ j) && decide (j < o + bs.length))) ∧
    ∀ j < bs.length, (placeInWord o bs).2.extractLsb' (8 * (o + j)) 8 = bs.getD j 0 := by
  constructor
  · intro j small
    rw [placeInWord, BitVec.getLsbD_ofNat, Nat.testBit_mul_two_pow, Nat.testBit_two_pow_sub_one, decide_eq_true small,
      Bool.true_and]
    by_cases from' : o ≤ j
    · congr 1
      exact decide_eq_decide.mpr (by omega)
    · rw [decide_eq_false from', Bool.false_and, Bool.false_and]
  · intro j small
    have power : 256 ^ o = 2 ^ (8 * o) := by rw [Nat.pow_mul]
    refine BitVec.eq_of_getLsbD_eq fun i bit => ?_
    have place : 8 * (o + j) + i - 8 * o = 8 * j + i := by omega
    have byte : (8 * j + i) / 8 = j := by omega
    have within : (8 * j + i) % 8 = i := by omega
    rw [BitVec.getLsbD_extractLsb', decide_eq_true bit, Bool.true_and, placeInWord, BitVec.getLsbD_ofNat,
      decide_eq_true (by omega), Bool.true_and, power, Nat.testBit_mul_two_pow, decide_eq_true (by omega), Bool.true_and,
      place, leNat_testBit, byte, within]

theorem offersOf_map {α : Type} (g : α → Flit) (l : List α) : offersOf (l.map g) = l.map fun x => ⟨0, none, g x⟩ :=
  List.map_map

theorem hostWriteFlits_one (s : State) {a : Addr} {bs : List Byte} (some' : bs ≠ []) (fits : a.toNat % 8 + bs.length ≤ 8) :
    hostWriteFlits s a bs = [mkFlit s 0 2 .host (.write (BitVec.ofNat 48 (a.toNat / 8 * 8)) (placeInWord (a.toNat % 8) bs).1
      (placeInWord (a.toNat % 8) bs).2 .host 0)] := by
  have rest (k : Nat) (b : Addr) : splitWrite k b [] = [] := by cases k <;> rfl
  rw [hostWriteFlits, splitWrite, if_neg some']
  dsimp only
  rw [List.take_of_length_le (by omega), List.drop_of_length_le (by omega), rest]
  rfl

/-! ## Reports (R659, R660) -/

/-- What a failed access changes: the node's serial, the descriptors of the fabric's contexts, and what enters the weave. -/
structure Reports (s t : State) : Prop where
  shape : t = { s with weave := t.weave, mem := t.mem, freeCounter := t.freeCounter,
                       stw := { s.stw with nodeSerial := t.stw.nodeSerial } }
  mem : SameOutside s.mem t.mem 0 0x100000

theorem Reports.refl (s : State) : Reports s s := ⟨rfl, fun _ _ => rfl⟩

theorem Reports.trans {a b c : State} (h : Reports a b) (g : Reports b c) : Reports a c :=
  ⟨by rw [g.shape, h.shape], fun x out => (g.mem x out).trans (h.mem x out)⟩

theorem Reports.host {s t : State} (h : Reports s t) : t.host = s.host := by rw [h.shape]
theorem Reports.pwr {s t : State} (h : Reports s t) : t.pwr = s.pwr := by rw [h.shape]
theorem Reports.out {s t : State} (h : Reports s t) : t.out = s.out := by rw [h.shape]

theorem Enters.reports {s t : State} (h : Enters s t) : Reports s t :=
  ⟨by rw [h.shape], fun x _ => h.sameBytes x⟩

theorem nodeReport_reports (s : State) (code : BitVec 8) (access : BitVec 4) (info : BitVec 48) (subject : W64) :
    Reports s (nodeReport s code access info subject) := by
  obtain ⟨n, enters⟩ := nodeReport_enters s code access info subject
  have counts : Reports s { s with stw := { s.stw with nodeSerial := n } } := ⟨rfl, fun _ _ => rfl⟩
  exact counts.trans enters.reports

theorem bumpSerial_outside (m : Mem) (c : BitVec 14) : SameOutside m (bumpSerial m c) 0 0x100000 := by
  have low := c.isLt
  intro x out
  rw [bumpSerial]
  exact readByte_writeBytes_outside m _ x _ (by rw [leBytes_length, descAddr]; omega)

theorem contextReport_reports (s : State) (c : BitVec 14) (code : BitVec 8) (access : BitVec 4) (info : BitVec 48)
    (subject : W64) : Reports s (contextReport s c code access info subject) := by
  have read : Reports s (readForReport s c) := ⟨rfl, fun x _ => (readForReport_marks s c).readByte x⟩
  rw [contextReport]
  split
  · exact Reports.refl s
  · dsimp only
    split
    · have bump : Reports (readForReport s c) { readForReport s c with mem := bumpSerial (readForReport s c).mem c } :=
        ⟨rfl, bumpSerial_outside _ c⟩
      exact read.trans (bump.trans (produceAll_enters ..).reports)
    · exact read.trans (nodeReport_reports ..)

theorem placeSend_enters (s : State) (pl : Place) (pri : BitVec 2) (m : Msg) : Enters s (placeSend s pl pri m) := by
  cases pl <;> exact produce_enters ..

theorem resolveElement_reports (s : State) (pl : Place) (e : Elem) (scatter : Bool) (tag0 : W64) (code : BitVec 8) :
    Reports s (resolveElement s pl e scatter tag0 code) := by
  rw [resolveElement]
  split
  · exact (placeSend_enters ..).reports
  · split
    · exact Reports.refl s
    · exact contextReport_reports ..

theorem answerRead_reports (s : State) (pl : Place) (pri : BitVec 2) (a : Addr) (f : ReadFor) (tag0 : W64) (info : Addr)
    (r : Except (BitVec 8) W64) : Reports s (answerRead s pl pri a f tag0 info r) := by
  have sent (m : Msg) (pri : BitVec 2) := (placeSend_enters s pl pri m).reports
  have fails (t : State) (code : BitVec 8) (access : BitVec 4) : Reports t (firingReport t tag0 code access info) :=
    contextReport_reports ..
  rw [answerRead.eq_def]
  split
  · exact sent ..
  · exact (sent ..).trans (fails ..)
  · exact sent ..
  · exact fails ..
  · exact sent ..
  · exact resolveElement_reports ..
  · exact sent ..
  · exact (sent ..).trans (fails ..)
  · exact sent ..
  · exact sent ..

theorem answerIread_reports (s : State) (pl : Place) (pri : BitVec 2) (q : IReq) (r : Except (BitVec 8) W64) :
    Reports s (answerIread s pl pri q r) := by
  have sent := (placeSend_enters s pl pri (.token (answerToken q.tag q.dl q.fl r false))).reports
  rw [answerIread.eq_def]
  dsimp only
  split
  · exact sent.trans (resolveElement_reports ..)
  · exact sent.trans (resolveElement_reports ..)
  · exact sent
  · exact sent.trans (contextReport_reports ..)

theorem answerTag_reports (s : State) (u : TagUse) (r : Except (BitVec 8) W64) : Reports s (answerTag s u r) := by
  cases u with
  | read a f tag0 pri => exact answerRead_reports ..
  | iread q pri => exact answerIread_reports ..
  | params => exact Reports.refl s
  | consumed => exact Reports.refl s

/-- A load of an aligned word is answered with the word. -/
theorem answerTag_load (s : State) {a : Addr} {l : LoadReq} (size : l.size = 3) (aligned : a.toNat % 8 = 0) (tag0 : W64)
    (pri : BitVec 2) (w : W64) : answerTag s (.read a (.load l) tag0 pri) (.ok w) =
      placeSend s hostPlace pri (.token (tokenTo l.tag w l.dl l.fl 0)) := by
  have value : loadValue (w <<< (8 * (a.toNat % 8))) a l.size l.sx = w := by
    rw [loadValue, size, aligned]
    exact (BitVec.ushiftRight_zero _).trans (BitVec.shiftLeft_zero w)
  show answerRead s hostPlace pri a (.load l) tag0 a (.ok (w <<< (8 * (a.toNat % 8)))) = _
  rw [answerRead, value]
  rfl

/-! ## Requests from the fabric (R436, R437) -/

section Issue

variable {s : State} {f : Flit} (up : tileUp s 0 = true) (head : takeHead s.weave 0 true 1 isHostReq isHostReq = some f)
include up head

theorem exec_hostRequestIssue_clears {a : Addr} {tag0 : W64} (msg : f.msg = .iclear a tag0) :
    exec .hostRequestIssue s = .next (taken s 0 true f) := by
  rw [exec_hostRequestIssue, execHostRequestIssue, up, head, if_neg (by decide)]
  dsimp only
  rw [msg]

theorem exec_hostRequestIssue_issues (other : ∀ a tag0, f.msg ≠ .iclear a tag0) : exec .hostRequestIssue s =
    if !hostIssues s then .next (hostReqFails (taken s 0 true f) f fHostOff)
    else match xlate s.host (reqAddr f.msg) with
    | none => .next (hostReqFails { taken s 0 true f with
        host := { s.host with tmisses := satAdd s.host.tmisses 1 } } f fTranslation)
    | some ha => match hostIssue (taken s 0 true f) f ha with
      | some t => .next t
      | none => .next s := by
  rw [exec_hostRequestIssue, execHostRequestIssue, up, head, if_neg (by decide)]
  dsimp only
  cases msg : f.msg with
  | iclear a tag0 => exact absurd msg (other a tag0)
  | _ => rfl

end Issue

theorem leBytes_eq_map (n x : Nat) : leBytes n x = (List.range n).map fun i => BitVec.ofNat 8 (x / 256 ^ i) := by
  induction n generalizing x with
  | zero => rfl
  | succ n ih =>
    rw [leBytes, ih, List.range_succ_eq_map, List.map_cons, List.map_map, pow_zero, Nat.div_one]
    refine congrArg _ (List.map_congr_left fun i _ => ?_)
    rw [Function.comp_apply, Nat.div_div_eq_div_mul, Nat.pow_succ']

theorem maskedBytes_whole (v : W64) : maskedBytes 0xFF v = (0, leBytes 8 v.toNat) := by
  have all : (List.range 8).filter (fun i => (0xFF : BitVec 8).getLsbD i) = List.range 8 := by decide
  rw [maskedBytes, all]
  exact Prod.ext rfl (leBytes_eq_map 8 v.toNat).symm

theorem exec_hostCompletion_answers {s : State} {tag : BitVec 5} {a : Addr} {f : ReadFor} {tag0 : W64} {pri : BitVec 2}
    (up : hostUp s = true) (link : s.host.linkUp = true)
    (held : mget none s.host.tags tag.toNat = some (.read a f tag0 pri)) (status : CplStatus) (data : W64) :
    exec (.hostCompletion tag status data) s = .next (answerTag (paramsFreed s tag status) (.read a f tag0 pri)
      (if status = .ok then .ok data else .error fHostError)) := by
  rw [exec_hostCompletion, execHostCompletion, onLink_up up link, held]
  rfl

theorem exec_hostCompletionTimeout_answers {s : State} {tag : BitVec 5} {a : Addr} {f : ReadFor} {tag0 : W64}
    {pri : BitVec 2} (up : hostUp s = true) (held : mget none s.host.tags tag.toNat = some (.read a f tag0 pri)) :
    exec (.hostCompletionTimeout tag) s = .next (answerTag (emit { s with
      host := { setTag s.host tag none with timeouts := satAdd s.host.timeouts 1 } } (.report .completionTimeout))
      (.read a f tag0 pri) (.error fHostTimeout)) := by
  rw [exec_hostCompletionTimeout, execHostCompletionTimeout, up, held]
  rfl

end Sys2Proof.Machine

namespace Sys2Proof.Accesses

open Sys2Proof Sys2Proof.Machine

/-- Settles O49: each access of the host and each request of the fabric is one case of the face; completions hold the bytes
asked for in order, and what fails is answered and reported within the fabric's descriptors. -/
theorem hostAccessesAndRequests : Obligations.HostAccessesAndRequests := by
  intro s f tag
  refine ⟨fun offset data => rfl, completions_spec s, fun up link => ⟨fun offset data p => ⟨fun silent => ?_, fun answers => ?_⟩,
    fun offset data p => ⟨fun silent => ?_, fun answers => ?_⟩, fun offset data en => ⟨fun away => ?_, fun released ready => ?_⟩,
    fun offset len some' fits => ⟨fun answers => ?_, fun silent => ?_⟩⟩, fun answers => ⟨fun offset data fits past => ?_,
    fun offset data empty place len zero kind granted room => ?_, fun offset len some' short => ⟨fun miss => ?_, fun a ro hit => ?_⟩,
    fun offset data some' => ⟨fun miss => ?_, fun a hit => ?_, fun a hit range fits => ?_⟩⟩,
    fun tile head => ⟨fun a tag0 msg => exec_hostRequestIssue_clears tile head msg, fun silent other => ?_, fun issues =>
      ⟨fun a rf tag0 msg miss => ?_, fun a l tag0 ha msg hit => ⟨fun full => ?_, fun free => ?_⟩,
        fun a v wf tag0 ha msg aligned hit => ?_⟩⟩,
    fun a l tag0 pri up held => ⟨fun w link size aligned => ?_, fun st w link failed => ?_, ?_⟩,
    fun st w up link unheld known => ?_⟩
  · rw [exec_bar0Write, execBar0Write, onLink_up up link, silent]; rfl
  · rw [exec_bar0Write, execBar0Write, onLink_up up link, answers]; rfl
  · rw [exec_bar23Write, execBar23Write, onLink_up up link, silent]; rfl
  · rw [exec_bar23Write, execBar23Write, onLink_up up link, answers]; rfl
  · rw [exec_configWrite, execConfigWrite, configRequest, onLink_up up link]
    exact if_pos (by rcases away with h | h <;> simp [h])
  · obtain ⟨u, serves, at', elsewhere, mem⟩ := exec_configWrite_writes up link released ready offset data en
    refine ⟨u, serves, fun j small => ?_, elsewhere, mem⟩
    rw [at', getLsbD_written _ _ _ _ small]
  · rw [exec_bar0Read, execBar0Read, onLink_up up link, answers, Nat.min_eq_left (by omega)]; rfl
  · rw [exec_bar0Read, execBar0Read, onLink_up up link, silent]; rfl
  · obtain ⟨k, written, refused⟩ := past
    refine (exec_bar0Write_answers answers fits).trans (if_pos (List.any_eq_true.mpr ⟨k, written, ?_⟩))
    rw [refused]; rfl
  · have one : ∀ k ∈ slotsWritten offset.toNat data.length, recordGranted s.host (slotNumber s.host k) = true := by
      intro k written
      rw [place, len] at written
      rw [slotsWritten_one written, slotNumber_next, granted]
    have good : recordBad data = none := by
      rw [recordBad, if_neg (by simpa using zero), if_neg kind]
    obtain ⟨h, next, gone, takes⟩ := takeRecords_one (s := { s with
      host := { s.host with bar0 := putOptBytes s.host.bar0 offset.toNat data } }) rfl len (by rw [empty, place]) good room 255
    have granted' : ¬ (slotsWritten offset.toNat data.length).any (fun k => !recordGranted s.host (slotNumber s.host k)) = true := by
      rw [List.any_eq_true]
      rintro ⟨k, written, refused⟩
      rw [one k written] at refused
      cases refused
    have serves := (exec_bar0Write_answers answers (by rw [place, len]; omega)).trans (if_neg granted')
    rw [takingRecords, takes] at serves
    exact ⟨_, serves, next, gone, rfl, rfl, rfl⟩
  · rw [exec_bar23Read_answers answers offset short, miss]; rfl
  · rw [exec_bar23Read_answers answers offset short, hit]
    exact congrArg (fun os => Host.Outcome.next (produceAll _ 0 true os)) (offersOf_map ..)
  · rw [exec_bar23Write_answers answers, miss]; rfl
  · rw [exec_bar23Write_answers answers, hit]; rfl
  · obtain ⟨mask, value⟩ := placeInWord_spec fits
    refine ⟨_, _, ?_, mask, value⟩
    rw [exec_bar23Write_answers answers, hit]
    dsimp only
    rw [hostWriteFlits_one s some' fits]
    exact if_neg (by rw [Bool.false_or, beq_iff_eq]; exact range)
  · rw [exec_hostRequestIssue_issues tile head other, silent]; rfl
  · rw [exec_hostRequestIssue_issues tile head (fun a t h => by rw [msg] at h; cases h), issues, msg, reqAddr, miss]; rfl
  · rw [exec_hostRequestIssue_issues tile head (fun a t h => by rw [msg] at h; cases h), issues, msg, reqAddr, hit]
    simp only [hostIssue, msg, taken, full, Option.map_none, Bool.not_true, Bool.false_eq_true, if_false]
  · rw [exec_hostRequestIssue_issues tile head (fun a t h => by rw [msg] at h; cases h), issues, msg, reqAddr, hit]
    simp only [hostIssue, msg, taken, free, Option.map_some, Bool.not_true, Bool.false_eq_true, if_false]
    rfl
  · rw [exec_hostRequestIssue_issues tile head (fun a t h => by rw [msg] at h; cases h), issues, msg, reqAddr, hit]
    simp only [hostIssue, msg, maskedBytes_whole, aligned, Bool.not_true, Bool.false_eq_true, if_false]
    rw [BitVec.sub_zero, BitVec.add_zero]
  · rw [exec_hostCompletion_answers up link held, if_pos rfl, answerTag_load _ size aligned]
    rfl
  · have answered := answerTag_reports (paramsFreed s tag st) (.read a (.load l) tag0 pri) (.error fHostError)
    refine ⟨_, exec_hostCompletion_answers up link held st w, ?_⟩
    rw [if_neg failed]
    rw [paramsFreed_failed failed] at answered ⊢
    exact ⟨answered.host, answered.out, answered.mem⟩
  · have answered := answerTag_reports (emit { s with
      host := { setTag s.host tag none with timeouts := satAdd s.host.timeouts 1 } } (.report .completionTimeout))
      (.read a (.load l) tag0 pri) (.error fHostTimeout)
    exact ⟨_, exec_hostCompletionTimeout_answers up held, answered.host, answered.out⟩
  · rw [exec_hostCompletion, execHostCompletion, onLink_up up link, unheld]
    exact if_neg (by simpa using known)

end Sys2Proof.Accesses
end

/-! # The modes and resets of the host face (R438 to R445) -/

section
namespace Sys2Proof.Machine

open Sys2Proof

theorem exec_busMasterDisable (s) : exec .busMasterDisable s = execBusMasterDisable s := rfl
theorem exec_busMasterEnable (s) : exec .busMasterEnable s = execBusMasterEnable s := rfl
theorem exec_d3hotEntry (s) : exec .d3hotEntry s = execD3hotEntry s := rfl
theorem exec_d0Return (s) : exec .d0Return s = execD0Return s := rfl
theorem exec_functionLevelReset (s) : exec .functionLevelReset s = execFunctionLevelReset s := rfl
theorem exec_flrComplete (s) : exec .flrComplete s = execFlrComplete s := rfl
theorem exec_hotReset (s) : exec .hotReset s = execHotReset s := rfl
theorem exec_hostLinkDown (s) : exec .hostLinkDown s = execHostLinkDown s := rfl
theorem exec_perstNAssert (s) : exec .perstNAssert s = execPerstNAssert s := rfl
theorem exec_aspmL1Entry (s) : exec .aspmL1Entry s = execAspmL1Entry s := rfl
theorem exec_hostLinkTrained (width gen s) : exec (.hostLinkTrained width gen) s = execHostLinkTrained width gen s := rfl

theorem configRequest_ready {s : State} (up : hostUp s = true) (link : s.host.linkUp = true) (released : s.host.released = true)
    (ready : s.host.flr = false) (o : Host.Outcome State Fault Refusal) : configRequest s o = o := by
  rw [configRequest, onLink_up up link, released, ready]
  rfl

theorem configRequest_retry {s : State} (up : hostUp s = true) (link : s.host.linkUp = true)
    (away : s.host.flr = true ∨ s.host.released = false) (o : Host.Outcome State Fault Refusal) :
    configRequest s o = .next (emit s .retryStatus) := by
  rw [configRequest, onLink_up up link]
  exact if_pos (by rcases away with h | h <;> simp [h])

/-! ## A packet that stops (R424, R441) -/

/-- What a packet that stops changes: what is sent, the face's messages and packet, and the counts of what is discarded. -/
def Stops (s t : State) : Prop := t = { s with
  out := t.out, freeCounter := t.freeCounter, tab := t.tab
  host := { s.host with busy := t.host.busy, msiHeld := t.host.msiHeld, msiSent := t.host.msiSent, msis := t.host.msis
                        msiOwed := t.host.msiOwed, packet := t.host.packet, discards := t.host.discards } }

theorem Stops.refl (s : State) : Stops s s := rfl

theorem Stops.trans {a b c : State} (h : Stops a b) (g : Stops b c) : Stops a c := by
  unfold Stops at *; rw [g, h]

theorem WritesOut.stops {s t : State} (h : WritesOut s t) : Stops s t := by
  unfold Stops; rw [h]

theorem stopPacket_stops (s : State) : Stops s (stopPacket s) := by
  rw [stopPacket.eq_def]
  split
  · next p g _ _ =>
    split
    · dsimp only
      have body (q : Packet) (fuel from' : Nat) (written : Option Packet) : Stops s { bumpFree (writeBody s g q fuel from') with
          host := { (bumpFree (writeBody s g q fuel from')).host with packet := written } } :=
        (writeBody_writesOut g q fuel from' s).stops.trans (b := writeBody s g q fuel from') rfl
      split
      · exact (body ..).trans (ringWrite_writesOut ..).stops
      · exact body ..
    · exact Stops.refl s
  · exact Stops.refl s

theorem stopPacket_none {s : State} (none : s.host.packet = none) : stopPacket s = s := by
  rw [stopPacket, none]

/-- The packet that stops has been written so far, and else is as it was. -/
theorem stopPacket_packet {s : State} {p : Packet} (packet : s.host.packet = some p) :
    ∃ n, (stopPacket s).host.packet = some { p with written := n } := by
  have same : some p = some { p with written := p.written } := rfl
  rw [stopPacket.eq_def]
  split
  · next q g found _ =>
    obtain rfl : q = p := Option.some.inj (found.symm.trans packet)
    split
    · dsimp only
      split
      · rw [ringWrite_writesOut]
        exact ⟨_, rfl⟩
      · exact ⟨_, rfl⟩
    · exact ⟨_, packet.trans same⟩
  · exact ⟨_, packet.trans same⟩

theorem discardDump_stops (s : State) (n : Nat) : Stops s (discardDump s n) := by
  rw [discardDump]
  split <;> rfl

theorem discardDump_packet (s : State) (n : Nat) : (discardDump s n).host.packet = s.host.packet := by
  rw [discardDump]
  split <;> rfl

theorem cutPacket_stops (s : State) : Stops s (cutPacket s) := by
  have stops := stopPacket_stops s
  rw [cutPacket]
  dsimp only
  split
  · exact stops
  · split
    · exact stops
    · exact (stops.trans (c := { stopPacket s with host := { (stopPacket s).host with
        packet := _, discards := _ } }) rfl).trans (discardDump_stops ..)

theorem cutPacket_none {s : State} (none : s.host.packet = none) : cutPacket s = s := by
  rw [cutPacket, stopPacket_none none]
  dsimp only
  rw [none]

theorem cutPacket_packet {s : State} {p : Packet} (packet : s.host.packet = some p) (whole : p.cut = false) :
    ∃ n, (cutPacket s).host.packet = some { p with written := n, cut := true } := by
  obtain ⟨n, stopped⟩ := stopPacket_packet packet
  rw [cutPacket]
  dsimp only
  rw [stopped]
  dsimp only
  rw [whole, if_neg (by decide), discardDump_packet]
  exact ⟨n, rfl⟩

/-! ## The notice of a face that goes off (Table 11-15) -/

theorem hostOff_time (s : State) (cause : BitVec 2) : hostOff s cause = { s with time := (hostOff s cause).time } := by
  rw [hostOff, postNotice]
  split <;> rfl

/-- The notice bears the reads outstanding. -/
def offTime (s : State) (cause : BitVec 2) : Time :=
  if s.stw.started then { s.time with held := s.time.held ++ [⟨s.time.beat, 1, 0, false, .notice 0x082
    ((BitVec.ofNat 8 (tagsOut s.host) ++ (0 : BitVec 6) ++ cause : BitVec 16).setWidth 64)⟩] }
  else s.time

theorem hostOff_eq (s : State) (cause : BitVec 2) : (hostOff s cause).time = offTime s cause := by
  rw [hostOff, postNotice, offTime]
  split <;> rfl

theorem offTime_congr {s t : State} (stw : t.stw = s.stw) (time : t.time = s.time) (tags : t.host.tags = s.host.tags)
    (cause : BitVec 2) : offTime t cause = offTime s cause := by
  simp only [offTime, tagsOut, stw, time, tags]

theorem Stops.offTime {s t : State} (h : Stops s t) (cause : BitVec 2) : (hostOff t cause).time = Machine.offTime s cause := by
  rw [hostOff_eq, h]; rfl

section Ready

variable {s : State} (up : hostUp s = true) (link : s.host.linkUp = true) (ready : s.host.flr = false)
  (released : s.host.released = true)
include up link ready released

theorem exec_busMasterDisable_ready : exec .busMasterDisable s = if !s.host.bme then .next s else
    .next { hostOff (cutPacket s) 1 with host := { dropStaging (hostOff (cutPacket s) 1).host with bme := false } } := by
  rw [exec_busMasterDisable, execBusMasterDisable, configRequest_ready up link released ready]

theorem exec_busMasterEnable_ready : exec .busMasterEnable s = if s.host.bme then .next s
    else if s.host.d3hot then .next { s with host := { s.host with bme := true } }
    else .next (resumeRing (releaseMsi { s with host := { s.host with bme := true } })) := by
  rw [exec_busMasterEnable, execBusMasterEnable, configRequest_ready up link released ready]

theorem exec_busMasterEnable_goes (no : s.host.bme = false) (d0 : s.host.d3hot = false) : exec .busMasterEnable s =
    .next (resumeRing (releaseMsi { s with host := { s.host with bme := true } })) :=
  (exec_busMasterEnable_ready up link ready released).trans
    ((if_neg (by rw [no]; decide)).trans (if_neg (by rw [d0]; decide)))

theorem exec_d3hotEntry_ready : exec .d3hotEntry s = if s.host.d3hot then .next s
    else .next (hostOff { stopPacket s with host := { (stopPacket s).host with d3hot := true } } 2) := by
  rw [exec_d3hotEntry, execD3hotEntry, configRequest_ready up link released ready]

theorem exec_d0Return_ready : exec .d0Return s = if !s.host.d3hot then .next s
    else if s.host.bme && packetCut s.host then .next (resumeRing (releaseMsi { s with host := { s.host with d3hot := false } }))
    else .next (releaseMsi { s with host := { s.host with d3hot := false } }) := by
  rw [exec_d0Return, execD0Return, configRequest_ready up link released ready]

theorem exec_functionLevelReset_ready : exec .functionLevelReset s =
    .next { hostReset s 0 with host := { (hostReset s 0).host with flr := true } } := by
  rw [exec_functionLevelReset, execFunctionLevelReset, configRequest_ready up link released ready]

end Ready

/-- Messages whose mask is clear and that wait for none leave the face as it was. -/
theorem releaseMsi_idle {s : State} (none : s.host.msiHeld = 0) : releaseMsi s = s := by
  simp [releaseMsi, none]

/-- A ring that is still attached goes on at once where no packet was cut. -/
theorem resumeRing_whole {s : State} {g : Ring} (ring : s.host.ring = some g) (packet : s.host.packet = none) :
    resumeRing s = hostOff s 0 := by
  rw [resumeRing, ring]
  dsimp only
  rw [packet]

/-- A packet that was cut ends with what has been written of it. -/
theorem resumeRing_cut {s : State} {g : Ring} {p : Packet} (ring : s.host.ring = some g) (packet : s.host.packet = some p)
    (cut : p.cut = true) : ∃ t, WritesOut s t ∧ resumeRing s = hostOff (packetEnded t g p.written) 0 := by
  obtain ⟨t, writes, ends⟩ := endPacket_spec s g p.written true true
  refine ⟨t, writes, ?_⟩
  rw [resumeRing, ring]
  dsimp only
  rw [packet]
  dsimp only
  rw [if_pos cut, ends]
  rfl

/-! ## The face after a reset (R444) -/

/-- What a reset does besides leaves the supplies, and the face but for a ring that goes. -/
def FaceKept (s t : State) : Prop := t.pwr = s.pwr ∧ (s.host.ring = none → t.host.ring = none) ∧
  t.host = { s.host with ring := t.host.ring, bootUsed := t.host.bootUsed }

theorem FaceKept.of_eq {s t : State} (pwr : t.pwr = s.pwr) (host : t.host = s.host) : FaceKept s t :=
  ⟨pwr, fun no => by rw [host, no], by rw [host]⟩

theorem FaceKept.refl (s : State) : FaceKept s s := FaceKept.of_eq rfl rfl

theorem FaceKept.trans {a b c : State} (h : FaceKept a b) (g : FaceKept b c) : FaceKept a c := by
  obtain ⟨pwr, ring, host⟩ := h
  obtain ⟨pwr', ring', host'⟩ := g
  exact ⟨pwr'.trans pwr, fun no => ring' (ring no), by rw [host', host]⟩

theorem answer_faceKept (s : State) (r : Req) (status : BitVec 8) (data : List W64) : FaceKept s (answer s r status data) := by
  obtain ⟨k, enters⟩ := answer_enters s r status data
  exact FaceKept.of_eq enters.pwr enters.host

theorem attachFails_faceKept (s : State) (r : Req) (status : BitVec 8) : FaceKept s (attachFails s r status) :=
  FaceKept.trans (b := bootAgain { s with stw := { s.stw with attach := none } }) ⟨rfl, id, rfl⟩ (answer_faceKept ..)

theorem detachNow_faceKept (s : State) (r : Req) : FaceKept s (detachNow s r) :=
  FaceKept.trans (b := { s with
    stw := { s.stw with detach := none }, host := { s.host with ring := none, bootUsed := false } })
    ⟨rfl, fun _ => rfl, rfl⟩ (answer_faceKept ..)

theorem abandonReads_faceKept (l : List (Nat × Option TagUse)) (s : State) : FaceKept s (abandonReads s l) := by
  induction l generalizing s with
  | nil => exact FaceKept.refl s
  | cons e l ih =>
    obtain ⟨k, u⟩ := e
    cases u with
    | none => exact ih s
    | some u =>
      have answered := answerTag_reports s u (.error fHostOff)
      exact (FaceKept.of_eq answered.pwr answered.host).trans (ih _)

theorem abandonLoad_faceKept (s : State) (o : Origin) : FaceKept s (abandonLoad s o) := by
  have ends (l : Load) : FaceKept s (endLoad s l stSequence) := by
    have stores := spoilImage_storesOnly s l.bytes
    rw [endLoad]
    exact FaceKept.of_eq (by rw [stores]) (by rw [stores])
  rw [abandonLoad.eq_def]
  split
  · split
    · split
      · exact ends _
      · exact FaceKept.refl s
    · exact FaceKept.refl s
  · exact FaceKept.refl s

theorem postNotice_faceKept (s : State) (code : BitVec 12) (v : W64) : FaceKept s (postNotice s code v) := by
  rw [postNotice]
  split <;> exact FaceKept.of_eq rfl rfl

/-- The face as a reset leaves it, beside one that stood before. -/
structure Cleared (h t : HostFace) : Prop where
  bme : t.bme = false
  d3hot : t.d3hot = false
  ring : t.ring = none
  packet : t.packet = none
  staging : t.staging = []
  inb : t.inb = []
  outb : t.outb = h.outb
  tags : t.tags = []
  bar0 : t.bar0 = []
  nextSeq : t.nextSeq = 0
  reads : t.reads = []
  released : t.released = h.released
  linkUp : t.linkUp = h.linkUp

/-- The face as a reset clears it, before the reads and requests that were open are answered. -/
theorem hostReset_kept (s : State) (cause : BitVec 2) : ∃ t, Stops s t ∧
    FaceKept { t with host := hostCleared t.host } (hostReset s cause) := by
  refine ⟨if s.host.bme then cutPacket s else s, ?_, ?_⟩
  · split
    · exact cutPacket_stops s
    · exact Stops.refl s
  · have reads := abandonReads_faceKept s.host.tags { (if s.host.bme then cutPacket s else s) with
      host := hostCleared (if s.host.bme then cutPacket s else s).host }
    have fails (t : State) (a : Option Req) : FaceKept t (match a with | some r => attachFails t r stRefused | none => t) := by
      cases a with
      | none => exact FaceKept.refl t
      | some r => exact attachFails_faceKept t r stRefused
    have detaches (t : State) (d : Option Req) : FaceKept t (match d with | some r => detachNow t r | none => t) := by
      cases d with
      | none => exact FaceKept.refl t
      | some r => exact detachNow_faceKept t r
    exact reads.trans ((fails _ s.stw.attach).trans ((detaches _ s.stw.detach).trans
      ((abandonLoad_faceKept _ .host).trans (postNotice_faceKept ..))))

theorem hostReset_clears (s : State) (cause : BitVec 2) :
    Cleared s.host (hostReset s cause).host ∧ (hostReset s cause).pwr = s.pwr := by
  obtain ⟨t, stops, pwr, ring, host⟩ := hostReset_kept s cause
  refine ⟨⟨?_, ?_, ring rfl, ?_, ?_, ?_, ?_, ?_, ?_, ?_, ?_, ?_, ?_⟩, pwr.trans (by rw [stops])⟩ <;> rw [host]
  all_goals first | rfl | (rw [stops]; rfl)

end Sys2Proof.Machine

namespace Sys2Proof.Modes

open Sys2Proof Sys2Proof.Machine

/-- Settles O50: what each mode and reset of the face leaves of it, from what a packet that stops and a notice change. -/
theorem hostFaceModesAndResets : Obligations.HostFaceModesAndResets := by
  intro s
  dsimp only
  refine ⟨fun up link => ⟨fun away c listed => ?_, fun ready released => ⟨fun no => ?_, fun on packet => ?_,
    fun p g on packet ring whole => ?_, fun on => ?_, fun no d3 => ?_, fun no d0 => ⟨fun ring => ?_, fun g ring =>
      ⟨fun packet => ?_, fun p packet cut => ?_⟩⟩, fun d3 => ?_, fun d0 => ?_, fun d0 => ?_, fun d3 packet => ?_, ?_⟩,
    ?_, ?_, fun wants idle => ?_⟩, fun up => ⟨?_, fun flr => ?_, fun w g high down width narrow some' slow => ?_⟩, fun off => ?_⟩
  · have retry := configRequest_retry up link away
    simp only [List.mem_cons, List.not_mem_nil, or_false] at listed
    rcases listed with rfl | rfl | rfl | rfl | rfl
    · exact retry _
    · exact retry _
    · exact retry _
    · exact retry _
    · exact retry _
  · rw [exec_busMasterDisable_ready up link ready released, no]; rfl
  · have serves := (exec_busMasterDisable_ready up link ready released).trans (if_neg (by rw [on]; decide))
    rw [cutPacket_none packet] at serves
    refine ⟨_, serves, hostOff_eq s 1, ?_, ?_⟩
    · rw [hostOff_time]; rfl
    · rw [hostOff_time]
  · have serves := (exec_busMasterDisable_ready up link ready released).trans (if_neg (by rw [on]; decide))
    have stops := cutPacket_stops s
    obtain ⟨n, cut⟩ := cutPacket_packet packet whole
    refine ⟨_, serves, stops.offTime 1, rfl, rfl, ?_, ?_, n, ?_⟩
    · rw [hostOff_time]
      show (cutPacket s).host.ring = _
      rw [stops]; exact ring
    · rw [hostOff_time]
      show (cutPacket s).mem = _
      rw [stops]
    · rw [hostOff_time]; exact cut
  · rw [exec_busMasterEnable_ready up link ready released, on]; rfl
  · exact (exec_busMasterEnable_ready up link ready released).trans
      ((if_neg (by rw [no]; decide)).trans (if_pos d3))
  · have writes := releaseMsi_writesOut { s with host := { s.host with bme := true } }
    have idle : resumeRing (releaseMsi { s with host := { s.host with bme := true } }) =
        releaseMsi { s with host := { s.host with bme := true } } := by
      rw [resumeRing, writes]
      dsimp only
      rw [ring]
    refine ⟨_, (exec_busMasterEnable_goes up link ready released no d0).trans (congrArg _ idle), ?_⟩
    rw [writes]
    exact ⟨rfl, rfl, rfl⟩
  · have writes := releaseMsi_writesOut { s with host := { s.host with bme := true } }
    refine ⟨_, (exec_busMasterEnable_goes up link ready released no d0).trans
      (congrArg _ (resumeRing_whole (g := g) (by rw [writes]; exact ring) (by rw [writes]; exact packet))), ?_, ?_⟩
    · exact writes.stops.offTime 0
    · rw [hostOff_time, writes]
      exact ⟨rfl, ring, rfl⟩
  · have writes := releaseMsi_writesOut { s with host := { s.host with bme := true } }
    obtain ⟨t, ended, resumes⟩ := resumeRing_cut (s := releaseMsi { s with host := { s.host with bme := true } }) (g := g) (p := p)
      (by rw [writes]; exact ring) (by rw [writes]; exact packet) cut
    have whole := writes.trans ended
    refine ⟨_, (exec_busMasterEnable_goes up link ready released no d0).trans (congrArg _ resumes), ?_, ?_⟩
    · exact (hostOff_eq _ 0).trans (by rw [whole]; rfl)
    · rw [hostOff_time, whole]
      exact ⟨rfl, rfl, rfl, rfl⟩
  · rw [exec_d3hotEntry_ready up link ready released, d3]; rfl
  · have serves := (exec_d3hotEntry_ready up link ready released).trans (if_neg (by rw [d0]; decide))
    have stops := stopPacket_stops s
    refine ⟨_, serves, ?_, ?_, fun packet => ?_⟩
    · rw [hostOff_time]
    · rw [hostOff_time]
      show (stopPacket s).mem = _
      rw [stops]
    · rw [stopPacket_none packet]
      exact ⟨hostOff_eq .., by rw [hostOff_time]⟩
  · rw [exec_d0Return_ready up link ready released, d0]; rfl
  · have serves := (exec_d0Return_ready up link ready released).trans (if_neg (by rw [d3]; decide))
    rw [packetCut, packet, Bool.and_false, if_neg (by decide)] at serves
    have writes := releaseMsi_writesOut { s with host := { s.host with d3hot := false } }
    refine ⟨_, serves, by rw [writes], by rw [writes], by rw [writes], by rw [writes], fun none => ?_⟩
    exact releaseMsi_idle (s := { s with host := { s.host with d3hot := false } }) none
  · obtain ⟨clears, -⟩ := hostReset_clears s 0
    exact ⟨_, exec_functionLevelReset_ready up link ready released, ⟨clears.bme, clears.d3hot, clears.ring, clears.packet,
      clears.staging, clears.inb, clears.outb, clears.tags, clears.bar0, clears.nextSeq, clears.reads, clears.released⟩, rfl,
      clears.linkUp.trans link⟩
  · obtain ⟨clears, -⟩ := hostReset_clears s 1
    refine ⟨_, (exec_hotReset s).trans (onLink_up up link _), ⟨clears.bme, clears.d3hot, clears.ring, clears.packet,
      clears.staging, clears.inb, clears.outb, clears.tags, clears.bar0, clears.nextSeq, clears.reads, clears.released⟩, rfl,
      clears.linkUp.trans link⟩
  · obtain ⟨clears, -⟩ := hostReset_clears s 2
    refine ⟨_, (exec_hostLinkDown s).trans (onLink_up up link _), ⟨clears.bme, clears.d3hot, clears.ring, clears.packet,
      clears.staging, clears.inb, clears.outb, clears.tags, clears.bar0, clears.nextSeq, clears.reads, clears.released⟩, rfl, rfl⟩
  · rw [exec_aspmL1Entry, execAspmL1Entry, up, link, wants, idle]; rfl
  · obtain ⟨clears, pwr⟩ := hostReset_clears { s with pwr := { s.pwr with perstN := false } } 3
    refine ⟨_, (exec_perstNAssert s).trans (if_neg (by rw [up]; decide)), ⟨clears.bme, clears.d3hot, clears.ring, clears.packet,
      clears.staging, clears.inb, clears.outb, clears.tags, clears.bar0, clears.nextSeq, clears.reads, clears.released⟩, rfl, pwr⟩
  · rw [exec_flrComplete, execFlrComplete, up, flr]; rfl
  · rw [exec_hostLinkTrained, execHostLinkTrained, up, high, down, if_neg (by decide), if_neg (by decide)]
    refine if_neg ?_
    rintro (bad | bad | bad | bad)
    · exact bad width
    · omega
    · rw [bad] at some'; exact absurd some' (by decide)
    · omega
  · rw [exec_perstNAssert, execPerstNAssert, off]; rfl

end Sys2Proof.Modes
end

/-! # The shuttle receiver (R459 to R471) -/

section
namespace Sys2Proof.Machine

open Sys2Proof

theorem exec_shuttleAligned (s) : exec .shuttleAligned s = execShuttleAligned s := rfl
theorem exec_shuttleTokensFrame (bytes s) : exec (.shuttleTokensFrame bytes) s = execShuttleTokensFrame bytes s := rfl
theorem exec_shuttleRawFrame (bytes s) : exec (.shuttleRawFrame bytes) s = execShuttleRawFrame bytes s := rfl
theorem exec_shuttleLinkFrame (bytes s) : exec (.shuttleLinkFrame bytes) s = execShuttleLinkFrame bytes s := rfl
theorem exec_shuttleInitFrame (bytes s) : exec (.shuttleInitFrame bytes) s = execShuttleInitFrame bytes s := rfl
theorem exec_shuttleBadFrame (bad s) : exec (.shuttleBadFrame bad) s = execShuttleBadFrame bad s := rfl
theorem exec_shuttleAlignmentLost (s) : exec .shuttleAlignmentLost s = execShuttleAlignmentLost s := rfl

/-! ## Counts -/

theorem satAdd_zero {w : Nat} (x : BitVec w) : satAdd x 0 = x := by
  rw [satAdd, Nat.add_zero, if_pos x.isLt, BitVec.ofNat_toNat, BitVec.setWidth_eq]

@[simp] theorem mget_bumpCount_same (m : List (Nat × BitVec 32)) (i n : Nat) :
    mget 0 (bumpCount m i n) i = satAdd (mget 0 m i) n := mget_mset_same 0 m i _

theorem mget_bumpCount_other (m : List (Nat × BitVec 32)) {i j : Nat} (other : i ≠ j) (n : Nat) :
    mget 0 (bumpCount m i n) j = mget 0 m j := mget_mset_other 0 m other _

/-- The frame of a received command is counted after the violations before it. -/
theorem mget_bumpCount_violations (m : List (Nat × BitVec 32)) {i : Nat} (other : i ≠ 3) (v n : Nat) :
    mget 0 (bumpCount (bumpCount m 3 v) i n) i = satAdd (mget 0 m i) n := by
  rw [mget_bumpCount_same, mget_bumpCount_other m other.symm]

/-! ## A load that is abandoned (R159) -/

/-- Nothing but memory, the cells, the free values drawn and the steward has changed. -/
def LoadOnly (s t : State) : Prop :=
  t = { s with mem := t.mem, cells := t.cells, freeCounter := t.freeCounter, stw := t.stw }

theorem abandonLoad_loadOnly (s : State) (o : Origin) : LoadOnly s (abandonLoad s o) := by
  have ends (l : Load) : LoadOnly s (endLoad s l stSequence) := by
    have stores := spoilImage_storesOnly s l.bytes
    rw [endLoad]
    unfold LoadOnly
    rw [stores]
  rw [abandonLoad.eq_def]
  split
  · split
    · split
      · exact ends _
      · rfl
    · rfl
  · rfl

theorem LoadOnly.sh {s t : State} (h : LoadOnly s t) : t.sh = s.sh := by rw [h]

theorem shuttleLost_sh (s : State) : (shuttleLost s).sh =
    shCount { s.sh with aligned := false, up := false, seen := false, again := 0, resends := 0 } 6 1 :=
  (abandonLoad_loadOnly ..).sh

/-! ## What a frame carries (R461, R462) -/

theorem length_of_good {bs : List Byte} {n : Nat} (good : frameGood bs = true)
    (calls : payloadLength (byteAt bs 0) (byteAt bs 1) = some n) : (framePayload bs).length = n := by
  rw [frameGood, calls] at good
  have length : bs.length = n + 10 := by simpa using (Bool.and_eq_true_iff.mp good).1
  rw [framePayload, List.length_take, List.length_drop]
  omega

theorem tokensOfBytes_length {n : Nat} {bs : List Byte} (length : bs.length = 20 * n) {fuel : Nat} (enough : n ≤ fuel) :
    (tokensOfBytes fuel bs).length = n := by
  induction n generalizing fuel bs with
  | zero => cases fuel with
    | zero => rfl
    | succ k => rw [tokensOfBytes, if_pos (by omega)]; rfl
  | succ n ih => cases fuel with
    | zero => omega
    | succ k => rw [tokensOfBytes, if_neg (by omega), List.length_cons, ih (by rw [List.length_drop]; omega) (by omega)]

/-- The number of tokens or words of a good frame is its COUNT. -/
theorem count_of_good {bs : List Byte} (good : frameGood bs = true) :
    (byteAt bs 0 = 1 → (frameTokens bs).length = (byteAt bs 1).toNat) ∧
    (byteAt bs 0 = 2 → (payloadWords (framePayload bs)).length = (byteAt bs 1).toNat) := by
  constructor <;> intro type
  · have calls : payloadLength (byteAt bs 0) (byteAt bs 1) =
        if 1 ≤ (byteAt bs 1).toNat ∧ (byteAt bs 1).toNat ≤ 4 then some (20 * (byteAt bs 1).toNat) else none := by
      rw [type]; rfl
    by_cases range : 1 ≤ (byteAt bs 1).toNat ∧ (byteAt bs 1).toNat ≤ 4
    · exact tokensOfBytes_length (length_of_good good (calls.trans (if_pos range))) range.2
    · rw [frameGood, calls, if_neg range] at good
      cases good
  · have calls : payloadLength (byteAt bs 0) (byteAt bs 1) =
        if 1 ≤ (byteAt bs 1).toNat ∧ (byteAt bs 1).toNat ≤ 8 then some (8 * (byteAt bs 1).toNat) else none := by
      rw [type]; rfl
    by_cases range : 1 ≤ (byteAt bs 1).toNat ∧ (byteAt bs 1).toNat ≤ 8
    · rw [payloadWords, List.length_map, List.length_range, length_of_good good (calls.trans (if_pos range))]
      omega
    · rw [frameGood, calls, if_neg range] at good
      cases good

theorem stampAll_eq (s : State) (rank sub : Nat) (ks : List OutKind) : stampAll s rank sub ks =
    { s with time := { s.time with held := s.time.held ++ ks.map fun k => ⟨s.time.beat, rank, sub, false, k⟩ } } := by
  induction ks generalizing s with
  | nil => rw [List.map_nil, List.append_nil]; rfl
  | cons k ks ih =>
    rw [stampAll, ih, stampEvent, List.map_cons]
    simp only [List.append_assoc, List.singleton_append]

/-- The state after a frame that has been discarded, which owes a NAK. -/
def discarded (s : State) : State := setShuttle (violationsCounted s) (discardFrame (violationsCounted s).sh true)

theorem discarded_spec (s : State) : (mget 0 (discarded s).sh.counts 2 = satAdd (mget 0 s.sh.counts 2) 1 ∧
      (discarded s).sh.exp = s.sh.exp ∧ (discarded s).sh.tx = s.sh.tx) ∧
    discarded s = { s with sh := (discarded s).sh, freeCounter := s.freeCounter + 1 } ∧
    (discarded s).sh = { s.sh with
      naked := true, oweNak := s.sh.oweNak || !s.sh.naked, counts := (discarded s).sh.counts } := by
  have naked : (discarded s).sh.naked = true := Bool.or_true _
  refine ⟨⟨mget_bumpCount_violations _ (by decide) .., rfl, rfl⟩, rfl, ?_⟩
  rw [← naked]
  rfl

/-! ## A frame that reaches an aligned receiver -/

section Received

variable {s : State} {bs : List Byte} (up : shuttleUp s = true) (aligned : s.sh.aligned = true)
include up aligned

theorem receiveFrame_aligned (bs : List Byte) : receiveFrame s bs = takeFrame (violationsCounted s) bs := by
  rw [receiveFrame, up, aligned]; rfl

variable (good : frameGood bs = true) (plain : frameReserved bs = false)

theorem receiveFrame_bad (bad : frameGood bs = false) : receiveFrame s bs = .next (discarded s) := by
  rw [receiveFrame_aligned up aligned, takeFrame, bad]; rfl

theorem exec_shuttleBadFrame_line : exec (.shuttleBadFrame .line) s = .next (discarded s) := by
  rw [exec_shuttleBadFrame, execShuttleBadFrame, up, aligned]; rfl

include good plain

theorem receiveFrame_link (type : byteAt bs 0 = 4) : receiveFrame s bs =
    .next (setShuttle (ackFrame (violationsCounted s) bs) (shCount (ackFrame (violationsCounted s) bs).sh 1 1)) := by
  rw [receiveFrame_aligned up aligned, takeFrame, good, plain]
  exact if_pos type

theorem receiveFrame_init (type : byteAt bs 0 = 5) : receiveFrame s bs = .next (takeInit (violationsCounted s) bs) := by
  rw [receiveFrame_aligned up aligned, takeFrame, good, plain, type]
  rfl

theorem receiveFrame_sequenced (type : byteAt bs 0 = 1 ∨ byteAt bs 0 = 2) :
    receiveFrame s bs = takeSequenced (violationsCounted s) bs := by
  rw [receiveFrame_aligned up aligned, takeFrame, good, plain]
  rcases type with type | type <;> rw [type] <;> rfl

end Received

/-- Without a NAK, the acknowledgement is all that a frame does to what is held. -/
theorem ackFrame_plain {bs : List Byte} (none : (byteAt bs 6).getLsbD 0 = false) (s : State) :
    ackFrame s bs = setShuttle s (applyAck s.sh bs) := by
  rw [ackFrame, none]; rfl

/-- A NAK has every held frame sent again, while the oldest has not been sent again 16 times. -/
theorem resendOrLose_resends {s : State} (few : s.sh.resends < 16) (upto : s.sh.again ≤ s.sh.held.length) :
    ∃ counts, resendOrLose s = setShuttle s { s.sh with again := s.sh.held.length, counts := counts } := by
  have same {again : Nat} (h : s.sh.again = again) : s = setShuttle s { s.sh with again := again } := by rw [← h]; rfl
  rw [resendOrLose]
  split
  · next none =>
    exact ⟨s.sh.counts, same (by rw [none] at upto ⊢; exact Nat.le_zero.mp upto)⟩
  · rw [if_neg (by simp [few]), sendAgain]
    split
    · next all => exact ⟨s.sh.counts, by rw [all]⟩
    · exact ⟨_, rfl⟩

theorem resendOrLose_loses {s : State} (many : 16 ≤ s.sh.resends) (fewer : s.sh.again < s.sh.held.length) :
    resendOrLose s = shuttleLost s := by
  have some' : s.sh.held ≠ [] := fun none => by rw [none] at fewer; exact absurd fewer (Nat.not_lt_zero _)
  rw [resendOrLose, if_neg some', if_pos]
  simp only [Bool.and_eq_true, decide_eq_true_eq, bne_iff_ne]
  exact ⟨many, Nat.ne_of_lt fewer⟩

theorem ackFrame_resends {s : State} {bs : List Byte} (nak : (byteAt bs 6).getLsbD 0 = true) (few : s.sh.resends < 16) :
    ∃ counts, ackFrame s bs = setShuttle s { s.sh with
      held := stillHeld s.sh.held (frameAck bs), again := (stillHeld s.sh.held (frameAck bs)).length
      uncounted := (applyAck s.sh bs).uncounted, partner := frameCredit bs, resends := (applyAck s.sh bs).resends
      counts := counts } := by
  have fewer : (applyAck s.sh bs).resends < 16 := by
    rw [applyAck]
    dsimp only
    split <;> omega
  obtain ⟨counts, again⟩ := resendOrLose_resends (s := setShuttle s (applyAck s.sh bs)) fewer (Nat.min_le_right ..)
  refine ⟨counts, ?_⟩
  rw [ackFrame, if_pos nak, again]
  rfl

/-! ## How a sequenced frame fits (R463, R467) -/

section Fits

variable {s : State} {bs : List Byte}

theorem fitOf_accept (next : (frameSeq bs - s.sh.exp).toNat = 0) (within : withinCredit s bs = true) :
    fitOf s bs = .accept := (if_pos next).trans (if_pos within)

theorem fitOf_bad (next : (frameSeq bs - s.sh.exp).toNat = 0) (past : withinCredit s bs = false) :
    fitOf s bs = .bad := (if_pos next).trans (if_neg (by rw [past]; decide))

theorem fitOf_again (behind : 248 ≤ (frameSeq bs - s.sh.exp).toNat) : fitOf s bs = .again :=
  (if_neg (by omega)).trans (if_pos behind)

theorem fitOf_gap (ahead : 0 < (frameSeq bs - s.sh.exp).toNat) (near : (frameSeq bs - s.sh.exp).toNat < 248) :
    fitOf s bs = .gap := (if_neg (by omega)).trans (if_neg (by omega))

end Fits

/-- The face after a frame in sequence without a NAK has been accepted. -/
def accepted (x : Shuttle) (bs : List Byte) : Shuttle :=
  applyAck (shCount { x with
    exp := x.exp + 1, naked := false, oweNak := false, owed := true
    recv := x.recv + BitVec.ofNat 16 (frameUnits (byteAt bs 0) (byteAt bs 1)) } 1 1) bs

theorem acceptSequenced_plain {bs : List Byte} (none : (byteAt bs 6).getLsbD 0 = false) (s : State) :
    acceptSequenced s bs = setShuttle s (accepted s.sh bs) := ackFrame_plain none _

section Sequenced

variable {s : State} {bs : List Byte} (up : shuttleUp s = true) (aligned : s.sh.aligned = true)
  (good : frameGood bs = true) (plain : frameReserved bs = false)
include up aligned good plain

section Next

variable (next : (frameSeq bs - s.sh.exp).toNat = 0) (within : withinCredit s bs = true)
include next within

theorem receiveFrame_tokens (type : byteAt bs 0 = 1) (clean : ∀ t ∈ frameTokens bs, kindOf t.flags ≠ 1)
    (noNak : (byteAt bs 6).getLsbD 0 = false) : receiveFrame s bs =
      .next { setShuttle (violationsCounted s) (accepted (violationsCounted s).sh bs) with
        time := { s.time with held := s.time.held ++ (frameTokens bs).map fun t => ⟨s.time.beat, 5, 0, false, .shuttle t⟩ } } := by
  have none : (frameTokens bs).any (fun t => kindOf t.flags == 1) = false := by
    rw [List.any_eq_false]
    exact fun t member fault => clean t member (beq_iff_eq.mp fault)
  rw [receiveFrame_sequenced up aligned good plain (.inl type), takeSequenced,
    fitOf_accept (s := violationsCounted s) next within]
  dsimp only
  rw [if_pos type, takeTokens, none, if_neg (by decide), acceptSequenced_plain noNak, stampAll_eq, List.map_map]
  rfl

theorem receiveFrame_raw (type : byteAt bs 0 = 2) (noNak : (byteAt bs 6).getLsbD 0 = false) : receiveFrame s bs =
    .next (setShuttle (violationsCounted s) { accepted (violationsCounted s).sh bs with
      raw := s.sh.raw ++ payloadWords (framePayload bs) }) := by
  rw [receiveFrame_sequenced up aligned good plain (.inr type), takeSequenced,
    fitOf_accept (s := violationsCounted s) next within]
  dsimp only
  rw [if_neg (by rw [type]; decide), takeRaw, acceptSequenced_plain noNak]
  rfl

theorem receiveFrame_fault (type : byteAt bs 0 = 1) (fault : ∃ t ∈ frameTokens bs, kindOf t.flags = 1) :
    receiveFrame s bs = unpredictable 122 (violationsCounted s) := by
  obtain ⟨t, member, kind⟩ := fault
  have faulty : (frameTokens bs).any (fun t => kindOf t.flags == 1) = true :=
    List.any_eq_true.mpr ⟨t, member, beq_iff_eq.mpr kind⟩
  rw [receiveFrame_sequenced up aligned good plain (.inl type), takeSequenced,
    fitOf_accept (s := violationsCounted s) next within]
  dsimp only
  rw [if_pos type, takeTokens, faulty, if_pos rfl]

end Next

variable (type : byteAt bs 0 = 1 ∨ byteAt bs 0 = 2)
include type

theorem receiveFrame_past (next : (frameSeq bs - s.sh.exp).toNat = 0) (past : withinCredit s bs = false) :
    receiveFrame s bs = .next (discarded s) := by
  rw [receiveFrame_sequenced up aligned good plain type, takeSequenced, fitOf_bad (s := violationsCounted s) next past]
  rfl

theorem receiveFrame_again (behind : 248 ≤ (frameSeq bs - s.sh.exp).toNat) (noNak : (byteAt bs 6).getLsbD 0 = false) :
    receiveFrame s bs = .next (setShuttle (violationsCounted s)
      (applyAck { discardFrame (violationsCounted s).sh false with owed := true } bs)) := by
  rw [receiveFrame_sequenced up aligned good plain type, takeSequenced, fitOf_again (s := violationsCounted s) behind]
  dsimp only
  rw [ackFrame_plain noNak]
  rfl

theorem receiveFrame_gap (ahead : 0 < (frameSeq bs - s.sh.exp).toNat) (near : (frameSeq bs - s.sh.exp).toNat < 248)
    (noNak : (byteAt bs 6).getLsbD 0 = false) : receiveFrame s bs =
      .next (setShuttle (violationsCounted s) (applyAck (discardFrame (violationsCounted s).sh true) bs)) := by
  rw [receiveFrame_sequenced up aligned good plain type, takeSequenced, fitOf_gap (s := violationsCounted s) ahead near]
  dsimp only
  rw [ackFrame_plain noNak]
  rfl

end Sequenced

/-! ## INIT (R468, R469) -/

theorem renumber_payload (held : List ShFrame) : (renumber held).map ShFrame.payload = held.map ShFrame.payload := by
  rw [renumber, List.map_map]
  refine List.ext_getElem (by simp) fun i h _ => ?_
  simp

theorem renumber_seq {held : List ShFrame} {i : Nat} {f : ShFrame} (found : (renumber held)[i]? = some f) :
    f.seq = BitVec.ofNat 8 i := by
  rw [renumber, List.getElem?_map, List.getElem?_zipIdx] at found
  cases at' : held[i]? with
  | none => rw [at'] at found; cases found
  | some g =>
    rw [at', Option.map_some, Option.map_some] at found
    rw [← Option.some.inj found, Nat.zero_add]

theorem takeInit_up {s : State} (up : s.sh.up = true) (bs : List Byte) : ∃ counts,
    (takeInit s bs).sh = { s.sh with aligned := false, up := false, seen := false, again := 0, resends := 0, counts := counts } ∧
    mget 0 counts 6 = satAdd (mget 0 s.sh.counts 6) 1 := by
  rw [takeInit, if_pos up]
  dsimp only
  rw [shuttleLost_sh]
  split
  · rw [(abandonLoad_loadOnly ..).sh]
    exact ⟨_, rfl, (mget_bumpCount_same ..).trans (congrArg (satAdd · 1) (mget_bumpCount_other _ (by decide) _))⟩
  · exact ⟨_, rfl, mget_bumpCount_same ..⟩

theorem takeInit_plain {s : State} (down : s.sh.up = false) {bs : List Byte} (old : (byteAt bs 6).getLsbD 1 = false) :
    takeInit s bs = setShuttle s { plainInit s.sh bs with
      seen := true, up := (byteAt bs 6).getLsbD 2, fresh := (plainInit s.sh bs).fresh && !(byteAt bs 6).getLsbD 2 } := by
  rw [takeInit, down, old]
  rfl

theorem takeInit_fresh {s : State} (down : s.sh.up = false) {bs : List Byte} (new : (byteAt bs 6).getLsbD 1 = true) :
    (takeInit s bs).sh = { freshInit (shCount s.sh 7 1) bs with
      seen := true, up := (byteAt bs 6).getLsbD 2, fresh := s.sh.fresh && !(byteAt bs 6).getLsbD 2 } := by
  have load := (abandonLoad_loadOnly (setShuttle s (shCount s.sh 7 1)) .shuttle).sh
  rw [takeInit, down, new]
  dsimp only
  rw [if_neg (by decide), if_pos rfl, if_pos rfl, load]
  rfl

theorem exec_shuttleAlignmentLost_ends {s : State} (up : shuttleUp s = true) (aligned : s.sh.aligned = true) : ∃ u,
    exec .shuttleAlignmentLost s = .next u ∧ u.sh.aligned = false ∧ u.sh.seen = false ∧ u.sh.up = false ∧
      u.sh.held = s.sh.held ∧ u.sh.tx = s.sh.tx ∧ u.sh.exp = s.sh.exp ∧ u.sh.naked = s.sh.naked ∧
      mget 0 u.sh.counts 6 = satAdd (mget 0 s.sh.counts 6) s.sh.up.toNat := by
  have serves : exec .shuttleAlignmentLost s = if s.sh.up then .next (shuttleLost (violationsCounted s))
      else .next (setShuttle (violationsCounted s) { (violationsCounted s).sh with aligned := false, seen := false }) := by
    rw [exec_shuttleAlignmentLost, execShuttleAlignmentLost, up, aligned]; rfl
  rcases Bool.eq_false_or_eq_true s.sh.up with linked | down
  · refine ⟨_, serves.trans (if_pos linked), ?_⟩
    rw [shuttleLost_sh, linked]
    exact ⟨rfl, rfl, rfl, rfl, rfl, rfl, rfl, mget_bumpCount_violations _ (by decide) ..⟩
  · refine ⟨_, serves.trans (if_neg (by rw [down]; decide)), rfl, rfl, down, rfl, rfl, rfl, rfl, ?_⟩
    rw [down, Bool.toNat_false, satAdd_zero]
    exact mget_bumpCount_other _ (by decide) _

end Sys2Proof.Machine

namespace Sys2Proof.Receiving

open Sys2Proof Sys2Proof.Machine

/-- Settles O51: a frame's outcome by whether it is good, its type, and how it fits the sequence. -/
theorem shuttleFramesReceived : Obligations.ShuttleFramesReceived := by
  intro s bs
  dsimp only
  intro up
  refine ⟨fun away => ⟨?_, ?_⟩, fun c listed => ?_, fun aligned => ⟨fun good next within noNak => ⟨fun type whole => ?_, fun type => ?_⟩,
    fun good next within type bad => ?_, fun good type => ⟨fun noNak => ?_, fun nak few => ?_, fun nak many all behind => ?_⟩,
    ?_, fun bad => ?_, fun good type => ⟨fun next past => ?_, fun behind noNak => ?_, fun ahead near noNak => ?_⟩,
    fun good type => ⟨fun linked => ?_, fun down old => ?_, fun down new => ?_⟩, exec_shuttleAlignmentLost_ends up aligned⟩⟩
  · rw [exec_shuttleAligned, execShuttleAligned, up, away]; rfl
  · rw [exec_shuttleTokensFrame, execShuttleTokensFrame, receiveFrame, up, away]; rfl
  · simp only [List.mem_cons, List.not_mem_nil, or_false] at listed
    rcases listed with rfl | rfl | rfl | rfl
    · rfl
    · rfl
    · rfl
    · rfl
  · refine ⟨_, receiveFrame_tokens up aligned good.1 good.2 next within type whole noNak, ?_⟩
    dsimp only [accepted, applyAck, shCount, setShuttle, violationsCounted, bumpFree]
    exact ⟨⟨⟨rfl, rfl⟩, rfl, rfl, rfl, rfl, rfl, rfl, mget_bumpCount_violations _ (by decide) ..⟩, ⟨rfl, rfl⟩, rfl,
      (count_of_good good.1).1 type, rfl⟩
  · refine ⟨_, receiveFrame_raw up aligned good.1 good.2 next within type noNak, ?_⟩
    dsimp only [accepted, applyAck, shCount, setShuttle, violationsCounted, bumpFree]
    exact ⟨⟨⟨rfl, rfl⟩, rfl, rfl, rfl, rfl, rfl, rfl, mget_bumpCount_violations _ (by decide) ..⟩, rfl,
      (count_of_good good.1).2 type, rfl⟩
  · exact receiveFrame_fault up aligned good.1 good.2 next within type bad
  · have serves := receiveFrame_link up aligned good.1 good.2 type
    rw [ackFrame_plain noNak] at serves
    refine ⟨_, serves, ?_⟩
    dsimp only [accepted, applyAck, shCount, setShuttle, violationsCounted, bumpFree]
    exact ⟨⟨rfl, rfl⟩, rfl, rfl, rfl, rfl⟩
  · have serves := receiveFrame_link up aligned good.1 good.2 type
    obtain ⟨counts, again⟩ := ackFrame_resends (s := violationsCounted s) nak few
    rw [again] at serves
    refine ⟨_, serves, ?_⟩
    dsimp only [accepted, applyAck, shCount, setShuttle, violationsCounted, bumpFree]
    exact ⟨⟨rfl, rfl⟩, rfl, rfl, rfl⟩
  · have serves := receiveFrame_link up aligned good.1 good.2 type
    have still : (setShuttle (violationsCounted s) (applyAck (violationsCounted s).sh bs)).sh.held = s.sh.held := all
    have loses := resendOrLose_loses (s := setShuttle (violationsCounted s) (applyAck (violationsCounted s).sh bs))
      (by show 16 ≤ if (stillHeld s.sh.held (frameAck bs)).length < s.sh.held.length then 0 else s.sh.resends
          rw [all, if_neg (Nat.lt_irrefl _)]; exact many)
      (by rw [still]; exact Nat.lt_of_le_of_lt (Nat.min_le_left ..) behind)
    rw [ackFrame, if_pos nak, loses, shuttleLost_sh] at serves
    exact ⟨_, serves, rfl, rfl, still⟩
  · exact ⟨_, exec_shuttleBadFrame_line up aligned, discarded_spec s⟩
  · exact ⟨_, receiveFrame_bad up aligned bad, discarded_spec s⟩
  · exact ⟨_, receiveFrame_past up aligned good.1 good.2 type next past, discarded_spec s⟩
  · refine ⟨_, receiveFrame_again up aligned good.1 good.2 type behind noNak, ?_⟩
    dsimp only [accepted, applyAck, shCount, setShuttle, violationsCounted, bumpFree, discardFrame]
    exact ⟨⟨mget_bumpCount_violations _ (by decide) .., rfl, rfl⟩, rfl, ⟨rfl, rfl⟩, rfl, Bool.or_false _, Bool.or_false _⟩
  · refine ⟨_, receiveFrame_gap up aligned good.1 good.2 type ahead near noNak, ?_⟩
    dsimp only [accepted, applyAck, shCount, setShuttle, violationsCounted, bumpFree, discardFrame]
    exact ⟨⟨mget_bumpCount_violations _ (by decide) .., rfl, rfl⟩, rfl, ⟨rfl, rfl⟩, Bool.or_true _, rfl⟩
  · obtain ⟨counts, lost, losses⟩ := takeInit_up (s := violationsCounted s) linked bs
    refine ⟨_, receiveFrame_init up aligned good.1 good.2 type, ?_⟩
    dsimp only
    rw [lost]
    exact ⟨rfl, rfl, rfl, rfl, rfl, losses.trans (congrArg (satAdd · 1) (mget_bumpCount_other _ (by decide) _))⟩
  · have serves := receiveFrame_init up aligned good.1 good.2 type
    rw [takeInit_plain (s := violationsCounted s) down old] at serves
    refine ⟨_, serves, ?_⟩
    dsimp only [accepted, applyAck, shCount, setShuttle, violationsCounted, bumpFree, plainInit]
    exact ⟨⟨rfl, rfl⟩, rfl, rfl, rfl, rfl, rfl, rfl⟩
  · refine ⟨_, receiveFrame_init up aligned good.1 good.2 type, ?_⟩
    dsimp only
    rw [takeInit_fresh (s := violationsCounted s) down new]
    dsimp only [accepted, applyAck, shCount, setShuttle, violationsCounted, bumpFree, freshInit]
    exact ⟨rfl, rfl, rfl, rfl, rfl, rfl, rfl, rfl, renumber_payload _, rfl, rfl, mget_bumpCount_violations _ (by decide) ..,
      fun i f found => renumber_seq found⟩

end Sys2Proof.Receiving
end

/-! # The shuttle sender (R464 to R472) -/

section
namespace Sys2Proof.Machine

open Sys2Proof

theorem exec_shuttleInitTimer (s) : exec .shuttleInitTimer s = execShuttleInitTimer s := rfl
theorem exec_shuttleReplayTimeout (s) : exec .shuttleReplayTimeout s = execShuttleReplayTimeout s := rfl
theorem exec_shuttleLinkFrameDue (s) : exec .shuttleLinkFrameDue s = execShuttleLinkFrameDue s := rfl
theorem exec_shuttleFrameSend (s) : exec .shuttleFrameSend s = execShuttleFrameSend s := rfl
theorem exec_shuttleRawMove (s) : exec .shuttleRawMove s = execShuttleRawMove s := rfl

/-! ## What a frame that is sent leaves (R465) -/

/-- The link after a LINK frame, which carries the NAK that is owed. -/
theorem sendLink_spec (s : State) : ∃ counts, sendLink s = { s with
    out := .shuttle (frameBytes s 4 0 0 (if s.sh.oweNak then 1 else 0) []) :: s.out
    sh := { s.sh with owed := false, oweNak := false, credit := grantedCredit s, counts := counts } } := by
  rw [sendLink]
  rcases Bool.eq_false_or_eq_true s.sh.oweNak with owed | none
  · rw [owed]
    exact ⟨_, rfl⟩
  · have same : s.sh = { s.sh with oweNak := false } := by rw [← none]
    rw [none, if_neg (by decide), sendFrame, same]
    exact ⟨_, rfl⟩

section Up

variable {s : State} (up : shuttleUp s = true) (linked : s.sh.up = true)
include up linked

theorem exec_shuttleFrameSend_nak (owed : s.sh.oweNak = true) : exec .shuttleFrameSend s = .next (sendLink s) := by
  rw [exec_shuttleFrameSend, execShuttleFrameSend, up, linked, owed]
  rfl

theorem exec_shuttleReplayTimeout_held (some' : s.sh.held ≠ []) : exec .shuttleReplayTimeout s =
    if s.sh.again != 0 then .next s else .next (resendOrLose s) := by
  have held : (s.sh.held == []) = false := by simpa using some'
  rw [exec_shuttleReplayTimeout, execShuttleReplayTimeout, up, linked, held]
  rfl

section Quiet

variable (none : s.sh.oweNak = false)
include none

theorem exec_shuttleFrameSend_held {f : ShFrame} (found : s.sh.held[s.sh.held.length - s.sh.again]? = some f) :
    exec .shuttleFrameSend s = .next (sendHeld s f) := by
  rw [exec_shuttleFrameSend, execShuttleFrameSend, up, linked, none, found]
  rfl

section Fresh

variable (sent : s.sh.again = 0)
include sent

theorem exec_shuttleFrameSend_full (full : 8 ≤ s.sh.held.length) : exec .shuttleFrameSend s = .next s := by
  have past : s.sh.held[s.sh.held.length - s.sh.again]? = Option.none := by rw [sent]; simp
  rw [exec_shuttleFrameSend, execShuttleFrameSend, up, linked, none, past]
  exact if_pos full

theorem exec_shuttleFrameSend_new (few : s.sh.held.length < 8) {k : Nat} (turn : s.sh.turn.toNat % 3 = k) {f : NewFrame}
    (ready : readyFrame s k = some f) : exec .shuttleFrameSend s = .next (sendNew k f) := by
  have past : s.sh.held[s.sh.held.length - s.sh.again]? = Option.none := by rw [sent]; simp
  have next : nextFrame s = some (k, f) := by
    rw [nextFrame, turn, List.filterMap_cons_some (by rw [ready]; rfl)]
    rfl
  rw [exec_shuttleFrameSend, execShuttleFrameSend, up, linked, none, past]
  dsimp only
  rw [next, if_neg (by decide), if_neg (by decide), if_neg (by decide), if_neg (by omega)]

end Fresh

end Quiet

end Up

/-! ## New frames (R467) -/

/-- The first of what waits, as much as a frame and the partner's credit take. -/
theorem take_min_length {α : Type} (l : List α) (n : Nat) : l.take n = l.take (min n l.length) := by
  rcases Nat.le_total n l.length with h | h
  · rw [Nat.min_eq_left h]
  · rw [Nat.min_eq_right h, List.take_of_length_le h, List.take_length]

section New

variable {s : State} (credit : unitsAdmitted s.sh ≠ 0)
include credit

theorem readyFrame_tokens (some' : s.sh.tx ≠ []) : let n := min (min 4 (unitsAdmitted s.sh)) s.sh.tx.length
    0 < n ∧ n ≤ 4 ∧ readyFrame s 0 = some ⟨1, BitVec.ofNat 8 n, (s.sh.tx.take n).flatMap tokenBytes,
      setShuttle s { s.sh with tx := s.sh.tx.drop n }⟩ := by
  have count := List.length_pos_iff.mpr some'
  refine ⟨by omega, by omega, ?_⟩
  have positive : s.sh.tx.take (min (min 4 (unitsAdmitted s.sh)) s.sh.tx.length) ≠ [] := by
    rw [← List.length_pos_iff, List.length_take]; omega
  rw [readyFrame]
  dsimp only
  rw [take_min_length s.sh.tx (min 4 (unitsAdmitted s.sh)), if_neg positive, List.length_take, Nat.min_assoc, Nat.min_self]

theorem readyFrame_words (some' : s.streams.shPut ≠ []) :
    let n := min (min 8 (unitsAdmitted s.sh)) s.streams.shPut.length
    0 < n ∧ n ≤ 8 ∧ readyFrame s 1 = some ⟨2, BitVec.ofNat 8 n, (s.streams.shPut.take n).flatMap (fun w => leBytes 8 w.toNat),
      { s with streams := { s.streams with shPut := s.streams.shPut.drop n } }⟩ := by
  have count := List.length_pos_iff.mpr some'
  refine ⟨by omega, by omega, ?_⟩
  have positive : s.streams.shPut.take (min (min 8 (unitsAdmitted s.sh)) s.streams.shPut.length) ≠ [] := by
    rw [← List.length_pos_iff, List.length_take]; omega
  rw [readyFrame]
  dsimp only
  rw [take_min_length s.streams.shPut (min 8 (unitsAdmitted s.sh)), if_neg positive, List.length_take, Nat.min_assoc,
    Nat.min_self]

end New

end Sys2Proof.Machine

namespace Sys2Proof.Sending

open Sys2Proof Sys2Proof.Machine

/-- Settles O52: what each cause to send sends, and what it leaves held and counted. -/
theorem shuttleFramesSent : Obligations.ShuttleFramesSent := by
  intro s
  dsimp only
  intro up
  refine ⟨fun aligned down => ?_, fun linked => ⟨fun owed => ?_, fun some' => ⟨fun again => ?_, fun idle few => ?_, fun idle many => ?_⟩,
    fun owed => ?_, fun none => ⟨fun f again found => ⟨fun counted => ?_, fun new poor => ?_⟩, fun idle full => ?_,
      fun idle few turn some' credit => ?_, fun idle few turn some' credit => ?_⟩⟩, fun w r raw => ⟨fun room => ?_, fun full => ?_⟩⟩
  · have ctl : ∀ a b : Bool, let c : Byte := (BitVec.ofBool a ++ BitVec.ofBool b ++ (0 : BitVec 1) : BitVec 3).setWidth 8
        c.getLsbD 0 = false ∧ c.getLsbD 1 = b ∧ c.getLsbD 2 = a ∧ c >>> 3 = 0 := by decide
    obtain ⟨zero, fresh, seen, high⟩ := ctl s.sh.seen s.sh.fresh
    have serves := exec_shuttleInitTimer s
    rw [execShuttleInitTimer, up, aligned, down, if_neg (by decide), if_neg (by decide)] at serves
    exact ⟨_, serves, _, zero, fresh, seen, high, rfl, rfl, rfl, rfl⟩
  · obtain ⟨counts, sent⟩ := sendLink_spec s
    have serves : exec .shuttleLinkFrameDue s = .next (sendLink s) := by
      rw [exec_shuttleLinkFrameDue, execShuttleLinkFrameDue, up, linked, owed]; rfl
    rw [sent] at serves
    exact ⟨_, serves, rfl, rfl⟩
  · rw [exec_shuttleReplayTimeout_held up linked some', if_pos (by simpa using again)]
  · have serves := exec_shuttleReplayTimeout_held up linked some'
    have zero : ¬ s.sh.held.length = s.sh.again := by
      rw [idle]; exact fun h => some' (List.length_eq_zero_iff.mp h)
    rw [idle, if_neg (by decide), resendOrLose, if_neg some', if_neg (by simp [few]), sendAgain, if_neg zero] at serves
    exact ⟨_, serves, rfl, mget_bumpCount_same ..⟩
  · have serves := exec_shuttleReplayTimeout_held up linked some'
    rw [idle, if_neg (by decide), resendOrLose_loses many (by rw [idle]; exact List.length_pos_iff.mpr some')] at serves
    refine ⟨_, serves, ?_⟩
    dsimp only
    rw [shuttleLost_sh]
    exact ⟨rfl, rfl, rfl, rfl, rfl⟩
  · obtain ⟨counts, sent⟩ := sendLink_spec s
    have serves := exec_shuttleFrameSend_nak up linked owed
    rw [sent] at serves
    exact ⟨_, serves, rfl, rfl⟩
  · have serves := exec_shuttleFrameSend_held up linked none found
    have old : decide (s.sh.again ≤ s.sh.uncounted) = false := decide_eq_false (by omega)
    rw [sendHeld, old] at serves
    exact ⟨_, serves, rfl, rfl, rfl, rfl, rfl, rfl, rfl⟩
  · rw [exec_shuttleFrameSend_held up linked none found, sendHeld, decide_eq_true new, decide_eq_true poor]
    rfl
  · exact exec_shuttleFrameSend_full up linked none idle full
  · obtain ⟨positive, most, ready⟩ := readyFrame_tokens credit some'
    have serves := exec_shuttleFrameSend_new up linked none idle few (k := 0) (by rw [turn]; rfl) ready
    have units : frameUnits 1 (BitVec.ofNat 8 (min (min 4 (unitsAdmitted s.sh)) s.sh.tx.length)) =
        min (min 4 (unitsAdmitted s.sh)) s.sh.tx.length := Nat.mod_eq_of_lt (by omega)
    rw [sendNew, units] at serves
    exact ⟨_, serves, rfl, rfl, rfl, rfl, rfl, rfl⟩
  · obtain ⟨positive, most, ready⟩ := readyFrame_words credit some'
    have serves := exec_shuttleFrameSend_new up linked none idle few (k := 1) (by rw [turn]; rfl) ready
    have units : frameUnits 2 (BitVec.ofNat 8 (min (min 8 (unitsAdmitted s.sh)) s.streams.shPut.length)) =
        min (min 8 (unitsAdmitted s.sh)) s.streams.shPut.length := Nat.mod_eq_of_lt (by omega)
    rw [sendNew, units] at serves
    exact ⟨_, serves, rfl, rfl, rfl, rfl, rfl, rfl, rfl⟩
  · rw [exec_shuttleRawMove, execShuttleRawMove, up, raw]
    exact if_pos room
  · rw [exec_shuttleRawMove, execShuttleRawMove, up, raw]
    exact if_neg (Nat.not_lt.mpr full)

end Sys2Proof.Sending
end

/-! # Row frames that are received (R475 to R503) -/

section
namespace Sys2Proof.Machine

open Sys2Proof

theorem exec_rowTokensFrame (port bytes s) : exec (.rowTokensFrame port bytes) s = execRowTokensFrame port bytes s := rfl
theorem exec_rowAnswerFrame (port bytes s) : exec (.rowAnswerFrame port bytes) s = execRowAnswerFrame port bytes s := rfl
theorem exec_rowUndeliverableFrame (port bytes s) : exec (.rowUndeliverableFrame port bytes) s = execRowUndeliverableFrame port bytes s := rfl
theorem exec_rowSinkFrame (port bytes s) : exec (.rowSinkFrame port bytes) s = execRowSinkFrame port bytes s := rfl
theorem exec_rowLinkFrame (port bytes s) : exec (.rowLinkFrame port bytes) s = execRowLinkFrame port bytes s := rfl
theorem exec_rowHelloFrame (port bytes s) : exec (.rowHelloFrame port bytes) s = execRowHelloFrame port bytes s := rfl
theorem exec_rowRawFrame (port bytes s) : exec (.rowRawFrame port bytes) s = execRowRawFrame port bytes s := rfl
theorem exec_rowForwardFrame (port bytes good s) : exec (.rowForwardFrame port bytes good) s = execRowForwardFrame port bytes good s := rfl
theorem exec_rowBadFrame (port bytes s) : exec (.rowBadFrame port bytes) s = execRowBadFrame port bytes s := rfl

/-! ## A row port and the rest of the device -/

section SetRow

variable (s : State) (r : RowId) (x : RowPort)

@[simp] theorem setRow_mem : (setRow s r x).mem = s.mem := by cases r <;> rfl
@[simp] theorem setRow_cells : (setRow s r x).cells = s.cells := by cases r <;> rfl
@[simp] theorem setRow_out : (setRow s r x).out = s.out := by cases r <;> rfl
@[simp] theorem setRow_host : (setRow s r x).host = s.host := by cases r <;> rfl
@[simp] theorem setRow_sh : (setRow s r x).sh = s.sh := by cases r <;> rfl
@[simp] theorem setRow_time : (setRow s r x).time = s.time := by cases r <;> rfl
@[simp] theorem setRow_weave : (setRow s r x).weave = s.weave := by cases r <;> rfl
@[simp] theorem setRow_stw : (setRow s r x).stw = s.stw := by cases r <;> rfl
@[simp] theorem setRow_streams : (setRow s r x).streams = s.streams := by cases r <;> rfl
@[simp] theorem setRow_pwr : (setRow s r x).pwr = s.pwr := by cases r <;> rfl
@[simp] theorem setRow_straps : (setRow s r x).straps = s.straps := by cases r <;> rfl

theorem setRow_setRow (y : RowPort) : setRow (setRow s r x) r y = setRow s r y := by cases r <;> rfl

theorem setRow_rowAt : setRow s r (rowAt s r) = s := by cases r <;> rfl

end SetRow

/-- Which own frames are ready is all that settling changes. -/
theorem settleReady_eq (s : State) (r : RowId) : ∃ ready, settleReady s r = setRow s r { rowAt s r with ready := ready } :=
  ⟨_, rfl⟩

/-- Memory's bytes, the cells, the host face, the shuttle, what is sent and the other port are as they were. -/
structure Quiet (s t : State) (r : RowId) : Prop where
  bytes : SameBytes s.mem t.mem
  cells : t.cells = s.cells
  out : t.out = s.out
  host : t.host = s.host
  sh : t.sh = s.sh
  other : rowAt t (otherRow r) = rowAt s (otherRow r)

theorem Quiet.refl (s : State) (r : RowId) : Quiet s s r := ⟨fun _ => rfl, rfl, rfl, rfl, rfl, rfl⟩

theorem Quiet.trans {a b c : State} {r : RowId} (h : Quiet a b r) (g : Quiet b c r) : Quiet a c r :=
  ⟨fun x => (g.bytes x).trans (h.bytes x), g.cells.trans h.cells, g.out.trans h.out, g.host.trans h.host, g.sh.trans h.sh,
    g.other.trans h.other⟩

theorem setRow_quiet (s : State) (r : RowId) (x : RowPort) : Quiet s (setRow s r x) r :=
  ⟨fun a => by rw [setRow_mem], setRow_cells .., setRow_out .., setRow_host .., setRow_sh .., rowAt_setRow_other ..⟩

/-- The hop's counts and credits as a frame gives them. -/
def HopTaken (P x : RowPort) (bs : List Byte) : Prop := mget 0 x.counts 0 = satAdd (mget 0 P.counts 0) 1 ∧
  x.nLcredit = half bs 22 ∧ x.nFcredit = half bs 24 ∧ x.lr = half bs 26 ∧ x.fr = half bs 28

/-- The port after a frame's hop fields have been taken. -/
def hopped (P : RowPort) (bs : List Byte) (ready : List RowOwn) : RowPort :=
  { rowCount P 0 1 with nLcredit := half bs 22, nFcredit := half bs 24, lr := half bs 26, fr := half bs 28
                        want := (rfFlags bs).getLsbD 0, ready := ready }

theorem hopTaken_eq (s : State) (r : RowId) (bs : List Byte) :
    ∃ ready, hopTaken s r bs = setRow s r (hopped (rowAt s r) bs ready) := by
  obtain ⟨ready, settled⟩ := settleReady_eq (setRow s r { rowCount (rowAt s r) 0 1 with
    nLcredit := half bs 22, nFcredit := half bs 24, lr := half bs 26, fr := half bs 28, want := (rfFlags bs).getLsbD 0 }) r
  refine ⟨ready, ?_⟩
  rw [hopTaken, settled, setRow_setRow, rowAt_setRow_same]
  rfl

theorem hopped_taken (P : RowPort) (bs : List Byte) (ready : List RowOwn) : HopTaken P (hopped P bs ready) bs :=
  ⟨mget_bumpCount_same .., rfl, rfl, rfl, rfl⟩

/-! ## Bytes and words -/

theorem leBytes_leNat (bs : List Byte) : leBytes bs.length (leNat bs) = bs := by
  induction bs with
  | nil => rfl
  | cons b bs ih =>
    have low := b.isLt
    have rest : (b.toNat + 256 * leNat bs) / 256 = leNat bs := by omega
    have first : BitVec.ofNat 8 (b.toNat + 256 * leNat bs) = b := by
      refine BitVec.eq_of_toNat_eq ?_
      rw [BitVec.toNat_ofNat]
      omega
    rw [List.length_cons, leBytes, leNat, first, rest, ih]

theorem leNat_lt (bs : List Byte) : leNat bs < 256 ^ bs.length := by
  induction bs with
  | nil => exact Nat.one_pos
  | cons b bs ih =>
    have low := b.isLt
    rw [List.length_cons, Nat.pow_succ, leNat]
    omega

/-- The bytes of the word that eight bytes spell. -/
theorem leBytes_word {bs : List Byte} (eight : bs.length = 8) : leBytes 8 (BitVec.ofNat 64 (leNat bs)).toNat = bs := by
  have below : leNat bs < 2 ^ 64 := by
    have := leNat_lt bs
    rwa [eight] at this
  have whole := leBytes_leNat bs
  rw [eight] at whole
  rw [BitVec.toNat_ofNat, Nat.mod_eq_of_lt below, whole]

theorem payloadWords_cons {a : List Byte} (eight : a.length = 8) (bs : List Byte) :
    payloadWords (a ++ bs) = BitVec.ofNat 64 (leNat a) :: payloadWords bs := by
  have count : (a ++ bs).length / 8 = bs.length / 8 + 1 := by rw [List.length_append]; omega
  rw [payloadWords, count, List.range_succ_eq_map, List.map_cons, List.map_map]
  refine congrArg₂ _ ?_ (List.map_congr_left fun i _ => ?_)
  · rw [Nat.mul_zero, List.drop_zero, List.take_left' eight]
  · have past : 8 * (i + 1) = a.length + 8 * i := by omega
    rw [Function.comp_apply, Nat.succ_eq_add_one, past, ← List.drop_drop, List.drop_left]

/-- The words of the bytes of words. -/
theorem payloadWords_bytes (ws : List W64) : payloadWords (ws.flatMap fun w => leBytes 8 w.toNat) = ws := by
  induction ws with
  | nil => rfl
  | cons w ws ih => rw [List.flatMap_cons, payloadWords_cons (leBytes_length ..), ih, leNat_leBytes_toNat w rfl]

/-- The bytes of the words of whole bytes. -/
theorem bytes_payloadWords {n : Nat} {bs : List Byte} (whole : bs.length = 8 * n) :
    (payloadWords bs).flatMap (fun w => leBytes 8 w.toNat) = bs := by
  induction n generalizing bs with
  | zero => rw [List.length_eq_zero_iff.mp whole]; rfl
  | succ n ih =>
    have first : (bs.take 8).length = 8 := by rw [List.length_take]; omega
    have split : payloadWords bs = BitVec.ofNat 64 (leNat (bs.take 8)) :: payloadWords (bs.drop 8) := by
      rw [← payloadWords_cons first, List.take_append_drop]
    rw [split, List.flatMap_cons, leBytes_word first, ih (by rw [List.length_drop]; omega), List.take_append_drop]

/-- The words of a kept frame are its descriptor and its bytes, filled with zeros. -/
theorem answerWords_frame (s : State) (bs : List Byte) : ∃ zeros, (answerWords s bs).drop 8 = bs ++ zeros := by
  obtain ⟨n, whole⟩ : ∃ n, (bs ++ List.replicate (7 - (bs.length + 7) % 8) (0 : Byte)).length = 8 * n :=
    ⟨(bs.length + 7) / 8, by rw [List.length_append, List.length_replicate]; omega⟩
  refine ⟨List.replicate (7 - (bs.length + 7) % 8) 0, ?_⟩
  rw [answerWords, rawWords, List.flatMap_cons, List.drop_left' (leBytes_length ..)]
  exact bytes_payloadWords whole

theorem answerWords_words (s : State) (bs : List Byte) : payloadWords (answerWords s bs) = rawWords s 2 bs :=
  payloadWords_bytes _

theorem answerWords_length (s : State) (bs : List Byte) : (answerWords s bs).length / 8 = (rawWords s 2 bs).length := by
  have words (ws : List W64) : (ws.flatMap fun w => leBytes 8 w.toNat).length = 8 * ws.length := by
    induction ws with
    | nil => rfl
    | cons w ws ih => rw [List.flatMap_cons, List.length_append, leBytes_length, ih, List.length_cons]; ring
  rw [answerWords, words]
  omega

theorem byteAt_append {bs : List Byte} {i : Nat} (within : i < bs.length) (zeros : List Byte) :
    byteAt (bs ++ zeros) i = byteAt bs i := List.getD_append _ _ _ _ within

/-- A frame reads as itself however many zeros fill its last word. -/
theorem filled_frame {bs : List Byte} (long : 30 + rfLen bs ≤ bs.length) (zeros : List Byte) :
    rfType (bs ++ zeros) = rfType bs ∧ rfTokens (bs ++ zeros) = rfTokens bs := by
  have len : rfLen (bs ++ zeros) = rfLen bs := by
    rw [rfLen, rfLen, half, half, byteAt_append (by omega), byteAt_append (by omega)]
  refine ⟨byteAt_append (by omega) zeros, ?_⟩
  rw [rfTokens, rfTokens, rfPayload, rfPayload, len, List.drop_append_of_le_length (by omega),
    List.take_append_of_le_length (by rw [List.length_drop]; omega)]

/-- What a good format says of a frame's length. -/
theorem format_spec {bs : List Byte} (good : formatGood bs = true) : sizeGood bs = true ∧ isTokenFrame bs = true ∧
    30 + rfLen bs ≤ bs.length ∧ (rfType bs = 1 ∨ rfType bs = 2 ∨ rfType bs = 3 → rfLen bs ≤ 1280 ∧ rfLen bs % 20 = 0) := by
  rw [formatGood] at good
  simp only [Bool.and_eq_true, beq_iff_eq] at good
  obtain ⟨⟨⟨size, token⟩, length⟩, type⟩ := good
  refine ⟨size, token, by omega, fun addressed => ?_⟩
  have number : (rfType bs).toNat = 1 ∨ (rfType bs).toNat = 2 ∨ (rfType bs).toNat = 3 := by
    rcases addressed with h | h | h <;> rw [h]
    · exact .inl rfl
    · exact .inr (.inl rfl)
    · exact .inr (.inr rfl)
  rw [if_pos number] at type
  simp only [Bool.and_eq_true, decide_eq_true_eq, beq_iff_eq] at type
  exact ⟨type.2.1.2, type.2.2⟩

theorem rfTokens_length {bs : List Byte} (good : formatGood bs = true)
    (addressed : rfType bs = 1 ∨ rfType bs = 2 ∨ rfType bs = 3) : (rfTokens bs).length = rfLen bs / 20 := by
  obtain ⟨-, -, long, tokens⟩ := format_spec good
  obtain ⟨most, whole⟩ := tokens addressed
  refine tokensOfBytes_length ?_ (by omega)
  rw [rfPayload, List.length_take, List.length_drop]
  omega

/-! ## Frames that reach a port -/

section Received

variable {s : State} {r : RowId} {bs : List Byte} (up : rowUp s r = true) (phy : (rowAt s r).phyUp = true)
include up phy

theorem receiveRow_good (good : formatGood bs = true) (plain : reservedSet bs = false) :
    receiveRow s r bs true = takeRowFrame (hopTaken s r bs) r bs := by
  obtain ⟨size, token, -, -⟩ := format_spec good
  rw [receiveRow, up, phy, size, token, good, plain]
  rfl

theorem receiveRow_reserved (good : formatGood bs = true) (set : reservedSet bs = true) :
    receiveRow s r bs true = unpredictable 23 s := by
  obtain ⟨size, token, -, -⟩ := format_spec good
  rw [receiveRow, up, phy, size, token, good, set]
  rfl

theorem receiveRow_raw (size : sizeGood bs = true) (raw : isTokenFrame bs = false) :
    receiveRow s r bs true = .next (placeRaw (setRow s r (rowCount (rowAt s r) 0 1)) r 0 bs) := by
  rw [receiveRow, up, phy, size, raw]
  rfl

theorem receiveRow_failed : receiveRow s r bs false = .next (failFrame s r bs) := by
  rw [receiveRow, up, phy]
  rfl

end Received

end Sys2Proof.Machine
end

/-! # What a row port does with the frames that it receives (R487 to R503) -/

section
namespace Sys2Proof.Machine

open Sys2Proof

/-! ## The raw streams (R491) -/

section RawTake

variable (s : State) (r : RowId) (ws : List W64)

theorem setRawTake_quiet : Quiet s (setRawTake s r ws) r := by
  cases r <;> exact ⟨fun _ => rfl, rfl, rfl, rfl, rfl, rfl⟩

@[simp] theorem rawTake_setRawTake : rawTake (setRawTake s r ws) r = ws := by cases r <;> rfl
@[simp] theorem rowAt_setRawTake : rowAt (setRawTake s r ws) r = rowAt s r := by cases r <;> rfl
@[simp] theorem setRawTake_time : (setRawTake s r ws).time = s.time := by cases r <;> rfl
@[simp] theorem rawTake_setRow (x : RowPort) : rawTake (setRow s r x) r = rawTake s r := by cases r <;> rfl

end RawTake

/-- A frame is placed whole where it fits, else counted. -/
theorem placeRaw_spec (s : State) (r : RowId) (kind : BitVec 2) (bs : List Byte) :
    Quiet s (placeRaw s r kind bs) r ∧ (placeRaw s r kind bs).time = s.time ∧
    (rawFits s r (rawWords s kind bs).length = true → rowAt (placeRaw s r kind bs) r = rowAt s r ∧
      rawTake (placeRaw s r kind bs) r = rawTake s r ++ rawWords s kind bs) ∧
    (rawFits s r (rawWords s kind bs).length = false → rowAt (placeRaw s r kind bs) r = rowCount (rowAt s r) 4 1 ∧
      (placeRaw s r kind bs).streams = s.streams) := by
  rw [placeRaw]
  rcases Bool.eq_false_or_eq_true (rawFits s r (rawWords s kind bs).length) with fits | full
  · rw [if_pos fits]
    exact ⟨setRawTake_quiet .., setRawTake_time .., fun _ => ⟨rowAt_setRawTake .., rawTake_setRawTake ..⟩,
      fun full => absurd (fits.symm.trans full) (by decide)⟩
  · rw [if_neg (by rw [full]; decide)]
    exact ⟨setRow_quiet .., setRow_time .., fun fits => absurd (fits.symm.trans full) (by decide),
      fun _ => ⟨rowAt_setRow_same .., setRow_streams ..⟩⟩

/-! ## ANSWER frames (R491) -/

/-- The state with one more ANSWER frame held, and local credits stopped. -/
theorem takeAnswerFrame_holds {s : State} {r : RowId} (none : (rowAt s r).answers = []) (words : List Byte) : ∃ limit,
    takeAnswerFrame s r words = settleAnswers 1 (setRow s r { rowAt s r with answers := [words], limit := limit }) r := by
  refine ⟨localCredit (setRow s r { rowAt s r with answers := [words] }) r, ?_⟩
  rw [takeAnswerFrame, none]
  dsimp only
  rw [if_pos rfl, rowAt_setRow_same, setRow_setRow]
  rfl

theorem settleAnswers_one {s : State} {r : RowId} {a : List Byte} (one : (rowAt s r).answers = [a]) :
    settleAnswers 1 s r = if rawFits s r (a.length / 8) then
      setRawTake (setRow s r { rowAt s r with answers := [] }) r (rawTake s r ++ payloadWords a) else s := by
  have stops (t : State) : settleAnswers 0 t r = t := by rw [settleAnswers.eq_def]
  rw [settleAnswers.eq_def, one]
  dsimp only
  rw [stops]

/-- The first ANSWER frame that waits is placed where it fits. -/
theorem takeAnswerFrame_spec {s : State} {r : RowId} (none : (rowAt s r).answers = []) (words : List Byte) :
    Quiet s (takeAnswerFrame s r words) r ∧ (takeAnswerFrame s r words).time = s.time ∧
    (∃ answers limit, rowAt (takeAnswerFrame s r words) r = { rowAt s r with answers := answers, limit := limit }) ∧
    (rawFits s r (words.length / 8) = true → (rowAt (takeAnswerFrame s r words) r).answers = [] ∧
      rawTake (takeAnswerFrame s r words) r = rawTake s r ++ payloadWords words) ∧
    (rawFits s r (words.length / 8) = false → (rowAt (takeAnswerFrame s r words) r).answers.length = 1 ∧
      (takeAnswerFrame s r words).streams = s.streams) := by
  obtain ⟨limit, holds⟩ := takeAnswerFrame_holds none words
  have room (x : RowPort) : rawFits (setRow s r x) r (words.length / 8) = rawFits s r (words.length / 8) := by
    rw [rawFits, rawFits, rawTake_setRow]
  rw [holds, settleAnswers_one (a := words) (by rw [rowAt_setRow_same]), room]
  rcases Bool.eq_false_or_eq_true (rawFits s r (words.length / 8)) with fits | full
  · rw [if_pos fits, setRow_setRow, rawTake_setRow]
    refine ⟨(setRow_quiet ..).trans (setRawTake_quiet ..), (setRawTake_time ..).trans (setRow_time ..), ⟨[], limit, ?_⟩,
      fun _ => ⟨?_, rawTake_setRawTake ..⟩, fun full => absurd (fits.symm.trans full) (by decide)⟩
    · simp only [rowAt_setRawTake, rowAt_setRow_same]
    · rw [rowAt_setRawTake, rowAt_setRow_same]
  · rw [if_neg (by rw [full]; decide)]
    refine ⟨setRow_quiet .., setRow_time .., ⟨[words], limit, rowAt_setRow_same ..⟩,
      fun fits => absurd (fits.symm.trans full) (by decide), fun _ => ⟨?_, setRow_streams ..⟩⟩
    rw [rowAt_setRow_same]
    rfl

/-! ## Conversions (R495 to R497) -/

theorem satAdd_allOnes (w k : Nat) : satAdd (BitVec.allOnes w) k = BitVec.allOnes w := by
  have positive : 0 < 2 ^ w := Nat.two_pow_pos w
  rw [satAdd, BitVec.toNat_allOnes]
  split
  · next fits =>
    refine BitVec.eq_of_toNat_eq ?_
    rw [BitVec.toNat_ofNat, BitVec.toNat_allOnes, Nat.mod_eq_of_lt fits]
    omega
  · rfl

theorem satAdd_satAdd {w : Nat} (x : BitVec w) (n k : Nat) : satAdd (satAdd x n) k = satAdd x (n + k) := by
  by_cases fits : x.toNat + n < 2 ^ w
  · have sum : satAdd x n = BitVec.ofNat w (x.toNat + n) := if_pos fits
    rw [sum, satAdd, BitVec.toNat_ofNat, Nat.mod_eq_of_lt fits, Nat.add_assoc]
    rfl
  · have full : satAdd x n = BitVec.allOnes w := if_neg fits
    have past : satAdd x (n + k) = BitVec.allOnes w := if_neg (by omega)
    rw [full, past, satAdd_allOnes]

theorem nodeReport_silent {s : State} (silent : s.stw.started = false) (code : BitVec 8) (access : BitVec 4)
    (info : BitVec 48) (subject : W64) : nodeReport s code access info subject = s := by
  rw [nodeReport, silent]
  rfl

theorem nodeReport_counts {s : State} (started : s.stw.started = true) (limit : tagInLimit s (defaultHandler s) = true)
    (code : BitVec 8) (access : BitVec 4) (info : BitVec 48) (subject : W64) :
    (nodeReport s code access info subject).stw = { s.stw with nodeSerial := s.stw.nodeSerial + 1 } := by
  rw [nodeReport]
  dsimp only
  rw [started, limit, if_pos (by decide), produceAll_stw]

/-- Where a report goes depends on the image and the start alone. -/
theorem reportLimit_congr {s t : State} {n : BitVec 16} (stw : t.stw = { s.stw with nodeSerial := n }) :
    tagInLimit t (defaultHandler t) = tagInLimit s (defaultHandler s) := by
  have started : t.stw.started = s.stw.started := by rw [stw]
  have image : t.stw.image = s.stw.image := by rw [stw]
  have limit : ctxLimit t = ctxLimit s := by rw [ctxLimit, ctxLimit, started, image]
  have handler : defaultHandler t = defaultHandler s := by rw [defaultHandler, defaultHandler, image]
  rw [tagInLimit, tagInLimit, limit, handler]

/-- A port has converted `n` tokens, counted and reported once a graph is started. -/
structure Converted (s t : State) (r : RowId) (n : Nat) : Prop where
  quiet : Quiet s t r
  time : t.time = s.time
  streams : t.streams = s.streams
  stw : t.stw = { s.stw with nodeSerial := t.stw.nodeSerial }
  port : rowAt t r = { rowAt s r with counts := (rowAt t r).counts }
  others : ∀ i, i ≠ 7 → mget 0 (rowAt t r).counts i = mget 0 (rowAt s r).counts i
  count : mget 0 (rowAt t r).counts 7 = satAdd (mget 0 (rowAt s r).counts 7) (if s.stw.started then n else 0)
  silent : s.stw.started = false → t.weave = s.weave ∧ t.stw = s.stw
  serial : s.stw.started = true → tagInLimit s (defaultHandler s) = true →
    t.stw.nodeSerial = s.stw.nodeSerial + BitVec.ofNat 16 n

theorem Converted.refl (s : State) (r : RowId) : Converted s s r 0 where
  quiet := Quiet.refl s r
  time := rfl
  streams := rfl
  stw := rfl
  port := rfl
  others _ _ := rfl
  count := by rw [ite_self, satAdd_zero]
  silent _ := ⟨rfl, rfl⟩
  serial _ _ := (BitVec.add_zero _).symm

theorem Converted.trans {a b c : State} {r : RowId} {n k : Nat} (h : Converted a b r n) (g : Converted b c r k) :
    Converted a c r (n + k) where
  quiet := h.quiet.trans g.quiet
  time := g.time.trans h.time
  streams := g.streams.trans h.streams
  stw := by rw [g.stw, h.stw]
  port := by rw [g.port, h.port]
  others i other := (g.others i other).trans (h.others i other)
  count := by
    have started : b.stw.started = a.stw.started := by rw [h.stw]
    rw [g.count, h.count, satAdd_satAdd, started]
    split <;> rfl
  silent none := by
    have started : b.stw.started = false := by rw [h.stw]; exact none
    exact ⟨(g.silent started).1.trans (h.silent none).1, (g.silent started).2.trans (h.silent none).2⟩
  serial started limit := by
    have started' : b.stw.started = true := by rw [h.stw]; exact started
    rw [g.serial started' ((reportLimit_congr h.stw).trans limit), h.serial started limit, BitVec.add_assoc, BitVec.ofNat_add]

theorem Converted.foldl {α : Type} {g : State → α → State} {r : RowId} (step : ∀ s a, Converted s (g s a) r 1) (l : List α)
    (s : State) : Converted s (l.foldl g s) r l.length := by
  induction l generalizing s with
  | nil => exact Converted.refl s r
  | cons a l ih =>
    rw [List.length_cons, Nat.add_comm]
    exact (step s a).trans (ih _)

/-- A report by a port is one conversion's, but for the count. -/
theorem convert_one (s : State) (r : RowId) (code : BitVec 8) (access : BitVec 4) (info : BitVec 48) (subject : W64) :
    Converted s (nodeReport (countConverted s r) code access info subject) r 1 := by
  rcases Bool.eq_false_or_eq_true s.stw.started with started | silent
  · have counts : countConverted s r = setRow s r (rowCount (rowAt s r) 7 1) := if_pos started
    obtain ⟨n, enters⟩ := nodeReport_enters (countConverted s r) code access info subject
    have rows : rowAt (nodeReport (countConverted s r) code access info subject) = rowAt (countConverted s r) := by
      rw [enters.shape]; rfl
    have port : rowAt (countConverted s r) r = rowCount (rowAt s r) 7 1 := by rw [counts, rowAt_setRow_same]
    have steward : (countConverted s r).stw = s.stw := by rw [counts, setRow_stw]
    exact {
      quiet := by
        rw [counts] at enters ⊢
        exact (setRow_quiet ..).trans ⟨enters.sameBytes, enters.cells, enters.out, enters.host, enters.sh, by rw [enters.shape]; rfl⟩
      time := by rw [enters.time, counts]; exact setRow_time ..
      streams := by rw [enters.streams, counts]; exact setRow_streams ..
      stw := by rw [enters.stw, ← steward]
      port := by rw [rows, port]; rfl
      others := fun i other => by rw [rows, port]; exact mget_bumpCount_other _ (Ne.symm other) _
      count := by rw [rows, port, if_pos started]; exact mget_bumpCount_same ..
      silent := fun silent => absurd (started.symm.trans silent) (by decide)
      serial := fun _ limit => by
        rw [nodeReport_counts (by rw [steward]; exact started)
          ((reportLimit_congr (s := s) (n := s.stw.nodeSerial) steward).trans limit), steward]
        rfl }
  · have same : nodeReport (countConverted s r) code access info subject = s := by
      have counts : countConverted s r = s := if_neg (by rw [silent]; decide)
      rw [counts, nodeReport_silent silent]
    rw [same]
    exact { Converted.refl s r with
      count := by rw [silent]; exact (satAdd_zero _).symm
      serial := fun started => absurd (started.symm.trans silent) (by decide) }

theorem convertFrame_converted (r : RowId) (s : State) (bs : List Byte) :
    Converted s (convertFrame r s bs) r (rfTokens bs).length :=
  Converted.foldl (fun s t => convert_one s r fRemote 0xC (rowInfo r 6 (rfSrc bs)) (packTag (tokenTag t))) _ s

end Sys2Proof.Machine
end

/-! # The row receiver (R475 to R503) -/

section
namespace Sys2Proof.Machine

open Sys2Proof

/-! ## Where a good frame goes (R480, R487) -/

theorem isAddressed_of_type {bs : List Byte} (type : rfType bs = 1 ∨ rfType bs = 2 ∨ rfType bs = 3) :
    isAddressed bs = true := by
  rcases type with h | h | h <;> rw [isAddressed, h] <;> rfl

section Goes

variable {s : State} {r : RowId} {bs : List Byte}

theorem takeRowFrame_here (type : rfType bs = 1 ∨ rfType bs = 2 ∨ rfType bs = 3) (here : forThisNode s bs = true) :
    takeRowFrame s r bs = takeAddressed s r bs := by
  rw [takeRowFrame, if_pos (isAddressed_of_type type), if_pos here]

theorem takeRowFrame_forward (type : rfType bs = 1 ∨ rfType bs = 2 ∨ rfType bs = 3) (away : forThisNode s bs = false) :
    takeRowFrame s r bs = forwardFrame s r bs := by
  rw [takeRowFrame, if_pos (isAddressed_of_type type), if_neg (by rw [away]; decide)]

theorem takeRowFrame_sink (type : rfType bs = 4) : takeRowFrame s r bs = .next (placeRaw s r 1 bs) := by
  rw [takeRowFrame, isAddressed, type]
  rfl

theorem takeRowFrame_link (type : rfType bs = 5) : takeRowFrame s r bs = .next s := by
  rw [takeRowFrame, isAddressed, type]
  rfl

theorem takeRowFrame_hello (type : rfType bs = 6) : takeRowFrame s r bs = .next (takeHello s r bs) := by
  rw [takeRowFrame, isAddressed, type]
  rfl

theorem takeAddressed_past (past : fitsLocal s r bs = false) : takeAddressed s r bs = unpredictable 485 s := by
  rw [takeAddressed, past]
  rfl

theorem takeAddressed_tokens (fits : fitsLocal s r bs = true) (type : rfType bs = 1) : takeAddressed s r bs =
    if (rfTokens bs).any (fun t => kindOf t.flags == 1) then unpredictable 122 s
    else .next (stampAll s 7 (isB r).toNat
      ((rfTokens bs).map fun t => .row (isB r) (rfSrc bs) t ((rfFlags bs).extractLsb' 4 3))) := by
  rw [takeAddressed, fits, type]
  rfl

theorem takeAddressed_kept (fits : fitsLocal s r bs = true) (type : rfType bs = 2 ∨ rfType bs = 3) : takeAddressed s r bs =
    if s.pwr.steady then .next (takeKept r s (answerWords s bs))
    else .next (setRow s r { rowAt s r with kept := (rowAt s r).kept ++ [answerWords s bs] }) := by
  rcases type with type | type
  · rw [takeAddressed, fits, type]; rfl
  · rw [takeAddressed, fits, type]; rfl

theorem takeKept_answer (good : formatGood bs = true) (type : rfType bs = 2) :
    takeKept r s (answerWords s bs) = takeAnswerFrame s r (answerWords s bs) := by
  obtain ⟨zeros, words⟩ := answerWords_frame s bs
  obtain ⟨-, -, long, -⟩ := format_spec good
  rw [takeKept, words, (filled_frame long zeros).1, type]
  exact if_pos rfl

theorem takeKept_undeliverable (good : formatGood bs = true) (type : rfType bs = 3) :
    Converted s (takeKept r s (answerWords s bs)) r (rfTokens bs).length := by
  obtain ⟨zeros, words⟩ := answerWords_frame s bs
  obtain ⟨-, -, long, -⟩ := format_spec good
  obtain ⟨typed, tokens⟩ := filled_frame long zeros
  have converted := convertFrame_converted r s (bs ++ zeros)
  rw [tokens] at converted
  rw [takeKept, words, typed, type]
  exact converted

end Goes

/-! ## The state after the hop fields -/

/-- What taking the hop fields leaves of the device. -/
structure Hop (s t : State) (r : RowId) (bs : List Byte) : Prop where
  only : t = setRow s r (rowAt t r)
  port : ∃ ready, rowAt t r = hopped (rowAt s r) bs ready

theorem hopTaken_hop (s : State) (r : RowId) (bs : List Byte) : Hop s (hopTaken s r bs) r bs := by
  obtain ⟨ready, taken⟩ := hopTaken_eq s r bs
  rw [taken]
  exact ⟨by rw [rowAt_setRow_same], ready, rowAt_setRow_same ..⟩

namespace Hop

variable {s t : State} {r : RowId} {bs : List Byte} (h : Hop s t r bs)
include h

theorem quiet : Quiet s t r := by rw [h.only]; exact setRow_quiet ..
theorem time : t.time = s.time := by rw [h.only]; exact setRow_time ..
theorem streams : t.streams = s.streams := by rw [h.only]; exact setRow_streams ..
theorem weave : t.weave = s.weave := by rw [h.only]; exact setRow_weave ..
theorem stw : t.stw = s.stw := by rw [h.only]; exact setRow_stw ..
theorem pwr : t.pwr = s.pwr := by rw [h.only]; exact setRow_pwr ..
theorem straps : t.straps = s.straps := by rw [h.only]; exact setRow_straps ..

theorem taken : HopTaken (rowAt s r) (rowAt t r) bs := by
  obtain ⟨ready, port⟩ := h.port
  rw [port]
  exact hopped_taken ..

theorem forThisNode (gs : List Byte) : Machine.forThisNode t gs = Machine.forThisNode s gs := by
  rw [Machine.forThisNode, Machine.forThisNode, h.straps]

theorem fitsLocal (gs : List Byte) : Machine.fitsLocal t r gs = Machine.fitsLocal s r gs := by
  obtain ⟨ready, port⟩ := h.port
  have held : localHeld t r = localHeld s r := by
    rw [localHeld, localHeld, heldOf, heldOf, h.time, port]
    rfl
  rw [Machine.fitsLocal, Machine.fitsLocal, held]

theorem fitsForward (gs : List Byte) : Machine.fitsForward t r gs = Machine.fitsForward s r gs := by
  rw [Machine.fitsForward, Machine.fitsForward, blocksHeld, blocksHeld, h.quiet.other]

theorem rawWords (kind : BitVec 2) (gs : List Byte) : Machine.rawWords t kind gs = Machine.rawWords s kind gs := by
  rw [Machine.rawWords, Machine.rawWords, rawDescriptor, rawDescriptor, h.time]

theorem rawTake : Machine.rawTake t r = Machine.rawTake s r := by rw [h.only]; exact rawTake_setRow ..

theorem rawFits (n : Nat) : Machine.rawFits t r n = Machine.rawFits s r n := by
  rw [Machine.rawFits, Machine.rawFits, h.rawTake]

theorem answerWords (gs : List Byte) : Machine.answerWords t gs = Machine.answerWords s gs := by
  rw [Machine.answerWords, Machine.answerWords, h.rawWords]

end Hop

/-! ## HELLO, forwarded and failed frames (R487, R489, R494) -/

theorem takeHello_spec (s : State) (r : RowId) (bs : List Byte) : ∃ x, takeHello s r bs = setRow s r x ∧
    x.counts = (rowAt s r).counts ∧ x.nLcredit = (rowAt s r).nLcredit ∧ x.nFcredit = (rowAt s r).nFcredit ∧
    x.lr = (rowAt s r).lr ∧ x.fr = (rowAt s r).fr ∧ x.heard = true ∧ x.neighbor = some (rfSrc bs) ∧
    x.own = (rowAt s r).own ∧ x.usable = ((rowAt s r).usable || (rfFlags bs).getLsbD 1) ∧
    ((rfFlags bs).getLsbD 1 = true → x.everUp = true ∧ x.grace = false) := by
  obtain ⟨ready, settled⟩ := settleReady_eq (setRow s r (if (rfFlags bs).getLsbD 1 then
    { rowAt s r with heard := true, neighbor := some (rfSrc bs), usable := true, everUp := true, grace := false, graceOver := false }
    else { rowAt s r with heard := true, neighbor := some (rfSrc bs) })) r
  refine ⟨_, (settled.trans (setRow_setRow ..) : takeHello s r bs = _), ?_⟩
  rw [rowAt_setRow_same]
  rcases Bool.eq_false_or_eq_true ((rfFlags bs).getLsbD 1) with seen | not
  · rw [if_pos seen, seen]
    exact ⟨rfl, rfl, rfl, rfl, rfl, rfl, rfl, rfl, (Bool.or_true _).symm, fun _ => ⟨rfl, rfl⟩⟩
  · rw [if_neg (by rw [not]; decide), not]
    exact ⟨rfl, rfl, rfl, rfl, rfl, rfl, rfl, rfl, (Bool.or_false _).symm, fun seen => by cases seen⟩

/-- A frame waits for a port before the end of its grace. -/
theorem queueForward_open {s : State} {r : RowId} (open' : graceGone (rowAt s r) = false) (bs : List Byte) :
    ∃ training grace, queueForward s r bs =
      setRow s r { rowAt s r with fwd := (rowAt s r).fwd ++ [bs], training := training, grace := grace } := by
  have waits : queueForward s r bs = frameWaits (setRow s r { rowAt s r with fwd := (rowAt s r).fwd ++ [bs] }) r :=
    if_neg (by rw [open']; decide)
  rw [waits, frameWaits, rowAt_setRow_same, setRow_setRow]
  exact ⟨_, _, rfl⟩

/-- A frame that is sent changes its port's counts and credits, and is sent. -/
theorem sendAddressed_spec (s : State) (r : RowId) (bs : List Byte) (good : Bool) : ∃ x wire,
    sendAddressed s r bs good = emit (setRow s r x) wire ∧ x.fwd = (rowAt s r).fwd ∧ x.own = (rowAt s r).own := by
  rw [sendAddressed]
  split <;> exact ⟨_, _, rfl, rfl, rfl⟩

theorem otherRow_otherRow (r : RowId) : otherRow (otherRow r) = r := by cases r <;> rfl

/-- The port after a failed frame, and the other one. -/
theorem failFrame_spec (s : State) (r : RowId) (bs : List Byte) :
    rowAt (failFrame s r bs) r = rowCount (rowAt s r) 1 1 ∧
    (rowAt (failFrame s r bs) (otherRow r)).fwd = (rowAt s (otherRow r)).fwd ∧
    (rowAt (failFrame s r bs) (otherRow r)).own = (rowAt s (otherRow r)).own ∧
    (failFrame s r bs).time = s.time ∧ (failFrame s r bs).mem = s.mem ∧ (failFrame s r bs).weave = s.weave ∧
    (forThisNode s bs = true ∨ isTokenFrame bs = false → failFrame s r bs =
      { setRow s r (rowCount (rowAt s r) 1 1) with freeCounter := s.freeCounter + 1 }) := by
  have counted : bumpFree (setRow s r (rowCount (rowAt s r) 1 1)) =
      { setRow s r (rowCount (rowAt s r) 1 1) with freeCounter := s.freeCounter + 1 } := by cases r <;> rfl
  have port : rowAt (bumpFree (setRow s r (rowCount (rowAt s r) 1 1))) = rowAt (setRow s r (rowCount (rowAt s r) 1 1)) := rfl
  rw [failFrame]
  dsimp only
  split
  · next begun =>
    obtain ⟨x, wire, sends, fwd, own⟩ := sendAddressed_spec (bumpFree (setRow s r (rowCount (rowAt s r) 1 1))) (otherRow r) bs false
    rw [port, rowAt_setRow_other] at fwd own
    have same := rowAt_setRow_other (bumpFree (setRow s r (rowCount (rowAt s r) 1 1))) (otherRow r) x
    rw [otherRow_otherRow, port, rowAt_setRow_same] at same
    rw [sends]
    have emitted (t : State) (o : Out) : rowAt (emit t o) = rowAt t := rfl
    refine ⟨same, by rw [emitted, rowAt_setRow_same, fwd], by rw [emitted, rowAt_setRow_same, own],
      (setRow_time ..).trans (setRow_time ..), (setRow_mem ..).trans (setRow_mem ..),
      (setRow_weave ..).trans (setRow_weave ..), fun here => ?_⟩
    simp only [Bool.and_eq_true, Bool.not_eq_true'] at begun
    rcases here with here | raw
    · simp [here] at begun
    · simp [raw] at begun
  · exact ⟨by rw [port, rowAt_setRow_same], by rw [port, rowAt_setRow_other], by rw [port, rowAt_setRow_other],
      setRow_time .., setRow_mem .., setRow_weave .., fun _ => counted⟩

/-! ## The outcome of each type -/

section Outcomes

variable {s : State} {p : RowId} {bs : List Byte} (up : rowUp s p = true) (phy : (rowAt s p).phyUp = true)
  (good : formatGood bs = true) (plain : reservedSet bs = false)
include up phy good plain

section Here

variable (here : forThisNode s bs = true)
include here

theorem receiveRow_here (type : rfType bs = 1 ∨ rfType bs = 2 ∨ rfType bs = 3) :
    receiveRow s p bs true = takeAddressed (hopTaken s p bs) p bs :=
  (receiveRow_good up phy good plain).trans
    (takeRowFrame_here type (((hopTaken_hop s p bs).forThisNode bs).trans here))

theorem receiveRow_past (type : rfType bs = 1 ∨ rfType bs = 2 ∨ rfType bs = 3) (past : fitsLocal s p bs = false) :
    receiveRow s p bs true = unpredictable 485 (hopTaken s p bs) :=
  (receiveRow_here up phy good plain here type).trans (takeAddressed_past (((hopTaken_hop s p bs).fitsLocal bs).trans past))

variable (fits : fitsLocal s p bs = true)
include fits

theorem receiveRow_tokens (type : rfType bs = 1) (clean : ∀ t ∈ rfTokens bs, kindOf t.flags ≠ 1) :
    ∃ u, receiveRow s p bs true = .next u ∧ Quiet s u p ∧ HopTaken (rowAt s p) (rowAt u p) bs ∧
      u.time = { s.time with held := u.time.held } ∧ (u.time.held = s.time.held ++ (rfTokens bs).map fun t =>
        ⟨s.time.beat, 7, (isB p).toNat, false, .row (isB p) (rfSrc bs) t ((rfFlags bs).extractLsb' 4 3)⟩) ∧
      u.streams = s.streams := by
  have hop := hopTaken_hop s p bs
  have none : (rfTokens bs).any (fun t => kindOf t.flags == 1) = false := by
    rw [List.any_eq_false]
    exact fun t member fault => clean t member (beq_iff_eq.mp fault)
  have serves := (receiveRow_here up phy good plain here (.inl type)).trans
    ((takeAddressed_tokens ((hop.fitsLocal bs).trans fits) type).trans (if_neg (by rw [none]; decide)))
  rw [stampAll_eq, List.map_map, hop.time] at serves
  have quiet := hop.quiet
  exact ⟨_, serves, ⟨quiet.bytes, quiet.cells, quiet.out, quiet.host, quiet.sh, quiet.other⟩, hop.taken, rfl, rfl, hop.streams⟩

theorem receiveRow_fault (type : rfType bs = 1) (bad : ∃ t ∈ rfTokens bs, kindOf t.flags = 1) :
    receiveRow s p bs true = unpredictable 122 (hopTaken s p bs) := by
  have faulty : (rfTokens bs).any (fun t => kindOf t.flags == 1) = true := by
    obtain ⟨t, member, kind⟩ := bad
    exact List.any_eq_true.mpr ⟨t, member, beq_iff_eq.mpr kind⟩
  exact (receiveRow_here up phy good plain here (.inl type)).trans
    ((takeAddressed_tokens (((hopTaken_hop s p bs).fitsLocal bs).trans fits) type).trans (if_pos faulty))

theorem receiveRow_kept (type : rfType bs = 2 ∨ rfType bs = 3) (away : s.pwr.steady = false) :
    ∃ u, receiveRow s p bs true = .next u ∧ Quiet s u p ∧ HopTaken (rowAt s p) (rowAt u p) bs ∧
      (rowAt u p).kept = (rowAt s p).kept ++ [answerWords s bs] ∧ u.time = s.time ∧ u.streams = s.streams ∧
      u.weave = s.weave := by
  have hop := hopTaken_hop s p bs
  have serves := (receiveRow_here up phy good plain here (.inr type)).trans
    ((takeAddressed_kept ((hop.fitsLocal bs).trans fits) type).trans (if_neg (by rw [hop.pwr, away]; decide)))
  rw [hop.answerWords] at serves
  obtain ⟨ready, port⟩ := hop.port
  refine ⟨_, serves, hop.quiet.trans (setRow_quiet ..), by rw [rowAt_setRow_same]; exact hop.taken, ?_,
    (setRow_time ..).trans hop.time, (setRow_streams ..).trans hop.streams, (setRow_weave ..).trans hop.weave⟩
  rw [rowAt_setRow_same, port]
  rfl

theorem receiveRow_answer (type : rfType bs = 2) (steady : s.pwr.steady = true) (none : (rowAt s p).answers = []) :
    ∃ u, receiveRow s p bs true = .next u ∧ Quiet s u p ∧ HopTaken (rowAt s p) (rowAt u p) bs ∧ u.time = s.time ∧
      (rawFits s p (rawWords s 2 bs).length = true → (rowAt u p).answers = [] ∧ rawTake u p = rawTake s p ++ rawWords s 2 bs) ∧
      (rawFits s p (rawWords s 2 bs).length = false → (rowAt u p).answers.length = 1 ∧ u.streams = s.streams) := by
  have hop := hopTaken_hop s p bs
  have serves := (receiveRow_here up phy good plain here (.inr (.inl type))).trans
    ((takeAddressed_kept ((hop.fitsLocal bs).trans fits) (.inl type)).trans (if_pos (by rw [hop.pwr]; exact steady)))
  rw [takeKept_answer good type, hop.answerWords] at serves
  have empty : (rowAt (hopTaken s p bs) p).answers = [] := by
    obtain ⟨ready, port⟩ := hop.port
    rw [port]; exact none
  obtain ⟨quiet, time, ⟨answers, limit, port⟩, placed, waits⟩ := takeAnswerFrame_spec empty (answerWords s bs)
  rw [answerWords_words, answerWords_length, hop.rawFits, hop.rawTake] at placed
  rw [answerWords_length, hop.rawFits, hop.streams] at waits
  exact ⟨_, serves, hop.quiet.trans quiet, by rw [port]; exact hop.taken, time.trans hop.time, placed, waits⟩

theorem receiveRow_undeliverable (type : rfType bs = 3) (steady : s.pwr.steady = true) :
    ∃ u, receiveRow s p bs true = .next u ∧ Quiet s u p ∧ HopTaken (rowAt s p) (rowAt u p) bs ∧
      mget 0 (rowAt u p).counts 7 = satAdd (mget 0 (rowAt s p).counts 7) (if s.stw.started then (rfTokens bs).length else 0) ∧
      u.time = s.time ∧ u.streams = s.streams ∧ (s.stw.started = false → u.weave = s.weave ∧ u.stw = s.stw) ∧
      (s.stw.started = true → tagInLimit s (defaultHandler s) = true →
        u.stw.nodeSerial = s.stw.nodeSerial + BitVec.ofNat 16 (rfTokens bs).length) := by
  have hop := hopTaken_hop s p bs
  have serves := (receiveRow_here up phy good plain here (.inr (.inr type))).trans
    ((takeAddressed_kept ((hop.fitsLocal bs).trans fits) (.inr type)).trans (if_pos (by rw [hop.pwr]; exact steady)))
  have converted := takeKept_undeliverable (s := hopTaken s p bs) (r := p) good type
  obtain ⟨ready, port⟩ := hop.port
  obtain ⟨count, lcredit, fcredit, lr, fr⟩ := hop.taken
  have limit := reportLimit_congr (s := s) (t := hopTaken s p bs) (n := s.stw.nodeSerial) hop.stw
  refine ⟨_, serves, hop.quiet.trans converted.quiet, ⟨(converted.others 0 (by decide)).trans count, ?_, ?_, ?_, ?_⟩, ?_,
    converted.time.trans hop.time, converted.streams.trans hop.streams, fun silent => ?_, fun started within => ?_⟩
  · rw [converted.port]; exact lcredit
  · rw [converted.port]; exact fcredit
  · rw [converted.port]; exact lr
  · rw [converted.port]; exact fr
  · rw [converted.count, port, hop.stw]
    exact congrArg (satAdd · _) (mget_bumpCount_other _ (by decide) _)
  · obtain ⟨weave, stw⟩ := converted.silent (by rw [hop.stw]; exact silent)
    exact ⟨weave.trans hop.weave, stw.trans hop.stw⟩
  · rw [converted.serial (by rw [hop.stw]; exact started) (limit.trans within), hop.stw]

end Here

theorem receiveRow_sink (type : rfType bs = 4) :
    ∃ u, receiveRow s p bs true = .next u ∧ Quiet s u p ∧ HopTaken (rowAt s p) (rowAt u p) bs ∧ u.time = s.time ∧
      (rawFits s p (rawWords s 1 bs).length = true → rawTake u p = rawTake s p ++ rawWords s 1 bs) ∧
      (rawFits s p (rawWords s 1 bs).length = false → u.streams = s.streams ∧
        mget 0 (rowAt u p).counts 4 = satAdd (mget 0 (rowAt s p).counts 4) 1) := by
  have hop := hopTaken_hop s p bs
  have serves := (receiveRow_good up phy good plain).trans (takeRowFrame_sink type)
  obtain ⟨quiet, time, fits, full⟩ := placeRaw_spec (hopTaken s p bs) p 1 bs
  rw [hop.rawWords, hop.rawFits] at fits full
  obtain ⟨ready, port⟩ := hop.port
  refine ⟨_, serves, hop.quiet.trans quiet, ?_, time.trans hop.time, fun room => ?_,
    fun none => ⟨(full none).2.trans hop.streams, ?_⟩⟩
  · rcases Bool.eq_false_or_eq_true (rawFits s p (rawWords s 1 bs).length) with room | none
    · rw [(fits room).1]; exact hop.taken
    · rw [(full none).1, port]
      exact ⟨(mget_bumpCount_other _ (by decide) _).trans (mget_bumpCount_same ..), rfl, rfl, rfl, rfl⟩
  · rw [(fits room).2, hop.rawTake]
  · rw [(full none).1, port]
    exact (mget_bumpCount_same ..).trans (congrArg (satAdd · 1) (mget_bumpCount_other _ (by decide) _))

theorem receiveRow_link (type : rfType bs = 5) :
    ∃ u, receiveRow s p bs true = .next u ∧ Quiet s u p ∧ HopTaken (rowAt s p) (rowAt u p) bs ∧ u = setRow s p (rowAt u p) ∧
      (rowAt u p).own = (rowAt s p).own ∧ (rowAt u p).fwd = (rowAt s p).fwd ∧ (rowAt u p).usable = (rowAt s p).usable := by
  have hop := hopTaken_hop s p bs
  obtain ⟨ready, port⟩ := hop.port
  refine ⟨_, (receiveRow_good up phy good plain).trans (takeRowFrame_link type), hop.quiet, hop.taken, hop.only, ?_⟩
  rw [port]
  exact ⟨rfl, rfl, rfl⟩

theorem receiveRow_hello (type : rfType bs = 6) :
    ∃ u, receiveRow s p bs true = .next u ∧ Quiet s u p ∧ HopTaken (rowAt s p) (rowAt u p) bs ∧ u = setRow s p (rowAt u p) ∧
      (rowAt u p).heard = true ∧ (rowAt u p).neighbor = some (rfSrc bs) ∧ (rowAt u p).own = (rowAt s p).own ∧
      (rowAt u p).usable = ((rowAt s p).usable || (rfFlags bs).getLsbD 1) ∧
      ((rfFlags bs).getLsbD 1 = true → (rowAt u p).everUp = true ∧ (rowAt u p).grace = false) := by
  have hop := hopTaken_hop s p bs
  have serves := (receiveRow_good up phy good plain).trans (takeRowFrame_hello type)
  obtain ⟨x, sets, counts, lcredit, fcredit, lr, fr, listens, neighbour, own, usable, seen⟩ := takeHello_spec (hopTaken s p bs) p bs
  obtain ⟨count, lcredit', fcredit', lr', fr'⟩ := hop.taken
  obtain ⟨ready, port⟩ := hop.port
  rw [port] at own usable
  rw [show takeHello (hopTaken s p bs) p bs = setRow s p x by rw [sets, hop.only, setRow_setRow]] at serves
  refine ⟨_, serves, setRow_quiet .., ?_⟩
  rw [rowAt_setRow_same]
  exact ⟨⟨by rw [counts]; exact count, lcredit.trans lcredit', fcredit.trans fcredit', lr.trans lr', fr.trans fr'⟩, rfl, listens,
    neighbour, own, usable, seen⟩

section Forwarded

variable (away : forThisNode s bs = false) (type : rfType bs = 1 ∨ rfType bs = 2 ∨ rfType bs = 3)
include away type

theorem receiveRow_forward : receiveRow s p bs true = forwardFrame (hopTaken s p bs) p bs :=
  (receiveRow_good up phy good plain).trans
    (takeRowFrame_forward type (((hopTaken_hop s p bs).forThisNode bs).trans away))

theorem receiveRow_chainEnd (off : rowOn s.straps (otherRow p) = false) :
    ∃ u, receiveRow s p bs true = .next u ∧ Quiet s u p ∧ HopTaken (rowAt s p) (rowAt u p) bs ∧
      mget 0 (rowAt u p).counts 3 = satAdd (mget 0 (rowAt s p).counts 3) 1 ∧ u.time = s.time := by
  have hop := hopTaken_hop s p bs
  have serves := receiveRow_forward up phy good plain away type
  rw [forwardFrame, hop.straps, off, if_pos (by decide)] at serves
  obtain ⟨ready, port⟩ := hop.port
  refine ⟨_, serves, hop.quiet.trans (setRow_quiet ..), ?_, ?_, (setRow_time ..).trans hop.time⟩
  · rw [rowAt_setRow_same, port]
    exact ⟨(mget_bumpCount_other _ (by decide) _).trans (mget_bumpCount_same ..), rfl, rfl, rfl, rfl⟩
  · rw [rowAt_setRow_same, port]
    exact (mget_bumpCount_same ..).trans (congrArg (satAdd · 1) (mget_bumpCount_other _ (by decide) _))

theorem receiveRow_queued (on : rowOn s.straps (otherRow p) = true) (fits : fitsForward s p bs = true)
    (open' : (rowAt s (otherRow p)).graceOver = false ∨ (rowAt s (otherRow p)).usable = true) :
    ∃ u, receiveRow s p bs true = .next u ∧ SameBytes s.mem u.mem ∧ u.cells = s.cells ∧ u.out = s.out ∧ u.host = s.host ∧
      u.sh = s.sh ∧ HopTaken (rowAt s p) (rowAt u p) bs ∧
      (rowAt u (otherRow p)).fwd = (rowAt s (otherRow p)).fwd ++ [bs] ∧
      (rowAt u (otherRow p)).own = (rowAt s (otherRow p)).own ∧ u.time = s.time := by
  have hop := hopTaken_hop s p bs
  have serves := receiveRow_forward up phy good plain away type
  have before : graceGone (rowAt (hopTaken s p bs) (otherRow p)) = false := by
    rw [hop.quiet.other, graceGone]
    rcases open' with h | h <;> simp [h]
  obtain ⟨training, grace, waits⟩ := queueForward_open before bs
  rw [hop.quiet.other] at waits
  rw [forwardFrame, hop.straps, on, if_neg (by decide), hop.fitsForward, fits, if_neg (by decide), waits] at serves
  have same (x : RowPort) := rowAt_setRow_other (hopTaken s p bs) (otherRow p) x
  have quiet (x : RowPort) := setRow_quiet (hopTaken s p bs) (otherRow p) x
  rw [otherRow_otherRow] at same
  refine ⟨_, serves, fun x => ((quiet _).bytes x).trans (hop.quiet.bytes x), (quiet _).cells.trans hop.quiet.cells,
    (quiet _).out.trans hop.quiet.out, (quiet _).host.trans hop.quiet.host, (quiet _).sh.trans hop.quiet.sh, ?_, ?_, ?_,
    (setRow_time ..).trans hop.time⟩
  · rw [same]; exact hop.taken
  · rw [rowAt_setRow_same]
  · rw [rowAt_setRow_same]

theorem receiveRow_forwardPast (on : rowOn s.straps (otherRow p) = true) (past : fitsForward s p bs = false) :
    receiveRow s p bs true = unpredictable 485 (hopTaken s p bs) := by
  have hop := hopTaken_hop s p bs
  have serves := receiveRow_forward up phy good plain away type
  rw [forwardFrame, hop.straps, on, if_neg (by decide), hop.fitsForward, past, if_pos (by decide)] at serves
  exact serves

end Forwarded

end Outcomes

theorem receiveRow_rawPlaced {s : State} {p : RowId} {bs : List Byte} (up : rowUp s p = true)
    (phy : (rowAt s p).phyUp = true) (size : sizeGood bs = true) (raw : isTokenFrame bs = false) :
    ∃ u, receiveRow s p bs true = .next u ∧ Quiet s u p ∧
      mget 0 (rowAt u p).counts 0 = satAdd (mget 0 (rowAt s p).counts 0) 1 ∧ u.time = s.time ∧
      (rowAt u p).nLcredit = (rowAt s p).nLcredit ∧
      (rawFits s p (rawWords s 0 bs).length = true → rawTake u p = rawTake s p ++ rawWords s 0 bs) ∧
      (rawFits s p (rawWords s 0 bs).length = false → u.streams = s.streams ∧
        mget 0 (rowAt u p).counts 4 = satAdd (mget 0 (rowAt s p).counts 4) 1) := by
  have serves := receiveRow_raw up phy size raw
  obtain ⟨quiet, time, fits, full⟩ := placeRaw_spec (setRow s p (rowCount (rowAt s p) 0 1)) p 0 bs
  have words : rawWords (setRow s p (rowCount (rowAt s p) 0 1)) 0 bs = rawWords s 0 bs := by
    rw [rawWords, rawWords, rawDescriptor, rawDescriptor, setRow_time]
  have room (n : Nat) : rawFits (setRow s p (rowCount (rowAt s p) 0 1)) p n = rawFits s p n := by
    rw [rawFits, rawFits, rawTake_setRow]
  rw [words, room, rowAt_setRow_same, rawTake_setRow] at fits
  rw [words, room, rowAt_setRow_same, setRow_streams] at full
  have port : (rowAt (placeRaw (setRow s p (rowCount (rowAt s p) 0 1)) p 0 bs) p).nLcredit = (rowAt s p).nLcredit ∧
      mget 0 (rowAt (placeRaw (setRow s p (rowCount (rowAt s p) 0 1)) p 0 bs) p).counts 0 =
        satAdd (mget 0 (rowAt s p).counts 0) 1 := by
    rcases Bool.eq_false_or_eq_true (rawFits s p (rawWords s 0 bs).length) with room | none
    · rw [(fits room).1]
      exact ⟨rfl, mget_bumpCount_same ..⟩
    · rw [(full none).1]
      exact ⟨rfl, (mget_bumpCount_other _ (by decide) _).trans (mget_bumpCount_same ..)⟩
  refine ⟨_, serves, (setRow_quiet ..).trans quiet, port.2, time.trans (setRow_time ..), port.1, fun room => (fits room).2,
    fun none => ⟨(full none).2, ?_⟩⟩
  rw [(full none).1]
  exact (mget_bumpCount_same ..).trans (congrArg (satAdd · 1) (mget_bumpCount_other _ (by decide) _))

end Sys2Proof.Machine

namespace Sys2Proof.RowReceiving

open Sys2Proof Sys2Proof.Machine

/-- What a frame leaves as it was, beside the hop fields that it gives. -/
theorem heard_of {s u : State} {p : RowId} {bs : List Byte} (q : Quiet s u p) (hop : HopTaken (rowAt s p) (rowAt u p) bs) :
    (SameBytes s.mem u.mem ∧ u.cells = s.cells ∧ u.out = s.out ∧ u.host = s.host ∧ u.sh = s.sh) ∧
    HopTaken (rowAt s p) (rowAt u p) bs := ⟨⟨q.bytes, q.cells, q.out, q.host, q.sh⟩, hop⟩

/-- Settles O53: a frame's outcome by its format, its type and its destination; beyond the hop fields a port changes
itself, the streams and the reports alone. -/
theorem rowFramesReceived : Obligations.RowFramesReceived := by
  intro s p bs
  dsimp only
  intro up phy
  refine ⟨fun c listed => ?_, fun good set => receiveRow_reserved up phy good set, fun good plain => ⟨fun here type =>
      ⟨receiveRow_past up phy good plain here type, fun fits => ⟨fun type whole => ?_,
        receiveRow_fault up phy good plain here fits, fun type away => ?_, fun type steady none => ?_,
        fun type steady => ?_⟩⟩, fun type => ?_, fun type => ?_, fun type => ?_, fun away type => ⟨fun off => ?_,
        fun on fits open' => ?_, receiveRow_forwardPast up phy good plain away type⟩⟩, fun size raw => ?_, rfl, ?_⟩
  · simp only [List.mem_cons, List.not_mem_nil, or_false] at listed
    rcases listed with rfl | rfl | rfl | rfl | rfl | rfl | rfl
    · rfl
    · rfl
    · rfl
    · rfl
    · rfl
    · rfl
    · rfl
  · obtain ⟨u, serves, quiet, hop, time, stamped, streams⟩ := receiveRow_tokens up phy good plain here fits type whole
    exact ⟨u, serves, ⟨heard_of quiet hop, quiet.other⟩, ⟨time, stamped⟩, rfTokens_length good (.inl type), streams⟩
  · obtain ⟨u, serves, quiet, hop, rest⟩ := receiveRow_kept up phy good plain here fits type away
    exact ⟨u, serves, ⟨heard_of quiet hop, quiet.other⟩, rest⟩
  · obtain ⟨u, serves, quiet, hop, rest⟩ := receiveRow_answer up phy good plain here fits type steady none
    exact ⟨u, serves, ⟨heard_of quiet hop, quiet.other⟩, rest⟩
  · obtain ⟨u, serves, quiet, hop, rest⟩ := receiveRow_undeliverable up phy good plain here fits type steady
    exact ⟨u, serves, ⟨heard_of quiet hop, quiet.other⟩, rest⟩
  · obtain ⟨u, serves, quiet, hop, rest⟩ := receiveRow_sink up phy good plain type
    exact ⟨u, serves, ⟨heard_of quiet hop, quiet.other⟩, rest⟩
  · obtain ⟨u, serves, quiet, hop, rest⟩ := receiveRow_link up phy good plain type
    exact ⟨u, serves, heard_of quiet hop, rest⟩
  · obtain ⟨u, serves, quiet, hop, rest⟩ := receiveRow_hello up phy good plain type
    exact ⟨u, serves, heard_of quiet hop, rest⟩
  · obtain ⟨u, serves, quiet, hop, rest⟩ := receiveRow_chainEnd up phy good plain away type off
    exact ⟨u, serves, ⟨heard_of quiet hop, quiet.other⟩, rest⟩
  · obtain ⟨u, serves, bytes, cells, out, host, sh, hop, rest⟩ := receiveRow_queued up phy good plain away type on fits open'
    exact ⟨u, serves, ⟨⟨bytes, cells, out, host, sh⟩, hop⟩, rest⟩
  · obtain ⟨u, serves, quiet, rest⟩ := receiveRow_rawPlaced up phy size raw
    exact ⟨u, serves, ⟨quiet.bytes, quiet.cells, quiet.out, quiet.host, quiet.sh⟩, rest⟩
  · obtain ⟨port, fwd, own, time, mem, weave, only⟩ := failFrame_spec s p bs
    refine ⟨_, receiveRow_failed up phy, ?_⟩
    dsimp only
    rw [port]
    exact ⟨mget_bumpCount_same .., rfl, fwd, own, time, mem, weave, only⟩

end Sys2Proof.RowReceiving
end

/-! # The bytes of row frames that are sent (Tables 12-5 and 12-6) -/

section
namespace Sys2Proof.Machine

open Sys2Proof

/-! ## Fields of bytes -/

theorem leBytes_two (v : BitVec 16) : leBytes 2 v.toNat = [v.extractLsb' 0 8, v.extractLsb' 8 8] := by
  have small := v.isLt
  simp only [leBytes]
  refine congrArg₂ _ (BitVec.eq_of_toNat_eq ?_) (congrArg₂ _ (BitVec.eq_of_toNat_eq ?_) rfl)
  · simp [BitVec.extractLsb'_toNat]
  · simp [BitVec.extractLsb'_toNat, Nat.shiftRight_eq_div_pow]

theorem extract_halves (v : BitVec 16) : (v.extractLsb' 8 8 ++ v.extractLsb' 0 8 : BitVec 16) = v := by
  refine BitVec.eq_of_getLsbD_eq fun i small => ?_
  rw [BitVec.getLsbD_append]
  split
  · next low => simp [low]
  · next high =>
    have at' : 8 + (i - 8) = i := by omega
    have below : i - 8 < 8 := by omega
    simp [at', below]

/-- Two bytes after given ones are the number that they spell. -/
theorem half_at {front : List Byte} {i : Nat} (place : front.length = i) (v : BitVec 16) (rest : List Byte) :
    half (front ++ (leBytes 2 v.toNat ++ rest)) i = v := by
  have low : byteAt (front ++ (leBytes 2 v.toNat ++ rest)) i = v.extractLsb' 0 8 := by
    rw [byteAt, List.getD_append_right _ _ _ _ (by omega), place, Nat.sub_self, leBytes_two]
    rfl
  have high : byteAt (front ++ (leBytes 2 v.toNat ++ rest)) (i + 1) = v.extractLsb' 8 8 := by
    rw [byteAt, List.getD_append_right _ _ _ _ (by omega), place, Nat.add_sub_cancel_left, leBytes_two]
    rfl
  rw [half, low, high, extract_halves]

/-- The wire form of a frame, with its hop fields (Table 12-5). -/
def wireOf (bs : List Byte) (gl gf ln fn : BitVec 16) : List Byte :=
  bs.take 22 ++ leBytes 2 gl.toNat ++ leBytes 2 gf.toNat ++ leBytes 2 ln.toNat ++ leBytes 2 fn.toNat ++ bs.drop 30

theorem wireOf_spec {bs : List Byte} (long : 30 ≤ bs.length) (gl gf ln fn : BitVec 16) :
    half (wireOf bs gl gf ln fn) 22 = gl ∧ half (wireOf bs gl gf ln fn) 24 = gf ∧
    half (wireOf bs gl gf ln fn) 26 = ln ∧ half (wireOf bs gl gf ln fn) 28 = fn ∧
    (wireOf bs gl gf ln fn).take 22 = bs.take 22 ∧ (wireOf bs gl gf ln fn).drop 30 = bs.drop 30 ∧
    (wireOf bs gl gf ln fn).length = bs.length := by
  have front : (bs.take 22).length = 22 := by rw [List.length_take]; omega
  refine ⟨?_, ?_, ?_, ?_, ?_, ?_, ?_⟩
  · simp only [wireOf, List.append_assoc]
    exact half_at front gl _
  · rw [wireOf, List.append_assoc, List.append_assoc, List.append_assoc]
    exact half_at (by simp [front]) gf _
  · rw [wireOf, List.append_assoc, List.append_assoc]
    exact half_at (by simp [front]) ln _
  · rw [wireOf, List.append_assoc]
    exact half_at (by simp [front]) fn _
  · simp only [wireOf, List.append_assoc]
    exact List.take_left' front
  · rw [wireOf]
    exact List.drop_left' (by simp [front])
  · simp only [wireOf, List.length_append, leBytes_length, List.length_drop, front]
    omega

/-- The bytes before the hop fields are those of the frame. -/
theorem byteAt_of_take {w bs : List Byte} (same : w.take 22 = bs.take 22) {i : Nat} (low : i < 22) :
    byteAt w i = byteAt bs i := by
  have at' (l : List Byte) : byteAt l i = byteAt (l.take 22) i := by
    simp [byteAt, List.getD_eq_getElem?_getD, List.getElem?_take, low]
  rw [at' w, same, ← at' bs]

theorem half_of_take {w bs : List Byte} (same : w.take 22 = bs.take 22) {i : Nat} (low : i < 21) :
    half w i = half bs i := by
  rw [half, half, byteAt_of_take same (by omega), byteAt_of_take same (by omega)]

/-! ## Frames that this node originates -/

/-- The first 30 bytes of such a frame. -/
def rowHead (s : State) (P : RowPort) (ftype : Byte) (dst : Option (BitVec 12)) (seen dump : Bool) (len : Nat) : List Byte :=
  nodeAddress dst ++ nodeAddress (some (nodeId s.straps)) ++ [0x88, 0xB5, ftype,
    (0 : BitVec 1) ++ s.straps.beat ++ (0 : BitVec 1) ++ BitVec.ofBool dump ++ BitVec.ofBool seen ++
      BitVec.ofBool (wantsCredit P)] ++
    leBytes 2 (dstField dst).toNat ++ leBytes 2 (nodeId s.straps).toNat ++ leBytes 2 len ++ List.replicate 8 0

theorem rowFrame_eq (s : State) (P : RowPort) (ftype : Byte) (dst : Option (BitVec 12)) (seen dump : Bool)
    (payload : List Byte) : rowFrame s P ftype dst seen dump payload =
      padFrame (rowHead s P ftype dst seen dump payload.length ++ payload) := rfl

theorem nodeAddress_length (n : Option (BitVec 12)) : (nodeAddress n).length = 6 := by cases n <;> rfl

theorem rowHead_length (s : State) (P : RowPort) (ftype : Byte) (dst : Option (BitVec 12)) (seen dump : Bool) (len : Nat) :
    (rowHead s P ftype dst seen dump len).length = 30 := by
  simp [rowHead, nodeAddress_length]

section Head

variable (s : State) (P : RowPort) (ftype : Byte) (dst : Option (BitVec 12)) (seen dump : Bool) (len : Nat)
  (rest : List Byte)

theorem rowHead_type : rfType (rowHead s P ftype dst seen dump len ++ rest) = ftype := by
  cases dst <;> rfl

theorem rowHead_flags : (rfFlags (rowHead s P ftype dst seen dump len ++ rest)).getLsbD 0 = wantsCredit P ∧
    (rfFlags (rowHead s P ftype dst seen dump len ++ rest)).getLsbD 1 = seen := by
  have flags : rfFlags (rowHead s P ftype dst seen dump len ++ rest) =
      ((0 : BitVec 1) ++ s.straps.beat ++ (0 : BitVec 1) ++ BitVec.ofBool dump ++ BitVec.ofBool seen ++
        BitVec.ofBool (wantsCredit P) : BitVec 8) := by cases dst <;> rfl
  have bits : ∀ (beat : BitVec 3) (d s w : Bool),
      let f : BitVec 8 := (0 : BitVec 1) ++ beat ++ (0 : BitVec 1) ++ BitVec.ofBool d ++ BitVec.ofBool s ++ BitVec.ofBool w
      f.getLsbD 0 = w ∧ f.getLsbD 1 = s := by decide
  rw [flags]
  exact bits ..

theorem rowHead_dst : half (rowHead s P ftype dst seen dump len ++ rest) 16 = dstField dst := by
  rw [rowHead, List.append_assoc, List.append_assoc, List.append_assoc, List.append_assoc]
  exact half_at (by simp [nodeAddress_length]) ..

theorem rowHead_src : rfSrc (rowHead s P ftype dst seen dump len ++ rest) = nodeId s.straps := by
  have node : (nodeId s.straps).toNat = ((nodeId s.straps).setWidth 16).toNat := by
    have := (nodeId s.straps).isLt
    rw [BitVec.toNat_setWidth, Nat.mod_eq_of_lt (by omega)]
  have field : half (rowHead s P ftype dst seen dump len ++ rest) 18 = (nodeId s.straps).setWidth 16 := by
    rw [rowHead, node, List.append_assoc, List.append_assoc, List.append_assoc]
    exact half_at (by simp [nodeAddress_length]) ..
  rw [rfSrc, field, BitVec.setWidth_setWidth_of_le _ (by decide), BitVec.setWidth_eq]

theorem rowHead_len (small : len < 0x10000) : rfLen (rowHead s P ftype dst seen dump len ++ rest) = len := by
  obtain ⟨v, rfl⟩ : ∃ v : BitVec 16, v.toNat = len := ⟨BitVec.ofNat 16 len, by rw [BitVec.toNat_ofNat, Nat.mod_eq_of_lt small]⟩
  refine congrArg BitVec.toNat ?_
  rw [rowHead, List.append_assoc, List.append_assoc]
  exact half_at (by simp [nodeAddress_length]) ..

end Head

/-- The fields of a frame that this node originates. -/
theorem rowFrame_spec (s : State) (P : RowPort) (ftype : Byte) (dst : Option (BitVec 12)) (seen dump : Bool)
    {payload : List Byte} (short : payload.length ≤ 1280) : let w := rowFrame s P ftype dst seen dump payload
    rfType w = ftype ∧ (rfFlags w).getLsbD 0 = wantsCredit P ∧ (rfFlags w).getLsbD 1 = seen ∧ half w 16 = dstField dst ∧
    rfSrc w = nodeId s.straps ∧ rfLen w = payload.length ∧ w.length = max 60 (30 + payload.length) ∧
    (w.drop 30).take payload.length = payload := by
  dsimp only
  have head := rowHead_length s P ftype dst seen dump payload.length
  have whole : rowFrame s P ftype dst seen dump payload = rowHead s P ftype dst seen dump payload.length ++
      (payload ++ List.replicate (60 - (30 + payload.length)) 0) := by
    rw [rowFrame_eq, padFrame, List.length_append, head, List.append_assoc]
  rw [whole]
  obtain ⟨want, seen'⟩ := rowHead_flags s P ftype dst seen dump payload.length
    (payload ++ List.replicate (60 - (30 + payload.length)) 0)
  refine ⟨rowHead_type .., want, seen', rowHead_dst .., rowHead_src .., rowHead_len (small := by omega) .., ?_, ?_⟩
  · rw [List.length_append, head, List.length_append, List.length_replicate]
    omega
  · rw [List.drop_left' head, List.take_left]

end Sys2Proof.Machine
end

/-! # The row sender (R478 to R496) -/

section
namespace Sys2Proof.Machine

open Sys2Proof

theorem exec_tokenToRowFace (net3 s) : exec (.tokenToRowFace net3) s = execTokenToRowFace net3 s := rfl
theorem exec_rowFrameSend (port s) : exec (.rowFrameSend port) s = execRowFrameSend port s := rfl
theorem exec_rowHelloTimer (port s) : exec (.rowHelloTimer port) s = execRowHelloTimer port s := rfl
theorem exec_rowLinkFrameDue (port s) : exec (.rowLinkFrameDue port) s = execRowLinkFrameDue port s := rfl
theorem exec_rowLinkLoss (port s) : exec (.rowLinkLoss port) s = execRowLinkLoss port s := rfl
theorem exec_neighbourTrainingDetected (port s) : exec (.neighbourTrainingDetected port) s = execNeighbourTrainingDetected port s := rfl
theorem exec_rowPhyLinkUp (port s) : exec (.rowPhyLinkUp port) s = execRowPhyLinkUp port s := rfl
theorem exec_rowGraceExpired (port s) : exec (.rowGraceExpired port) s = execRowGraceExpired port s := rfl

/-! ## Grants (R484) -/

/-- A port that keeps what it has received grants as before. -/
theorem grants_setRow {s : State} {r : RowId} {x : RowPort} (answers : x.answers = (rowAt s r).answers)
    (kept : x.kept = (rowAt s r).kept) (lr : x.lr = (rowAt s r).lr) (fr : x.fr = (rowAt s r).fr)
    (limit : x.limit = (rowAt s r).limit) :
    grantLocal (setRow s r x) r = grantLocal s r ∧ grantForward (setRow s r x) r = grantForward s r := by
  have held : localHeld (setRow s r x) r = localHeld s r := by
    rw [localHeld, localHeld, heldOf, heldOf, setRow_time, rowAt_setRow_same, answers, kept]
  have credit : localCredit (setRow s r x) r = localCredit s r := by
    rw [localCredit, localCredit, rowGranting, rowGranting, setRow_pwr, setRow_time, held, rowAt_setRow_same, lr, limit]
  constructor
  · rw [grantLocal, grantLocal, credit, rowAt_setRow_same, answers, limit]
  · rw [grantForward, grantForward, blocksHeld, blocksHeld, rowAt_setRow_other, rowAt_setRow_same, fr]

/-! ## A frame that is sent -/

/-- The port after a frame has been charged to its pools. -/
def charged (s : State) (r : RowId) (x : RowPort) (tokens blocks : Nat) (ready : List RowOwn) : RowPort :=
  { x with lnext := x.lnext + BitVec.ofNat 16 tokens, fnext := x.fnext + BitVec.ofNat 16 blocks
           gLcredit := grantLocal s r, gFcredit := grantForward s r, ready := ready }

/-- What a port sends, and the rest of the device beside it. -/
structure Sent (s u : State) (r : RowId) (w bs : List Byte) : Prop where
  out : u.out = .row (isB r) w true :: s.out
  credits : half w 22 = grantLocal s r ∧ half w 24 = grantForward s r ∧ half w 26 = (rowAt u r).lnext ∧
    half w 28 = (rowAt u r).fnext
  mem : u.mem = s.mem
  weave : u.weave = s.weave
  other : rowAt u (otherRow r) = rowAt s (otherRow r)
  front : w.take 22 = bs.take 22
  back : w.drop 30 = bs.drop 30
  length : w.length = bs.length

/-- A frame leaves with its hop fields rewritten, charged to its pools. -/
theorem sendRow_sent {s : State} {r : RowId} {x : RowPort} (answers : x.answers = (rowAt s r).answers)
    (kept : x.kept = (rowAt s r).kept) (lr : x.lr = (rowAt s r).lr) (fr : x.fr = (rowAt s r).fr)
    (limit : x.limit = (rowAt s r).limit) {bs : List Byte} (long : 30 ≤ bs.length) (tokens blocks : Nat) :
    ∃ w ready, Sent s (settleReady (sendRow (setRow s r x) r bs tokens blocks true) r) r w bs ∧
      rowAt (settleReady (sendRow (setRow s r x) r bs tokens blocks true) r) r = charged s r x tokens blocks ready := by
  obtain ⟨gl, gf⟩ := grants_setRow answers kept lr fr limit
  have sends : sendRow (setRow s r x) r bs tokens blocks true = emit (setRow s r (charged s r x tokens blocks x.ready))
      (.row (isB r) (wireOf bs (grantLocal s r) (grantForward s r) (x.lnext + BitVec.ofNat 16 tokens)
        (x.fnext + BitVec.ofNat 16 blocks)) true) := by
    rw [sendRow, gl, gf, rowAt_setRow_same, setRow_setRow]
    rfl
  obtain ⟨ready, settled⟩ := settleReady_eq (sendRow (setRow s r x) r bs tokens blocks true) r
  have port : rowAt (settleReady (sendRow (setRow s r x) r bs tokens blocks true) r) r = charged s r x tokens blocks ready := by
    rw [settled, rowAt_setRow_same, sends]
    show { rowAt (setRow s r (charged s r x tokens blocks x.ready)) r with ready := ready } = _
    rw [rowAt_setRow_same]
    rfl
  obtain ⟨c22, c24, c26, c28, front, back, length⟩ := wireOf_spec long (grantLocal s r) (grantForward s r)
    (x.lnext + BitVec.ofNat 16 tokens) (x.fnext + BitVec.ofNat 16 blocks)
  refine ⟨_, ready, ⟨?_, ⟨c22, c24, ?_, ?_⟩, ?_, ?_, ?_, front, back, length⟩, port⟩
  · rw [settled, setRow_out, sends]
    show _ :: (setRow s r _).out = _
    rw [setRow_out]
  · rw [port, c26]; rfl
  · rw [port, c28]; rfl
  · rw [settled, setRow_mem, sends]
    exact setRow_mem ..
  · rw [settled, setRow_weave, sends]
    exact setRow_weave ..
  · rw [settled, rowAt_setRow_other, sends]
    exact rowAt_setRow_other ..

section Sends

variable {s : State} {p : RowId} (up : rowUp s p = true) (phy : (rowAt s p).phyUp = true)
include up phy

theorem exec_rowFrameSend_next {t : State} (next : sendNext s p = some t) :
    exec (.rowFrameSend p) s = .next (settleReady t p) := by
  rw [exec_rowFrameSend, execRowFrameSend, up, phy, next]
  rfl

theorem exec_rowFrameSend_hello (due : (rowAt s p).helloDue = true) : exec (.rowFrameSend p) s =
    .next (settleReady (sendRow (setRow s p { rowAt s p with helloDue := false }) p
      (rowFrame s (rowAt s p) 6 none (rowAt s p).heard false []) 0 0 true) p) := by
  refine exec_rowFrameSend_next up phy ?_
  rw [sendNext]
  exact if_pos due

variable (noHello : (rowAt s p).helloDue = false) (usable : (rowAt s p).usable = true)
include noHello usable

theorem exec_rowFrameSend_link (due : (rowAt s p).linkDue = true ∨ grantAdvanced s p = true) : exec (.rowFrameSend p) s =
    .next (settleReady (sendRow (setRow s p { rowAt s p with linkDue := false }) p
      (rowFrame s (rowAt s p) 5 none false false []) 0 0 true) p) := by
  refine exec_rowFrameSend_next up phy ?_
  rw [sendNext]
  exact (if_neg (by rw [noHello]; decide)).trans ((if_neg (by rw [usable]; decide)).trans
    (if_pos (by rcases due with h | h <;> simp [h])))

variable (noLink : (rowAt s p).linkDue = false) (still : grantAdvanced s p = false)
include noLink still

theorem exec_rowFrameSend_own {o : RowOwn} (none : (rowAt s p).fwd = []) (ready : (rowAt s p).ready = [o]) :
    exec (.rowFrameSend p) s = .next (settleReady (sendOwn s p o) p) := by
  have idle : forwardNext (rowAt s p) = Option.none := by rw [forwardNext, none]; rfl
  refine exec_rowFrameSend_next up phy ?_
  rw [sendNext]
  rw [noHello, usable, noLink, still, idle, ready]
  cases (rowAt s p).fwdTurn <;> rfl

theorem exec_rowFrameSend_forward {g : List Byte} (one : (rowAt s p).fwd = [g]) (none : (rowAt s p).ready = [])
    (credits : addressedReady (rowAt s p) g = true) :
    exec (.rowFrameSend p) s = .next (settleReady (sendForward s p g) p) := by
  have next : forwardNext (rowAt s p) = some g := by
    rw [forwardNext, one]
    rcases Bool.eq_false_or_eq_true (chargedLocal (rowAt s p) (rfDst g)) with local' | away
    · simp [local', credits, Option.filter]
    · simp [away, credits, Option.filter]
  refine exec_rowFrameSend_next up phy ?_
  rw [sendNext]
  rw [noHello, usable, noLink, still, next, none]
  cases (rowAt s p).fwdTurn <;> rfl

end Sends

/-! ### Addressed frames (R483) -/

/-- An addressed frame is charged to the neighbour's local pool, or to its forwarding pool. -/
theorem sendAddressed_sent {s : State} {r : RowId} {x : RowPort} (answers : x.answers = (rowAt s r).answers)
    (kept : x.kept = (rowAt s r).kept) (lr : x.lr = (rowAt s r).lr) (fr : x.fr = (rowAt s r).fr)
    (limit : x.limit = (rowAt s r).limit) (neighbour : x.neighbor = (rowAt s r).neighbor) {bs : List Byte}
    (long : 30 ≤ bs.length) : ∃ w ready tokens blocks,
      Sent s (settleReady (sendAddressed (setRow s r x) r bs true) r) r w bs ∧
      rowAt (settleReady (sendAddressed (setRow s r x) r bs true) r) r = charged s r x tokens blocks ready ∧
      (chargedLocal (rowAt s r) (rfDst bs) = true → tokens = rfLen bs / 20 ∧ blocks = 0) ∧
      (chargedLocal (rowAt s r) (rfDst bs) = false → tokens = 0 ∧ blocks = rfBlocks bs) := by
  have pool : chargedLocal (rowAt (setRow s r x) r) (rfDst bs) = chargedLocal (rowAt s r) (rfDst bs) := by
    rw [rowAt_setRow_same, chargedLocal, chargedLocal, neighbour]
  rw [sendAddressed, pool]
  rcases Bool.eq_false_or_eq_true (chargedLocal (rowAt s r) (rfDst bs)) with local' | away
  · rw [if_pos local']
    obtain ⟨w, ready, sent, port⟩ := sendRow_sent answers kept lr fr limit long (rfLen bs / 20) 0
    exact ⟨w, ready, _, _, sent, port, fun _ => ⟨rfl, rfl⟩, fun away => absurd (local'.symm.trans away) (by decide)⟩
  · rw [if_neg (by rw [away]; decide)]
    obtain ⟨w, ready, sent, port⟩ := sendRow_sent answers kept lr fr limit long 0 (rfBlocks bs)
    exact ⟨w, ready, _, _, sent, port, fun local' => absurd (local'.symm.trans away) (by decide), fun _ => ⟨rfl, rfl⟩⟩

/-- A frame made before keeps everything but its WANT. -/
theorem markWant_spec (P : RowPort) {g : List Byte} (long : 60 ≤ g.length) : (markWant P g).length = g.length ∧
    (markWant P g).take 15 = g.take 15 ∧ (markWant P g).drop 30 = g.drop 30 ∧
    (rfFlags (markWant P g)).getLsbD 0 = wantsCredit P := by
  have front : (g.take 15).length = 15 := by rw [List.length_take]; omega
  refine ⟨?_, ?_, ?_, ?_⟩
  · simp only [markWant, List.length_append, front, List.length_singleton, List.length_drop]
    omega
  · rw [markWant, List.append_assoc]
    exact List.take_left' front
  · have place : (30 : Nat) = (g.take 15 ++ [rfFlags g &&& 0xFE ||| BitVec.setWidth 8 (BitVec.ofBool (wantsCredit P))]).length + 14 := by
      rw [List.length_append, front]; rfl
    rw [markWant, place, ← List.drop_drop, List.drop_left, List.drop_drop, List.length_append, front]
    rfl
  · have flags : rfFlags (markWant P g) = rfFlags g &&& 0xFE ||| BitVec.setWidth 8 (BitVec.ofBool (wantsCredit P)) := by
      have place : (15 : Nat) < (g.take 15 ++ [rfFlags g &&& 0xFE ||| BitVec.setWidth 8 (BitVec.ofBool (wantsCredit P))]).length := by
        rw [List.length_append, front]; exact Nat.lt_succ_self 15
      rw [rfFlags, markWant, byteAt_append place, byteAt, List.getD_append_right _ _ _ _ (by rw [front]), front]
      rfl
    rw [flags]
    simp

/-! ## Frames that begin to wait (R490, R495) -/

/-- A frame waits, before the end of its port's grace. -/
theorem queueOwn_open {s : State} {r : RowId} (open' : graceGone (rowAt s r) = false) (o : RowOwn) :
    ∃ x, queueOwn s r o = setRow s r x ∧ x.own = (rowAt s r).own ++ [o] := by
  have waits : queueOwn s r o =
      settleReady (frameWaits (setRow s r { rowAt s r with own := (rowAt s r).own ++ [o] }) r) r := by
    rw [queueOwn, setOwn, open']
    rfl
  obtain ⟨ready, settled⟩ := settleReady_eq (frameWaits (setRow s r { rowAt s r with own := (rowAt s r).own ++ [o] }) r) r
  rw [waits, settled, frameWaits, rowAt_setRow_same, rowAt_setRow_same, setRow_setRow, setRow_setRow]
  exact ⟨_, rfl, rfl⟩

section Leaves

variable {s : State} {f : Flit} {t : Token} {net3 : Bool} (up : tileUp s 56 = true)
include up

theorem exec_tokenToRowFace_takes
    (head : takeHead s.weave 56 true (if net3 then 3 else 0) (rowTakesNow s) (rowTakesNow s) = some f)
    (msg : f.msg = .token t) :
    exec (.tokenToRowFace net3) s = .next (leaveByRow (taken s 56 true f) t (leavingFor f t)) := by
  rw [exec_tokenToRowFace, execTokenToRowFace, up, if_neg (by decide)]
  rw [head]
  dsimp only
  rw [msg]

theorem exec_tokenToRowFace_waits
    (head : takeHead s.weave 56 true (if net3 then 3 else 0) (rowTakesNow s) (rowTakesNow s) = none)
    (some' : (outAt s.weave (outKey 56 true (if net3 then 3 else 0))).any (rowTakes s) = true) :
    exec (.tokenToRowFace net3) s = .next s := by
  rw [exec_tokenToRowFace, execTokenToRowFace, up, if_neg (by decide)]
  rw [head]
  exact if_pos some'

end Leaves

theorem leavingFor_home {f : Flit} {t : Token} (none : sinkPort t.context = Option.none) (strand : f.origin = .strand) :
    leavingFor f t = .home f.home := by
  rw [leavingFor, none, strand]

/-- A token for a node on a port's side waits there. -/
theorem remoteToken_queued {s : State} {p : RowId} {home : BitVec 12} (assigned : nodeUnassigned s.straps = false)
    (on : rowOn s.straps p = true) (side : if p = .b then nodeId s.straps < home else home < nodeId s.straps) (t : Token) :
    remoteToken s home t = queueOwn s p (.token home t) := by
  have other : home ≠ nodeId s.straps := by
    rintro rfl
    split at side <;> exact absurd side (BitVec.lt_irrefl _)
  have toward : portToward s home = p := by
    rw [portToward]
    cases p with
    | a => exact if_neg (BitVec.not_lt.mpr (BitVec.le_of_lt side))
    | b => exact if_pos side
  rw [remoteToken]
  dsimp only
  rw [if_neg other, if_neg (by rw [assigned]; decide), toward, if_neg (by rw [on]; decide)]

/-! ## Link start and loss (R493 to R496) -/

/-- The port as a link loss leaves it. -/
def downed (P : RowPort) : RowPort :=
  { P with phyUp := false, heard := false, usable := false, training := !P.own.isEmpty || !P.fwd.isEmpty, helloDue := false
           linkDue := false, want := false, grace := P.grace || P.usable }

theorem rowDown_spec (s : State) (r : RowId) : ∃ counts, rowAt (rowDown s r) r = { downed (rowAt s r) with counts := counts } ∧
    mget 0 counts 6 = satAdd (mget 0 (rowAt s r).counts 6) (rowAt s r).usable.toNat ∧
    rowAt (rowDown s r) (otherRow r) = rowAt s (otherRow r) ∧
    ((rowAt s r).usable = false → s.stw.load = none → rowDown s r = setRow s r (rowAt (rowDown s r) r)) := by
  rcases Bool.eq_false_or_eq_true (rowAt s r).usable with usable | down
  · have downs : rowDown s r = abandonLoad (linkDownReport (setRow s r (rowCount (downed (rowAt s r)) 6 1)) r) (.row (isB r) 0) := by
      rw [rowDown, usable, if_pos rfl, downed, usable]
    obtain ⟨n, enters⟩ := nodeReport_enters (setRow s r (rowCount (downed (rowAt s r)) 6 1)) fRowDown 0xC
      (rowInfo r 0 (neighbourId (rowAt (setRow s r (rowCount (downed (rowAt s r)) 6 1)) r))) 0
    have rows : rowAt (rowDown s r) = rowAt (setRow s r (rowCount (downed (rowAt s r)) 6 1)) := by
      rw [downs, abandonLoad_loadOnly, linkDownReport, enters.shape]
      rfl
    rw [rows, rowAt_setRow_same, rowAt_setRow_other, usable]
    exact ⟨_, rfl, mget_bumpCount_same .., rfl, fun down => by cases down⟩
  · have downs : rowDown s r = abandonLoad (setRow s r (downed (rowAt s r))) (.row (isB r) 0) := by
      rw [rowDown, down, if_neg (by decide), downed, down]
    have rows : rowAt (rowDown s r) = rowAt (setRow s r (downed (rowAt s r))) := by
      rw [downs, abandonLoad_loadOnly]
      rfl
    rw [rows, rowAt_setRow_same, rowAt_setRow_other, down]
    refine ⟨(rowAt s r).counts, rfl, (satAdd_zero _).symm, rfl, fun _ none => ?_⟩
    rw [downs, abandonLoad, setRow_stw, none]

/-! ## The end of a grace (R495, R496) -/

/-- Tokens that wait for a link that is gone are converted. -/
theorem treatTokens_converted (r : RowId) {l : List RowOwn} (tokens : ∀ o ∈ l, ∃ d v, o = .token d v) (s : State) :
    Converted s (l.foldl (treatOwn r) s) r l.length := by
  induction l generalizing s with
  | nil => exact Converted.refl s r
  | cons o l ih =>
    obtain ⟨⟨d, v, rfl⟩, rest⟩ := List.forall_mem_cons.mp tokens
    rw [List.length_cons, Nat.add_comm]
    exact (convert_one s r fRowDown 0xC (rowInfo r 1 (neighbourId (rowAt s r))) (packTag (tokenTag v))).trans (ih rest _)

/-- The link of a port is reported down: nothing of the ports changes. -/
structure Reported (s t : State) (n : Nat) : Prop where
  bytes : SameBytes s.mem t.mem
  rows : rowAt t = rowAt s
  stw : t.stw = { s.stw with nodeSerial := t.stw.nodeSerial }
  silent : s.stw.started = false → t.weave = s.weave
  serial : s.stw.started = true → tagInLimit s (defaultHandler s) = true →
    t.stw.nodeSerial = s.stw.nodeSerial + BitVec.ofNat 16 n

theorem linkDownReport_reported (s : State) (r : RowId) : Reported s (linkDownReport s r) 1 := by
  obtain ⟨n, enters⟩ := nodeReport_enters s fRowDown 0xC (rowInfo r 0 (neighbourId (rowAt s r))) 0
  have steward : (linkDownReport s r).stw = { s.stw with nodeSerial := n } := enters.stw
  exact {
    bytes := enters.sameBytes
    rows := by rw [linkDownReport, enters.shape]; rfl
    stw := by rw [steward]
    silent := fun silent => by rw [linkDownReport, nodeReport_silent silent]
    serial := fun started limit => by rw [linkDownReport, nodeReport_counts started limit]; rfl }

theorem Reported.refl (s : State) : Reported s s 0 :=
  ⟨fun _ => rfl, rfl, rfl, fun _ => rfl, fun _ _ => (BitVec.add_zero _).symm⟩

theorem exec_rowGraceExpired_ends {s : State} {p : RowId} (up : rowUp s p = true) (grace : (rowAt s p).grace = true)
    (down : (rowAt s p).usable = false) (none : (rowAt s p).fwd = []) (tokens : ∀ o ∈ (rowAt s p).own, ∃ d v, o = .token d v) :
    ∃ u, exec (.rowGraceExpired p) s = .next u ∧ (rowAt u p).own = [] ∧ (rowAt u p).graceOver = true ∧
      (rowAt u p).grace = false ∧ mget 0 (rowAt u p).counts 7 = satAdd (mget 0 (rowAt s p).counts 7)
        (if s.stw.started then (rowAt s p).own.length else 0) ∧ SameBytes s.mem u.mem ∧
      (s.stw.started = false → u.weave = s.weave) ∧
      (s.stw.started = true → tagInLimit s (defaultHandler s) = true → u.stw.nodeSerial = s.stw.nodeSerial +
        BitVec.ofNat 16 ((rowAt s p).own.length + if (rowAt s p).everUp then 0 else 1)) := by
  have start (x : RowPort) : Reported (setRow s p x) (if x.everUp then setRow s p x else linkDownReport (setRow s p x) p)
      (if x.everUp then 0 else 1) := by
    split
    · exact Reported.refl _
    · exact linkDownReport_reported ..
  have reported := start { rowAt s p with grace := false, graceOver := true, fwd := [] }
  generalize ended : (if ({ rowAt s p with grace := false, graceOver := true, fwd := [] } : RowPort).everUp then
    setRow s p { rowAt s p with grace := false, graceOver := true, fwd := [] }
    else linkDownReport (setRow s p { rowAt s p with grace := false, graceOver := true, fwd := [] }) p) = t at reported
  have serves : exec (.rowGraceExpired p) s = .next (settleReady (treatWaiting t p) p) := by
    rw [exec_rowGraceExpired, execRowGraceExpired]
    dsimp only
    rw [if_neg (by rw [up]; decide), if_neg (by rw [grace, down]; decide), ended, none]
    rfl
  obtain ⟨bytes, rows, stw, silent, serial⟩ := reported
  rw [setRow_mem] at bytes
  rw [setRow_stw] at stw silent serial
  rw [setRow_weave] at silent
  rw [reportLimit_congr (s := s) (n := s.stw.nodeSerial) (setRow_stw ..)] at serial
  have port : rowAt t p = { rowAt s p with grace := false, graceOver := true, fwd := [] } := by rw [rows, rowAt_setRow_same]
  have own : (rowAt t p).own = (rowAt s p).own := by rw [port]
  have converted := treatTokens_converted p (l := (rowAt t p).own) (by rw [own]; exact tokens)
    (setRow t p { rowAt t p with own := [] })
  rw [own] at converted
  have settled : settleReady (treatWaiting t p) p = setRow (treatWaiting t p) p
      { rowAt (treatWaiting t p) p with ready := (rowAt (settleReady (treatWaiting t p) p) p).ready } := by
    obtain ⟨ready, settled⟩ := settleReady_eq (treatWaiting t p) p
    rw [settled, rowAt_setRow_same]
  have waiting : treatWaiting t p = (rowAt s p).own.foldl (treatOwn p) (setRow t p { rowAt t p with own := [] }) := by
    rw [treatWaiting, own]
  rw [← waiting] at converted
  have started : t.stw.started = s.stw.started := by rw [stw]
  have after := converted.port
  rw [rowAt_setRow_same, port] at after
  refine ⟨_, serves, ?_, ?_, ?_, ?_, fun x => ?_, fun quiet => ?_, fun begun limit => ?_⟩
  · rw [settled, rowAt_setRow_same, after]
  · rw [settled, rowAt_setRow_same, after]
  · rw [settled, rowAt_setRow_same, after]
  · have count := converted.count
    rw [rowAt_setRow_same, setRow_stw, started, port] at count
    rw [settled, rowAt_setRow_same]
    exact count
  · rw [settled, setRow_mem, converted.quiet.bytes x, setRow_mem, bytes x]
  · rw [settled, setRow_weave, (converted.silent (by rw [setRow_stw, started]; exact quiet)).1, setRow_weave, silent quiet]
  · have limit' : tagInLimit (setRow t p { rowAt t p with own := [] }) (defaultHandler (setRow t p { rowAt t p with own := [] })) = true := by
      rw [reportLimit_congr (s := t) (n := t.stw.nodeSerial) (setRow_stw ..), reportLimit_congr stw]
      exact limit
    rw [settled, setRow_stw, converted.serial (by rw [setRow_stw, started]; exact begun) limit', setRow_stw,
      serial begun limit, BitVec.add_assoc, ← BitVec.ofNat_add, Nat.add_comm]

end Sys2Proof.Machine

namespace Sys2Proof.RowSending

open Sys2Proof Sys2Proof.Machine

theorem hop_of {s u : State} {p : RowId} {w bs : List Byte} (h : Sent s u p w bs) : u.out = .row (isB p) w true :: s.out ∧
    half w 22 = grantLocal s p ∧ half w 24 = grantForward s p ∧ half w 26 = (rowAt u p).lnext ∧
    half w 28 = (rowAt u p).fnext ∧ u.mem = s.mem ∧ u.weave = s.weave ∧ rowAt u (otherRow p) = rowAt s (otherRow p) :=
  ⟨h.out, h.credits.1, h.credits.2.1, h.credits.2.2.1, h.credits.2.2.2, h.mem, h.weave, h.other⟩

/-- Settles O54: where a token that reaches the face waits, what a port sends at a frame boundary, and what starting and
losing its link changes. -/
theorem rowFramesSentAndLinks : Obligations.RowFramesSentAndLinks := by
  intro s p f t
  dsimp only
  refine ⟨fun net3 tile => ⟨fun head some' => exec_tokenToRowFace_waits tile head some', fun head msg => ?_⟩, fun up =>
    ⟨fun phy => ⟨fun due => ?_, fun noHello usable => ⟨fun due => ?_, fun noLink still => ⟨fun d none own ready credits => ?_,
      fun g none own ready long credits => ?_, fun g one ready long credits => ?_⟩⟩, ?_, ?_⟩, fun usable => ?_, fun down =>
      ⟨fun started => ?_, fun training => ?_⟩, fun grace down none tokens =>
        exec_rowGraceExpired_ends up grace down none tokens⟩⟩
  · have serves := exec_tokenToRowFace_takes tile head msg
    have rows (q : RowId) : rowAt (taken s 56 true f) q = rowAt s q := rfl
    refine ⟨fun open' => ?_, fun home strand mine started limit => ?_⟩
    · have before : graceGone (rowAt (taken s 56 true f) p) = false := by
        rw [rows, graceGone]
        rcases open' with h | h <;> simp [h]
      have waits (o : RowOwn) (leaves : leaveByRow (taken s 56 true f) t (leavingFor f t) = queueOwn (taken s 56 true f) p o) :
          ∃ u, exec (.tokenToRowFace net3) s = .next u ∧ (u.weave = (taken s 56 true f).weave ∧ u.mem = s.mem ∧ u.stw = s.stw) ∧
            (rowAt u p).own = (rowAt s p).own ++ [o] := by
        obtain ⟨x, queued, own⟩ := queueOwn_open before o
        rw [leaves, queued] at serves
        exact ⟨_, serves, ⟨setRow_weave .., setRow_mem .., setRow_stw ..⟩, by rw [rowAt_setRow_same, own, rows]⟩
      refine ⟨fun sink => waits _ (by rw [leavingFor, sink]; rfl), fun home strand assigned on side => waits _ ?_,
        fun node zero origin none => ?_⟩
      · rw [leavingFor_home home strand]
        exact remoteToken_queued (s := taken s 56 true f) assigned on side t
      · have zeroth : sinkPort t.context = Option.none := by rw [zero]; rfl
        have leaves : leavingFor f t = .answer p node := by
          rw [leavingFor, zeroth, origin]
          cases p <;> exact if_pos zero
        have first : leaveByRow (taken s 56 true f) t (leavingFor f t) =
            queueOwn (taken s 56 true f) p (.answer node (t.value.extractLsb' 8 16).toNat [t]) := by
          rw [leaves, leaveByRow, collectAnswer, rows, none]
          rfl
        obtain ⟨u, steps, stays, own⟩ := waits _ first
        exact ⟨u, steps, stays, by rw [own, none]; rfl⟩
    · rw [leavingFor_home home strand, leaveByRow, remoteToken] at serves
      dsimp only at serves
      rw [if_pos (show f.home = nodeId (taken s 56 true f).straps from mine)] at serves
      obtain ⟨n, enters⟩ := nodeReport_enters (taken s 56 true f) fRemote 0xB (rowInfo .a 0 f.home) (packTag (tokenTag t))
      refine ⟨_, serves, ?_, ?_, ?_⟩
      · rw [nodeReport_counts (s := taken s 56 true f) started limit]
        rfl
      · rw [enters.rowA]; rfl
      · rw [enters.rowB]; rfl
  · have serves := exec_rowFrameSend_hello up phy due
    obtain ⟨type, want, seen, dst, src, len, length, -⟩ := rowFrame_spec s (rowAt s p) 6 none (rowAt s p).heard false
      (payload := []) (by decide)
    obtain ⟨w, ready, sent, port⟩ := sendRow_sent (s := s) (r := p) (x := { rowAt s p with helloDue := false }) rfl rfl rfl rfl rfl
      (bs := rowFrame s (rowAt s p) 6 none (rowAt s p).heard false []) (by rw [length]; decide) 0 0
    refine ⟨_, serves, w, hop_of sent, ?_⟩
    rw [port, rfType, rfNoDst, rfSrc, rfFlags, byteAt_of_take sent.front (by decide), byteAt_of_take sent.front (by decide),
      half_of_take sent.front (by decide), half_of_take sent.front (by decide), sent.length, length, dst]
    exact ⟨type, rfl, src, seen, rfl, rfl, BitVec.add_zero _, BitVec.add_zero _⟩
  · have serves := exec_rowFrameSend_link up phy noHello usable due
    obtain ⟨type, want, seen, dst, src, len, length, -⟩ := rowFrame_spec s (rowAt s p) 5 none false false
      (payload := []) (by decide)
    obtain ⟨w, ready, sent, port⟩ := sendRow_sent (s := s) (r := p) (x := { rowAt s p with linkDue := false }) rfl rfl rfl rfl rfl
      (bs := rowFrame s (rowAt s p) 5 none false false []) (by rw [length]; decide) 0 0
    refine ⟨_, serves, w, hop_of sent, ?_⟩
    rw [port, rfType, byteAt_of_take sent.front (by decide)]
    exact ⟨type, rfl, BitVec.add_zero _, rfl, rfl⟩
  · have serves := exec_rowFrameSend_own up phy noHello usable noLink still none ready
    obtain ⟨k, some'⟩ : ∃ k, tokensAdmitted (rowAt s p) d = k + 1 := Nat.exists_eq_succ_of_ne_zero credits
    have one : sameDst d (tokensAdmitted (rowAt s p) d) (rowAt s p).own = [.token d t] := by
      rw [some', own, sameDst, if_pos rfl, sameDst]
    have bytes : (tokensOf [.token d t]).flatMap (wireToken s) = wireToken s t := List.append_nil _
    have twenty : (wireToken s t).length = 20 := tokenBytes_length _
    obtain ⟨type, want, seen, dst, src, len, length, payload⟩ := rowFrame_spec s (rowAt s p) 1 (some d) false false
      (payload := wireToken s t) (by rw [twenty]; decide)
    rw [sendOwn] at serves
    dsimp only at serves
    rw [one, bytes] at serves
    have named : rfDst (rowFrame s (rowAt s p) 1 (some d) false false (wireToken s t)) = d := by
      rw [rfDst, dst, dstField, BitVec.setWidth_setWidth_of_le _ (by decide), BitVec.setWidth_eq]
    obtain ⟨w, left, tokens, blocks, sent, port, local', away⟩ := sendAddressed_sent (s := s) (r := p)
      (x := { rowAt s p with own := eraseAll (rowAt s p).own [.token d t], ready := eraseAll (rowAt s p).ready [.token d t]
                             fwdTurn := true })
      rfl rfl rfl rfl rfl rfl (bs := rowFrame s (rowAt s p) 1 (some d) false false (wireToken s t))
      (by rw [length, twenty]; decide)
    rw [named, len, twenty] at local'
    rw [named, rfBlocks, length, twenty] at away
    refine ⟨_, serves, w, hop_of sent, ?_⟩
    rw [port, rfType, rfDst, rfSrc, rfFlags, byteAt_of_take sent.front (by decide), byteAt_of_take sent.front (by decide),
      half_of_take sent.front (by decide), half_of_take sent.front (by decide)]
    refine ⟨type, named, src, want, ?_, ?_, fun pool => ?_, fun pool => ?_⟩
    · have length' : rfLen w = 20 := by
        rw [rfLen, half_of_take sent.front (by decide)]
        exact len.trans twenty
      rw [rfTokens, rfPayload, length', sent.back, ← twenty, payload]
      exact (congrArg (tokensOfBytes 64) (List.append_nil _).symm).trans
        (tokensOfBytes_tokenBytes [{ t with deadline := offsetOf s t.deadline }] (Nat.le_add_left 1 63))
    · show eraseAll (rowAt s p).own _ = []
      rw [own]
      exact List.erase_cons_head ..
    · obtain ⟨rfl, rfl⟩ := local' pool
      exact ⟨rfl, BitVec.add_zero _⟩
    · obtain ⟨rfl, rfl⟩ := away pool
      exact ⟨BitVec.add_zero _, rfl⟩
  · have serves := exec_rowFrameSend_own up phy noHello usable noLink still none ready
    obtain ⟨length, front, back, want⟩ := markWant_spec (rowAt s p) long
    obtain ⟨w, left, tokens, blocks, sent, port, -, -⟩ := sendAddressed_sent (s := s) (r := p)
      (x := { rowAt s p with own := eraseAll (rowAt s p).own [.undeliverable g]
                             ready := eraseAll (rowAt s p).ready [.undeliverable g], fwdTurn := true })
      rfl rfl rfl rfl rfl rfl (bs := markWant (rowAt s p) g) (by omega)
    refine ⟨_, serves, w, hop_of sent, ?_⟩
    have head : w.take 15 = g.take 15 := by
      have cut (l : List Byte) : l.take 15 = (l.take 22).take 15 := by rw [List.take_take]; rfl
      rw [cut w, sent.front, ← cut, front]
    refine ⟨head, ?_, sent.back.trans back, ?_⟩
    · rw [rfFlags, byteAt_of_take sent.front (by decide)]
      exact want
    · show (rowAt (settleReady (sendAddressed _ p _ true) p) p).own = []
      rw [port]
      show eraseAll (rowAt s p).own _ = []
      rw [own]
      exact List.erase_cons_head ..
  · have serves := exec_rowFrameSend_forward up phy noHello usable noLink still one ready credits
    obtain ⟨w, left, tokens, blocks, sent, port, -, -⟩ := sendAddressed_sent (s := s) (r := p)
      (x := rowCount { rowAt s p with fwd := (rowAt s p).fwd.erase g, fwdTurn := false } 2 1)
      rfl rfl rfl rfl rfl rfl (bs := g) (by omega)
    refine ⟨_, serves, w, hop_of sent, sent.front, sent.back, ?_⟩
    rw [sendForward, port]
    exact ⟨by rw [charged, rowCount, one]; exact List.erase_cons_head .., mget_bumpCount_same ..⟩
  · exact (exec_rowHelloTimer p s).trans ((if_neg (by rw [up]; decide)).trans (if_neg (by rw [phy]; decide)))
  · have serves : exec (.rowLinkLoss p) s = .next (rowDown s p) := by
      rw [exec_rowLinkLoss, execRowLinkLoss, up, phy]; rfl
    obtain ⟨counts, port, losses, other, only⟩ := rowDown_spec s p
    refine ⟨_, serves, ?_⟩
    dsimp only
    rw [port]
    rw [port] at only
    exact ⟨rfl, rfl, rfl, rfl, rfl, rfl, losses, other, only⟩
  · exact (exec_rowLinkFrameDue p s).trans ((if_neg (by rw [up]; decide)).trans (if_neg (by rw [usable]; decide)))
  · exact (exec_neighbourTrainingDetected p s).trans (if_neg (by rw [up, started, down]; decide))
  · have serves := (exec_rowPhyLinkUp p s).trans ((if_neg (by rw [up]; decide)).trans
      (if_neg (by rw [training, down]; decide)))
    obtain ⟨ready, settled⟩ := settleReady_eq (setRow s p { rowAt s p with
      phyUp := true, heard := false, lr := 0, fr := 0, lnext := 0, fnext := 0, nLcredit := 0, nFcredit := 0
      gLcredit := 0, gFcredit := 0, limit := 0 }) p
    rw [settled, setRow_setRow] at serves
    simp only [rowAt_setRow_same] at serves
    refine ⟨_, serves, by rw [rowAt_setRow_same], ?_⟩
    rw [rowAt_setRow_same]
    exact ⟨rfl, rfl, rfl, rfl, rfl, rfl, rfl, rfl⟩

end Sys2Proof.RowSending
end

/-! # The logic side of the selvedge (R511 to R534) -/

section
namespace Sys2Proof.Machine

open Sys2Proof

theorem exec_downlinkFrame (s) : exec .downlinkFrame s = execDownlinkFrame s := rfl
theorem exec_uplinkFrameReceive (good s) : exec (.uplinkFrameReceive good) s = execUplinkFrameReceive good s := rfl
theorem exec_selvedgeLinkDown (s) : exec .selvedgeLinkDown s = execSelvedgeLinkDown s := rfl

/-! ## FIELD_OUT words (R528) -/

/-- The six commands apply a word of their own type. -/
theorem exec_fieldWord {e : Instr × BitVec 4} (mem : e ∈ ([(.fieldOutputWord, 1), (.fieldReportWord, 2), (.fieldNotifyWord, 3),
      (.fieldSafeWord, 4), (.fieldQueryWord, 5), (.fieldNopWord, 0)] : List (Instr × BitVec 4))) :
    ∃ p : BitVec 4 → Bool, p e.2 = true ∧ ∀ s, exec e.1 s = applyNext p s := by
  simp only [List.mem_cons, List.not_mem_nil, or_false] at mem
  rcases mem with rfl | rfl | rfl | rfl | rfl | rfl
  · exact ⟨(· == 1), rfl, fun _ => rfl⟩
  · exact ⟨(· == 2), rfl, fun _ => rfl⟩
  · exact ⟨(· == 3), rfl, fun _ => rfl⟩
  · exact ⟨(· == 4), rfl, fun _ => rfl⟩
  · exact ⟨(· == 5), rfl, fun _ => rfl⟩
  · exact ⟨fun t => t == 0 || decide (6 ≤ t.toNat), rfl, fun _ => rfl⟩

section
variable {s : State} {p : BitVec 4 → Bool} {w : W64} {rest : List W64}

theorem applyNext_front (up : selUp s = true) (front : s.streams.fieldOut = w :: rest) (own : p (wordType w) = true) :
    applyNext p s = if 4 ≤ s.sel.applied then .next s else if wordReserved w then unpredictable 23 s else
      .next { s with streams := { s.streams with fieldOut := rest }
                     sel := { applyWord s.sel w with applied := s.sel.applied + 1 } } := by
  rw [applyNext, up, front]
  have taken : ¬ (!p (wordType w)) = true := by rw [own]; decide
  exact if_neg taken

theorem applyNext_applies (up : selUp s = true) (front : s.streams.fieldOut = w :: rest) (own : p (wordType w) = true)
    (room : s.sel.applied < 4) (legal : wordReserved w = false) :
    applyNext p s = .next { s with streams := { s.streams with fieldOut := rest }
                                   sel := { applyWord s.sel w with applied := s.sel.applied + 1 } } := by
  rw [applyNext_front up front own, if_neg (by omega), if_neg (by rw [legal]; decide)]

end

theorem applyWord_of_type (x : Sel) {w : W64} {t : BitVec 4} (type : wordType w = t) :
    applyWord x w = match t.toNat with
      | 0 => x
      | 1 => { x with c := (x.c &&& ~~~ w.extractLsb' 16 16) ||| (w.setWidth 16 &&& w.extractLsb' 16 16) }
      | 2 => { x with period := w.extractLsb' 24 4, mask := w.setWidth 24 }
      | 3 => { x with nctx := w.extractLsb' 46 14, ncell := w.extractLsb' 38 8, niaddr := w.extractLsb' 24 14
                      nmask := w.setWidth 24 }
      | 4 => { x with safeWord := true }
      | 5 => { x with query := true }
      | _ => { x with wordErrs := satAdd x.wordErrs 1 } := by
  rw [applyWord, type] <;> rfl

theorem applyWord_reserved (x : Sel) {w : W64} (type : 6 ≤ (wordType w).toNat) :
    applyWord x w = { x with wordErrs := satAdd x.wordErrs 1 } := by
  rw [applyWord]
  split
  case h_7 => rfl
  all_goals omega

/-- A masked write of C, bit by bit. -/
theorem masked_bit (c : BitVec 16) (w : W64) {k : Nat} (small : k < 16) :
    ((c &&& ~~~ w.extractLsb' 16 16) ||| (w.setWidth 16 &&& w.extractLsb' 16 16)).getLsbD k =
      if w.getLsbD (16 + k) then w.getLsbD k else c.getLsbD k := by
  simp only [BitVec.getLsbD_or, BitVec.getLsbD_and, BitVec.getLsbD_not, BitVec.getLsbD_extractLsb', BitVec.getLsbD_setWidth,
    small, decide_true, Bool.true_and]
  cases w.getLsbD (16 + k) <;> simp

theorem setWidth_eq_low24 (w : W64) : w.setWidth 24 = w.extractLsb' 0 24 := by
  ext i
  simp

/-! ## Downlink frames (R526 to R528) -/

/-- What the words of a frame leave as it was. -/
structure WordsKeep (x y : Sel) (safe : Bool) : Prop where
  frame : y.frame = x.frame
  safeLeft : y.safeLeft = x.safeLeft
  relLeft : y.relLeft = x.relLeft
  inputs : y.inputs = x.inputs
  wins : y.wins = x.wins
  winPeriod : y.winPeriod = x.winPeriod
  winMask : y.winMask = x.winMask
  safeWord : y.safeWord = (x.safeWord || safe)

theorem applyWord_keeps (x : Sel) (w : W64) : WordsKeep x (applyWord x w) (wordType w == 4) := by
  have safe : (wordType w == 4) = decide ((wordType w).toNat = 4) :=
    decide_eq_decide.mpr ⟨fun h => by rw [h]; rfl, fun h => BitVec.eq_of_toNat_eq h⟩
  rw [safe, applyWord]
  generalize (wordType w).toNat = t
  split <;> constructor <;> simp_all

theorem WordsKeep.foldl (ws : List W64) (x : Sel) : WordsKeep x (ws.foldl applyWord x) (ws.any fun w => wordType w == 4) := by
  induction ws generalizing x with
  | nil => exact ⟨rfl, rfl, rfl, rfl, rfl, rfl, rfl, (Bool.or_false _).symm⟩
  | cons w ws ih =>
    have first := applyWord_keeps x w
    have others := ih (applyWord x w)
    exact {
      frame := others.frame.trans first.frame
      safeLeft := others.safeLeft.trans first.safeLeft
      relLeft := others.relLeft.trans first.relLeft
      inputs := others.inputs.trans first.inputs
      wins := others.wins.trans first.wins
      winPeriod := others.winPeriod.trans first.winPeriod
      winMask := others.winMask.trans first.winMask
      safeWord := by rw [List.foldl_cons, others.safeWord, first.safeWord, List.any_cons, Bool.or_assoc] }

/-- A frame applies the oldest words, as many as it has room for. -/
theorem applyRest_eq (n : Nat) (x : Sel) (ws : List W64) : applyRest n x ws = ((ws.take n).foldl applyWord x, ws.drop n) := by
  induction ws generalizing n x with
  | nil => cases n <;> rfl
  | cons w ws ih =>
    cases n with
    | zero => rfl
    | succ n => exact ih n (applyWord x w)

/-- The settings of the logic side once the frame has applied its words. -/
def framed (s : State) : Sel := (s.streams.fieldOut.take (4 - s.sel.applied)).foldl applyWord s.sel

theorem framed_keeps (s : State) : WordsKeep s.sel (framed s)
    ((s.streams.fieldOut.take (4 - s.sel.applied)).any fun w => wordType w == 4) := WordsKeep.foldl ..

theorem sendDownlink_eq (s : State) : sendDownlink s = { s with
    streams := { s.streams with fieldOut := s.streams.fieldOut.drop (4 - s.sel.applied) }
    sel := { framed s with
      frame := (framed s).frame + 1, applied := 0, safeWord := false, safeLeft := (framed s).safeLeft - 1
      relLeft := (framed s).relLeft - 1, wins := winsDue (framed s), winPeriod := (framed s).period
      winMask := (framed s).mask, down := some ⟨(framed s).frame.setWidth 16, (framed s).c,
        safeReqNow { s with sel := framed s }, decide (0 < (framed s).relLeft)⟩ }
    stw := { s.stw with release := s.stw.release.map fun r => (r.1, r.2 + 1) }
    pwr := { s.pwr with safeSent := if inDescent s.pwr then s.pwr.safeSent + 1 else s.pwr.safeSent } } := by
  rw [sendDownlink, applyRest_eq]
  rfl

/-! ## What the logic side tells (R530 to R534) -/

/-- A word placed in the present beat. -/
def fieldEvent (b : BitVec 48) (rank : Nat) (w : W64) : OutEvent := ⟨b, rank, 0, false, .fieldWord w⟩

/-- The first state goes on to the second by events alone, and by reports and answers that enter the weave: the logic side
keeps its counts and settings. -/
structure Tells (s t : State) (es : List OutEvent) : Prop where
  time : t.time = { s.time with held := s.time.held ++ es }
  sel : t.sel = { s.sel with serial := t.sel.serial, inputs := t.sel.inputs }
  counts : ∀ i, (mget SelInput.clear t.sel.inputs i).prev = (mget SelInput.clear s.sel.inputs i).prev ∧
    (mget SelInput.clear t.sel.inputs i).cum = (mget SelInput.clear s.sel.inputs i).cum
  bytes : SameBytes s.mem t.mem
  fd : t.fd = s.fd
  streams : t.streams = s.streams
  release : t.stw.release = s.stw.release

theorem Tells.refl (s : State) : Tells s s [] :=
  ⟨by rw [List.append_nil], rfl, fun _ => ⟨rfl, rfl⟩, fun _ => rfl, rfl, rfl, rfl⟩

theorem Tells.trans {s t u : State} {es fs : List OutEvent} (h : Tells s t es) (g : Tells t u fs) : Tells s u (es ++ fs) where
  time := by rw [g.time, h.time, List.append_assoc]
  sel := by rw [g.sel, h.sel]
  counts i := ⟨(g.counts i).1.trans (h.counts i).1, (g.counts i).2.trans (h.counts i).2⟩
  bytes x := (g.bytes x).trans (h.bytes x)
  fd := g.fd.trans h.fd
  streams := g.streams.trans h.streams
  release := g.release.trans h.release

theorem Tells.beat {s t : State} {es : List OutEvent} (h : Tells s t es) : t.time.beat = s.time.beat := by rw [h.time]

theorem Tells.nctx {s t : State} {es : List OutEvent} (h : Tells s t es) : t.sel.nctx = s.sel.nctx := by rw [h.sel]

theorem placeWord_tells (rank : Nat) (s : State) (w : W64) : Tells s (placeWord rank s w) [fieldEvent s.time.beat rank w] :=
  ⟨rfl, rfl, fun _ => ⟨rfl, rfl⟩, fun _ => rfl, rfl, rfl, rfl⟩

theorem placeWords_tells (rank : Nat) (ws : List W64) (s : State) :
    Tells s (ws.foldl (placeWord rank) s) (ws.map (fieldEvent s.time.beat rank)) := by
  induction ws generalizing s with
  | nil => exact Tells.refl s
  | cons w ws ih => exact (placeWord_tells rank s w).trans (ih (placeWord rank s w))

/-- A notice is one event, and with no notice tag none. -/
theorem placeNotice_tells (rank : Nat) (s : State) (v : W64) :
    ∃ es, Tells s (placeNotice rank s v) es ∧ (s.sel.nctx = 0 → es = []) := by
  rw [placeNotice]
  split
  · rename_i noticed
    refine ⟨_, ⟨rfl, rfl, fun _ => ⟨rfl, rfl⟩, fun _ => rfl, rfl, rfl, rfl⟩, fun none => ?_⟩
    rw [none] at noticed
    exact absurd noticed (by simp)
  · exact ⟨[], Tells.refl s, fun _ => rfl⟩

theorem placeNotices_tells (rank : Nat) (vs : List W64) (s : State) :
    ∃ es, Tells s (vs.foldl (placeNotice rank) s) es ∧ (s.sel.nctx = 0 → es = []) := by
  induction vs generalizing s with
  | nil => exact ⟨[], Tells.refl s, fun _ => rfl⟩
  | cons v vs ih =>
    obtain ⟨es, first, silent⟩ := placeNotice_tells rank s v
    obtain ⟨fs, others, silent'⟩ := ih (placeNotice rank s v)
    exact ⟨_, first.trans others, fun none => by rw [silent none, silent' (first.nctx.trans none)]; rfl⟩

theorem safetyEvent_tells (s : State) (status : W64) (strap : Option W64) :
    ∃ es, Tells s (safetyEvent s status strap) es ∧
      (s.sel.nctx = 0 → es = (status :: strap.toList).map (fieldEvent s.time.beat 2)) := by
  have words := placeWords_tells 2 (status :: strap.toList) s
  obtain ⟨fs, notice, silent⟩ := placeNotice_tells 2 ((status :: strap.toList).foldl (placeWord 2) s) status
  refine ⟨(status :: strap.toList).map (fieldEvent s.time.beat 2) ++ fs, ?_, fun none => ?_⟩
  · cases strap <;> exact words.trans notice
  · rw [silent (words.nctx.trans none), List.append_nil]

/-- A safety event changes neither steward nor weave, and no input. -/
theorem safetyEvent_keeps (s : State) (status : W64) (strap : Option W64) :
    (safetyEvent s status strap).stw = s.stw ∧ (safetyEvent s status strap).weave = s.weave ∧
      (safetyEvent s status strap).sel.inputs = s.sel.inputs := by
  have keeps (t : State) : (placeNotice 2 t status).stw = t.stw ∧ (placeNotice 2 t status).weave = t.weave ∧
      (placeNotice 2 t status).sel.inputs = t.sel.inputs := by
    rw [placeNotice]
    split <;> exact ⟨rfl, rfl, rfl⟩
  cases strap <;> exact keeps _

theorem safeEntered_tells (s : State) (u : Uplink) (state cause : BitVec 2) : Tells s (safeEntered s u state cause) [] := by
  obtain ⟨n, enters⟩ := nodeReport_enters s fFieldSafe 0xD ((0 : BitVec 16) ++ u.on ++ (0 : BitVec 12) ++ cause ++ state) 0
  refine ⟨?_, ?_, fun i => ?_, enters.sameBytes, enters.fd, enters.streams, ?_⟩
  · rw [List.append_nil]; exact enters.time
  · rw [safeEntered, enters.sel]
  · rw [safeEntered, enters.sel]; exact ⟨rfl, rfl⟩
  · rw [safeEntered, enters.stw]

/-- The end of an interval keeps an input's counts (R530). -/
theorem endIntervals_counts (mask : BitVec 24) (m : List (Nat × SelInput)) (i : Nat) :
    (mget SelInput.clear (endIntervals mask m) i).prev = (mget SelInput.clear m i).prev ∧
      (mget SelInput.clear (endIntervals mask m) i).cum = (mget SelInput.clear m i).cum := by
  rw [endIntervals]
  generalize (List.range 24).filter mask.getLsbD = ks
  induction ks generalizing m with
  | nil => exact ⟨rfl, rfl⟩
  | cons k ks ih =>
    rw [List.foldl_cons, (ih _).1, (ih _).2, mget_mset]
    split
    · rename_i same; rw [same]; exact ⟨rfl, rfl⟩
    · exact ⟨rfl, rfl⟩

/-- The events of one report: header, status, and a word for each input of its mask. -/
def reportEvents (b : BitVec 48) (frame : BitVec 32) (status : W64) (channels : List W64) : List OutEvent :=
  fieldEvent b 3 (headerWord frame b) :: fieldEvent b 3 status :: channels.map (fieldEvent b 3)

theorem makeReport_tells (u : Uplink) (frame : BitVec 32) (s : State) (w : BitVec 32 × BitVec 4 × BitVec 24) :
    ∃ cs : List W64, cs.length = ((List.range 24).filter w.2.2.getLsbD).length ∧
      Tells s (makeReport u frame s w) (reportEvents s.time.beat frame (statusOf u u.state) cs) := by
  obtain ⟨time, sel, counts, bytes, fd, streams, release⟩ := placeWords_tells 3 (reportWords s u frame w.2.2) s
  refine ⟨((List.range 24).filter w.2.2.getLsbD).map fun i =>
    channelWord i (u.inputs.getD i UpInput.clear) (mget SelInput.clear s.sel.inputs i), List.length_map .., ?_⟩
  rw [makeReport]
  refine ⟨time, by rw [setSel, sel], fun i => ?_, bytes, fd, streams, release⟩
  have ended := endIntervals_counts w.2.2 ((reportWords s u frame w.2.2).foldl (placeWord 3) s).sel.inputs i
  exact ⟨ended.1.trans (counts i).1, ended.2.trans (counts i).2⟩

theorem makeReports_tells (u : Uplink) (frame : BitVec 32) (ws : List (BitVec 32 × BitVec 4 × BitVec 24)) (s : State) :
    ∃ css : List (List W64), css.length = ws.length ∧
      (∀ e ∈ css.zip ws, e.1.length = ((List.range 24).filter e.2.2.2.getLsbD).length) ∧
      Tells s (ws.foldl (makeReport u frame) s)
        ((css.zip ws).flatMap fun e => reportEvents s.time.beat frame (statusOf u u.state) e.1) := by
  induction ws generalizing s with
  | nil => exact ⟨[], rfl, fun e mem => absurd mem List.not_mem_nil, Tells.refl s⟩
  | cons w ws ih =>
    obtain ⟨cs, count, first⟩ := makeReport_tells u frame s w
    obtain ⟨css, length, counts, others⟩ := ih (makeReport u frame s w)
    rw [first.beat] at others
    exact ⟨cs :: css, congrArg (· + 1) length, List.forall_mem_cons.mpr ⟨count, counts⟩, first.trans others⟩

end Sys2Proof.Machine
end

/-! # Uplink frames taken, and loss of the selvedge link (R514, R517, R530 to R534) -/

section
namespace Sys2Proof.Machine

open Sys2Proof

/-! ## The counts of a good frame (R517) -/

theorem takeInput_counts (base lost : Bool) (frame : BitVec 32) (free : BitVec 27) (u : UpInput) (x : SelInput) :
    (takeInput base lost frame free u x).prev = u.count ∧
      (takeInput base lost frame free u x).cum = if base then x.cum else x.cum + (u.count - x.prev).setWidth 24 := by
  cases base <;> exact ⟨rfl, rfl⟩

theorem takeInputs_from (base lost : Bool) (frame : BitVec 32) (free : Nat → BitVec 27) (us : List UpInput) (k : Nat)
    (m : List (Nat × SelInput)) (i : Nat) :
    mget SelInput.clear ((us.zipIdx k).foldl (fun m e => mset SelInput.clear m e.2
        (takeInput base lost frame (free e.2) e.1 (mget SelInput.clear m e.2))) m) i =
      if k ≤ i ∧ i < k + us.length then
        takeInput base lost frame (free i) (us.getD (i - k) UpInput.clear) (mget SelInput.clear m i)
      else mget SelInput.clear m i := by
  induction us generalizing k m with
  | nil => rw [if_neg (by simp)]; rfl
  | cons u us ih =>
    rw [List.zipIdx_cons, List.foldl_cons, ih, mget_mset]
    obtain rfl | other := eq_or_ne k i
    · rw [if_neg (by omega), if_pos rfl, if_pos (by simp), Nat.sub_self]
      rfl
    · rw [if_neg other]
      by_cases later : k + 1 ≤ i ∧ i < k + 1 + us.length
      · have index : i - k = i - (k + 1) + 1 := by omega
        rw [if_pos later, if_pos ⟨by omega, by simp; omega⟩, index]
        rfl
      · rw [if_neg later, if_neg (by simp; omega)]

theorem takeInputs_counts (base lost : Bool) (frame : BitVec 32) (free : Nat → BitVec 27) {us : List UpInput}
    (m : List (Nat × SelInput)) {i : Nat} (small : i < us.length) :
    let a := mget SelInput.clear (takeInputs base lost frame free us m) i
    let b := mget SelInput.clear m i
    let n := (us.getD i UpInput.clear).count
    a.prev = n ∧ a.cum = if base then b.cum else b.cum + (n - b.prev).setWidth 24 := by
  dsimp only
  rw [takeInputs, takeInputs_from, if_pos ⟨Nat.zero_le i, by omega⟩, Nat.sub_zero]
  exact takeInput_counts ..

/-- What a good frame leaves of one input's counts. -/
theorem takeUplink_counts (s : State) {u : Uplink} (length : u.inputs.length = 24) {i : Nat} (small : i < 24) :
    let a := mget SelInput.clear (takeUplink s u).sel.inputs i
    let b := mget SelInput.clear s.sel.inputs i
    let n := (u.inputs.getD i UpInput.clear).count
    a.prev = n ∧ a.cum = if s.sel.linkUp then b.cum + (n - b.prev).setWidth 24 else b.cum := by
  dsimp only
  have counts := takeInputs_counts (!s.sel.linkUp) (match s.sel.lastFrame with
      | some l => l + 1 != windowOfEcho s.sel u.echo
      | none => false) (windowOfEcho s.sel u.echo)
    (fun i => (Config.freeValue (s.freeCounter + i)).setWidth 27) s.sel.inputs (length.symm ▸ small)
  refine ⟨counts.1, counts.2.trans ?_⟩
  cases s.sel.linkUp <;> rfl

/-! ## What is told of a good frame -/

/-- The status of a good frame, told where the link starts and where it has changed. -/
def statusTold (s : State) (u : Uplink) : State :=
  match s.sel.linkUp, s.sel.last with
  | true, some v =>
    let t := if statusDiffers v u then safetyEvent (takeUplink s u) (statusOf u u.state) none else takeUplink s u
    if v.state = 2 ∧ u.state = 1 then safeEntered t v u.state u.cause else t
  | _, _ => safetyEvent (takeUplink s u) (statusOf u u.state) (some (strapWord u))

/-- The reports of a good frame's windows, and the words that a QUERY asked for. -/
def reportsTold (s : State) (u : Uplink) : State :=
  let frame := windowOfEcho s.sel u.echo
  let t := (s.sel.wins.filter (windowPast frame)).foldl (makeReport u frame) (statusTold s u)
  if s.sel.query then [statusOf u u.state, strapWord u].foldl (placeWord 3) t else t

/-- All that is told of a good frame but answers. -/
def uplinkTold (s : State) (u : Uplink) : State :=
  (noticeValues (takeUplink s u).sel s.sel.last u).foldl (placeNotice 3) (reportsTold s u)

theorem goodUplink_eq (s : State) (u : Uplink) : goodUplink s u =
    if u.state = 2 then answerReleases (answerReleases (uplinkTold s u) stRefused releaseLate) stOk (fun _ => true)
    else uplinkTold s u := by
  rw [goodUplink, uplinkTold, reportsTold, statusTold]
  dsimp only
  cases s.sel.linkUp
  · rfl
  · cases s.sel.last <;> rfl

/-- The status events of a good frame: STATUS and STRAP words as the link starts, a STATUS word on a change. -/
def statusEvents (s : State) (u : Uplink) : List OutEvent :=
  match s.sel.linkUp, s.sel.last with
  | true, some v => if statusDiffers v u then [fieldEvent s.time.beat 2 (statusOf u u.state)] else []
  | _, _ => [fieldEvent s.time.beat 2 (statusOf u u.state), fieldEvent s.time.beat 2 (strapWord u)]

theorem statusTold_tells (s : State) (u : Uplink) :
    ∃ es, Tells (takeUplink s u) (statusTold s u) es ∧ (s.sel.nctx = 0 → es = statusEvents s u) := by
  have starts := safetyEvent_tells (takeUplink s u) (statusOf u u.state) (some (strapWord u))
  rw [statusTold, statusEvents]
  cases s.sel.linkUp
  · exact starts
  · cases s.sel.last with
    | none => exact starts
    | some v =>
      have status : ∃ es, Tells (takeUplink s u) (if statusDiffers v u then
            safetyEvent (takeUplink s u) (statusOf u u.state) none else takeUplink s u) es ∧
          (s.sel.nctx = 0 → es = if statusDiffers v u then [fieldEvent s.time.beat 2 (statusOf u u.state)] else []) := by
        split
        · exact safetyEvent_tells (takeUplink s u) (statusOf u u.state) none
        · exact ⟨[], Tells.refl _, fun _ => rfl⟩
      obtain ⟨es, told, silent⟩ := status
      dsimp only
      split
      · exact ⟨es ++ [], told.trans (safeEntered_tells ..), fun none => (List.append_nil _).trans (silent none)⟩
      · exact ⟨es, told, silent⟩

theorem uplinkTold_tells (s : State) (u : Uplink) :
    let due := s.sel.wins.filter (windowPast (windowOfEcho s.sel u.echo))
    ∃ (css : List (List W64)) (es : List OutEvent), css.length = due.length ∧
      (∀ e ∈ css.zip due, e.1.length = ((List.range 24).filter e.2.2.2.getLsbD).length) ∧
      Tells (takeUplink s u) (uplinkTold s u) es ∧
      (s.sel.query = false → s.sel.nctx = 0 → es = statusEvents s u ++ (css.zip due).flatMap fun e =>
        reportEvents s.time.beat (windowOfEcho s.sel u.echo) (statusOf u u.state) e.1) := by
  intro due
  obtain ⟨es, status, silent⟩ := statusTold_tells s u
  obtain ⟨css, length, counts, reports⟩ := makeReports_tells u (windowOfEcho s.sel u.echo) due (statusTold s u)
  have asked : ∃ fs, Tells (takeUplink s u) (reportsTold s u) fs ∧ (s.sel.query = false → fs = es ++ (css.zip due).flatMap fun e =>
      reportEvents s.time.beat (windowOfEcho s.sel u.echo) (statusOf u u.state) e.1) := by
    have told := status.trans reports
    rw [status.beat] at told
    rw [reportsTold]
    split
    · rename_i query
      exact ⟨_, told.trans (placeWords_tells 3 ..), fun none => by rw [none] at query; cases query⟩
    · exact ⟨_, told, fun _ => rfl⟩
  obtain ⟨fs, asked, plain⟩ := asked
  obtain ⟨gs, notices, none⟩ := placeNotices_tells 3 (noticeValues (takeUplink s u).sel s.sel.last u) (reportsTold s u)
  refine ⟨css, fs ++ gs, length, counts, asked.trans notices, fun query nctx => ?_⟩
  rw [plain query, none (asked.nctx.trans nctx), silent nctx, List.append_nil]

/-! ## Answers to FIELD_RELEASE (R527) -/

/-- The state with other requests waiting for OPERATE. -/
def setReleases (s : State) (l : List (Req × Nat)) : State := { s with stw := { s.stw with release := l } }

theorem Tells.setReleases {s t : State} {es : List OutEvent} (h : Tells s t es) (l : List (Req × Nat)) :
    Tells (Machine.setReleases s l) (Machine.setReleases t l) es :=
  ⟨h.time, h.sel, h.counts, h.bytes, h.fd, h.streams, rfl⟩

theorem answer_tells (s : State) (r : Req) (status : BitVec 8) (data : List W64) : Tells s (answer s r status data) [] := by
  obtain ⟨k, enters⟩ := answer_enters s r status data
  refine ⟨?_, ?_, fun i => ?_, enters.sameBytes, enters.fd, enters.streams, ?_⟩
  · rw [List.append_nil]; exact enters.time
  · rw [enters.sel]; rfl
  · rw [enters.sel]; exact ⟨rfl, rfl⟩
  · rw [enters.stw]; rfl

theorem answerReleases_tells (s : State) (status : BitVec 8) (p : Req × Nat → Bool) :
    Tells (setReleases s (s.stw.release.filter fun r => !p r)) (answerReleases s status p) [] := by
  rw [answerReleases]
  dsimp only
  generalize s.stw.release.filter p = go
  show Tells _ (go.foldl _ (setReleases s _)) []
  generalize setReleases s (s.stw.release.filter fun r => !p r) = t
  induction go generalizing t with
  | nil => exact Tells.refl t
  | cons r go ih => exact (answer_tells t r.1 status []).trans (ih _)

/-- A frame with STATE OPERATE answers every request that waits for it. -/
theorem goodUplink_tells {s : State} {u : Uplink} {es : List OutEvent} (told : Tells (takeUplink s u) (uplinkTold s u) es) :
    Tells (setReleases (takeUplink s u) (if u.state = 2 then [] else s.stw.release)) (goodUplink s u) es := by
  rw [goodUplink_eq]
  split
  · have late := (answerReleases_tells (uplinkTold s u) stRefused releaseLate).setReleases []
    have all := answerReleases_tells (answerReleases (uplinkTold s u) stRefused releaseLate) stOk (fun _ => true)
    rw [List.filter_eq_nil_iff.mpr (by simp)] at all
    have both := (told.setReleases []).trans (late.trans all)
    rwa [List.append_nil, List.append_nil] at both
  · exact told

/-! ## A run of good frames ends (R511, R534) -/

theorem runEnds_short {s : State} (short : s.sel.goodRun < 16) : runEnds s = setSel s { s.sel with goodRun := 0 } := by
  rw [runEnds]
  exact if_neg (by omega)

theorem runEnds_enters (s : State) :
    ∃ n, Enters { setSel s { s.sel with goodRun := 0 } with stw := { s.stw with nodeSerial := n } } (runEnds s) := by
  rw [runEnds]
  dsimp only
  split
  · exact nodeReport_enters (setSel s { s.sel with goodRun := 0 }) ..
  · exact ⟨s.stw.nodeSerial, Enters.refl _⟩

theorem runEnds_serial {s : State} (started : s.stw.started = true) (limit : tagInLimit s (defaultHandler s) = true) :
    (runEnds s).stw = { s.stw with nodeSerial := s.stw.nodeSerial + if 16 ≤ s.sel.goodRun then 1 else 0 } := by
  rw [runEnds]
  dsimp only
  split
  · exact nodeReport_counts (s := setSel s { s.sel with goodRun := 0 }) started limit ..
  · exact congrArg (fun n => { s.stw with nodeSerial := n }) (BitVec.add_zero s.stw.nodeSerial).symm

/-! ## Loss of the link (R514) -/

/-- The state as the link goes down, before its status is told. -/
def selvedgeLost (s : State) : State := setSel (runEnds s) { (runEnds s).sel with linkUp := false }

theorem selvedgeDown_of_last {s : State} {v : Uplink} (last : s.sel.last = some v) : selvedgeDown s =
    if v.state = 2 then safeEntered (safetyEvent (selvedgeLost s) (statusOf v 0) none) v 0 v.cause
    else safetyEvent (selvedgeLost s) (statusOf v 0) none := by
  rw [selvedgeDown]
  dsimp only
  rw [last]
  rfl

theorem selvedgeLost_sel (s : State) : (selvedgeLost s).sel = { s.sel with linkUp := false, goodRun := 0 } := by
  obtain ⟨n, enters⟩ := runEnds_enters s
  rw [selvedgeLost, enters.sel]
  rfl

theorem selvedgeDown_tells {s : State} {v : Uplink} (last : s.sel.last = some v) :
    ∃ es, Tells (selvedgeLost s) (selvedgeDown s) es ∧
      (s.sel.nctx = 0 → es = [fieldEvent (selvedgeLost s).time.beat 2 (statusOf v 0)]) ∧
      (selvedgeDown s).sel.inputs = s.sel.inputs := by
  obtain ⟨-, -, inputs⟩ := safetyEvent_keeps (selvedgeLost s) (statusOf v 0) none
  rw [selvedgeLost_sel] at inputs
  obtain ⟨es, told, silent⟩ := safetyEvent_tells (selvedgeLost s) (statusOf v 0) none
  rw [selvedgeLost_sel] at silent
  rw [selvedgeDown_of_last last]
  split
  · obtain ⟨n, enters⟩ := nodeReport_enters (safetyEvent (selvedgeLost s) (statusOf v 0) none) fFieldSafe 0xD
      ((0 : BitVec 16) ++ v.on ++ (0 : BitVec 12) ++ v.cause ++ (0 : BitVec 2)) 0
    exact ⟨es ++ [], told.trans (safeEntered_tells ..), fun none => (List.append_nil _).trans (silent none),
      (congrArg Sel.inputs enters.sel).trans inputs⟩
  · exact ⟨es, told, silent, inputs⟩

theorem selvedgeDown_serial {s : State} {v : Uplink} (last : s.sel.last = some v) (started : s.stw.started = true)
    (limit : tagInLimit s (defaultHandler s) = true) : (selvedgeDown s).stw.nodeSerial =
      s.stw.nodeSerial + (if 16 ≤ s.sel.goodRun then 1 else 0) + if v.state = 2 then 1 else 0 := by
  have ended : (selvedgeLost s).stw = _ := runEnds_serial started limit
  have kept := (safetyEvent_keeps (selvedgeLost s) (statusOf v 0) none).1.trans ended
  rw [selvedgeDown_of_last last]
  split
  · have counts := nodeReport_counts (s := safetyEvent (selvedgeLost s) (statusOf v 0) none) (by rw [kept]; exact started)
      ((reportLimit_congr kept).trans limit) fFieldSafe 0xD
      ((0 : BitVec 16) ++ v.on ++ (0 : BitVec 12) ++ v.cause ++ (0 : BitVec 2)) 0
    rw [safeEntered, counts, kept]
  · exact (congrArg Steward.nodeSerial kept).trans (BitVec.add_zero _).symm

end Sys2Proof.Machine

namespace Sys2Proof.FieldWords

open Sys2Proof Sys2Proof.Machine

/-- Settles O55: what a FIELD_OUT word sets, what a downlink frame carries, and what uplink frames and their loss tell. -/
theorem fieldWordsAndFrames : Obligations.FieldWordsAndFrames := by
  intro s x word held reports up
  refine ⟨fun w rest front => ⟨fun e mem type => ?_, fun room legal => ?_⟩, fun bad => ?_, fun legal => ?_, fun f arrived =>
    ⟨?_, fun length => ?_⟩, fun v link last => ?_⟩
  · obtain ⟨p, own, runs⟩ := exec_fieldWord mem
    rw [← type] at own
    refine ⟨fun full => ?_, fun room bad => ?_⟩
    · rw [runs, applyNext_front up front own, if_pos full]
    · rw [Unpredictable, runs, applyNext_front up front own, if_neg (Nat.not_le.mpr room), if_pos bad]
      rfl
  · intro went
    have applies {e : Instr × BitVec 4} (p : BitVec 4 → Bool) (runs : ∀ s, exec e.1 s = applyNext p s)
        (own : p (wordType w) = true) : exec e.1 s = .next (went (applyWord x w)) :=
      (runs s).trans (applyNext_applies up front own room legal)
    refine ⟨fun type => ?_, fun type => ?_, fun type => ?_, fun type => ?_, fun type => ?_, fun type => ?_, fun type => ?_⟩
    · refine ⟨_, applies (e := (.fieldOutputWord, 1)) (· == 1) (fun _ => rfl) (by rw [type]; decide), ?_⟩
      rw [applyWord_of_type x type]
      exact ⟨rfl, fun k small => masked_bit x.c w small⟩
    · refine ⟨_, applies (e := (.fieldReportWord, 2)) (· == 2) (fun _ => rfl) (by rw [type]; decide), ?_⟩
      rw [applyWord_of_type x type, ← setWidth_eq_low24]
      rfl
    · refine ⟨_, applies (e := (.fieldNotifyWord, 3)) (· == 3) (fun _ => rfl) (by rw [type]; decide), ?_⟩
      rw [applyWord_of_type x type, ← setWidth_eq_low24]
      rfl
    · refine ⟨_, applies (e := (.fieldSafeWord, 4)) (· == 4) (fun _ => rfl) (by rw [type]; decide), ?_⟩
      rw [applyWord_of_type x type]
      rfl
    · refine ⟨_, applies (e := (.fieldQueryWord, 5)) (· == 5) (fun _ => rfl) (by rw [type]; decide), ?_⟩
      rw [applyWord_of_type x type]
      rfl
    · refine ⟨_, applies (e := (.fieldNopWord, 0)) (fun t => t == 0 || decide (6 ≤ t.toNat)) (fun _ => rfl)
        (by rw [type]; decide), ?_⟩
      rw [applyWord_of_type x type]
      rfl
    · refine ⟨_, applies (e := (.fieldNopWord, 0)) (fun t => t == 0 || decide (6 ≤ t.toNat)) (fun _ => rfl)
        (by simp [type]), ?_⟩
      rw [applyWord_reserved x type]
  · rw [Unpredictable, exec_downlinkFrame, execDownlinkFrame, up, bad]
    rfl
  · have serves : exec .downlinkFrame s = .next (sendDownlink s) := by
      rw [exec_downlinkFrame, execDownlinkFrame, up, legal]
      rfl
    obtain ⟨frame, safeLeft, relLeft, inputs, wins, winPeriod, winMask, safeWord⟩ := framed_keeps s
    intro ws
    rw [sendDownlink_eq] at serves
    refine ⟨_, serves, ?_, fun none => ?_, congrArg (· + 1) frame, rfl, rfl, congrArg (· - 1) relLeft,
      congrArg (· - 1) safeLeft, inputs, ?_, rfl, rfl, rfl, rfl, rfl⟩
    · dsimp only
      rw [safeReqNow]
      dsimp only
      rw [frame, safeLeft, relLeft, safeWord, ← Bool.or_assoc]
    · show (ws.foldl applyWord s.sel).c = s.sel.c
      rw [none]
      rfl
    · dsimp only
      rw [winsDue, frame, wins, winPeriod, winMask]
  · have serves : exec (.uplinkFrameReceive false) s = .next (badUplink s) := by
      rw [exec_uplinkFrameReceive, execUplinkFrameReceive, up, arrived]
      rfl
    obtain ⟨n, enters⟩ := runEnds_enters (setSel s { x with up := Option.none, failing := satAdd x.failing 1 })
    refine ⟨_, serves, enters.sel, enters.sameBytes, enters.time, fun short => ?_, fun long told => ?_⟩
    · rw [badUplink, runEnds_short (s := setSel s { x with up := Option.none, failing := satAdd x.failing 1 }) short]
      exact ⟨rfl, rfl⟩
    · rw [badUplink, runEnds_serial (s := setSel s { x with up := Option.none, failing := satAdd x.failing 1 }) told.1 told.2]
      exact congrArg (s.stw.nodeSerial + ·) (if_pos long)
  · have serves : exec (.uplinkFrameReceive true) s = .next (goodUplink s f) := by
      rw [exec_uplinkFrameReceive, execUplinkFrameReceive, up, arrived]
      rfl
    obtain ⟨css, es, count, counts, told, plain⟩ := uplinkTold_tells s f
    have good := goodUplink_tells told
    refine ⟨_, serves, ?_, ?_, ?_, ?_, ?_, ?_, good.bytes, good.fd, good.streams, ?_, fun operate => ?_, fun other => ?_,
      fun i small => ?_, fun query nctx => ?_⟩
    · rw [good.sel]; rfl
    · rw [good.sel]; rfl
    · rw [good.sel]; rfl
    · rw [good.sel]; rfl
    · rw [good.sel]; rfl
    · rw [good.sel]; rfl
    · rw [good.sel]; rfl
    · rw [good.release]; exact if_pos operate
    · rw [good.release]; exact if_neg other
    · have taken := takeUplink_counts s length small
      exact ⟨(good.counts i).1.trans taken.1, (good.counts i).2.trans taken.2⟩
    · intro st
      have events : held (goodUplink s f) (statusEvents s f ++ _) := good.time.trans (by rw [plain query nctx]; rfl)
      refine ⟨fun none => ?_, fun v link last same => ⟨css, count, counts, ?_⟩⟩
      · have silent : css = [] := List.eq_nil_of_length_eq_zero (count.trans (by rw [none]; rfl))
        rw [silent, List.zip_nil_left, List.flatMap_nil, List.append_nil] at events
        refine ⟨fun down => ?_, fun v link last differs => ?_, fun v link last same => ?_⟩
        · have starts : statusEvents s f = [word 2 st, word 2 (strapWord f)] := by rw [statusEvents, down]; rfl
          rwa [starts] at events
        · have changes : statusEvents s f = [word 2 st] := by rw [statusEvents, link, last]; exact if_pos differs
          rwa [changes] at events
        · have keeps : statusEvents s f = [] := by
            rw [statusEvents, link, last]
            exact if_neg (by rw [same]; decide)
          rwa [keeps] at events
      · have keeps : statusEvents s f = [] := by
          rw [statusEvents, link, last]
          exact if_neg (by rw [same]; decide)
        rwa [keeps, List.nil_append] at events
  · have serves : exec .selvedgeLinkDown s = .next (selvedgeDown s) := by
      rw [exec_selvedgeLinkDown, execSelvedgeLinkDown, up, link]
      rfl
    obtain ⟨n, enters⟩ := runEnds_enters s
    obtain ⟨es, told, silent, inputs⟩ := selvedgeDown_tells last
    have time : (selvedgeLost s).time = s.time := enters.time
    refine ⟨_, serves, ?_, ?_, ?_, ?_, ?_, fun a => (told.bytes a).trans (enters.sameBytes a), fun none => ?_,
      fun kept short => ?_, fun tells => selvedgeDown_serial last tells.1 tells.2⟩
    · rw [told.sel, selvedgeLost_sel]
    · rw [told.sel, selvedgeLost_sel]
    · exact inputs
    · rw [told.sel, selvedgeLost_sel]
    · rw [told.sel, selvedgeLost_sel]
    · show (selvedgeDown s).time = _
      rw [told.time, time, silent none, time]
      rfl
    · have lost : selvedgeLost s = setSel s { s.sel with goodRun := 0, linkUp := false } := by
        rw [selvedgeLost, runEnds_short short]
        rfl
      obtain ⟨stw, weave, -⟩ := safetyEvent_keeps (selvedgeLost s) (statusOf v 0) Option.none
      rw [selvedgeDown_of_last last, if_neg kept, stw, weave, lost]
      exact ⟨rfl, rfl⟩

end Sys2Proof.FieldWords
end

/-! # The field die (R60, R70 to R74, R510 to R525) -/

section
namespace Sys2Proof.Machine

open Sys2Proof

theorem exec_lplusRise (s) : exec .lplusRise s = execLplusRise s := rfl
theorem exec_lplusFall (s) : exec .lplusFall s = execLplusFall s := rfl
theorem exec_fieldStrapSamplingDone (readings s) :
    exec (.fieldStrapSamplingDone readings) s = execFieldStrapSamplingDone readings s := rfl
theorem exec_inputEdge (ch position s) : exec (.inputEdge ch position) s = execInputEdge ch position s := rfl
theorem exec_fieldDownlinkReceive (good s) : exec (.fieldDownlinkReceive good) s = execFieldDownlinkReceive good s := rfl
theorem exec_uplinkFrameSend (levels readback lplusLow thermal s) :
    exec (.uplinkFrameSend levels readback lplusLow thermal) s = execUplinkFrameSend levels readback lplusLow thermal s := rfl
theorem exec_silenceTimeout (s) : exec .silenceTimeout s = execSilenceTimeout s := rfl
theorem exec_fieldSelfCheckFail (s) : exec .fieldSelfCheckFail s = execFieldSelfCheckFail s := rfl
theorem exec_wirebreakSet (ch s) : exec (.wirebreakSet ch) s = wirebreak ch true s := rfl
theorem exec_wirebreakClear (ch s) : exec (.wirebreakClear ch) s = wirebreak ch false s := rfl
theorem exec_outputCurrentLatch (k s) : exec (.outputCurrentLatch k) s = execOutputCurrentLatch k s := rfl
theorem exec_outputThermalLatch (k s) : exec (.outputThermalLatch k) s = execOutputThermalLatch k s := rfl

theorem fieldUp_iff {x : Field} : fieldUp x = true ↔ x.state = .safe ∨ x.state = .operate := by
  rw [fieldUp, Bool.or_eq_true, beq_iff_eq, beq_iff_eq]

/-- In a state that takes part in the link the LED tells SAFE. -/
theorem fsafeLed_of_up {x : Field} (up : fieldUp x = true) : fsafeLed x = (x.state == .safe) := by
  rw [fsafeLed]
  rcases fieldUp_iff.mp up with h | h <;> rw [h] <;> rfl

/-! ## Straps (R70, R71, R74) -/

/-- Marks of the indices that satisfy a condition. -/
theorem marks_bit {w : Nat} (p : Nat → Bool) (l : List Nat) (m : BitVec w) {j : Nat} (small : j < w) :
    (l.foldl (fun (m : BitVec w) i => if p i then m ||| (1#w <<< i) else m) m).getLsbD j =
      (m.getLsbD j || (decide (j ∈ l) && p j)) := by
  induction l generalizing m with
  | nil => simp
  | cons i l ih =>
    rw [List.foldl_cons, ih]
    have bit : (1#w <<< i).getLsbD j = decide (j = i) := by
      rw [BitVec.getLsbD_shiftLeft, BitVec.getLsbD_one]
      by_cases same : j = i
      · simp [same, show i < w by omega, show 0 < w by omega]
      · simp [same]; omega
    obtain rfl | other := eq_or_ne j i
    · cases h : p j <;> simp [bit, small]
    · cases p i <;> simp [bit, other]

section
variable (a b c d e f : BitVec 3)

theorem sixBits_bit {i k : Nat} (pin : i < 6) (bit : k < 3) :
    (f ++ e ++ d ++ c ++ b ++ a).getLsbD (3 * i + k) = ([a, b, c, d, e, f].getD i 0).getLsbD k := by
  interval_cases i <;> interval_cases k <;> simp only [BitVec.getLsbD_append] <;> rfl

theorem threeBits_bit {i k : Nat} (pin : i < 3) (bit : k < 3) :
    (c ++ b ++ a).getLsbD (3 * i + k) = ([a, b, c].getD i 0).getLsbD k := by
  interval_cases i <;> interval_cases k <;> simp only [BitVec.getLsbD_append] <;> rfl

end

/-! ## Inputs (R516, R518) -/

theorem setInput_spec (x : Field) (i : Nat) (u : UpInput) :
    mget UpInput.clear (setInput x i u).inputs i = u ∧
      ∀ j, j ≠ i → mget UpInput.clear (setInput x i u).inputs j = mget UpInput.clear x.inputs j :=
  ⟨mget_mset_same .., fun _ other => mget_mset_other _ _ (Ne.symm other) _⟩

theorem wirebreak_sets {s : State} {ch : BitVec 5} (small : ch.toNat < 24) (up : fieldUp s.fd = true)
    (type3 : s.fd.types.getLsbD (ch.toNat / 8) = true) (broke : Bool) : wirebreak ch broke s = .next (setField s
      (setInput s.fd ch.toNat { mget UpInput.clear s.fd.inputs ch.toNat with broke := broke })) := by
  have inside : decide (24 ≤ ch.toNat) = false := decide_eq_false (by omega)
  rw [wirebreak, up, type3, inside]
  rfl

theorem wirebreak_ignored {s : State} {ch : BitVec 5} (type1 : s.fd.types.getLsbD (ch.toNat / 8) = false) (broke : Bool) :
    wirebreak ch broke s = .next s := by
  rw [wirebreak, type1]
  exact ite_self _

/-! ## A downlink frame is judged (R513, R520, R525) -/

/-- The self-check's verdict is free only while it holds the die in SAFE. -/
theorem checkAgain_eq (s : State) : ∃ b n, checkAgain s = { s with fd := { s.fd with checkBad := b }, freeCounter := n } ∧
    (checkHolds s.fd = false → b = s.fd.checkBad ∧ n = s.freeCounter) := by
  rw [checkAgain]
  split
  · rename_i holds
    exact ⟨_, _, rfl, fun no => absurd (holds.symm.trans no) (by decide)⟩
  · exact ⟨_, _, rfl, fun _ => ⟨rfl, rfl⟩⟩

/-- An input as the next window begins: its first edge forgotten, and not listed when nothing is left of it. -/
def nextInput (e : Nat × UpInput) : Option (Nat × UpInput) :=
  if ({ e.2 with first := none } : UpInput) = UpInput.clear then none else some (e.1, { e.2 with first := none })

/-- The die after a frame was judged: the window's inputs kept for the answer. -/
def answering (x y : Field) (f : Downlink) : Field :=
  beginWindow { y with answering := some (f.frame, x.inputs), inputs := x.inputs.filterMap nextInput }

theorem execFieldDownlinkReceive_judges {s : State} {f : Downlink} (good : Bool) (up : fieldUp s.fd = true)
    (down : s.sel.down = some f) : execFieldDownlinkReceive good s =
      let t := checkAgain s
      let x := endWindow t.fd
      .next { t with
        fd := answering x (if good then judgeGood x f else { x with good := 0, dlbad := x.dlbad + 1 }) f
        sel := { t.sel with down := none } } := by
  obtain ⟨b, n, again, -⟩ := checkAgain_eq s
  have up' : fieldUp (checkAgain s).fd = true := by rw [again]; exact up
  have down' : (checkAgain s).sel.down = some f := by rw [again]; exact down
  rw [execFieldDownlinkReceive]
  dsimp only
  rw [up', down']
  rfl

theorem mget_of_keys_above {α : Type} (d : α) {k : Nat} {r : List (Nat × α)} (above : r.all (fun e => decide (k < e.1)) = true) :
    mget d r k = d := by
  induction r with
  | nil => rfl
  | cons e r ih =>
    obtain ⟨j, v⟩ := e
    rw [List.all_cons, Bool.and_eq_true, decide_eq_true_eq] at above
    rw [mget, if_neg (by have := above.1; dsimp only at this; omega), ih above.2]

/-- A new window keeps every count. -/
theorem nextInput_counts {m : List (Nat × UpInput)} (wf : mwf UpInput.clear m = true) (i : Nat) :
    (mget UpInput.clear (m.filterMap nextInput) i).count = (mget UpInput.clear m i).count := by
  induction m with
  | nil => rfl
  | cons e m ih =>
    obtain ⟨k, v⟩ := e
    rw [mwf, Bool.and_eq_true, Bool.and_eq_true] at wf
    obtain ⟨⟨-, above⟩, wf⟩ := wf
    rw [List.filterMap_cons, nextInput]
    by_cases same : k = i
    · subst same
      rw [mget, if_pos rfl]
      split
      · rename_i gone
        have clear : ({ v with first := none } : UpInput) = UpInput.clear := by simpa using gone
        rw [ih wf, mget_of_keys_above _ above, ← clear]
      · rename_i kept
        split at kept
        · cases kept
        · cases kept; rw [mget, if_pos rfl]
    · rw [mget, if_neg same]
      split
      · exact ih wf
      · rename_i kept
        split at kept
        · cases kept
        · cases kept; rw [mget, if_neg same]; exact ih wf

theorem goodNext_of_sequence {x : Field} {n : BitVec 16} (next : x.last = some (n - 1)) :
    (goodNext x n).toNat = min 63 (x.good.toNat + 1) := by
  have bound := x.good.isLt
  rw [goodNext, if_pos next]
  split
  · rename_i full; rw [full]; rfl
  · rename_i more
    have less : x.good.toNat ≠ 63 := fun h => more (BitVec.eq_of_toNat_eq h)
    rw [BitVec.toNat_add_of_lt (by simp; omega)]
    simp; omega

/-- What judging a good frame leaves: C, GOOD and the frame number are taken, and only state and cause may change
besides. -/
theorem judgeGood_shape (x : Field) (f : Downlink) : judgeGood x f = { x with
    good := goodNext x f.frame, last := some f.frame, c := f.cmd, state := (judgeGood x f).state
    cause := (judgeGood x f).cause } := by
  rw [judgeGood]
  dsimp only
  cases x.state <;> dsimp only
  · split <;> rfl
  · split <;> rfl

theorem judgeGood_safe {x : Field} {f : Downlink} (safe : x.state = .safe) :
    (judgeGood x f).cause = x.cause ∧ (judgeGood x f).state =
      if f.release && !f.safeReq && decide (16 ≤ x.good.toNat) && !checkHolds x then .operate else .safe := by
  rw [judgeGood, safe]
  dsimp only
  split <;> simp [safe]

theorem judgeGood_operate {x : Field} {f : Downlink} (operate : x.state = .operate) :
    (judgeGood x f).cause = (if f.safeReq then 2 else x.cause) ∧
      (judgeGood x f).state = if f.safeReq then .safe else .operate := by
  rw [judgeGood, operate]
  dsimp only
  split <;> simp [operate]

theorem judgeGood_up {x : Field} (f : Downlink) (up : fieldUp x = true) : fieldUp (judgeGood x f) = true := by
  rw [fieldUp_iff]
  rcases fieldUp_iff.mp up with safe | operate
  · rw [(judgeGood_safe safe).2]; split <;> simp
  · rw [(judgeGood_operate operate).2]; split <;> simp

/-- The state after a frame was judged. -/
def judgedTo (s : State) (y : Field) (f : Downlink) : State :=
  { checkAgain s with
    fd := answering (endWindow (checkAgain s).fd) y f
    sel := { (checkAgain s).sel with down := none } }

/-- Whatever the verdict, the window's inputs are kept for the answer, no count is lost, and latches clear that have been off
throughout the window. -/
theorem judgedTo_spec (s : State) {y : Field} (f : Downlink) (up : fieldUp y = true)
    (latched : y.latched = (endWindow (checkAgain s).fd).latched) : let u := judgedTo s y f
    u = { s with fd := u.fd, sel := { s.sel with down := none }, freeCounter := u.freeCounter } ∧
      (checkHolds s.fd = false → u.freeCounter = s.freeCounter) ∧ u.fd.answering = some (f.frame, s.fd.inputs) ∧
      u.fd.latched = s.fd.latched &&& ~~~s.fd.offWin ∧ fsafeLed u.fd = (u.fd.state == .safe) ∧
      (mwf UpInput.clear s.fd.inputs = true →
        ∀ i, (mget UpInput.clear u.fd.inputs i).count = (mget UpInput.clear s.fd.inputs i).count) := by
  obtain ⟨b, n, again, same⟩ := checkAgain_eq s
  intro u
  have state : u.fd.state = y.state := rfl
  have led := fsafeLed_of_up (x := u.fd) up
  simp only [u, judgedTo]
  rw [again] at latched ⊢
  exact ⟨rfl, fun none => (same none).2, rfl, latched, led, fun wf i => nextInput_counts wf i⟩

/-- The uplink frame that the die sends. -/
def uplinkOf (x : Field) (echo : BitVec 16) (window : List (Nat × UpInput)) (levels : BitVec 24) (readback : BitVec 16)
    (low hot : Bool) : Uplink where
  echo := echo
  inputs := (List.range 24).map (upInput x window levels)
  read := readback
  latched := x.latched
  state := stateCode x.state
  cause := x.cause
  good := x.good
  on := fieldOn x
  lplusLow := low
  thermal := hot
  dlbad := x.dlbad
  safeWord := x.safeWord
  pairWord := x.pairWord
  types := x.types
  oow := x.oow

theorem uplinkOf_input (x : Field) (echo : BitVec 16) (window : List (Nat × UpInput)) (levels : BitVec 24)
    (readback : BitVec 16) (low hot : Bool) {i : Nat} (small : i < 24) :
    (uplinkOf x echo window levels readback low hot).inputs.getD i UpInput.clear = upInput x window levels i := by
  simp [uplinkOf, List.getD_eq_getElem?_getD, small]

/-- The state codes of a die that takes part in the link. -/
theorem stateCode_of_up {x : Field} (up : fieldUp x = true) : stateCode x.state = if x.state = .operate then 2 else 1 := by
  rcases fieldUp_iff.mp up with h | h <;> rw [h] <;> rfl

/-- The die answers the frame that it has judged, with that window's inputs (R511, R74). -/
theorem exec_uplinkFrameSend_answers {s : State} (up : fieldUp s.fd = true) {echo : BitVec 16} {win : List (Nat × UpInput)}
    (answers : s.fd.answering = some (echo, win)) (levels : BitVec 24) (readback : BitVec 16) (low hot : Bool) :
    exec (.uplinkFrameSend levels readback low hot) s = .next { s with
      fd := { s.fd with answering := none }
      sel := { s.sel with up := some (uplinkOf s.fd echo win levels readback low hot) } } := by
  rw [exec_uplinkFrameSend, execUplinkFrameSend, up, answers]
  rfl

/-! ## Latches (R520) -/

theorem latchMask_bit (x : Field) {k j : Nat} (output : k < 16) (small : j < 16) :
    (latchMask x k).getLsbD j = (decide (j = k) || (paired x.pairWord k && decide (j / 2 = k / 2))) := by
  have one : (1#16 <<< k).getLsbD j = decide (j = k) := by
    interval_cases k <;> interval_cases j <;> rfl
  have both : (3#16 <<< (k / 2 * 2)).getLsbD j = (decide (j = k) || decide (j / 2 = k / 2)) := by
    interval_cases k <;> interval_cases j <;> rfl
  rw [latchMask]
  cases paired x.pairWord k
  · exact one.trans (by simp)
  · exact both.trans (by simp)

end Sys2Proof.Machine

namespace Sys2Proof.FieldDie

open Sys2Proof Sys2Proof.Machine

/-- Settles O56: each command of the field die changes its state, inputs, latches and answers as its rule says, and nothing
beside the die and the link's two frames. -/
theorem fieldDieStates : Obligations.FieldDieStates := by
  intro s x only
  refine ⟨fun off => ?_, fun on => ?_, fun rs _ sampling => ?_, fun on ch pos small => ?_, fun up => ⟨fun f down => ?_,
    fun echo win lv rb low hot answers => ?_, ?_, fun operate => ?_, fun safe => ?_, fun ch small => ?_, fun k => ?_⟩⟩
  · exact (exec_lplusRise s).trans (if_pos off)
  · exact (exec_lplusFall s).trans (if_neg on)
  · intro cs
    refine ⟨by rw [fsafeLed, sampling]; rfl, _, (exec_fieldStrapSamplingDone rs s).trans (if_neg (not_not.mpr sampling)), rfl,
      rfl, rfl, rfl, rfl, fun i pin k bit => ?_, fun i pin k bit => ?_, rfl, fun i pin => ?_⟩
    · rw [setField, sixBits_bit _ _ _ _ _ _ pin bit]
      interval_cases i <;> rfl
    · rw [setField, threeBits_bit _ _ _ pin bit]
      interval_cases i <;> rfl
    · exact (marks_bit (fun i => (cs.getD i none).isNone) (List.range 10) 0 pin).trans (by simp [pin])
  · intro v
    have serves : exec (.inputEdge ch pos) s = .next (setField s (setInput x ch.toNat
        { v with count := v.count + 1, first := if v.first.isSome then v.first else some pos })) := by
      refine (exec_inputEdge ch pos s).trans (if_neg ?_)
      rw [Bool.or_eq_true, decide_eq_true_eq, beq_iff_eq]
      exact not_or.mpr ⟨by omega, on⟩
    obtain ⟨same, other⟩ := setInput_spec x ch.toNat
      { v with count := v.count + 1, first := if v.first.isSome then v.first else some pos }
    refine ⟨_, serves, rfl, same.trans ?_, other⟩
    cases v.first <;> rfl
  · intro judged
    obtain ⟨b, n, again, same⟩ := checkAgain_eq s
    have before : (checkAgain s).fd = { x with checkBad := b } := by rw [again]
    have judges (good : Bool) := (exec_fieldDownlinkReceive good s).trans (execFieldDownlinkReceive_judges good up down)
    have state : (endWindow (checkAgain s).fd).state = x.state := by rw [before]; rfl
    have cause : (endWindow (checkAgain s).fd).cause = x.cause := by rw [before]; rfl
    have counted : (endWindow (checkAgain s).fd).good = x.good := by rw [before]; rfl
    have seen : (endWindow (checkAgain s).fd).last = x.last := by rw [before]; rfl
    have failures : (endWindow (checkAgain s).fd).dlbad = x.dlbad := by rw [before]; rfl
    have up' : fieldUp (endWindow (checkAgain s).fd) = true := by rw [before]; exact up
    refine ⟨⟨judgedTo s (judgeGood (endWindow (checkAgain s).fd) f) f, judges true, ?_⟩,
      ⟨judgedTo s { endWindow (checkAgain s).fd with good := 0, dlbad := (endWindow (checkAgain s).fd).dlbad + 1 } f,
        judges false, ?_⟩⟩
    · have shape := judgeGood_shape (endWindow (checkAgain s).fd) f
      have good := congrArg Machine.Field.good shape
      have latched : (judgeGood _ f).latched = (endWindow (checkAgain s).fd).latched :=
        (congrArg Machine.Field.latched shape :)
      have dlbad : (judgeGood _ f).dlbad = (endWindow (checkAgain s).fd).dlbad :=
        (congrArg Machine.Field.dlbad shape :)
      refine ⟨judgedTo_spec s f (judgeGood_up f up') latched, congrArg Machine.Field.c shape,
        congrArg Machine.Field.last shape, dlbad.trans failures, fun next => ?_, fun gap => ?_,
        fun safe => ?_, fun operate asked => ?_, fun operate none => ?_⟩
      · exact (congrArg BitVec.toNat good).trans ((goodNext_of_sequence (seen.trans next)).trans (by rw [counted]))
      · exact good.trans (if_neg (by rw [seen]; exact gap))
      · obtain ⟨kept, goes⟩ := judgeGood_safe (f := f) (state.trans safe)
        rw [counted] at goes
        refine ⟨kept.trans cause, fun operates => ?_, fun holds release none long => goes.trans (if_pos ?_)⟩
        · by_contra stays
          refine absurd (goes.symm.trans operates) ?_
          rw [if_neg]
          · decide
          · intro all
            simp only [Bool.and_eq_true, Bool.not_eq_true', decide_eq_true_eq] at all
            exact stays ⟨all.1.1.1, all.1.1.2, all.1.2⟩
        · have passes : checkHolds (endWindow (checkAgain s).fd) = false := by
            rw [before, (same holds).1]
            exact holds
          rw [release, none, passes, decide_eq_true long]
          rfl
      · obtain ⟨named, goes⟩ := judgeGood_operate (f := f) (state.trans operate)
        exact ⟨goes.trans (if_pos asked), named.trans (if_pos asked)⟩
      · obtain ⟨named, goes⟩ := judgeGood_operate (f := f) (state.trans operate)
        rw [none] at goes named
        exact ⟨goes, named.trans cause⟩
    · exact ⟨judgedTo_spec s f up' rfl, by rw [judgedTo, before]; rfl, seen, rfl, by rw [judgedTo, before]; rfl, state⟩
  · refine ⟨_, exec_uplinkFrameSend_answers up answers lv rb low hot, _, rfl, rfl, rfl, rfl, stateCode_of_up up, rfl, rfl, rfl,
      rfl, rfl, rfl, List.length_map .., fun i small => ?_⟩
    dsimp only
    rw [uplinkOf_input x echo win lv rb low hot small]
    exact ⟨rfl, rfl, rfl, rfl⟩
  · have serves := (exec_silenceTimeout s).trans (if_neg (by rw [up]; decide))
    refine ⟨_, serves, ?_⟩
    rcases fieldUp_iff.mp up with safe | operate
    · rw [if_neg (by rw [safe]; decide), if_neg (by rw [safe]; decide)]
      exact ⟨rfl, rfl, rfl, rfl, safe, fsafeLed_of_up (x := { x with good := 0 }) up |>.trans (by rw [safe]; rfl), rfl⟩
    · rw [if_pos operate, if_pos operate]
      exact ⟨rfl, rfl, rfl, rfl, rfl, rfl, rfl⟩
  · have serves := (exec_fieldSelfCheckFail s).trans (if_neg (by rw [up]; decide))
    rw [if_pos operate] at serves
    exact ⟨_, serves, rfl, rfl, rfl, rfl, rfl, rfl, rfl⟩
  · have serves := (exec_fieldSelfCheckFail s).trans (if_neg (by rw [up]; decide))
    rwa [if_neg (by rw [safe]; decide)] at serves
  · intro v became
    refine ⟨fun type3 => ⟨?_, ?_⟩, fun type1 => ⟨wirebreak_ignored type1 true, wirebreak_ignored type1 false⟩⟩
    · exact ⟨_, wirebreak_sets small up type3 true, rfl, setInput_spec x ch.toNat { v with broke := true }⟩
    · exact ⟨_, wirebreak_sets small up type3 false, rfl, setInput_spec x ch.toNat { v with broke := false }⟩
  · intro latches
    have latched : latches (setField s { x with latched := x.latched ||| latchMask x k.toNat }) := by
      refine ⟨rfl, fun j small => ?_⟩
      rw [setField, BitVec.getLsbD_or, latchMask_bit x k.isLt small, Bool.or_assoc]
    refine ⟨fun on => ⟨_, (exec_outputCurrentLatch k s).trans ((if_neg (by rw [up]; decide)).trans (if_neg ?_)), latched⟩,
      ⟨_, (exec_outputThermalLatch k s).trans (if_neg (by rw [up]; decide)), latched⟩⟩
    rw [on]
    decide

end Sys2Proof.FieldDie
end

/-! # What a power domain loses (R334, R404, R553, R567, R592, R629) -/

section
namespace Sys2Proof.Machine

open Sys2Proof

/-! ## Quadrants and keep memory -/

theorem mget_without {α : Type} (d : α) (p : Nat → Bool) (m : List (Nat × α)) (k : Nat) :
    mget d (without p m) k = if p k then d else mget d m k := by
  induction m with
  | nil => exact (ite_self _).symm
  | cons e m ih =>
    obtain ⟨j, v⟩ := e
    rw [without, List.filter_cons]
    cases gone : p j
    · show mget d ((j, v) :: without p m) k = _
      rw [mget, mget]
      split
      · rename_i same; rw [← same, gone]; rfl
      · exact ih
    · refine ih.trans ?_
      rw [mget]
      split
      · rfl
      · rename_i kept
        rw [if_neg]
        rintro rfl
        exact kept gone

theorem without_all {α : Type} {p : Nat → Bool} (all : ∀ k, p k = true) (m : List (Nat × α)) : without p m = [] :=
  List.filter_eq_nil_iff.mpr fun e _ => by rw [all]; decide

theorem inQuads_all (t : Nat) : inQuads 15 t = true := by
  rw [inQuads]
  generalize quadOfTile (BitVec.ofNat 6 t) = q
  revert q
  decide

theorem inQuads_one (q : BitVec 2) (t : Nat) : inQuads (1#4 <<< q.toNat) t = (quadOfTile (BitVec.ofNat 6 t) == q) := by
  rw [inQuads]
  generalize quadOfTile (BitVec.ofNat 6 t) = r
  revert q r
  decide

theorem readByte_dropBanks (qs : BitVec 4) (m : Mem) (a : Nat) : readByte (dropBanks qs m) a =
    if a < 0x2000000 ∧ inQuads qs (a / 0x80000) = true then 0 else readByte m a := by
  rw [readByte, dropBanks]
  dsimp only
  rw [mget_without]
  simp only [Bool.and_eq_true, decide_eq_true_eq]
  rfl

/-- Keep memory lies outside the banks. -/
theorem readByte_dropBanks_keep (qs : BitVec 4) (m : Mem) {a : Nat} (keep : inKeep a = true) :
    readByte (dropBanks qs m) a = readByte m a := by
  rw [inKeep, Bool.and_eq_true, decide_eq_true_eq, decide_eq_true_eq] at keep
  rw [readByte_dropBanks, if_neg (by omega)]

theorem readByte_zeroKeep (s : State) (a : Nat) : readByte (zeroKeep s).mem a = if inKeep a then 0 else readByte s.mem a :=
  mget_without ..

/-! ## Every domain but PD0 and PD10 (R553, R592, R593) -/

/-- A stopped clock leaves the beat and changes the sub-beat phase alone. -/
theorem stopClock_eq (s : State) : ∃ sub n, stopClock s = { s with time := { s.time with sub := sub }, freeCounter := n } := by
  rw [stopClock]
  split
  · exact ⟨_, _, rfl⟩
  · exact ⟨_, _, rfl⟩

section
variable (s : State)

theorem goDark_pwr : (goDark s).pwr = { s.pwr with
    pd := s.pwr.pd &&& 0x401, clkok := false, steady := false, running := 0, clearing := 0, cleared := 0, fabricUp := false
    started := false, wakeNew := false, grace := false, graceSleep := none, sleepReq := none, newLevel := none
    conversions := [], enPhy := false, keepHeld := keepSoFar s } := by
  obtain ⟨sub, n, stops⟩ := stopClock_eq s
  rw [goDark, stops]
  rfl

theorem goDark_mem : (goDark s).mem = dropBanks 15 s.mem := by
  obtain ⟨sub, n, stops⟩ := stopClock_eq s
  rw [goDark, stops]
  rfl

theorem goDark_straps : (goDark s).straps = s.straps := by
  obtain ⟨sub, n, stops⟩ := stopClock_eq s
  rw [goDark, stops]
  rfl

theorem goDark_fd : (goDark s).fd = { s.fd with good := 0 } := by
  obtain ⟨sub, n, stops⟩ := stopClock_eq s
  rw [goDark, stops]
  rfl

theorem goDark_keys : (goDark s).keys = { s.keys with session := 0 } := by
  obtain ⟨sub, n, stops⟩ := stopClock_eq s
  rw [goDark, stops]
  rfl

theorem goDark_beat : (goDark s).time.beat = s.time.beat := by
  obtain ⟨sub, n, stops⟩ := stopClock_eq s
  rw [goDark, stops]
  rfl

theorem goDark_cells : (goDark s).cells = [] := by
  obtain ⟨sub, n, stops⟩ := stopClock_eq s
  rw [goDark, stops]
  exact without_all (fun c => inQuads_all (c / 4)) s.cells

end

/-- The registers of PD0 that losing the other domains leaves. -/
theorem goDark_counts (s : State) : (goDark s).pwr.enIo = s.pwr.enIo ∧ (goDark s).pwr.enCore = s.pwr.enCore ∧
    (goDark s).pwr.clockLosses = s.pwr.clockLosses ∧ (goDark s).pwr.supplyFaults = s.pwr.supplyFaults := by
  rw [goDark_pwr]
  exact ⟨rfl, rfl, rfl, rfl⟩

/-- The state after every domain but PD0 and PD10 has lost power, whatever is done to PD0 besides: what stands of the
device. -/
structure Dark (s t : State) : Prop where
  pd : t.pwr.pd = s.pwr.pd &&& 0x401
  clkok : t.pwr.clkok = false
  steady : t.pwr.steady = false
  running : t.pwr.running = 0
  cells : t.cells = []
  straps : t.straps = s.straps
  beat : t.time.beat = s.time.beat
  flash : t.mem.flash = s.mem.flash
  field : t.fd.state = s.fd.state
  enPhy : t.pwr.enPhy = false
  device : t.keys = { s.keys with session := 0 }
  keep : ∀ a, inKeep a = true → readByte t.mem a = readByte s.mem a

theorem goDark_dark (s : State) : Dark s (goDark s) where
  pd := by rw [goDark_pwr]
  clkok := by rw [goDark_pwr]
  steady := by rw [goDark_pwr]
  running := by rw [goDark_pwr]
  cells := goDark_cells s
  straps := goDark_straps s
  beat := goDark_beat s
  flash := by rw [goDark_mem]; rfl
  field := by rw [goDark_fd]
  enPhy := by rw [goDark_pwr]
  device := goDark_keys s
  keep a keep := by rw [goDark_mem, readByte_dropBanks_keep _ _ keep]

/-- What is done to PD0 alone keeps the rest dark. -/
theorem Dark.setPwr {s t : State} (h : Dark s t) {q : Power} (pd : q.pd = t.pwr.pd) (clkok : q.clkok = t.pwr.clkok)
    (steady : q.steady = t.pwr.steady) (running : q.running = t.pwr.running) (enPhy : q.enPhy = false) :
    Dark s { t with pwr := q } :=
  ⟨pd.trans h.pd, clkok.trans h.clkok, steady.trans h.steady, running.trans h.running, h.cells, h.straps, h.beat, h.flash,
    h.field, enPhy, h.device, h.keep⟩

/-! ## Resets (R592) -/

theorem enterReset_pwr (s : State) :
    (enterReset s).pwr = { (goDark s).pwr with phase := .held, wakeLatch := 0, refused := 0 } := rfl

/-- A reset takes every domain but PD0 and PD10, and the alarms. -/
theorem enterReset_dark (s : State) : Dark s (enterReset s) ∧ (enterReset s).time.alarms = [] := by
  have dark := goDark_dark s
  exact ⟨⟨dark.pd, dark.clkok, dark.steady, dark.running, dark.cells, dark.straps, dark.beat, dark.flash, dark.field,
    dark.enPhy, dark.device, dark.keep⟩, rfl⟩

/-- What a reset leaves of PD0's registers. -/
theorem enterReset_keeps (s : State) : (enterReset s).pwr.phase = .held ∧ (enterReset s).pwr.enCore = s.pwr.enCore ∧
    (enterReset s).pwr.enIo = s.pwr.enIo ∧ (enterReset s).pwr.resetN = s.pwr.resetN ∧
    (enterReset s).pwr.tamperN = s.pwr.tamperN ∧ (enterReset s).pwr.tampers = s.pwr.tampers ∧
    (enterReset s).pwr.glitches = s.pwr.glitches := by
  rw [enterReset_pwr, goDark_pwr]
  exact ⟨rfl, rfl, rfl, rfl, rfl, rfl, rfl⟩

theorem resetNow_before {s : State} (before : beforeStraps s.pwr = true) : resetNow s = resetWaits s := if_pos before

theorem resetNow_after {s : State} (after : beforeStraps s.pwr = false) : resetNow s = enterReset s :=
  if_neg (by rw [after]; decide)

/-! ## Starts (Tables 14-12 and 15-3) -/

theorem beginRails_eq (s : State) (cause : BitVec 4) (wakeFrom : BitVec 2) (keepLoad : Bool) :
    beginRails s cause wakeFrom keepLoad = { s with pwr := { s.pwr with
      pd := s.pwr.pd ||| 0x401, phase := .rails, enIo := true, wakeCause := cause, wakeFrom := wakeFrom, keepLoad := keepLoad
      wakeLatch := 0, refused := 0 } } := rfl

theorem leaveReset_goes {s : State} (held : s.pwr.phase = .held) (resetN : s.pwr.resetN = true) (tamperN : s.pwr.tamperN = true)
    (core : s.pwr.enCore = false) (io : s.pwr.enIo = false) : leaveReset s = beginRails s 8 3 false :=
  if_pos ⟨held, resetN, tamperN, by rw [core]; rfl, by rw [io]; rfl⟩

theorem leaveReset_stays {s : State} (stays : s.pwr.phase ≠ .held ∨ s.pwr.resetN = false ∨ s.pwr.tamperN = false) :
    leaveReset s = s := by
  refine if_neg ?_
  rintro ⟨held, resetN, tamperN, -, -⟩
  rcases stays with h | h | h
  · exact h held
  · exact absurd (h.symm.trans resetN) (by decide)
  · exact absurd (h.symm.trans tamperN) (by decide)

end Sys2Proof.Machine
end

/-! # Wakes, resets and supply faults (R553, R568 to R593, R640, R641) -/

section
namespace Sys2Proof.Machine

open Sys2Proof

theorem exec_wakeNAssert (s) : exec .wakeNAssert s = execWakeNAssert s := rfl
theorem exec_perstNRelease (s) : exec .perstNRelease s = execPerstNRelease s := rfl
theorem exec_faceTokenWake (s) : exec .faceTokenWake s = execFaceTokenWake s := rfl
theorem exec_wakeTestDone (s) : exec .wakeTestDone s = execWakeTestDone s := rfl
theorem exec_wakeRetest (s) : exec .wakeRetest s = execWakeRetest s := rfl
theorem exec_resetNAssert (s) : exec .resetNAssert s = execResetNAssert s := rfl
theorem exec_resetNRelease (s) : exec .resetNRelease s = execResetNRelease s := rfl
theorem exec_tamperNAssert (s) : exec .tamperNAssert s = execTamperNAssert s := rfl
theorem exec_tamperNRelease (s) : exec .tamperNRelease s = execTamperNRelease s := rfl
theorem exec_pd0Tick (s) : exec .pd0Tick s = execPd0Tick s := rfl
theorem exec_glitchDetect (s) : exec .glitchDetect s = execGlitchDetect s := rfl
theorem exec_clockLost (s) : exec .clockLost s = execClockLost s := rfl
theorem exec_supplyFault (why s) : exec (.supplyFault why) s = execSupplyFault why s := rfl
theorem exec_supplyFaultRestart (s) : exec .supplyFaultRestart s = execSupplyFaultRestart s := rfl

/-! ## Wake sources (Table 14-11) -/

/-- The commands of the sources of Table 14-11 that a level or a line gives, with their causes, and whether the straps heed
them. -/
theorem exec_wakeCommand (s : State) {e : Instr × BitVec 4 × Bool}
    (mem : e ∈ ([(.wakeNAssert, 1, true), (.shWakeNAssert, 2, shutWake s.straps),
      (.rowEnergyWake .a, 3, rowWake s.straps && rowAOn s.straps),
      (.rowEnergyWake .b, 4, rowWake s.straps && rowBOn s.straps)] : List (Instr × BitVec 4 × Bool))) :
    (exec e.1 s = if s.pwr.phase = .off then .next s else .next (if e.2.2 then wakeSource s e.2.1 else s)) ∧
      1 ≤ e.2.1.toNat ∧ e.2.1.toNat ≤ 4 := by
  simp only [List.mem_cons, List.not_mem_nil, or_false] at mem
  rcases mem with rfl | rfl | rfl | rfl
  · exact ⟨rfl, (by decide : 1 ≤ (1#4).toNat), (by decide : (1#4).toNat ≤ 4)⟩
  · exact ⟨rfl, (by decide : 1 ≤ (2#4).toNat), (by decide : (2#4).toNat ≤ 4)⟩
  · exact ⟨rfl, (by decide : 1 ≤ (3#4).toNat), (by decide : (3#4).toNat ≤ 4)⟩
  · exact ⟨rfl, (by decide : 1 ≤ (4#4).toNat), (by decide : (4#4).toNat ≤ 4)⟩

/-- What a wake called for from STANDBY or HIBERNATE begins: the rails under no tier, else the wake test. -/
theorem startWake_wakes (s : State) (hib : Bool) (sources : BitVec 16) :
    let u := startWake s hib sources
    let m := s.pwr.wakeLatch ||| sources
    u = { s with pwr := u.pwr } ∧ (s.pwr.refused = 0 → u.pwr.refused = 0) ∧ u.pwr.perstN = s.pwr.perstN ∧
    (energyTier s.straps = 0 → (u.pwr.phase = .rails ∧ u.pwr.enIo = true ∧ u.pwr.wakeCause = lowestCause m ∧
        u.pwr.wakeFrom = (if hib then 1 else 2) ∧ u.pwr.wakeLatch = 0 ∧ u.pwr.refused = 0) ∧ u.pwr.keepHeld = !hib ∧
      u.pwr.keepLoad = hib ∧ u.pwr.pd = s.pwr.pd ||| 0x401) ∧
    (energyTier s.straps ≠ 0 → u.pwr.phase = .wakeTest hib (lowestCause m) ∧ u.pwr.conversions = [] ∧ u.pwr.wakeLatch = m ∧
      u.pwr.pd = s.pwr.pd) := by
  intro u m
  by_cases none : energyTier s.straps = 0
  · have goes : u = wakeGo { s with pwr := { s.pwr with level := 4 } } hib (lowestCause m) := if_pos none
    rw [goes, wakeGo, beginRails_eq]
    exact ⟨rfl, fun _ => rfl, rfl, fun _ => ⟨⟨rfl, rfl, rfl, rfl, rfl, rfl⟩, rfl, rfl, rfl⟩, fun tier => absurd none tier⟩
  · have tests : u = beginTest s hib m := if_neg none
    rw [tests]
    exact ⟨rfl, fun refused => refused, rfl, fun tier => absurd tier none, fun _ => ⟨rfl, rfl, rfl, rfl⟩⟩

section
variable {s : State} {cause : BitVec 4}

theorem wakeSource_asleep {hib : Bool} (asleep : asleepSource cause = true)
    (phase : s.pwr.phase = if hib then .hibernate else .standby) :
    wakeSource s cause = if s.pwr.refused.getLsbD cause.toNat then s else startWake s hib (1#16 <<< cause.toNat) := by
  cases hib
  · rw [wakeSource, phase]; exact if_pos asleep
  · rw [wakeSource, phase]; exact if_pos asleep

theorem wakeSource_inRun (phase : s.pwr.phase = .run) : wakeSource s cause = wakeAgain s tendingSource cause := by
  rw [wakeSource, phase]

theorem wakeSource_rails (phase : s.pwr.phase = .rails) (asleep : asleepSource cause = true) : wakeSource s cause =
    { s with pwr := { s.pwr with wakeCause := lowerCause s s.pwr.wakeCause cause } } := by
  rw [wakeSource, phase]
  exact if_pos asleep

theorem wakeSource_descent {d : SleepTo} (phase : s.pwr.phase = .descent d) :
    wakeSource s cause = if latchedSource cause then latchSource s cause else s := by
  rw [wakeSource, phase]

theorem wakeSource_tending (phase : s.pwr.phase = .tending) (tending : tendingSource cause = true) :
    wakeSource s cause = wakeTending s cause := by
  rw [wakeSource, phase]
  exact if_pos tending

end

/-- Of WAKE_N, SH_WAKE_N and the row lines a descent latches the first two. -/
theorem latchedSource_of_small {cause : BitVec 4} (least : 1 ≤ cause.toNat) (most : cause.toNat ≤ 4) :
    latchedSource cause = decide (cause.toNat < 3) := by
  revert cause
  decide

/-! ## The wake test (R568) -/

section
variable {s : State} {hib : Bool} {c : BitVec 4}

theorem exec_wakeTestDone_passes (phase : s.pwr.phase = .wakeTest hib c) (full : s.pwr.conversions.length = 16)
    (enough : (if s.pwr.exhaustMark then tWarn (energyTier s.straps) else tExhausted (energyTier s.straps)) + 16 ≤
      s.pwr.conversions.sum / 16) :
    exec .wakeTestDone s = .next (wakeGo { s with pwr := { s.pwr with
      reading := BitVec.ofNat 12 (s.pwr.conversions.sum / 16), conversions := [], exhaustMark := false
      level := levelOf (energyTier s.straps) (s.pwr.conversions.sum / 16) } } hib c) := by
  have mean : meanOf s.pwr.conversions = s.pwr.conversions.sum / 16 := by rw [meanOf, full]
  rw [exec_wakeTestDone, execWakeTestDone, phase]
  dsimp only
  rw [mean]
  exact (if_neg (not_not.mpr full)).trans (if_pos enough)

theorem exec_wakeTestDone_refuses (phase : s.pwr.phase = .wakeTest hib c) (full : s.pwr.conversions.length = 16)
    (short : s.pwr.conversions.sum / 16 <
      (if s.pwr.exhaustMark then tWarn (energyTier s.straps) else tExhausted (energyTier s.straps)) + 16) :
    exec .wakeTestDone s = .next { s with pwr := { s.pwr with
      reading := BitVec.ofNat 12 (s.pwr.conversions.sum / 16), conversions := []
      phase := if hib then .hibernate else .standby, wakeLatch := 0, refused := s.pwr.refused ||| s.pwr.wakeLatch
      wakeRefusals := satAdd s.pwr.wakeRefusals 1 } } := by
  have mean : meanOf s.pwr.conversions = s.pwr.conversions.sum / 16 := by rw [meanOf, full]
  rw [exec_wakeTestDone, execWakeTestDone, phase]
  dsimp only
  rw [mean]
  exact (if_neg (not_not.mpr full)).trans (if_neg (Nat.not_le.mpr short))

end

theorem exec_wakeRetest_tests {s : State} {hib : Bool} (refused : s.pwr.refused ≠ 0)
    (phase : s.pwr.phase = if hib then .hibernate else .standby) :
    exec .wakeRetest s = .next (if persisting s = 0 then bumpFree { s with pwr := { s.pwr with refused := 0 } }
      else startWake (bumpFree { s with pwr := { s.pwr with refused := 0 } }) hib (persisting s)) := by
  rw [exec_wakeRetest, execWakeRetest]
  dsimp only
  rw [if_neg refused, phase]
  cases hib <;> rfl

/-- The sources tested again are refused ones, and an alarm and the release of PERST_N among them always (log 96). -/
theorem persisting_spec (s : State) : persisting s &&& ~~~s.pwr.refused = 0 ∧
    s.pwr.refused &&& 0x60 &&& ~~~persisting s = 0 := by
  rw [persisting]
  constructor <;>
    · refine BitVec.eq_of_getLsbD_eq fun i _ => ?_
      simp only [BitVec.getLsbD_and, BitVec.getLsbD_or, BitVec.getLsbD_not]
      cases s.pwr.refused.getLsbD i <;> cases (0x60#16).getLsbD i <;> simp

/-! ## Resets and supply faults (R553, R592, R593, R640, R641) -/

/-- Time after a tick: MCLK keeps it where it runs; beat 0 begins at the first tick of a qualified source (R94, R95). -/
def tickClock (s : State) : Time :=
  if s.pwr.clkok then s.time
  else if !s.time.begun then { s.time with begun := s.pwr.qualified }
  else if !s.pwr.qualified && !(match s.pwr.phase with | .cold _ => true | _ => false) then s.time
  else tickTime s

theorem execPd0Tick_eq (s : State) : execPd0Tick s = if s.pwr.phase = .off then .next s else
    let t := { s with time := tickClock s, pwr := { s.pwr with wakeNew := false } }
    .next (if s.pwr.phase = .held then heldTick t else wakeLatched t) := rfl

/-- A tick while a reset holds the device. -/
theorem exec_pd0Tick_held {s : State} (held : s.pwr.phase = .held) :
    exec .pd0Tick s = .next (heldTick { s with time := tickClock s, pwr := { s.pwr with wakeNew := false } }) := by
  rw [exec_pd0Tick, execPd0Tick_eq, if_neg (by rw [held]; decide)]
  dsimp only
  rw [if_pos held]

theorem heldTick_core {s : State} (core : s.pwr.enCore = true) :
    heldTick s = { s with pwr := { s.pwr with enCore := false, pgCore := false, vid := 10 } } := if_pos core

theorem heldTick_io {s : State} (core : s.pwr.enCore = false) (io : s.pwr.enIo = true) :
    heldTick s = { s with pwr := { s.pwr with enIo := false, pgIo := false } } :=
  (if_neg (by rw [core]; decide)).trans (if_pos io)

theorem heldTick_low {s : State} (core : s.pwr.enCore = false) (io : s.pwr.enIo = false) : heldTick s = leaveReset s :=
  (if_neg (by rw [core]; decide)).trans (if_neg (by rw [io]; decide))

theorem exec_resetNAssert_acts {s : State} (on : s.pwr.phase ≠ .off) :
    exec .resetNAssert s = .next (resetNow { s with pwr := { s.pwr with resetN := false } }) := by
  rw [exec_resetNAssert, execResetNAssert]
  dsimp only
  rw [if_neg on]

/-- TAMPER_N clears session keys and keep memory, and resets. -/
def tampered (s : State) : State :=
  zeroKeep { s with pwr := { s.pwr with tamperN := false, tampers := satAdd s.pwr.tampers 1 }, keys := { s.keys with session := 0 } }

theorem exec_tamperNAssert_acts {s : State} (on : s.pwr.phase ≠ .off) : exec .tamperNAssert s =
    .next { resetNow (tampered s) with pwr := { (resetNow (tampered s)).pwr with keepHeld := false } } := by
  rw [exec_tamperNAssert, execTamperNAssert]
  dsimp only
  rw [if_neg on]
  rfl

theorem readByte_tampered (s : State) {a : Nat} (keep : inKeep a = true) : readByte (tampered s).mem a = 0 :=
  (readByte_zeroKeep _ a).trans (if_pos keep)

/-- A glitch clears session keys, and resets. -/
def glitched (s : State) : State :=
  { s with pwr := { s.pwr with glitches := satAdd s.pwr.glitches 1 }, keys := { s.keys with session := 0 } }

theorem exec_glitchDetect_acts {s : State} (power : powered s 1 = true) :
    exec .glitchDetect s = .next (resetNow (glitched s)) :=
  (exec_glitchDetect s).trans (if_neg (by rw [power]; decide))

end Sys2Proof.Machine

namespace Sys2Proof.Wakes

open Sys2Proof Sys2Proof.Machine

/-- Settles O59: sources by the phase in which they qualify, the wake test, and each reset and supply fault by what it takes
from the domains. -/
theorem wakesResetsAndFaults : Obligations.WakesResetsAndFaults := by
  intro s p tier only dark keepSame rails wakes with' back
  have darkOf {u : State} (h : Dark s u) : dark u :=
    ⟨h.pd, h.clkok, h.steady, h.running, h.cells, h.straps, h.beat, h.flash, h.field, h.enPhy⟩
  refine ⟨fun e mem => ?_, fun idle => ?_, fun low host phase fresh => ?_, fun phase => ⟨?_, fun waits => ?_⟩,
    fun hib c phase full => ⟨fun enough => ?_, fun short => ?_⟩, fun hib refused phase => ?_, ⟨fun off => ?_, fun on =>
      ⟨fun before => ?_, fun after => ?_, ?_⟩, fun held => ⟨fun core => ?_, fun core io => ?_, fun core io => ⟨fun high quiet => ?_,
        fun quiet => ?_, fun high => ?_⟩⟩, fun stays => ?_, fun stays => ?_, fun power => ?_, fun clock => ?_,
      fun why fails => ?_⟩, fun faulted => ⟨fun high quiet => ?_, fun low => ?_⟩, fun cold => ?_⟩
  · obtain ⟨runs, least, most⟩ := exec_wakeCommand s mem
    have asleep : asleepSource e.2.1 = true := by
      rw [asleepSource, decide_eq_true least, decide_eq_true (show e.2.1.toNat ≤ 6 by omega)]; rfl
    have acts {phase : PowerPhase} (is : p.phase = phase) (on : phase ≠ .off) (heeded : e.2.2 = true) :
        exec e.1 s = .next (wakeSource s e.2.1) :=
      runs.trans ((if_neg (by rw [show s.pwr.phase = phase from is]; exact on)).trans (by rw [if_pos heeded]))
    refine ⟨fun idle => ?_, fun heeded => ⟨fun fresh => ⟨fun phase => ?_, fun phase => ?_⟩, fun refused phase => ?_,
      fun phase old => ?_, fun phase => ?_, fun d phase => ?_⟩⟩
    · by_cases off : s.pwr.phase = .off
      · exact runs.trans (if_pos off)
      · rw [runs, if_neg off, if_neg (by rw [idle.resolve_left off]; decide)]
    · obtain ⟨shape, -, -, free, tiered⟩ := startWake_wakes s false (1#16 <<< e.2.1.toNat)
      refine ⟨_, acts phase (by decide) heeded, ?_⟩
      rw [wakeSource_asleep (hib := false) asleep phase, if_neg (by rw [fresh]; decide)]
      exact ⟨shape, free, tiered⟩
    · obtain ⟨shape, -, -, free, tiered⟩ := startWake_wakes s true (1#16 <<< e.2.1.toNat)
      refine ⟨_, acts phase (by decide) heeded, ?_⟩
      rw [wakeSource_asleep (hib := true) asleep phase, if_neg (by rw [fresh]; decide)]
      exact ⟨shape, free, tiered⟩
    · rcases phase with phase | phase
      · rw [acts phase (by decide) heeded, wakeSource_asleep (hib := false) asleep phase, if_pos refused]
      · rw [acts phase (by decide) heeded, wakeSource_asleep (hib := true) asleep phase, if_pos refused]
    · rw [acts phase (by decide) heeded, wakeSource_run phase old]
    · rw [acts phase (by decide) heeded, wakeSource_rails phase asleep, lowerCause]
      simp only [Bool.and_eq_true, decide_eq_true_eq]
      rfl
    · rw [acts phase (by intro h; cases h) heeded, wakeSource_descent phase, latchedSource_of_small least most]
      simp only [decide_eq_true_eq]
      rfl
  · have serves := exec_perstNRelease s
    rw [execPerstNRelease] at serves
    refine serves.trans ?_
    dsimp only
    split
    · rename_i acts
      rw [Bool.and_eq_true] at acts
      rcases idle with off | high | phase
      · exact absurd (acts.2.symm.trans off) (by decide)
      · rw [show s.pwr.perstN = true from high] at acts
        exact absurd acts.1 (by decide)
      · rw [wakeSource_inRun (s := { s with pwr := { s.pwr with perstN := true } }) phase]
        rfl
    · rfl
  · obtain ⟨shape, -, perst, free, tiered⟩ := startWake_wakes { s with pwr := { p with perstN := true } } false (1#16 <<< 6)
    refine ⟨startWake { s with pwr := { p with perstN := true } } false (1#16 <<< 6), ?_, perst, ⟨free, tiered⟩, shape⟩
    rw [exec_perstNRelease, execPerstNRelease, show s.pwr.perstN = false from low, host]
    dsimp only
    rw [if_pos (by decide), wakeSource_asleep (s := { s with pwr := { s.pwr with perstN := true } }) (hib := false) rfl phase]
    exact congrArg Host.Outcome.next (if_neg (Bool.not_eq_true _ ▸ fresh))
  · exact ⟨_, (exec_wakeNAssert s).trans (if_neg (by rw [phase]; decide)), wakeSource_tending phase rfl⟩
  · exact ⟨_, (exec_faceTokenWake s).trans ((if_neg (not_not.mpr phase)).trans (if_neg (by rw [waits]; decide))),
      wakeSource_tending phase rfl⟩
  · refine ⟨_, exec_wakeTestDone_passes phase full enough, ?_⟩
    rw [wakeGo, beginRails_eq]
    exact ⟨rfl, rfl, ⟨rfl, rfl, rfl, rfl, rfl, rfl⟩, rfl, rfl⟩
  · exact ⟨_, exec_wakeTestDone_refuses phase full short, rfl, rfl, rfl, rfl, rfl, rfl⟩
  · obtain ⟨inside, kept⟩ := persisting_spec s
    have serves := exec_wakeRetest_tests refused phase
    obtain ⟨shape, none, -, free, tiered⟩ := startWake_wakes (bumpFree { s with pwr := { s.pwr with refused := 0 } }) hib (persisting s)
    refine ⟨_, serves, ?_, persisting s, inside, kept, fun idle => ?_, fun some' => ?_⟩
    · split
      · rfl
      · rw [shape]; rfl
    · rw [if_pos idle]; rfl
    · rw [if_neg some']
      exact ⟨none rfl, free, tiered⟩
  · rw [exec_resetNAssert, execResetNAssert]
    dsimp only
    rw [if_pos off]
  · refine ⟨_, exec_resetNAssert_acts on, ?_⟩
    rw [resetNow_before (s := { s with pwr := { s.pwr with resetN := false } }) before]
    exact ⟨⟨rfl, rfl, rfl, rfl⟩, rfl, rfl⟩
  · refine ⟨_, exec_resetNAssert_acts on, ?_⟩
    rw [resetNow_after (s := { s with pwr := { s.pwr with resetN := false } }) after]
    obtain ⟨⟨pd, clkok, steady, running, cells, straps, beat, flash, field, enPhy, device, keep⟩, alarms⟩ :=
      enterReset_dark { s with pwr := { s.pwr with resetN := false } }
    obtain ⟨phase, core, io, high, -⟩ := enterReset_keeps { s with pwr := { s.pwr with resetN := false } }
    exact ⟨⟨⟨pd, clkok, steady, running, cells, straps, beat, flash, field, enPhy⟩, phase, core, io, alarms⟩, high, keep,
      (congrArg Machine.Keys.device device :)⟩
  · refine ⟨_, exec_tamperNAssert_acts on, ?_⟩
    rcases Bool.eq_false_or_eq_true (beforeStraps p) with before | after
    · rw [resetNow_before (s := tampered s) before]
      exact ⟨rfl, rfl, rfl, rfl, fun a keep => readByte_tampered s keep, fun _ => ⟨rfl, rfl, rfl, rfl⟩,
        fun after => absurd (before.symm.trans after) (by decide)⟩
    · rw [resetNow_after (s := tampered s) after]
      obtain ⟨⟨pd, clkok, steady, running, cells, straps, beat, flash, field, enPhy, device, keep⟩, alarms⟩ :=
        enterReset_dark (tampered s)
      obtain ⟨phase, core, io, -, quiet, tampers, -⟩ := enterReset_keeps (tampered s)
      exact ⟨(congrArg Machine.Keys.session device :), quiet, tampers, rfl, fun a inside => (keep a inside).trans (readByte_tampered s inside),
        fun before => absurd (before.symm.trans after) (by decide),
        fun _ => ⟨⟨pd, clkok, steady, running, cells, straps, beat, flash, field, enPhy⟩, phase, core, io, alarms⟩⟩
  · refine ⟨_, exec_pd0Tick_held held, ?_⟩
    rw [heldTick_core (s := { s with time := tickClock s, pwr := { s.pwr with wakeNew := false } }) core]
    exact ⟨held, rfl, rfl, rfl, rfl⟩
  · refine ⟨_, exec_pd0Tick_held held, ?_⟩
    rw [heldTick_io (s := { s with time := tickClock s, pwr := { s.pwr with wakeNew := false } }) core io]
    exact ⟨held, rfl, rfl⟩
  · refine ⟨_, exec_pd0Tick_held held, ?_⟩
    rw [heldTick_low (s := { s with time := tickClock s, pwr := { s.pwr with wakeNew := false } }) core io,
      leaveReset_goes (s := { s with time := tickClock s, pwr := { s.pwr with wakeNew := false } }) held high quiet core io]
    exact ⟨rfl, rfl, rfl, rfl, rfl, rfl⟩
  · refine ⟨_, exec_resetNRelease s, ?_⟩
    rw [leaveReset_goes (s := { s with pwr := { s.pwr with resetN := true } }) held rfl quiet core io]
    exact ⟨rfl, rfl, rfl, rfl, rfl, rfl⟩
  · refine ⟨_, exec_tamperNRelease s, ?_⟩
    rw [leaveReset_goes (s := { s with pwr := { s.pwr with tamperN := true } }) held high rfl core io]
    exact ⟨rfl, rfl, rfl, rfl, rfl, rfl⟩
  · rw [exec_resetNRelease, execResetNRelease,
      leaveReset_stays (s := { s with pwr := { s.pwr with resetN := true } }) (stays.imp_right Or.inr)]
  · rw [exec_tamperNRelease, execTamperNRelease,
      leaveReset_stays (s := { s with pwr := { s.pwr with tamperN := true } }) (stays.imp_right Or.inl)]
  · refine ⟨_, exec_glitchDetect_acts power, ?_⟩
    rcases Bool.eq_false_or_eq_true (beforeStraps p) with before | after
    · rw [resetNow_before (s := glitched s) before]
      exact ⟨rfl, rfl, fun _ => ⟨rfl, rfl, rfl, rfl⟩, fun after => absurd (before.symm.trans after) (by decide)⟩
    · rw [resetNow_after (s := glitched s) after]
      obtain ⟨⟨pd, clkok, steady, running, cells, straps, beat, flash, field, enPhy, device, keep⟩, alarms⟩ :=
        enterReset_dark (glitched s)
      obtain ⟨phase, core, io, -, -, -, glitches⟩ := enterReset_keeps (glitched s)
      exact ⟨(congrArg Machine.Keys.session device :), glitches, fun before => absurd (before.symm.trans after) (by decide),
        fun _ => ⟨⟨⟨pd, clkok, steady, running, cells, straps, beat, flash, field, enPhy⟩, phase, core, io, alarms⟩, keep⟩⟩
  · refine ⟨_, (exec_clockLost s).trans (if_neg (by rw [clock]; decide)), ?_⟩
    obtain ⟨enIo, enCore, losses, -⟩ := goDark_counts s
    have off := (goDark_dark s).setPwr (q := { (goDark s).pwr with
      phase := .clockLost, qualified := false, clockLosses := satAdd (goDark s).pwr.clockLosses 1, wakeLatch := 0 })
      rfl rfl rfl rfl (goDark_dark s).enPhy
    exact ⟨darkOf off, off.keep, rfl, rfl, enIo, enCore, congrArg (satAdd · 1) losses⟩
  · obtain ⟨-, -, -, faults⟩ := goDark_counts s
    have off := (goDark_dark s).setPwr (q := { enablesLow (goDark s).pwr with
      phase := if coldStart s.pwr then .cold true else .faulted, supplyFaults := satAdd (goDark s).pwr.supplyFaults 1 })
      rfl rfl rfl rfl rfl
    exact ⟨_, (exec_supplyFault why s).trans (if_neg (by rw [fails]; decide)), darkOf off, rfl, rfl, off.keep,
      congrArg (satAdd · 1) faults, rfl⟩
  · refine ⟨beginRails s 9 3 false, ?_, rfl, rfl, rfl, rfl, rfl, rfl⟩
    rw [exec_supplyFaultRestart, execSupplyFaultRestart, faulted]
    dsimp only
    rw [high, quiet]
    rfl
  · have held : ¬ (p.resetN && p.tamperN) = true := by
      rcases low with h | h <;> rw [h] <;> simp
    rw [exec_supplyFaultRestart, execSupplyFaultRestart, faulted]
    exact congrArg Host.Outcome.next (if_neg held)
  · rw [exec_supplyFaultRestart, execSupplyFaultRestart, cold]

end Sys2Proof.Wakes
end

/-! # Powering up (R551 to R553, R587 to R598) -/

section
namespace Sys2Proof.Machine

open Sys2Proof

theorem exec_vbatPowerOn (s) : exec .vbatPowerOn s = execVbatPowerOn s := rfl
theorem exec_vbatPowerOff (s) : exec .vbatPowerOff s = execVbatPowerOff s := rfl
theorem exec_firstTickEnIo (s) : exec .firstTickEnIo s = execFirstTickEnIo s := rfl
theorem exec_pgIoRise (s) : exec .pgIoRise s = execPgIoRise s := rfl
theorem exec_pgCoreRise (s) : exec .pgCoreRise s = execPgCoreRise s := rfl
theorem exec_sourceQualified (s) : exec .sourceQualified s = execSourceQualified s := rfl
theorem exec_strapSamplingDone (readings s) : exec (.strapSamplingDone readings) s = execStrapSamplingDone readings s := rfl
theorem exec_clkokRise (s) : exec .clkokRise s = execClkokRise s := rfl
theorem exec_phyRailWaitDone (s) : exec .phyRailWaitDone s = execPhyRailWaitDone s := rfl
theorem exec_quadrantPowerUp (s) : exec .quadrantPowerUp s = execQuadrantPowerUp s := rfl
theorem exec_bankClearDone (q s) : exec (.bankClearDone q) s = execBankClearDone q s := rfl
theorem exec_fabricUp (s) : exec .fabricUp s = execFabricUp s := rfl
theorem exec_steadyRise (s) : exec .steadyRise s = execSteadyRise s := rfl

/-! ## The rails and the source (R551, R552, R85) -/

section
variable {s : State}

theorem railsGood_waits (waits : s.pwr.pgIo = false ∨ s.pwr.pgCore = false) : railsGood s = s := by
  have low : (s.pwr.pgIo && s.pwr.pgCore) = false := by
    rcases waits with h | h <;> rw [h] <;> simp
  rw [railsGood]
  split
  · rw [Bool.and_assoc, low]; exact if_neg (by simp)
  · rw [low]; rfl
  · rfl

theorem railsGood_rails (phase : s.pwr.phase = .rails) (io : s.pwr.pgIo = true) (core : s.pwr.pgCore = true) :
    railsGood s = beginLock s := by
  rw [railsGood, phase]
  exact if_pos (by rw [io, core]; rfl)

theorem railsGood_cold (phase : s.pwr.phase = .cold false) :
    railsGood s = if s.pwr.qualified && s.pwr.pgIo && s.pwr.pgCore then beginSampling s else s := by
  rw [railsGood, phase]

theorem beginLock_eq (s : State) :
    beginLock s = { s with pwr := { s.pwr with pd := s.pwr.pd ||| 0x802, phase := .locking } } := rfl

theorem beginSampling_eq (s : State) :
    beginSampling s = { s with pwr := { s.pwr with pd := s.pwr.pd ||| 0x802, phase := .sampling } } := rfl

end

/-- The source of a cold start is qualified. -/
theorem exec_sourceQualified_cold {s : State} (unqualified : s.pwr.qualified = false) (phase : s.pwr.phase = .cold false) :
    exec .sourceQualified s = .next (if s.pwr.pgIo && s.pwr.pgCore then
      beginSampling { s with pwr := { s.pwr with qualified := true } } else { s with pwr := { s.pwr with qualified := true } }) := by
  have waits : ¬ (s.pwr.phase = .off ∨ s.pwr.qualified = true) := by
    rintro (h | h)
    · exact absurd (phase.symm.trans h) (by decide)
    · exact absurd (unqualified.symm.trans h) (by decide)
  have good := railsGood_cold (s := { s with pwr := { s.pwr with qualified := true } }) phase
  refine (exec_sourceQualified s).trans ((if_neg waits).trans ?_)
  split
  · rename_i lost
    exact absurd (phase.symm.trans lost) (by decide)
  · exact congrArg Host.Outcome.next good

/-- The source is qualified again after a clock loss (R87). -/
theorem exec_sourceQualified_lost {s : State} (unqualified : s.pwr.qualified = false) (phase : s.pwr.phase = .clockLost) :
    exec .sourceQualified s = .next (beginLock { s with pwr := { s.pwr with
      qualified := true, wakeCause := 9, wakeFrom := 3, keepLoad := false } }) := by
  have waits : ¬ (s.pwr.phase = .off ∨ s.pwr.qualified = true) := by
    rintro (h | h)
    · exact absurd (phase.symm.trans h) (by decide)
    · exact absurd (unqualified.symm.trans h) (by decide)
  refine (exec_sourceQualified s).trans ((if_neg waits).trans ?_)
  split
  · rfl
  · rename_i other
    exact absurd phase other

/-! ## The faces (R551) -/

/-- The faces of a mask power up as their wait ends: the host's, then the row's. -/
def facesUp (s : State) (h r : Bool) : State :=
  let t := if h then
    hostResetNotice { powerUp s [6] with host := { HostFace.clear with released := s.pwr.fabricUp } } 0 0 3 else s
  if r then powerUp t [8] else t

theorem postNotice_keeps (s : State) (code : BitVec 12) (v : W64) : (postNotice s code v).mem = s.mem ∧
    (postNotice s code v).cells = s.cells ∧ (postNotice s code v).pwr = s.pwr ∧ (postNotice s code v).host = s.host := by
  rw [postNotice]
  split <;> exact ⟨rfl, rfl, rfl, rfl⟩

theorem facesUp_spec (s : State) (h r : Bool) : (facesUp s h r).mem = s.mem ∧ (facesUp s h r).cells = s.cells ∧
    (facesUp s h r).pwr = { s.pwr with pd := s.pwr.pd ||| (if h then 0x40 else 0) ||| (if r then 0x100 else 0) } ∧
    (facesUp s h r).host = if h then { HostFace.clear with released := s.pwr.fabricUp } else s.host := by
  obtain ⟨mem, cells, pwr, host⟩ := postNotice_keeps
    { powerUp s [6] with host := { HostFace.clear with released := s.pwr.fabricUp } } 0x083
    ((BitVec.ofNat 8 (min 255 0) ++ BitVec.ofNat 8 0 ++ (0 : BitVec 6) ++ (3 : BitVec 2) : BitVec 24).setWidth 64)
  have none : s.pwr.pd ||| 0 = s.pwr.pd := BitVec.or_zero
  cases h <;> cases r
  · refine ⟨rfl, rfl, ?_, rfl⟩
    simp only [Bool.false_eq_true, if_false]
    rw [none, none]
    rfl
  · refine ⟨rfl, rfl, ?_, rfl⟩
    simp only [Bool.false_eq_true, if_false, if_true]
    rw [none]
    rfl
  · refine ⟨mem, cells, ?_, host⟩
    refine Eq.trans pwr ?_
    exact congrArg (fun pd => { s.pwr with pd := pd }) BitVec.or_zero.symm
  · refine ⟨mem, cells, ?_, host⟩
    exact congrArg (fun q : Power => { q with pd := q.pd ||| 0x100 }) pwr

/-! ## Straps and ticks (R53, R57 to R59, R95, R587) -/

theorem strapCodes_of_thirteen {rs : List (List Nat)} (length : rs.length = 13) : strapCodes rs = rs.map pinCode := by
  refine List.ext_getElem (by simp [strapCodes, length]) fun i _ inside => ?_
  rw [List.length_map] at inside
  simp [strapCodes, List.getD_eq_getElem?_getD, inside]

theorem wakeLatched_none {s : State} (none : s.pwr.wakeLatch = 0) : wakeLatched s = s := by
  rw [wakeLatched]
  split
  · exact if_pos none
  · exact if_pos none
  · refine (if_pos (by rw [none]; rfl)).trans ?_
    rw [← none]
  · rfl

/-- A tick with no wake source latched. -/
theorem exec_pd0Tick_ticks {s : State} (on : s.pwr.phase ≠ .off) (free : s.pwr.phase ≠ .held) (none : s.pwr.wakeLatch = 0) :
    exec .pd0Tick s = .next { s with time := tickClock s, pwr := { s.pwr with wakeNew := false } } := by
  rw [exec_pd0Tick, execPd0Tick_eq, if_neg on]
  dsimp only
  rw [if_neg free, wakeLatched_none (s := { s with time := tickClock s, pwr := { s.pwr with wakeNew := false } }) none]

theorem tickClock_counts {s : State} (stopped : s.pwr.clkok = false) (begun : s.time.begun = true)
    (qualified : s.pwr.qualified = true) (latched : s.straps.latched = true) :
    (tickClock s).held = s.time.held ∧
    (tickClock s).beat = s.time.beat + BitVec.ofNat 48 ((s.time.sub.toNat + 32000) / 2 ^ beatExp s.straps) ∧
    (tickClock s).sub = BitVec.ofNat 17 ((s.time.sub.toNat + 32000) % 2 ^ beatExp s.straps) := by
  have ticks : tickClock s = tickTime s := by
    rw [tickClock, stopped, begun, qualified]
    rfl
  rw [ticks, tickTime]
  dsimp only
  rw [if_pos latched]
  cases coldStart s.pwr <;> exact ⟨rfl, rfl, rfl⟩

/-! ## Quadrants (R301, R404, R588) -/

theorem nextQuadrant_eq {s : State} {q : BitVec 2} (off : powered s (2 + q.toNat) = false)
    (higher : ∀ r < 4, q.toNat < r → powered s (2 + r) = true) : nextQuadrant s = some q.toNat := by
  have bound := q.isLt
  rw [nextQuadrant]
  generalize q.toNat = k at *
  interval_cases k
  · simp [off, higher 1, higher 2, higher 3]
  · simp [off, higher 2, higher 3]
  · simp [off, higher 3]
  · simp [off]

/-- A quadrant that powers up, before the router accepts what waits. -/
def quadrantUp (s : State) (q : Nat) : State :=
  let t := powerUp (dropQuads (1#4 <<< q) true s) [2 + q]
  spendEdge { t with pwr := { t.pwr with clearing := t.pwr.clearing ||| (1#4 <<< q) } } 1

theorem exec_quadrantPowerUp_next {s : State} {q : BitVec 2} (clock : s.pwr.clkok = true) (run : s.pwr.phase = .run)
    (edge : s.time.edge.getLsbD 1 = true) (sel : powered s 9 = true) (next : nextQuadrant s = some q.toNat) :
    exec .quadrantPowerUp s = .next (drain (quadrantUp s q.toNat) (cornerTile q.toNat) true) := by
  have open' : ¬ (!s.pwr.clkok || decide (s.pwr.phase ≠ .run) || !s.time.edge.getLsbD 1) = true := by
    rw [clock, run, edge]; decide
  refine (exec_quadrantPowerUp s).trans ((if_neg open').trans ?_)
  rw [next]
  dsimp only
  rw [if_pos sel]
  rfl

theorem quadrantDomain (q : BitVec 2) : pdMask [2 + q.toNat] = 4#12 <<< q := by
  revert q; decide

/-! ## Fabric up (R133, R412, R588) -/

theorem readBytes_congr_on {m m' : Mem} {a n : Nat} (same : ∀ i < n, readByte m' (a + i) = readByte m (a + i)) :
    readBytes m' a n = readBytes m a n := by
  induction n generalizing a with
  | zero => rfl
  | succ n ih =>
    refine congrArg₂ List.cons (same 0 (by omega)) (ih fun i small => ?_)
    rw [Nat.add_assoc, Nat.add_comm 1]
    exact same (i + 1) (by omega)

/-- Descriptors written for contexts one after another: each context's word, and no other byte. -/
theorem writeWords_descriptors (v : W64) (cs : List Nat) (m : Mem) :
    (∀ c, readWord (cs.foldl (fun m c => writeWord m (64 * c) v) m) (64 * c) =
      if c ∈ cs then v else readWord m (64 * c)) ∧
    ∀ a, (∀ c ∈ cs, a < 64 * c ∨ 64 * c + 8 ≤ a) →
      readByte (cs.foldl (fun m c => writeWord m (64 * c) v) m) a = readByte m a := by
  induction cs generalizing m with
  | nil => exact ⟨fun c => rfl, fun a _ => rfl⟩
  | cons d cs ih =>
    obtain ⟨words, bytes⟩ := ih (writeWord m (64 * d) v)
    refine ⟨fun c => (words c).trans ?_, fun a outside => ?_⟩
    · by_cases later : c ∈ cs
      · rw [if_pos later, if_pos (List.mem_cons_of_mem _ later)]
      · rw [if_neg later]
        obtain rfl | other := eq_or_ne c d
        · rw [if_pos List.mem_cons_self, readWord_writeWord]
        · rw [if_neg (by simp [other, later]), readWord, readWord, readBytes_congr_on fun i small =>
            readByte_writeWord_outside m (64 * d) (64 * c + i) v (by omega)]
    · rw [List.forall_mem_cons] at outside
      exact (bytes a outside.2).trans (readByte_writeWord_outside m (64 * d) a v outside.1)

/-- Rows that begin to train change their ports alone. -/
theorem trainRows_keeps (s : State) : (trainRows s).pwr = s.pwr ∧ (trainRows s).mem = s.mem ∧ (trainRows s).host = s.host ∧
    (trainRows s).straps = s.straps := by
  rw [trainRows]
  split <;> exact ⟨rfl, rfl, rfl, rfl⟩

/-- The boot step begins with a read of the flash where its source names it, and else has ended. -/
theorem beginBoot_spec (s : State) : (beginBoot s).pwr = s.pwr ∧ (beginBoot s).mem = s.mem ∧ (beginBoot s).host = s.host ∧
    (beginBoot s).stw.boot = if (bootSource s.straps).1 = 0 ∨ (bootSource s.straps).1 = 1 ∨ (bootSource s.straps).1 = 5 then
      .reading else .done := by
  rw [beginBoot]
  dsimp only
  split
  · rw [beginRead, onlySends_flashCommand]
    exact ⟨rfl, rfl, rfl, rfl⟩
  · exact ⟨rfl, rfl, rfl, rfl⟩

/-! ## STEADY (R50, R598) -/

/-- Frames that STEADY takes in change streams, ports, and reports. -/
structure TakesIn (s t : State) : Prop where
  shape : t = { s with rowA := t.rowA, rowB := t.rowB, streams := t.streams, stw := { s.stw with nodeSerial := t.stw.nodeSerial }
                       weave := t.weave, mem := t.mem, freeCounter := t.freeCounter }
  mem : MarksOnly s.mem t.mem
  kept : ∀ q, (rowAt t q).kept = (rowAt s q).kept

theorem TakesIn.refl (s : State) : TakesIn s s := ⟨rfl, MarksOnly.refl _, fun _ => rfl⟩

theorem TakesIn.trans {a b c : State} (h : TakesIn a b) (g : TakesIn b c) : TakesIn a c :=
  ⟨by rw [g.shape, h.shape], h.mem.trans g.mem, fun q => (g.kept q).trans (h.kept q)⟩

theorem TakesIn.foldl {α : Type} {g : State → α → State} (step : ∀ s a, TakesIn s (g s a)) (l : List α) (s : State) :
    TakesIn s (l.foldl g s) := by
  induction l generalizing s with
  | nil => exact TakesIn.refl s
  | cons a l ih => exact (step s a).trans (ih _)

theorem setRow_takesIn (s : State) {r : RowId} {x : RowPort} (kept : x.kept = (rowAt s r).kept) :
    TakesIn s (setRow s r x) := by
  refine ⟨by cases r <;> rfl, by rw [setRow_mem]; exact MarksOnly.refl _, fun q => ?_⟩
  cases r <;> cases q
  · exact kept
  · rfl
  · rfl
  · exact kept

theorem setRawTake_takesIn (s : State) (r : RowId) (ws : List W64) : TakesIn s (setRawTake s r ws) := by
  cases r <;> exact ⟨rfl, MarksOnly.refl _, fun q => by cases q <;> rfl⟩

theorem settleAnswers_takesIn (fuel : Nat) (s : State) (r : RowId) : TakesIn s (settleAnswers fuel s r) := by
  induction fuel generalizing s with
  | zero => rw [settleAnswers.eq_def]; exact TakesIn.refl s
  | succ n ih =>
    rw [settleAnswers.eq_def]
    cases (rowAt s r).answers with
    | nil => exact TakesIn.refl s
    | cons a rest =>
      dsimp only
      split
      · exact (setRow_takesIn (x := { rowAt s r with answers := rest }) s rfl).trans ((setRawTake_takesIn ..).trans (ih _))
      · exact TakesIn.refl s

theorem takeAnswerFrame_takesIn (s : State) (r : RowId) (words : List Byte) : TakesIn s (takeAnswerFrame s r words) := by
  rw [takeAnswerFrame]
  refine TakesIn.trans ?_ (settleAnswers_takesIn ..)
  have held := setRow_takesIn s (r := r) (x := { rowAt s r with answers := (rowAt s r).answers ++ [words] }) rfl
  split
  · exact held.trans (setRow_takesIn _ rfl)
  · exact held

theorem convertFrame_takesIn (s : State) (r : RowId) (f : List Byte) : TakesIn s (convertFrame r s f) := by
  have treats := convertFrame_treats r s f
  have converted := convertFrame_converted r s f
  refine ⟨by rw [treats.shape], treats.mem, fun q => ?_⟩
  have port : (rowAt (convertFrame r s f) r).kept = (rowAt s r).kept := by rw [converted.port]
  have other : (rowAt (convertFrame r s f) (otherRow r)).kept = (rowAt s (otherRow r)).kept := by rw [converted.quiet.other]
  cases r <;> cases q
  · exact port
  · exact other
  · exact other
  · exact port

theorem takeKept_takesIn (r : RowId) (s : State) (words : List Byte) : TakesIn s (takeKept r s words) := by
  rw [takeKept]
  split
  · exact takeAnswerFrame_takesIn ..
  · exact convertFrame_takesIn ..

/-- The kept frames of a port are taken in, and none stays. -/
theorem takeAllKept_takesIn (s : State) (r : RowId) : TakesIn (setRow s r { rowAt s r with kept := [] }) (takeAllKept s r) :=
  TakesIn.foldl (fun s w => takeKept_takesIn r s w) _ _

theorem takeAllKept_none {s : State} {r : RowId} (none : (rowAt s r).kept = []) : takeAllKept s r = s := by
  have same : ({ rowAt s r with kept := [] } : RowPort) = rowAt s r := by rw [← none]
  rw [takeAllKept, same, setRow_rowAt, none]
  rfl

theorem TakesIn.facts {s t : State} (h : TakesIn s t) : t.pwr = s.pwr ∧ t.time = s.time ∧ t.stw.started = s.stw.started ∧
    t.stw.image = s.stw.image := by
  rw [h.shape]
  exact ⟨rfl, rfl, rfl, rfl⟩

/-- What taking in a port's kept frames leaves. -/
theorem takeAllKept_spec (s : State) (r : RowId) : let u := takeAllKept s r
    u.pwr = s.pwr ∧ u.time = s.time ∧ u.stw.started = s.stw.started ∧ u.stw.image = s.stw.image ∧ SameBytes s.mem u.mem ∧
      (rowAt u r).kept = [] ∧ (rowAt u (otherRow r)).kept = (rowAt s (otherRow r)).kept := by
  have takes := takeAllKept_takesIn s r
  obtain ⟨pwr, time, started, image⟩ := takes.facts
  have bytes := takes.mem.readByte
  have kept := takes.kept r
  have other := takes.kept (otherRow r)
  rw [setRow_pwr] at pwr
  rw [setRow_time] at time
  rw [setRow_stw] at started image
  rw [setRow_mem] at bytes
  rw [rowAt_setRow_same] at kept
  rw [rowAt_setRow_other] at other
  exact ⟨pwr, time, started, image, bytes, kept, other⟩

/-- The state with a graph started. -/
def graphBegun (s : State) : State := { s with stw := { s.stw with started := true } }

theorem startGraph_of_image {s : State} {i : Image} (image : s.stw.image = some i) (base : BitVec 48) :
    startGraph s base = injectInit (graphBegun s) base i.init := by
  rw [startGraph]
  split
  · rename_i j same
    obtain rfl := Option.some.inj (image.symm.trans same)
    rfl
  · rename_i none
    exact absurd (image.symm.trans none) (by simp)

theorem injectInit_enters (s : State) (base : BitVec 48) (ts : List Token) : Enters s (injectInit s base ts) :=
  produceAll_enters ..

/-- The state as STEADY rises, before the image starts. -/
def steadied (s : State) : State :=
  { s with pwr := { s.pwr with steady := true }, time := { s.time with steadyAt := s.time.beat, edge := s.time.edge &&& 0xF } }

theorem exec_steadyRise_rises {s : State} (clock : s.pwr.clkok = true) (run : s.pwr.phase = .run)
    (up : s.pwr.fabricUp = true) (done : s.stw.boot = .done) (low : s.pwr.steady = false)
    (edge : s.time.edge.getLsbD 4 = true) :
    exec .steadyRise s = .next (takeAllKept (takeAllKept (startGraph (steadied s) s.time.beat) .a) .b) := by
  refine (exec_steadyRise s).trans (if_neg ?_)
  rw [clock, run, up, done, low, edge]
  decide

end Sys2Proof.Machine

namespace Sys2Proof.PowerUp

open Sys2Proof Sys2Proof.Machine

/-- Settles O57: each step from VBAT to STEADY by the condition under which it is taken. -/
theorem poweringUp : Obligations.PoweringUp := by
  intro s p only
  refine ⟨fun off => ?_, fun on => ?_, fun cold low => ?_, fun io low core => ?_, fun core low => ⟨fun phase io => ?_,
    fun phase => ?_⟩, fun unqualified => ⟨fun phase => ?_, fun phase => ?_⟩, fun rs wf phase quiet high tamper => ?_,
    fun on free stopped none qualified latched => ⟨fun begun => ?_, fun fresh => ?_⟩, fun phase qualified => ?_,
    fun clock => ⟨fun phy => ?_, fun q clearing => ?_, fun run => ⟨fun q edge off higher sel => ?_, fun cleared down => ?_,
      fun up done low edge => ⟨fun none keptA keptB => ?_, fun i image => ?_⟩⟩⟩⟩
  · exact (exec_vbatPowerOn s).trans (if_neg (not_not.mpr off))
  · exact ⟨_, (exec_vbatPowerOff s).trans (if_neg on), rfl, rfl, rfl, rfl, rfl, rfl, rfl, rfl, rfl, rfl, rfl⟩
  · exact (exec_firstTickEnIo s).trans (if_neg (by rintro (h | h); exacts [h cold, absurd (low.symm.trans h) (by decide)]))
  · refine (exec_pgIoRise s).trans ((if_neg (by rw [io, low]; decide)).trans ?_)
    rw [railsGood_waits (s := { s with pwr := { s.pwr with pgIo := true, enCore := true, wakeNew := false } }) (Or.inr core)]
  · refine (exec_pgCoreRise s).trans ((if_neg (by rw [core, low]; decide)).trans ?_)
    rw [railsGood_rails (s := { s with pwr := { s.pwr with pgCore := true } }) phase io rfl]
    rfl
  · refine (exec_pgCoreRise s).trans ((if_neg (by rw [core, low]; decide)).trans ?_)
    rw [railsGood_cold (s := { s with pwr := { s.pwr with pgCore := true } }) phase, Bool.and_true]
    split <;> rfl
  · rw [exec_sourceQualified_cold unqualified phase]
    by_cases both : (p.pgIo && p.pgCore) = true
    · rw [if_pos both, if_pos both]
      rfl
    · rw [if_neg both, if_neg both]
  · exact ⟨_, exec_sourceQualified_lost unqualified phase, rfl⟩
  · have length : rs.length = 13 := by
      rw [wfReadings, Bool.and_eq_true, beq_iff_eq] at wf
      exact wf.1
    intro cs
    have serves := (exec_strapSamplingDone rs s).trans (if_neg (not_not.mpr phase))
    rw [strapCodes_of_thirteen length] at serves
    refine ⟨_, serves, ?_⟩
    rw [if_neg (by rw [quiet, high, tamper]; decide)]
    exact ⟨rfl, rfl, rfl, rfl, rfl, rfl, rfl, rfl, rfl, rfl, rfl, rfl, rfl, rfl, rfl, fun a => readByte_zeroKeep _ a, rfl⟩
  · obtain ⟨held, beat, sub⟩ := tickClock_counts stopped begun qualified latched
    exact ⟨_, exec_pd0Tick_ticks on free none, rfl, held, beat, sub⟩
  · have begins : tickClock s = { s.time with begun := true } := by
      rw [tickClock, stopped, fresh, show s.pwr.qualified = true from qualified]
      rfl
    rw [exec_pd0Tick_ticks on free none, begins]
  · have serves := (exec_clkokRise s).trans (if_neg (by
      rintro (h | h)
      · exact h phase
      · rw [show s.pwr.qualified = true from qualified] at h
        cases h))
    refine ⟨_, serves, rfl, rfl, rfl, rfl, rfl, ?_, rfl, rfl, rfl, rfl, fun tier => if_pos tier⟩
    cases shutOn s.straps <;> rfl
  · intro h r needs
    have need : ¬ (!s.pwr.clkok || !s.pwr.enPhy || !(h || r)) = true := by
      rw [show s.pwr.clkok = true from clock, show s.pwr.enPhy = true from phy]
      rcases needs with need | need <;> rw [need] <;> simp
    obtain ⟨mem, cells, pwr, host⟩ := facesUp_spec s h r
    refine ⟨_, (exec_phyRailWaitDone s).trans (if_neg need), mem, cells, pwr, fun on => host.trans (if_pos on), fun off =>
      host.trans (if_neg ?_)⟩
    rw [off]
    decide
  · have serves := (exec_bankClearDone q s).trans (if_neg (by
      rw [show s.pwr.clkok = true from clock, show s.pwr.clearing.getLsbD q.toNat = true from clearing]; decide))
    refine ⟨_, serves, rfl, fun j small => ?_⟩
    have bit : (1#4 <<< q.toNat).getLsbD j = decide (j = q.toNat) := by
      have bound := q.isLt
      generalize q.toNat = k at *
      interval_cases k <;> interval_cases j <;> rfl
    refine ⟨?_, ?_⟩
    · show (s.pwr.clearing &&& ~~~(1#4 <<< q.toNat)).getLsbD j = _
      rw [BitVec.getLsbD_and, BitVec.getLsbD_not, bit, decide_eq_true small, Bool.true_and, decide_not]
    · show (s.pwr.cleared ||| (1#4 <<< q.toNat)).getLsbD j = _
      rw [BitVec.getLsbD_or, bit]
  · have enters := drain_enters (quadrantUp s q.toNat) (cornerTile q.toNat) true
    refine ⟨_, exec_quadrantPowerUp_next clock run edge sel (nextQuadrant_eq off higher), ?_, ?_, ?_, ?_, fun a => ?_⟩
    · rw [enters.pwr]
      exact congrArg (s.pwr.pd ||| ·) (quadrantDomain q)
    · rw [enters.pwr]; rfl
    · rw [enters.pwr]; rfl
    · rw [enters.time]; rfl
    · rw [enters.sameBytes a]
      refine (readByte_dropBanks (1#4 <<< q.toNat) s.mem a).trans ?_
      simp only [inQuads_one, beq_iff_eq]
  · have serves : exec .fabricUp s = .next (beginBoot (trainRows { s with
        mem := writeDescriptors s.mem, host := { s.host with released := powered s 6 }
        pwr := { s.pwr with fabricUp := true, started := true } })) := by
      refine (exec_fabricUp s).trans (if_neg ?_)
      rw [show s.pwr.clkok = true from clock, show s.pwr.phase = .run from run, show s.pwr.cleared = 15 from cleared,
        show s.pwr.fabricUp = false from down]
      decide
    obtain ⟨pwr, mem, host, boot⟩ := beginBoot_spec (trainRows { s with
        mem := writeDescriptors s.mem, host := { s.host with released := powered s 6 }
        pwr := { s.pwr with fabricUp := true, started := true } })
    obtain ⟨trained, kept, face, straps⟩ := trainRows_keeps { s with
        mem := writeDescriptors s.mem, host := { s.host with released := powered s 6 }
        pwr := { s.pwr with fabricUp := true, started := true } }
    rw [straps] at boot
    obtain ⟨words, bytes⟩ := writeWords_descriptors 0x8000000000000000 [0, 1, 2, 3, 4, 5] s.mem
    refine ⟨_, serves, pwr.trans trained, fun c small => ?_, fun a outside => ?_, congrArg HostFace.released (host.trans face), boot⟩
    · rw [mem, kept]
      exact (words c).trans (if_pos (by simp; omega))
    · rw [mem, kept]
      exact bytes a fun c inside => outside c (by simp at inside; omega)
  · have serves := exec_steadyRise_rises clock run up done low edge
    have graph : startGraph (steadied s) s.time.beat = steadied s := by
      rw [startGraph]
      dsimp only
      rw [show (steadied s).stw.image = Option.none from none]
    rw [graph, takeAllKept_none (s := steadied s) (r := .a) keptA, takeAllKept_none (s := steadied s) (r := .b) keptB] at serves
    exact serves
  · have serves := exec_steadyRise_rises clock run up done low edge
    rw [startGraph_of_image (s := steadied s) image] at serves
    have enters := injectInit_enters (graphBegun (steadied s)) s.time.beat i.init
    obtain ⟨pwr, time, started, same, bytes, kept, -⟩ := takeAllKept_spec (injectInit (graphBegun (steadied s)) s.time.beat i.init) .a
    obtain ⟨pwr', time', started', same', bytes', kept', other⟩ :=
      takeAllKept_spec (takeAllKept (injectInit (graphBegun (steadied s)) s.time.beat i.init) .a) .b
    refine ⟨_, serves, pwr'.trans (pwr.trans enters.pwr), started'.trans (started.trans ?_), same'.trans (same.trans ?_),
      time'.trans (time.trans enters.time), fun a => (bytes' a).trans ((bytes a).trans (enters.sameBytes a)),
      other.trans kept, kept'⟩
    · rw [enters.stw]; rfl
    · rw [enters.stw]; exact image

end Sys2Proof.PowerUp
end

/-! # What an unpredictable outcome leaves (R6 to R8, R20, R21) -/

section
namespace Sys2Proof.Machine

open Sys2Proof

theorem mwf_canonical {α : Type} [DecidableEq α] (d : α) (m : List (Nat × α)) : mwf d (canonical d m) = true := by
  have step (acc : List (Nat × α)) (wf : mwf d acc = true) :
      mwf d (m.foldl (fun acc e => mset d acc e.1 e.2) acc) = true := by
    induction m generalizing acc with
    | nil => exact wf
    | cons e m ih => exact ih _ (mwf_mset d e.1 e.2 wf)
  exact step [] rfl

/-- Memory has its canonical form after an unpredictable outcome. -/
theorem wreck_memory_wf (s : State) : Memory.wf (wreck s).mem = true :=
  (Memory.wf_iff _).mpr ⟨mwf_canonical .., mwf_canonical .., mwf_canonical .., mwf_canonical ..⟩

theorem enterReset_fd (s : State) : (enterReset s).fd = { s.fd with good := 0 } := goDark_fd s

/-- The silence timer of a die in OPERATE (R525). -/
theorem exec_silenceTimeout_operate {s : State} (operate : s.fd.state = .operate) : exec .silenceTimeout s =
    .next (setField s { s.fd with good := 0, state := .safe, cause := 1, offWin := 0 }) := by
  have up : fieldUp s.fd = true := fieldUp_iff.mpr (Or.inr operate)
  refine (exec_silenceTimeout s).trans ((if_neg (by rw [up]; decide)).trans ?_)
  rw [if_pos operate]

end Sys2Proof.Machine

namespace Sys2Proof.Wreck

open Sys2Proof Sys2Proof.Machine

/-- Settles O5: what `wreck` keeps, and RESET_N and the silence timer acting on what it keeps. -/
theorem unpredictableLeaves : Obligations.UnpredictableLeaves := by
  intro n s u p
  refine ⟨rfl, rfl, rfl, rfl, rfl, rfl, rfl, rfl, rfl, rfl, rfl, wreck_memory_wf s, rfl, rfl, rfl, rfl, rfl, rfl, rfl, rfl,
    fun on after => ?_, fun held core io quiet => ?_, fun operate => ?_⟩
  · refine ⟨_, exec_resetNAssert_acts (s := u) on, ?_⟩
    rw [resetNow_after (s := { u with pwr := { u.pwr with resetN := false } }) after]
    obtain ⟨dark, -⟩ := enterReset_dark { u with pwr := { u.pwr with resetN := false } }
    obtain ⟨phase, -, -, resetN, -⟩ := enterReset_keeps { u with pwr := { u.pwr with resetN := false } }
    exact ⟨phase, resetN, dark.pd, dark.enPhy, dark.straps, (congrArg Machine.Keys.device dark.device :), dark.cells,
      dark.flash, by rw [enterReset_fd]; rfl⟩
  · refine ⟨_, exec_resetNRelease u, ?_⟩
    rw [leaveReset_goes (s := { u with pwr := { u.pwr with resetN := true } }) held rfl quiet core io]
    exact ⟨rfl, rfl, rfl, rfl⟩
  · exact ⟨_, exec_silenceTimeout_operate (s := u) operate, rfl, rfl, rfl, rfl⟩

end Sys2Proof.Wreck
end

/-! # The canonical form of memory: the operations on memory keep it -/

section
namespace Sys2Proof.Machine

open Sys2Proof

/-- An outcome that ends in a next state leaves memory canonical. -/
def Canonical : Host.Outcome State Fault Refusal → Prop
  | .next t => Memory.wf t.mem = true
  | _ => True

@[simp] theorem canonical_next (t : State) : Canonical (.next t) ↔ Memory.wf t.mem = true := Iff.rfl

@[simp] theorem canonical_refused (r : Refusal) : Canonical (.refused r) := trivial

@[simp] theorem canonical_fault (f : Fault) : Canonical (.fault f) := trivial

@[simp] theorem canonical_unpredictable (n : Nat) (s : State) : Canonical (unpredictable n s) := canonical_fault _

@[simp] theorem canonical_ite {c : Prop} [Decidable c] {a b : Host.Outcome State Fault Refusal} (ha : Canonical a)
    (hb : Canonical b) : Canonical (if c then a else b) := by
  split
  · exact ha
  · exact hb

@[simp] theorem mem_ite {c : Prop} [Decidable c] (a b : State) :
    (if c then a else b).mem = if c then a.mem else b.mem := apply_ite State.mem c a b

@[simp] theorem wf_ite {c : Prop} [Decidable c] {m n : Mem} (hm : Memory.wf m = true) (hn : Memory.wf n = true) :
    Memory.wf (if c then m else n) = true := by
  split
  · exact hm
  · exact hn

theorem wf_mem_ite {c : Prop} [Decidable c] {a b : State} (ha : Memory.wf a.mem = true) (hb : Memory.wf b.mem = true) :
    Memory.wf (if c then a else b).mem = true := by
  split
  · exact ha
  · exact hb

/-- Repeated changes keep the canonical form where each does. -/
theorem foldl_mem_wf {α : Type} {g : Mem → α → Mem} (step : ∀ m a, Memory.wf m = true → Memory.wf (g m a) = true) (l : List α)
    {m : Mem} (h : Memory.wf m = true) : Memory.wf (l.foldl g m) = true := by
  induction l generalizing m with
  | nil => exact h
  | cons a l ih => exact ih (step m a h)

theorem foldl_wf {α : Type} {g : State → α → State}
    (step : ∀ s a, Memory.wf s.mem = true → Memory.wf (g s a).mem = true) (l : List α) {s : State}
    (h : Memory.wf s.mem = true) : Memory.wf (l.foldl g s).mem = true := by
  induction l generalizing s with
  | nil => exact h
  | cons a l ih => exact ih (step s a h)

theorem foldl_mem {α : Type} {g : State → α → State} (step : ∀ s a, (g s a).mem = s.mem) (l : List α) (s : State) :
    (l.foldl g s).mem = s.mem := by
  induction l generalizing s with
  | nil => rfl
  | cons a l ih => exact (ih (g s a)).trans (step s a)

section
variable {m : Mem} (h : Memory.wf m = true)
include h

/-- Counters and flash are no part of the canonical form. -/
theorem wf_of_lists {n : Mem} (data : n.data = m.data) (pres : n.pres = m.pres) (ecc : n.ecc = m.ecc)
    (banks : n.banks = m.banks) : Memory.wf n = true := by
  rw [Memory.wf, data, pres, ecc, banks]
  exact h

@[simp] theorem setBank_canonical (t : TileId) (b : Bank) : Memory.wf (setBank m t b) = true := setBank_wf h t b
@[simp] theorem setPres_canonical (a : Nat) (p : BitVec 2) : Memory.wf (setPres m a p) = true := setPres_wf h a p
@[simp] theorem setEcc_canonical (a : Nat) (e : Ecc) : Memory.wf (setEcc m a e) = true := setEcc_wf h a e
@[simp] theorem writeBytes_canonical (a : Nat) (bs : List Byte) : Memory.wf (writeBytes m a bs) = true := writeBytes_wf h a bs
@[simp] theorem writeWord_canonical (a : Nat) (v : W64) : Memory.wf (writeWord m a v) = true := writeWord_wf h a v
@[simp] theorem bumpSerial_canonical (c : BitVec 14) : Memory.wf (bumpSerial m c) = true := bumpSerial_wf h c
@[simp] theorem bumpIterBase_canonical (c : BitVec 14) : Memory.wf (bumpIterBase m c) = true := bumpIterBase_wf h c
@[simp] theorem putWord_canonical (a : Addr) (v : W64) : Memory.wf (putWord m a v) = true := writeWord_wf h _ v

@[simp] theorem countCorrected_wf (pl : Place) : Memory.wf (countCorrected m pl) = true := by
  cases pl with
  | bank t => exact setBank_wf h ..
  | _ => exact wf_of_lists h rfl rfl rfl rfl

@[simp] theorem countDouble_wf (pl : Place) : Memory.wf (countDouble m pl) = true := by
  cases pl with
  | bank t => exact setBank_wf h ..
  | _ => exact wf_of_lists h rfl rfl rfl rfl

@[simp] theorem checkWord_wf (pl : Place) (a : Addr) : Memory.wf (checkWord m pl a) = true := by
  rw [checkWord]
  split
  · exact h
  · exact countCorrected_wf (setEcc_wf h ..) pl
  · exact countDouble_wf h pl

@[simp] theorem readDescriptor_wf (c : BitVec 14) (w : Nat) : Memory.wf (readDescriptor m c w) = true := by
  rw [readDescriptor]
  split
  · exact h
  · exact checkWord_wf h ..

/-- Words marked one after another. -/
theorem markAll_wf (a : Nat → Nat) (p : BitVec 2) (is : List Nat) :
    Memory.wf (is.foldl (fun m i => setEcc (setPres m (a i) p) (a i) .ok) m) = true :=
  foldl_mem_wf (fun _ i h => setEcc_wf (setPres_wf h (a i) p) (a i) .ok) is h

@[simp] theorem writePlain_wf (a : Nat) (bs : List Byte) : Memory.wf (writePlain m a bs) = true :=
  markAll_wf (writeBytes_wf h a bs) ..

@[simp] theorem readSlot_wf (b : TileId) (a : Addr) : Memory.wf (readSlot m b a) = true :=
  foldl_mem_wf (fun _ _ h => checkWord_wf h ..) _ h

@[simp] theorem markWords_wf (a n : Nat) (p : BitVec 2) : Memory.wf (markWords m a n p) = true := markAll_wf h ..

@[simp] theorem dropBanks_wf (qs : BitVec 4) : Memory.wf (dropBanks qs m) = true := by
  rw [Memory.wf_iff] at *
  obtain ⟨data, pres, ecc, banks⟩ := h
  exact ⟨mwf_filter _ _ data, mwf_filter _ _ pres, mwf_filter _ _ ecc, mwf_filter _ _ banks⟩

@[simp] theorem writeDescriptors_wf : Memory.wf (writeDescriptors m) = true :=
  foldl_mem_wf (fun _ _ h => writeWord_wf h ..) _ h

@[simp] theorem guardSlot_wf (now : BitVec 20) (a : Nat) : Memory.wf (guardSlot now m a) = true := writeBytes_wf h ..

@[simp] theorem guardRecord_wf (now : BitVec 20) (a : Nat) : Memory.wf (guardRecord now m a) = true := by
  rw [guardRecord]
  dsimp only
  split
  · exact foldl_mem_wf (fun _ _ h => writeWord_wf h ..) _ (writeWord_wf h ..)
  · exact h

end

section
variable {s : State} (h : Memory.wf s.mem = true)
include h

@[simp] theorem prepMem_wf (x : Cell) (t : Token) : Memory.wf (prepMem s x t) = true := by
  rw [prepMem]
  dsimp only
  split
  · exact h
  · split
    · exact readDescriptor_wf (readDescriptor_wf h ..) ..
    · exact readDescriptor_wf h ..

@[simp] theorem freePres_wf (a n : Nat) : Memory.wf (freePres s a n) = true :=
  foldl_mem_wf (fun _ _ h => setPres_wf h ..) _ h

@[simp] theorem guardPage_wf (page : BitVec 13) : Memory.wf (guardPage s page) = true := by
  have slots := foldl_mem_wf (fun _ (i : BitVec 7) h => guardSlot_wf (m := _) h (now20 s) ((pageAddr page).toNat + 32 * i.toNat))
    (slotsOfPage s page) h
  rw [guardPage]
  split
  · exact guardRecord_wf slots ..
  · exact slots

@[simp] theorem scrubKeep_wf : Memory.wf (scrubKeep s) = true := by
  rw [scrubKeep]
  split
  · exact checkWord_wf (m := { s.mem with keepScrub := s.mem.keepScrub + 1 }) (wf_of_lists h rfl rfl rfl rfl) ..
  · exact h

@[simp] theorem zeroKeep_wf : Memory.wf (zeroKeep s).mem = true := by
  rw [zeroKeep, Memory.wf_iff]
  rw [Memory.wf_iff] at h
  obtain ⟨data, pres, ecc, banks⟩ := h
  exact ⟨mwf_filter _ _ data, pres, mwf_filter _ _ ecc, banks⟩

end

end Sys2Proof.Machine
end

/-! # The canonical form of memory: what leaves memory as it is -/

section
namespace Sys2Proof.Machine

open Sys2Proof

section
variable (s : State)

@[simp] theorem complete_mem (c : CellId) (r : Regs) (own : Option (BitVec 128)) (next : BitVec 15) :
    (complete s c r own next).mem = s.mem := rfl

@[simp] theorem stalled_mem (c : CellId) (cause : BitVec 4) : (stalled s c cause).mem = s.mem := rfl

@[simp] theorem endStrandState_mem (c : CellId) : (endStrandState s c).mem = s.mem := rfl

@[simp] theorem roomDone_mem (c : CellId) (m : Msg) : (roomDone s c m).mem = s.mem := rfl

@[simp] theorem popChannel_mem (c : CellId) (ch : Nat) : (popChannel s c ch).mem = s.mem := by
  rw [popChannel]
  repeat' split
  all_goals rfl

@[simp] theorem pageRelease_mem (q : BitVec 2) (m : Msg) : (pageRelease s q m).mem = s.mem := by
  unfold pageRelease
  dsimp only
  split <;> simp

@[simp] theorem noteRecord_mem (a : Addr) (stored : Bool) : (noteRecord s a stored).mem = s.mem := rfl

theorem waitingRetry_mem {s u : State} {c : CellId} {r : IReq} (waits : waitingRetry s c = some (r, u)) : u.mem = s.mem := by
  rw [waitingRetry] at waits
  repeat' split at waits
  all_goals cases waits
  all_goals rfl

@[simp] theorem stampEvent_mem (rank sub : Nat) (k : OutKind) :
    (stampEvent s rank sub k).mem = s.mem := rfl

@[simp] theorem postNotice_mem (code : BitVec 12) (v : W64) : (postNotice s code v).mem = s.mem := by
  rw [postNotice]
  split <;> rfl

@[simp] theorem loseEvents_mem (p : OutKind → Bool) : (loseEvents s p).mem = s.mem := rfl

@[simp] theorem bootAgain_mem : (bootAgain s).mem = s.mem := rfl

@[simp] theorem limitPair_mem (t : Token) : (limitPair s t).2.mem = s.mem := rfl

@[simp] theorem checkAgain_mem : (checkAgain s).mem = s.mem := by
  rw [checkAgain]
  split <;> rfl

@[simp] theorem placeWord_mem (rank : Nat) (w : W64) : (placeWord rank s w).mem = s.mem := rfl

@[simp] theorem placeNotice_mem (rank : Nat) (v : W64) : (placeNotice rank s v).mem = s.mem := by
  rw [placeNotice]
  split <;> rfl

@[simp] theorem safetyEvent_mem (status : W64) (strap : Option W64) :
    (safetyEvent s status strap).mem = s.mem := by
  unfold safetyEvent
  dsimp only
  split <;> simp

@[simp] theorem takeUplink_mem (u : Uplink) : (takeUplink s u).mem = s.mem := rfl

@[simp] theorem markBusy_mem : (markBusy s).mem = s.mem := rfl

@[simp] theorem postMsi_mem (v : Nat) : (postMsi s v).mem = s.mem := by
  rw [postMsi]
  split <;> rfl

@[simp] theorem sendMsi_mem (v : Nat) : (sendMsi s v).mem = s.mem := by
  rw [sendMsi]
  split <;> simp

@[simp] theorem releaseMsi_mem : (releaseMsi s).mem = s.mem := by simp [releaseMsi]

@[simp] theorem memWrites_mem (a : W64) (bs : List Byte) :
    (memWrites s a bs).mem = s.mem :=
  foldl_mem (fun s p => emit_mem s _) ..

@[simp] theorem completions_mem (a : Nat) (bs : List (Byte × Bool)) :
    (completions s a bs).mem = s.mem :=
  foldl_mem (fun s p => emit_mem s _) ..

@[simp] theorem unsupportedWrite_mem : (unsupportedWrite s).mem = s.mem := rfl

@[simp] theorem hostBound_mem (ts : List Token) : (hostBound s ts).mem = s.mem := by
  rw [hostBound]
  split <;> rfl

theorem takeRecords_mem {n : Nat} {s t : State} (took : takeRecords n s = .ok t) : t.mem = s.mem := by
  induction n generalizing s with
  | zero => cases took; rfl
  | succ n ih =>
    rw [takeRecords] at took
    dsimp only at took
    repeat' split at took
    · cases took; rfl
    · cases took; rfl
    · cases took
    · have left := ih took
      exact left

@[simp] theorem garbleRecords_mem : (garbleRecords s).mem = s.mem := rfl

@[simp] theorem countMiss_mem : (countMiss s).mem = s.mem := rfl

@[simp] theorem hostWordArrives_mem (id v : W64) (bad : Bool) :
    (hostWordArrives s id v bad).mem = s.mem := by
  rw [hostWordArrives]
  split <;> simp

@[simp] theorem sendRead_mem (tag : BitVec 5) (u : TagUse) (ha : W64) (len : Nat) :
    (sendRead s tag u ha len).mem = s.mem := rfl

@[simp] theorem completionState_mem (status : CplStatus) : (completionState s status).mem = s.mem := rfl

@[simp] theorem openRing_mem : (openRing s).mem = s.mem := rfl

@[simp] theorem afterAttach_mem (t : Token) :
    (afterAttach s t).mem = s.mem := by
  rw [afterAttach]
  repeat' split
  all_goals rfl

@[simp] theorem startTokens_mem (g : Ring) : (startTokens s g).2.mem = s.mem := rfl

@[simp] theorem startDump_mem (g : Ring) (bs : List Byte) : (startDump s g bs).2.mem = s.mem := rfl

theorem nextPacket_mem {s u : State} {g : Ring} {p : Packet} (next : nextPacket s g = some (p, u)) : u.mem = s.mem := by
  rw [nextPacket] at next
  repeat' split at next
  all_goals cases next
  all_goals rfl

@[simp] theorem askConsumed_mem (g : Ring) : (askConsumed s g).mem = s.mem := by
  rw [askConsumed]
  split <;> rfl

@[simp] theorem ringWrite_mem (g : Ring) (at' : Nat) (bs : List Byte) :
    (ringWrite s g at' bs).mem = s.mem := by simp [ringWrite]

@[simp] theorem writeBody_mem (g : Ring) (p : Packet) (n from' : Nat) : (writeBody s g p n from').mem = s.mem := by
  induction n generalizing s from' with
  | zero => rfl
  | succ n ih =>
    rw [writeBody]
    repeat' split
    all_goals simp [ih]

@[simp] theorem endPacket_mem (g : Ring) (length : Nat) (truncated urgent : Bool) :
    (endPacket s g length truncated urgent).mem = s.mem := by simp [endPacket]

@[simp] theorem writeRest_mem (g : Ring) (p : Packet) :
    (writeRest s g p).mem = s.mem := by
  rw [writeRest, writeBody_mem]
  split <;> simp

@[simp] theorem hostOff_mem (cause : BitVec 2) : (hostOff s cause).mem = s.mem := by simp [hostOff]

@[simp] theorem stopPacket_mem  :
    (stopPacket s).mem = s.mem := by
  rw [stopPacket]
  dsimp only
  repeat' split
  all_goals simp

@[simp] theorem discardDump_mem (n : Nat) : (discardDump s n).mem = s.mem := by
  rw [discardDump]
  split <;> rfl

@[simp] theorem cutPacket_mem : (cutPacket s).mem = s.mem := by
  rw [cutPacket]
  split <;> simp

@[simp] theorem resumeRing_mem  :
    (resumeRing s).mem = s.mem := by
  rw [resumeRing]
  repeat' split
  all_goals simp

@[simp] theorem hostResetNotice_mem (records reads : Nat) (cause : BitVec 2) :
    (hostResetNotice s records reads cause).mem = s.mem := by simp [hostResetNotice]

@[simp] theorem linkLost_mem : (linkLost s).mem = s.mem := rfl

@[simp] theorem trackLimit_mem : (trackLimit s).mem = s.mem := by
  rw [trackLimit]
  split <;> rfl

@[simp] theorem creditBoundary_mem : (creditBoundary s).mem = s.mem := by
  rw [creditBoundary]
  split <;> simp

@[simp] theorem msiBoundary_mem : (msiBoundary s).mem = s.mem := by simp [msiBoundary]

@[simp] theorem consumedBoundary_mem : (consumedBoundary s).mem = s.mem := by
  rw [consumedBoundary]
  split <;> simp

@[simp] theorem ltrMessage_mem (c : BitVec 3) : (ltrMessage s c).mem = s.mem := by
  rw [ltrMessage]
  split <;> rfl

@[simp] theorem ltrBoundary_mem : (ltrBoundary s).mem = s.mem := by simp [ltrBoundary]

@[simp] theorem hostBoundary_mem : (hostBoundary s).mem = s.mem := by simp [hostBoundary]

@[simp] theorem trackCredit_mem : (trackCredit s).mem = s.mem := rfl

@[simp] theorem sendFrame_mem (ftype count seq ctl : Byte) (payload : List Byte) :
    (sendFrame s ftype count seq ctl payload).mem = s.mem := rfl

@[simp] theorem stampAll_mem (rank sub : Nat) (ks : List OutKind) : (stampAll s rank sub ks).mem = s.mem := by
  induction ks generalizing s with
  | nil => rfl
  | cons _ _ ih => exact (ih _).trans (stampEvent_mem ..)

@[simp] theorem violationsCounted_mem : (violationsCounted s).mem = s.mem := rfl

@[simp] theorem sendLink_mem : (sendLink s).mem = s.mem := by
  rw [sendLink]
  split <;> rfl

theorem readyFrame_mem {s : State} {k : Nat} {f : NewFrame} (ready : readyFrame s k = some f) : f.rest.mem = s.mem := by
  rcases k with _ | _ | k
  all_goals
    simp only [readyFrame] at ready
    split at ready
    · cases ready
    · cases ready
      rfl

theorem nextFrame_mem {s : State} {k : Nat} {f : NewFrame} (next : nextFrame s = some (k, f)) : f.rest.mem = s.mem := by
  obtain ⟨j, _, found⟩ := List.mem_filterMap.mp (List.mem_of_head? next)
  obtain ⟨g, ready, same⟩ := Option.map_eq_some_iff.mp found
  cases same
  exact readyFrame_mem ready

@[simp] theorem sendNew_mem (k : Nat) (f : NewFrame) : (sendNew k f).mem = f.rest.mem := rfl

@[simp] theorem sendHeld_mem (f : ShFrame) : (sendHeld s f).mem = s.mem := by
  rw [sendHeld]
  split <;> rfl

@[simp] theorem trackLocal_mem (r : RowId) : (trackLocal s r).mem = s.mem := by simp [trackLocal]

@[simp] theorem trackRows_mem : (trackRows s).mem = s.mem := rfl

@[simp] theorem sendRow_mem (r : RowId) (bs : List Byte) (tokens blocks : Nat) (good : Bool) :
    (sendRow s r bs tokens blocks good).mem = s.mem := by simp [sendRow]

@[simp] theorem sendAddressed_mem (r : RowId) (bs : List Byte) (good : Bool) :
    (sendAddressed s r bs good).mem = s.mem := by simp [sendAddressed]

@[simp] theorem settleReady_mem (r : RowId) : (settleReady s r).mem = s.mem := by simp [settleReady]

@[simp] theorem countConverted_mem (r : RowId) : (countConverted s r).mem = s.mem := by
  simp [countConverted]

@[simp] theorem frameWaits_mem (r : RowId) : (frameWaits s r).mem = s.mem := by simp [frameWaits]

@[simp] theorem trainWaiting_mem (r : RowId) : (trainWaiting s r).mem = s.mem := by simp [trainWaiting]

@[simp] theorem setRawTake_mem (r : RowId) (ws : List W64) : (setRawTake s r ws).mem = s.mem := by
  unfold setRawTake
  dsimp only
  split <;> simp

@[simp] theorem setRawPut_mem (r : RowId) (ws : List W64) : (setRawPut s r ws).mem = s.mem := by
  unfold setRawPut
  dsimp only
  split <;> simp

@[simp] theorem placeRaw_mem (r : RowId) (kind : BitVec 2) (bs : List Byte) :
    (placeRaw s r kind bs).mem = s.mem := by simp [placeRaw]

@[simp] theorem settleAnswers_mem (fuel : Nat) (r : RowId) : (settleAnswers fuel s r).mem = s.mem := by
  induction fuel generalizing s with
  | zero => rfl
  | succ k ih =>
    rw [settleAnswers.eq_def]
    split
    · split
      · rename_i same
        simp_all
      · rfl
    · rfl

@[simp] theorem hopTaken_mem (r : RowId) (bs : List Byte) : (hopTaken s r bs).mem = s.mem := by
  simp [hopTaken]

@[simp] theorem takeAnswerFrame_mem (r : RowId) (words : List Byte) :
    (takeAnswerFrame s r words).mem = s.mem := by simp [takeAnswerFrame]

@[simp] theorem takeHello_mem (r : RowId) (bs : List Byte) : (takeHello s r bs).mem = s.mem := by
  simp [takeHello]

@[simp] theorem failFrame_mem (r : RowId) (bs : List Byte) : (failFrame s r bs).mem = s.mem := by
  simp [failFrame]

@[simp] theorem sendForward_mem (r : RowId) (f : List Byte) : (sendForward s r f).mem = s.mem := by
  simp [sendForward]

@[simp] theorem afterTake_mem (p : BitVec 8) : (afterTake s p).mem = s.mem := by
  rw [afterTake]
  split <;> simp

@[simp] theorem countDiscard_mem : (countDiscard s).mem = s.mem := rfl

@[simp] theorem rawPutError_mem (r : RowId) (n : Nat) : (rawPutError s r n).mem = s.mem := by
  simp [rawPutError]

@[simp] theorem intoRoom_mem (c : CellId) (m : Msg) : (intoRoom s c m).mem = s.mem := rfl

@[simp] theorem finishRelease_mem (t : TileId) : (finishRelease s t).mem = s.mem := by
  unfold finishRelease
  dsimp only
  repeat' split
  all_goals simp

@[simp] theorem mirrorNotice_mem (t : TileId) (m : Msg) : (mirrorNotice s t m).mem = s.mem := by
  unfold mirrorNotice
  dsimp only
  split <;> simp

@[simp] theorem dropPd1_mem : (dropPd1 s).mem = s.mem := rfl

@[simp] theorem dropPd6_mem : (dropPd6 s).mem = s.mem := rfl

@[simp] theorem dropPd7_mem : (dropPd7 s).mem = s.mem := rfl

@[simp] theorem dropPd8_mem : (dropPd8 s).mem = s.mem := rfl

@[simp] theorem dropPd9_mem : (dropPd9 s).mem = s.mem := rfl

@[simp] theorem dropPd11_mem : (dropPd11 s).mem = s.mem := rfl

@[simp] theorem powerUp_mem (ds : List Nat) : (powerUp s ds).mem = s.mem := rfl

@[simp] theorem stopClock_mem : (stopClock s).mem = s.mem := by
  rw [stopClock]
  split <;> rfl

@[simp] theorem setLimit_mem : (setLimit s).mem = s.mem := rfl

@[simp] theorem roomRetries_mem (t : TileId) : (roomRetries s t).mem = s.mem :=
  foldl_mem (fun s f => by split <;> rfl) ..

@[simp] theorem stopCells_mem (keep : BitVec 4) : (stopCells s keep).mem = s.mem :=
  foldl_mem roomRetries_mem ..

@[simp] theorem beginRails_mem (cause : BitVec 4) (wakeFrom : BitVec 2) (keepLoad : Bool) :
    (beginRails s cause wakeFrom keepLoad).mem = s.mem := rfl

@[simp] theorem wakeGo_mem (hib : Bool) (cause : BitVec 4) : (wakeGo s hib cause).mem = s.mem := rfl

@[simp] theorem beginTest_mem (hib : Bool) (sources : BitVec 16) :
    (beginTest s hib sources).mem = s.mem := rfl

@[simp] theorem startWake_mem (hib : Bool) (sources : BitVec 16) :
    (startWake s hib sources).mem = s.mem := by
  rw [startWake]
  split <;> rfl

@[simp] theorem wakeAsleep_mem (hib : Bool) (cause : BitVec 4) :
    (wakeAsleep s hib cause).mem = s.mem := by simp [wakeAsleep]

@[simp] theorem wakeTending_mem (cause : BitVec 4) : (wakeTending s cause).mem = s.mem := rfl

@[simp] theorem latchSource_mem (cause : BitVec 4) : (latchSource s cause).mem = s.mem := rfl

@[simp] theorem wakeAgain_mem (effective : BitVec 4 → Bool) (cause : BitVec 4) :
    (wakeAgain s effective cause).mem = s.mem := by
  rw [wakeAgain]
  split <;> rfl

@[simp] theorem wakeSource_mem (cause : BitVec 4) : (wakeSource s cause).mem = s.mem := by
  rw [wakeSource]
  split <;> simp

@[simp] theorem wakeLatched_mem : (wakeLatched s).mem = s.mem := by
  rw [wakeLatched]
  split <;> simp

@[simp] theorem leaveReset_mem : (leaveReset s).mem = s.mem := by
  rw [leaveReset]
  split <;> rfl

@[simp] theorem heldTick_mem : (heldTick s).mem = s.mem := by simp [heldTick]

@[simp] theorem resetWaits_mem : (resetWaits s).mem = s.mem := rfl

@[simp] theorem beginSampling_mem : (beginSampling s).mem = s.mem := rfl

@[simp] theorem beginLock_mem : (beginLock s).mem = s.mem := rfl

@[simp] theorem railsGood_mem : (railsGood s).mem = s.mem := by
  rw [railsGood]
  split <;> simp

@[simp] theorem spendEdge_mem (i : Nat) : (spendEdge s i).mem = s.mem := rfl

@[simp] theorem trainRows_mem : (trainRows s).mem = s.mem := by
  rw [trainRows]
  split <;> rfl

@[simp] theorem tendingExhausted_mem : (tendingExhausted s).mem = s.mem := rfl

@[simp] theorem takeConversion_mem (v : Nat) : (takeConversion s v).mem = s.mem := by
  simp [takeConversion]

@[simp] theorem noticeNow_mem (code : BitVec 12) (v : W64) : (noticeNow s code v).mem = s.mem := rfl

@[simp] theorem levelTakes_mem (l : BitVec 3) : (levelTakes s l).mem = s.mem := by simp [levelTakes]

theorem limitStep_mem {s t : State} (stepped : limitStep s = some t) : t.mem = s.mem := by
  rw [limitStep] at stepped
  dsimp only at stepped
  repeat' split at stepped
  case isFalse.isFalse.isFalse =>
    obtain ⟨q, _, same⟩ := Option.bind_eq_some_iff.mp stepped
    cases same
    rfl
  all_goals cases stepped
  all_goals simp

@[simp] theorem stopDump_mem : (stopDump s).mem = s.mem := by
  rw [stopDump]
  split <;> rfl

@[simp] theorem trackCredits_mem : (trackCredits s).mem = s.mem := by simp [trackCredits]

@[simp] theorem loseGraph_mem : (loseGraph s).mem = s.mem := rfl

@[simp] theorem admitted_mem (e : OutEvent) : (admitted s e).mem = s.mem := rfl

@[simp] theorem fieldIn_mem (v : W64) : (fieldIn s v).mem = s.mem := by
  rw [fieldIn]
  split <;> rfl

@[simp] theorem guardRouter_mem (t : TileId) : (guardRouter s t).mem = s.mem := rfl

end

end Sys2Proof.Machine
end

/-! # The canonical form of memory: reports, flits and the shapes of instructions -/

section
namespace Sys2Proof.Machine

open Sys2Proof

section
variable {s : State} (h : Memory.wf s.mem = true)
include h

@[simp] theorem offerEnters_wf (t : TileId) (extra : Bool) (o : Offer) :
    Memory.wf (offerEnters s t extra o).mem = true :=
  foldl_mem_wf (fun _ _ h => readDescriptor_wf h ..) _ h

@[simp] theorem drainPort_wf (t : TileId) (extra : Bool) (n : Nat) :
    Memory.wf (drainPort t extra n s).mem = true := by
  induction n generalizing s with
  | zero => exact h
  | succ n ih =>
    rw [drainPort]
    split
    · exact h
    · exact ih (by simp [h])

@[simp] theorem drain_wf (t : TileId) (extra : Bool) : Memory.wf (drain s t extra).mem = true := by
  rw [drain]
  split
  · exact drainPort_wf h _ _ _
  · exact h

@[simp] theorem produce_wf (t : TileId) (extra : Bool) (o : Offer) :
    Memory.wf (produce s t extra o).mem = true := by simp [produce, h]

@[simp] theorem produceAll_wf (t : TileId) (extra : Bool) (os : List Offer) :
    Memory.wf (produceAll s t extra os).mem = true :=
  foldl_wf (fun _ _ h => produce_wf h ..) os h

@[simp] theorem produceLocal_wf (t : TileId) (req : Nat) (f : Flit) :
    Memory.wf (produceLocal s t req f).mem = true := by simp [produceLocal, h]

@[simp] theorem produceExtra_wf (t : TileId) (f : Flit) : Memory.wf (produceExtra s t f).mem = true := by
  simp [produceExtra, h]

@[simp] theorem readDlOffset_wf (c : BitVec 14) : Memory.wf (readDlOffset s c).1.mem = true := by
  rw [readDlOffset]
  split <;> simp [h]

@[simp] theorem nodeReport_wf (code : BitVec 8) (access : BitVec 4) (info : BitVec 48) (subject : W64) :
    Memory.wf (nodeReport s code access info subject).mem = true := by
  rw [nodeReport]
  split <;> simp [h]

@[simp] theorem readForReport_wf (c : BitVec 14) : Memory.wf (readForReport s c).mem = true :=
  foldl_mem_wf (fun _ _ h => readDescriptor_wf h ..) _ h

@[simp] theorem contextReport_wf (c : BitVec 14) (code : BitVec 8) (access : BitVec 4) (info : BitVec 48)
    (subject : W64) :
    Memory.wf (contextReport s c code access info subject).mem = true := by
  unfold contextReport
  dsimp only
  repeat' split
  all_goals simp [h, readForReport_wf h]

@[simp] theorem firingReport_wf (tag0 : W64) (code : BitVec 8) (access : BitVec 4) (info : BitVec 48) :
    Memory.wf (firingReport s tag0 code access info).mem = true := by simp [firingReport, h]

@[simp] theorem hookToken_wf (flags : BitVec 10) (serial : BitVec 16) (flow : BitVec 12) (value : W64) :
    Memory.wf (hookToken s flags serial flow value).1.mem = true := by simp [hookToken, h]

@[simp] theorem stewardSend_wf (t : Token) : Memory.wf (stewardSend s t).mem = true := by simp [stewardSend, h]

@[simp] theorem fetchFailed_wf (c : CellId) (ws : List Nat) : Memory.wf (fetchFailed s c ws).mem = true := by
  simp [fetchFailed, h]

/-- What comes before an instruction keeps the canonical form. -/
theorem before_wf {t : State} {i : Instr} {c : CellId} {p : Pfx} {k : Enc} {bad : Option Nat}
    {uses : List Reg} {sends many : Bool} (stays : before s i c p k bad uses sends many = .instead t) :
    Memory.wf t.mem = true := by
  rw [before] at stays
  repeat' split at stays
  all_goals cases stays
  all_goals simp [h]

/-- An instruction keeps memory canonical where its effect does: the fetch, its failures and its stalls do. -/
theorem issue_canonical {effect : State → State}
    (step : ∀ t, Memory.wf t.mem = true → Memory.wf (effect t).mem = true) {i : Instr} {c : CellId} {p : Pfx} {k : Enc}
    {bad : Option Nat} {uses : List Reg} {sends many : Bool} :
    Canonical (issue s i c p k bad uses sends many effect) := by
  rw [issue]
  split
  · simp
  · simp
  · rename_i t stays
    exact (canonical_next t).mpr (before_wf h stays)
  · exact (canonical_next _).mpr (step _ (by simp [h]))

@[simp] theorem regIns_canonical (i : Instr) (c : CellId) (p : Pfx) (k : Enc) (bad : Option Nat) (uses : List Reg)
    (f : Regs → Regs) : Canonical (regIns s i c p k bad uses f) :=
  issue_canonical h fun t h => by simp [h]

/-- A message offered to the local port, and what follows once it has entered. -/
theorem emitThen_wf {fin : State → State} (step : ∀ t, Memory.wf t.mem = true → Memory.wf (fin t).mem = true)
    (c : CellId) (cause : BitVec 4) (m : Msg) : Memory.wf (emitThen s c cause m fin).mem = true := by
  have offered : Memory.wf (if (engineAt s c).offered then s else produce s (tileOf c) false (strandOffer s c m)).mem = true := by
    simp [h]
  rw [emitThen]
  generalize (if (engineAt s c).offered then s else produce s (tileOf c) false (strandOffer s c m)) = t at *
  dsimp only
  split
  · simp [offered]
  · exact step _ (by simp [offered])

@[simp] theorem sendIns_canonical (i : Instr) (c : CellId) (p : Pfx) (k : Enc) (bad : Option Nat) (uses : List Reg)
    (cause : BitVec 4) (msg : State → Regs → Msg) : Canonical (sendIns s i c p k bad uses cause msg) :=
  issue_canonical h fun _ h => emitThen_wf h (fun _ h => by simp [h]) ..

@[simp] theorem repIns_canonical (i : Instr) (c : CellId) (p : Pfx) (k : Enc) (uses : List Reg) (cause : BitVec 4)
    (size : Nat) (bad : Option Nat) (src dst : Regs → Addr) (msg : State → Regs → Addr → Addr → Msg) :
    Canonical (repIns s i c p k uses cause size bad src dst msg) := by
  refine issue_canonical h fun t h => ?_
  dsimp only
  split
  · exact emitThen_wf h (fun _ h => by simp [h]) ..
  · split
    · simp [h]
    · refine emitThen_wf h (fun u h => ?_) ..
      split <;> simp [h]

@[simp] theorem cellSend_wf (c : CellId) (m : Msg) : Memory.wf (cellSend s c m).mem = true := by simp [cellSend, h]

@[simp] theorem askPage_wf (c : CellId) (u : PageUse) (ch : Nat) (subject : Option W64) :
    Memory.wf (askPage s c u ch subject).mem = true := by simp [askPage, h]

@[simp] theorem trapStop_wf (c : CellId) (cause : Bool) (raised trapped : BitVec 5) :
    Memory.wf (trapStop s c cause raised trapped).mem = true := by simp [trapStop, h]

@[simp] theorem fpResult_wf (c : CellId) (p : Pfx) (k : Enc) (rd : Reg) (v : W64) (flags : BitVec 5) :
    Memory.wf (fpResult s c p k rd v flags).mem = true := by
  rw [fpResult]
  split <;> simp [h]

theorem fsTest_wf {fin : State → State} (step : ∀ t, Memory.wf t.mem = true → Memory.wf (fin t).mem = true)
    (c : CellId) : Memory.wf (fsTest s c fin).mem = true := by
  rw [fsTest]
  split
  · simp [h]
  · split
    · simp [h]
    · exact step s h

end

end Sys2Proof.Machine
end

/-! # The canonical form of memory: cells, pages and records -/

section
namespace Sys2Proof.Machine

open Sys2Proof

/-- Where taking a token leaves memory canonical. -/
@[simp] def TakingWf : Taking → Prop
  | .taken t => Memory.wf t.mem = true
  | .waits t => Memory.wf t.mem = true
  | .illegal _ => True

theorem takingOutcome_canonical {s : State} {o : Option Taking} (taking : ∀ v, o = some v → TakingWf v) :
    Canonical (takingOutcome s o) := by
  rcases o with _ | _ | _ | _
  · simp [takingOutcome]
  · exact (canonical_next _).mpr (taking _ rfl)
  · exact (canonical_next _).mpr (taking _ rfl)
  · simp [takingOutcome]

section
variable {s : State} (h : Memory.wf s.mem = true)
include h

@[simp] theorem fatalReport_wf (access : BitVec 4) (info : BitVec 48) :
    Memory.wf (fatalReport s access info).mem = true := by simp [fatalReport, h]

@[simp] theorem entryReports_wf (c : CellId) (os : List Operand) : Memory.wf (entryReports s c os).mem = true := by
  induction os generalizing s with
  | nil => exact h
  | cons _ _ ih => exact ih (nodeReport_wf h ..)

@[simp] theorem takeOnce_wf (c : CellId) (t : Token) (ch : Nat) (again : Bool) (f : Fate) :
    TakingWf (takeOnce s c t ch again f) := by
  cases f with
  | spill cause =>
    rw [takeOnce]
    split
    · exact h
    · split
      · exact foldl_wf (fun _ _ h => cellSend_wf h ..) _ (by exact h)
      · split
        · exact h
        · exact askPage_wf h ..
  | _ => simp [takeOnce, h]

@[simp] theorem takeToken_wf (c : CellId) (t : Token) (ch : Nat) (again : Bool) :
    TakingWf (takeToken s c t ch again) := by
  rw [takeToken]
  split <;> exact takeOnce_wf (by simp [h]) ..

@[simp] theorem slotBack_wf (c : CellId) (a : Addr) : Memory.wf (slotBack s c a).mem = true :=
  foldl_wf (fun _ _ h => cellSend_wf h ..) _ (by simp [h])

@[simp] theorem noteReturn_wf (c : CellId) : Memory.wf (noteReturn s c).mem = true := by
  rw [noteReturn]
  split <;> simp [h]

theorem takeChannel_wf {c : CellId} {ch : Nat} {again : Bool} {v : Taking}
    (taking : takeChannel s c ch again = some v) : TakingWf v := by
  have noted : Memory.wf (if ch = 4 then noteReturn s c else s).mem = true := by simp [h]
  rw [takeChannel] at taking
  generalize (if ch = 4 then noteReturn s c else s) = s' at noted taking
  split at taking
  · cases taking
  · rename_i t _
    have made := takeToken_wf noted c t ch again
    cases taking
    split
    · rename_i u same
      simpa [same] using made
    · exact made

theorem takeFirst_wf {c : CellId} {again : Bool} {chs : List Nat} {v : Taking}
    (taking : takeFirst s c again chs = some v) : TakingWf v := by
  induction chs generalizing s v with
  | nil => cases taking
  | cons ch chs ih =>
    rw [takeFirst] at taking
    split at taking
    · exact ih h taking
    · rename_i u waits
      have left : Memory.wf u.mem = true := takeChannel_wf h waits
      split at taking <;> cases taking
      · exact left
      · exact ih left ‹_›
    · cases taking
      exact takeChannel_wf h ‹_›

@[simp] theorem execTokenArrival_canonical (c : CellId) (net3 : Bool) : Canonical (execTokenArrival c net3 s) :=
  canonical_ite (takingOutcome_canonical fun _ => takeFirst_wf h) (canonical_refused _)

@[simp] theorem readSlotNext_wf (c : CellId) : Memory.wf (readSlotNext s c).mem = true := by
  rw [readSlotNext]
  split <;> simp [h]

@[simp] theorem execSpillReturn_canonical (c : CellId) : Canonical (execSpillReturn c s) := by
  rw [execSpillReturn]
  repeat' split
  · simp
  · simp [h]
  · rename_i waits
    have left : Memory.wf _ = true := takeChannel_wf h waits
    simp [left]
  · exact takingOutcome_canonical fun _ => takeChannel_wf h
  · simp
  · simp [h]

@[simp] theorem beginStrand_wf (c : CellId) (x : Cell) (f : Firing) :
    Memory.wf (beginStrand s c x f).mem = true := by
  unfold beginStrand
  dsimp only
  repeat' split
  all_goals simp [h]

@[simp] theorem execStrandSelect_canonical (c : CellId) : Canonical (execStrandSelect c s) := by
  unfold execStrandSelect
  dsimp only
  repeat' split
  all_goals simp [h]

@[simp] theorem unitSend_wf (q pri : BitVec 2) (m : Msg) : Memory.wf (unitSend s q pri m).mem = true := by
  simp [unitSend, h]

@[simp] theorem pageRequest_wf (q : BitVec 2) (m : Msg) : Memory.wf (pageRequest s q m).mem = true := by
  unfold pageRequest
  dsimp only
  split <;> simp [h]

@[simp] theorem execPageRequest_canonical (q : BitVec 2) : Canonical (execPageRequest q s) := by
  rw [execPageRequest]
  repeat' split
  · simp [h]
  · simp
  · simp [h]

@[simp] theorem execPageRelease_canonical (q : BitVec 2) : Canonical (execPageRelease q s) := by
  rw [execPageRelease]
  repeat' split
  · simp [h]
  · simp
  · simp [h]

@[simp] theorem beginRecord_wf (c : CellId) (page : BitVec 13) : Memory.wf (beginRecord s c page).mem = true := by
  rw [beginRecord]
  split
  · exact foldl_wf (fun _ _ h => cellSend_wf h ..) _ (by simp [h])
  · exact h

@[simp] theorem pageRefused_wf (c : CellId) (u : PageUse) (report : Option W64) :
    Memory.wf (pageRefused s c u report).mem = true := by
  unfold pageRefused
  dsimp only
  split <;> simp [h]

@[simp] theorem execPageGrant_canonical (c : CellId) : Canonical (execPageGrant c s) := by
  rw [execPageGrant]
  dsimp only
  split
  · simp
  · split
    · split
      · simp [h]
      · split <;> simp [h]
      · split
        · simp [h]
        · exact takingOutcome_canonical fun _ => takeFirst_wf (by simp [h])
      · simp [h]
    · simp

@[simp] theorem trapToken_wf (c : CellId) (ctx : BitVec 14) (trapId : W64) :
    Memory.wf (trapToken s c ctx trapId).mem = true := by
  have asked : Memory.wf (readForReport { s with stw := { s.stw with parked := s.stw.parked ++ [⟨trapId, false⟩] } } ctx).mem =
      true := readForReport_wf h ctx
  rw [trapToken]
  dsimp only
  generalize readForReport _ ctx = u at asked
  repeat' split
  · exact h
  · exact produce_wf (bumpSerial_canonical asked ctx) ..
  · exact produce_wf (s := { bumpFree u with stw := _ }) asked ..
  · exact produce_wf (s := { bumpFree u with stw := _ }) asked ..
  · exact asked

@[simp] theorem execTrapTokenSend_canonical (c : CellId) : Canonical (execTrapTokenSend c s) := by
  unfold execTrapTokenSend
  dsimp only
  repeat' split
  all_goals simp [h]

@[simp] theorem recordReport_wf (r : Resumed) (bad : List Nat) : Memory.wf (recordReport s r bad).mem = true := by
  rw [recordReport]
  split <;> simp [h]

@[simp] theorem restore_wf (c : CellId) (r : Resumed) : Memory.wf (restore s c r).mem = true := by
  unfold restore
  dsimp only
  repeat' split
  all_goals simp [h, readDescriptor_wf h]

@[simp] theorem askRecord_wf (c : CellId) (r : Resumed) : Memory.wf (askRecord s c r).mem = true :=
  foldl_wf (fun _ _ h => cellSend_wf h ..) _ h

@[simp] theorem execStrandRestore_canonical (c : CellId) : Canonical (execStrandRestore c s) := by
  unfold execStrandRestore
  dsimp only
  repeat' split
  all_goals simp [h]

@[simp] theorem execFpComplete_canonical (c : CellId) (k : BitVec 5) : Canonical (execFpComplete c k s) := by
  unfold execFpComplete
  dsimp only
  repeat' split
  all_goals simp [h]

@[simp] theorem placeSend_wf (pl : Place) (pri : BitVec 2) (m : Msg) :
    Memory.wf (placeSend s pl pri m).mem = true := by
  unfold placeSend
  dsimp only
  split <;> simp [h]

@[simp] theorem resolveElement_wf (pl : Place) (e : Elem) (scatter : Bool) (tag0 : W64) (code : BitVec 8) :
    Memory.wf (resolveElement s pl e scatter tag0 code).mem = true := by
  rw [resolveElement]
  split
  · exact placeSend_wf h ..
  · split
    · exact h
    · exact contextReport_wf h ..

@[simp] theorem ackTally_wf (c : CellId) (e : Elem) (code : BitVec 8) :
    Memory.wf (ackTally s c e code).mem = true := by
  unfold ackTally
  dsimp only
  repeat' split
  all_goals simp [h]

end

end Sys2Proof.Machine
end

/-! # The canonical form of memory: banks and the instructions that reach memory -/

section
namespace Sys2Proof.Machine

open Sys2Proof

section
variable {s : State} (h : Memory.wf s.mem = true)
include h

@[simp] theorem execElementAck_canonical (c : CellId) : Canonical (execElementAck c s) := by
  unfold execElementAck
  dsimp only
  repeat' split
  all_goals simp [h]

@[simp] theorem answerRead_wf (pl : Place) (pri : BitVec 2) (a : Addr) (f : ReadFor) (tag0 : W64) (info : Addr)
    (r : Except (BitVec 8) W64) : Memory.wf (answerRead s pl pri a f tag0 info r).mem = true := by
  rcases f with _ | _ | _ | _ | _ <;> rcases r with _ | _ <;> simp [answerRead, h]

@[simp] theorem answerIread_wf (pl : Place) (pri : BitVec 2) (q : IReq) (r : Except (BitVec 8) W64) :
    Memory.wf (answerIread s pl pri q r).mem = true := by
  unfold answerIread
  dsimp only
  split <;> simp [h]

/-- A bank keeps memory canonical where the service of its request does. -/
theorem serveBank_canonical {serve : State → Flit → Host.Outcome State Fault Refusal}
    (served : ∀ t f, Memory.wf t.mem = true → Canonical (serve t f)) (b : TileId) (kind : Flit → Bool) :
    Canonical (serveBank s b kind serve) := by
  rw [serveBank]
  repeat' split
  · simp [h]
  · simp
  · exact served _ _ h
  · simp [h]

@[simp] theorem disturbSerial_wf (a : Addr) (mask : BitVec 8) : Memory.wf (disturbSerial s a mask).mem = true := by
  rw [disturbSerial]
  split <;> simp [h]

@[simp] theorem bankRead_wf (b : TileId) (f : Flit) : Memory.wf (bankRead s b f).mem = true := by
  rw [bankRead]
  split <;> simp [h]

@[simp] theorem execBankRead_canonical (b : TileId) : Canonical (execBankRead b s) :=
  serveBank_canonical h (fun t f h => by split <;> simp [h]) ..

@[simp] theorem bankWrite_wf (b : TileId) (f : Flit) : Memory.wf (bankWrite s b f).mem = true := by
  rw [bankWrite]
  split
  · dsimp only
    split
    · split <;> simp [h]
    · exact setBank_canonical (setEcc_canonical (setPres_canonical (putWord_canonical (by simp [h]) ..) ..) ..) ..
  · exact h

@[simp] theorem execBankWrite_canonical (b : TileId) : Canonical (execBankWrite b s) :=
  serveBank_canonical h (fun t f h => by (repeat' split) <;> simp [h]) ..

@[simp] theorem bankIread_wf (b : TileId) (f : Flit) : Memory.wf (bankIread s b f).mem = true := by
  rw [bankIread]
  split
  · rename_i q _
    have noted (bk : Bank) : Memory.wf (setBank (checkWord s.mem (.bank b) q.addr) b bk) = true := by simp [h]
    have deferred (bk : Bank) :
        Memory.wf (setPres (setBank (checkWord s.mem (.bank b) q.addr) b bk) q.addr.toNat presDeferred) = true :=
      setPres_canonical (noted bk) ..
    dsimp only
    repeat' split
    all_goals simp [h, noted, deferred]
  · exact h

@[simp] theorem execBankIread_canonical (b : TileId) : Canonical (execBankIread b s) :=
  serveBank_canonical h (fun t f h => by simp [h]) ..

@[simp] theorem bankIwrite_wf (b : TileId) (f : Flit) : Memory.wf (bankIwrite s b f).mem = true := by
  rw [bankIwrite]
  split
  · rename_i a v e tag0 _
    have written (p : BitVec 2) : Memory.wf (setPres (putWord (checkWord s.mem (.bank b) a) a v) a.toNat p) = true :=
      setPres_canonical (putWord_canonical (checkWord_wf h ..) ..) ..
    dsimp only
    repeat' split
    all_goals simp [h, written]
  · exact h

@[simp] theorem execBankIwrite_canonical (b : TileId) : Canonical (execBankIwrite b s) :=
  serveBank_canonical h (fun t f h => by (repeat' split) <;> simp [h]) ..

@[simp] theorem bankIclear_wf (b : TileId) (f : Flit) : Memory.wf (bankIclear s b f).mem = true := by
  unfold bankIclear
  dsimp only
  repeat' split
  all_goals simp [h, putWord_canonical h, setPres_canonical h, checkWord_wf h]

@[simp] theorem execBankIclear_canonical (b : TileId) : Canonical (execBankIclear b s) :=
  serveBank_canonical h (fun t f h => by (repeat' split) <;> simp [h]) ..

@[simp] theorem bankSlot_wf (b : TileId) (f : Flit) : Memory.wf (bankSlot s b f).mem = true := by
  unfold bankSlot
  dsimp only
  repeat' split
  all_goals simp [h]

@[simp] theorem execSpillSlotAccess_canonical (b : TileId) : Canonical (execSpillSlotAccess b s) :=
  serveBank_canonical h (fun t f h => by simp [h]) ..

@[simp] theorem execDeferredAnswer_canonical (b : TileId) : Canonical (execDeferredAnswer b s) := by
  unfold execDeferredAnswer
  dsimp only
  repeat' split
  all_goals simp [h]

@[simp] theorem execBankScrub_canonical (b : TileId) : Canonical (execBankScrub b s) := by
  rw [execBankScrub]
  split <;> simp [h]

@[simp] theorem giveUp_wf (c : CellId) (r : IReq) : Memory.wf (giveUp s c r).mem = true := by
  unfold giveUp
  dsimp only
  repeat' split
  all_goals simp [h]

@[simp] theorem execRetryReceive_canonical (c : CellId) : Canonical (execRetryReceive c s) := by
  rw [execRetryReceive]
  split
  · simp
  · split
    · simp
    · rename_i waits
      have left := (congrArg Memory.wf (waitingRetry_mem waits)).trans h
      dsimp only
      repeat' split
      · simp [giveUp_wf left]
      · simp [offerEnters_wf left]
      · simp [h]

@[simp] theorem loadIns_canonical (i : Instr) (c : CellId) (p : Pfx) (k : Enc) (rd rs : Reg) (n : Nat) :
    Canonical (loadIns s i c p k rd rs n) := by simp [loadIns, h]

@[simp] theorem storeIns_canonical (i : Instr) (c : CellId) (p : Pfx) (rd rs : Reg) (n : Nat) :
    Canonical (storeIns s i c p rd rs n) := by simp [storeIns, h]

theorem issueElements_wf {fin : State → State} (step : ∀ t, Memory.wf t.mem = true → Memory.wf (fin t).mem = true)
    (c : CellId) (mk : State → Regs → Nat → Option (BitVec 4) → Msg) (n : Nat) :
    Memory.wf (issueElements c mk fin n s).mem = true := by
  induction n generalizing s with
  | zero => exact step s h
  | succ n ih =>
    rw [issueElements]
    dsimp only
    split
    · split
      · exact step s h
      · exact emitThen_wf h (fun t h => ih (by exact h)) ..
    · exact step s h

@[simp] theorem elementsIns_canonical (i : Instr) (c : CellId) (p : Pfx) (rd rs : Reg) (scatter : Bool)
    (bad : Option Nat) (base : Regs → W64) (mk : State → Regs → Nat → Option (BitVec 4) → Msg) :
    Canonical (elementsIns s i c p rd rs scatter bad base mk) := by
  refine issue_canonical h fun t h => ?_
  dsimp only
  split
  · exact issueElements_wf h (fun u h => by simp [h]) ..
  · exact issueElements_wf (by simp [h]) (fun u h => by simp [h]) ..

@[simp] theorem execEndStrand_canonical (c : CellId) (p : Pfx) : Canonical (execEndStrand c p s) :=
  issue_canonical h fun _ h => fsTest_wf h (fun _ h => by simp [h]) c

@[simp] theorem execFbar_canonical (c : CellId) (p : Pfx) : Canonical (execFbar c p s) :=
  issue_canonical h fun _ h => fsTest_wf h (fun _ h => by simp [h]) c

@[simp] theorem execTableauInstr_canonical (c : CellId) (p : Pfx) : Canonical (execTableauInstr c p s) :=
  issue_canonical h fun _ h => by simp [h]

@[simp] theorem branchIns_canonical (i : Instr) (c : CellId) (p : Pfx) (k : Enc) (uses : List Reg)
    (target : Regs → BitVec 14) : Canonical (branchIns s i c p k uses target) :=
  issue_canonical h fun _ h => by simp [h]

@[simp] theorem loopIns_canonical (i : Instr) (c : CellId) (p : Pfx) (k : Enc) (uses : List Reg)
    (count : Regs → BitVec 32) (e : BitVec 14) : Canonical (loopIns s i c p k uses count e) := by
  refine issue_canonical h fun t h => ?_
  dsimp only
  repeat' split
  all_goals simp [h]

@[simp] theorem tokenIns_canonical (i : Instr) (c : CellId) (p : Pfx) (rd rs : Reg) (flags : BitVec 10) :
    Canonical (tokenIns s i c p rd rs flags) := by simp [tokenIns, h]

@[simp] theorem execFrel_canonical (c : CellId) (p : Pfx) (rs : Reg) : Canonical (execFrel c p rs s) := by
  refine issue_canonical h fun t h => ?_
  dsimp only
  split
  · simp [h]
  · exact emitThen_wf h (fun u h => by simp [h]) ..

@[simp] theorem putSection_wf (x : Section) (at_ : Nat) (bs : List Byte) :
    Memory.wf (putSection s x at_ bs).mem = true := by
  unfold putSection
  dsimp only
  repeat' split
  all_goals simp [h]

@[simp] theorem fillSection_wf (x : Section) : Memory.wf (fillSection s x).mem = true := by
  rw [fillSection]
  split <;> simp [h]

@[simp] theorem arrive_wf (old : Nat) (bs : List Byte) (x : Section) :
    Memory.wf (arrive old bs s x).mem = true := by
  rw [arrive]
  split <;> simp [h]

@[simp] theorem spoil_wf (x : Section) : Memory.wf (spoil s x).mem = true := by
  rw [spoil]
  split <;> simp [h]

@[simp] theorem spoilImage_wf (bs : List Byte) : Memory.wf (spoilImage s bs).mem = true := by
  rw [spoilImage]
  split
  · exact foldl_wf (fun _ _ h => spoil_wf h ..) _ h
  · exact h

end

end Sys2Proof.Machine
end

/-! # The canonical form of memory: answers, requests and the selvedge -/

section
namespace Sys2Proof.Machine

open Sys2Proof

section
variable {s : State} (h : Memory.wf s.mem = true)
include h

@[simp] theorem answerOffer_wf (r : Req) (i : Nat) (v : W64) : Memory.wf (answerOffer s r i v).1.mem = true := by
  rw [answerOffer]
  split <;> simp [h]

@[simp] theorem sendAnswer_wf (a : Answer) : Memory.wf (sendAnswer s a).mem = true :=
  foldl_wf (fun _ _ h => produce_wf (answerOffer_wf h ..) ..) _ h

@[simp] theorem flushAnswers_wf : Memory.wf (flushAnswers s).mem = true :=
  foldl_wf (fun _ _ h => sendAnswer_wf h _) _ h

@[simp] theorem answer_wf (r : Req) (status : BitVec 8) (data : List W64) :
    Memory.wf (answer s r status data).mem = true := by simp [answer, h]

/-- A request of the steward keeps memory canonical where its body does. -/
theorem takeRequest_canonical {codes : BitVec 12 → Bool}
    {body : State → Token → Req → Host.Outcome State Fault Refusal}
    (served : ∀ t k r, Memory.wf t.mem = true → Canonical (body t k r)) : Canonical (takeRequest s codes body) := by
  rw [takeRequest]
  split
  · simp [h]
  · split
    · simp
    · split
      · simp
      · split
        · simp
        · dsimp only
          split
          · split <;> simp [h]
          · exact served _ _ _ h

@[simp] theorem endLoad_wf (l : Load) (status : BitVec 8) : Memory.wf (endLoad s l status).mem = true := by
  simp [endLoad, h]

@[simp] theorem abandonLoad_wf (o : Origin) : Memory.wf (abandonLoad s o).mem = true := by
  rw [abandonLoad]
  repeat' split
  all_goals simp [h]

@[simp] theorem applyNext_canonical (p : BitVec 4 → Bool) : Canonical (applyNext p s) := by
  unfold applyNext
  dsimp only
  repeat' split
  all_goals simp [h]

@[simp] theorem sendDownlink_wf : Memory.wf (sendDownlink s).mem = true := h

@[simp] theorem execDownlinkFrame_canonical : Canonical (execDownlinkFrame s) := by
  rw [execDownlinkFrame]
  split <;> simp [h]

@[simp] theorem execFieldDownlinkReceive_canonical (good : Bool) : Canonical (execFieldDownlinkReceive good s) := by
  unfold execFieldDownlinkReceive
  dsimp only
  repeat' split
  all_goals simp [h]

@[simp] theorem execUplinkFrameSend_canonical (levels : BitVec 24) (readback : BitVec 16) (lplusLow thermal : Bool) :
    Canonical (execUplinkFrameSend levels readback lplusLow thermal s) := by
  unfold execUplinkFrameSend
  dsimp only
  repeat' split
  all_goals simp [h]

@[simp] theorem safeEntered_wf (u : Uplink) (state cause : BitVec 2) :
    Memory.wf (safeEntered s u state cause).mem = true := by simp [safeEntered, h]

@[simp] theorem makeReport_wf (u : Uplink) (frame : BitVec 32) (w : BitVec 32 × BitVec 4 × BitVec 24) :
    Memory.wf (makeReport u frame s w).mem = true :=
  foldl_wf (fun _ _ h => by simp [h]) _ h

@[simp] theorem answerReleases_wf (status : BitVec 8) (p : Req × Nat → Bool) :
    Memory.wf (answerReleases s status p).mem = true :=
  foldl_wf (fun _ _ h => answer_wf h ..) _ h

@[simp] theorem goodUplink_wf (u : Uplink) : Memory.wf (goodUplink s u).mem = true := by
  delta goodUplink
  extract_lets x frame s1 s2 s3 s4 s5 s6
  have w1 : Memory.wf s1.mem = true := by simp [s1, h]
  have w2 : Memory.wf s2.mem = true := by simp only [s2]; (repeat' split) <;> simp [w1]
  have w3 : Memory.wf s3.mem = true := by simp only [s3]; (repeat' split) <;> simp [w2]
  have w4 : Memory.wf s4.mem = true := foldl_wf (fun _ _ h => makeReport_wf h ..) _ w3
  have w5 : Memory.wf s5.mem = true := by
    simp only [s5]
    split
    · exact foldl_wf (fun _ _ h => by simp [h]) _ w4
    · exact w4
  have w6 : Memory.wf s6.mem = true := foldl_wf (fun _ _ h => by simp [h]) _ w5
  split <;> simp [w6]

@[simp] theorem runEnds_wf : Memory.wf (runEnds s).mem = true := by simp [runEnds, h]

@[simp] theorem badUplink_wf : Memory.wf (badUplink s).mem = true := by simp [badUplink, h]

@[simp] theorem execUplinkFrameReceive_canonical (good : Bool) : Canonical (execUplinkFrameReceive good s) := by
  rw [execUplinkFrameReceive]
  repeat' split
  all_goals simp [h]

@[simp] theorem selvedgeDown_wf : Memory.wf (selvedgeDown s).mem = true := by
  unfold selvedgeDown
  dsimp only
  repeat' split
  all_goals simp [h]

@[simp] theorem execSelvedgeLinkDown_canonical : Canonical (execSelvedgeLinkDown s) := by
  rw [execSelvedgeLinkDown]
  split <;> simp [h]

@[simp] theorem execFieldRelease_canonical : Canonical (execFieldRelease s) :=
  takeRequest_canonical h fun t k r h => by (repeat' split) <;> simp [h]

@[simp] theorem execFieldReleaseTimeout_canonical : Canonical (execFieldReleaseTimeout s) := by
  rw [execFieldReleaseTimeout]
  split <;> simp [h]

@[simp] theorem wirebreak_canonical (ch : BitVec 5) (broke : Bool) : Canonical (wirebreak ch broke s) := by
  simp [wirebreak, h]

@[simp] theorem binIns_canonical (i : Instr) (c : CellId) (p : Pfx) (k : Enc) (rd rs : Reg) (f : W64 → W64 → W64) :
    Canonical (binIns s i c p k rd rs f) := by simp [binIns, h]

@[simp] theorem immIns_canonical (i : Instr) (c : CellId) (p : Pfx) (k : Enc) (rd rs : Reg) (f : W64 → W64) :
    Canonical (immIns s i c p k rd rs f) := by simp [immIns, h]

@[simp] theorem carryIns_canonical (i : Instr) (c : CellId) (p : Pfx) (k : Enc) (uses : List Reg) (rd : Reg)
    (f : Regs → W64 × Bool) :
    Canonical (carryIns s i c p k uses rd f) := by simp [carryIns, h]

@[simp] theorem mulIns_canonical (i : Instr) (c : CellId) (p : Pfx) (rd rs : Reg) (f : W64 → W64 → BitVec 128) :
    Canonical (mulIns s i c p rd rs f) :=
  issue_canonical h fun _ h => by simp [h]

@[simp] theorem divIns_canonical (i : Instr) (c : CellId) (p : Pfx) (rd rs : Reg) (f : W64 → W64 → W64 × W64) :
    Canonical (divIns s i c p rd rs f) :=
  issue_canonical h fun _ h => by simp [h]

@[simp] theorem execDivideComplete_canonical (c : CellId) : Canonical (execDivideComplete c s) := by
  rw [execDivideComplete]
  split <;> simp [h]

@[simp] theorem execRdsr_canonical (c : CellId) (p : Pfx) (rd : Reg) (idx : BitVec 8) :
    Canonical (execRdsr c p rd idx s) :=
  issue_canonical h fun _ h => by dsimp only; split <;> simp [h]

end

end Sys2Proof.Machine
end

/-! # The canonical form of memory: floating point, lookups and host accesses -/

section
namespace Sys2Proof.Machine

open Sys2Proof

section
variable {s : State} (h : Memory.wf s.mem = true)
include h

@[simp] theorem fpIns_canonical (i : Instr) (c : CellId) (p : Pfx) (k : Enc) (rd : Reg) (uses : List Reg)
    (f : BitVec 2 → Regs → W64 × BitVec 5) : Canonical (fpIns s i c p k rd uses f) :=
  issue_canonical h fun _ h => by simp [h]

@[simp] theorem fpBin_canonical (i : Instr) (c : CellId) (p : Pfx) (rd rs : Reg)
    (f : BitVec 2 → W64 → W64 → W64 × BitVec 5) :
    Canonical (fpBin s i c p rd rs f) := by simp [fpBin, h]

@[simp] theorem fpToIntIns_canonical (i : Instr) (c : CellId) (p : Pfx) (rd rs : Reg) (signed toZero : Bool) :
    Canonical (fpToIntIns s i c p rd rs signed toZero) := by simp [fpToIntIns, h]

@[simp] theorem fmaIns_canonical (i : Instr) (c : CellId) (p : Pfx) (rd rs rt : Reg) (negProd negAdd : Bool) :
    Canonical (fmaIns s i c p rd rs rt negProd negAdd) := by simp [fmaIns, h]

@[simp] theorem lookupEnd_wf (c : CellId) (precise : Bool) (rd : Reg) (next : BitVec 15)
    (x : Option (W64 × BitVec 5)) :
    Memory.wf (lookupEnd s c precise rd next x).mem = true := by
  unfold lookupEnd
  dsimp only
  split <;> simp [h]

@[simp] theorem entryFaults_wf (c : CellId) (tag0 : W64) (as : List Nat) :
    Memory.wf (entryFaults s c tag0 as).mem = true := by
  induction as generalizing s with
  | nil => exact h
  | cons _ _ ih => exact ih (firingReport_wf h ..)

@[simp] theorem lookupStore_wf (c : CellId) (p : Pfx) (k : Enc) (float : Bool) (rd : Reg) (base : Nat)
    (i : Nat × Bool) (frac : BitVec 16) : Memory.wf (lookupStore s c p k float rd base i frac).mem = true :=
  wf_mem_ite (lookupEnd_wf (entryFaults_wf (by exact h) ..) ..) (lookupEnd_wf (by exact h) ..)

@[simp] theorem lookupFabric_wf (c : CellId) (p : Pfx) (k : Enc) (float : Bool) (rd : Reg) (base : Addr)
    (i : Nat × Bool) (frac : BitVec 16) :
    Memory.wf (lookupFabric s c p k float rd base i frac).mem = true := by simp [lookupFabric, h]

@[simp] theorem lookupIns_canonical (i : Instr) (c : CellId) (p : Pfx) (k : Enc) (float : Bool) (rd rs rt : Reg)
    (kcode : BitVec 4) : Canonical (lookupIns s i c p k float rd rs rt kcode) :=
  issue_canonical h fun _ h => by dsimp only; split <;> simp [h]

@[simp] theorem onLink_canonical {serve : Host.Outcome State Fault Refusal} (served : Canonical serve) :
    Canonical (onLink s serve) :=
  canonical_ite h served

@[simp] theorem configRequest_canonical {serve : Host.Outcome State Fault Refusal} (served : Canonical serve) :
    Canonical (configRequest s serve) :=
  onLink_canonical h (canonical_ite h served)

@[simp] theorem takingRecords_canonical : Canonical (takingRecords s) := by
  rw [takingRecords]
  split
  · rename_i took
    exact (congrArg Memory.wf (takeRecords_mem took)).trans h
  · simp

@[simp] theorem execBar0Write_canonical (offset : BitVec 16) (data : List (BitVec 8)) (poisoned : Bool) :
    Canonical (execBar0Write offset data poisoned s) := by
  rw [execBar0Write]
  generalize slotsWritten _ _ = slots
  refine onLink_canonical h ?_
  repeat' split
  all_goals simp [h]

@[simp] theorem execBar0Read_canonical (offset : BitVec 16) (len : Nat) : Canonical (execBar0Read offset len s) := by
  refine onLink_canonical h ?_
  split <;> simp [h]

@[simp] theorem execBar23Read_canonical (offset : BitVec 26) (len : Nat) :
    Canonical (execBar23Read offset len s) := by
  refine onLink_canonical h ?_
  repeat' split
  · simp [h]
  · simp [h]
  · exact (canonical_next _).mpr (produceAll_wf (by exact h) ..)

@[simp] theorem execBar23Write_canonical (offset : BitVec 26) (data : List (BitVec 8)) (poisoned : Bool) :
    Canonical (execBar23Write offset data poisoned s) := by
  refine onLink_canonical h ?_
  repeat' split
  all_goals simp [h]

@[simp] theorem execExpansionRomWrite_canonical (_offset : BitVec 24) (_data : List (BitVec 8)) :
    Canonical (execExpansionRomWrite _offset _data s) := h

@[simp] theorem execXlateIn_canonical : Canonical (execXlateIn s) :=
  takeRequest_canonical h fun t k r h => by dsimp only; (repeat' split) <;> simp [h]

end

end Sys2Proof.Machine
end

/-! # The canonical form of memory: the host face -/

section
namespace Sys2Proof.Machine

open Sys2Proof

section
variable {s : State} (h : Memory.wf s.mem = true)
include h

@[simp] theorem execXlateOut_canonical : Canonical (execXlateOut s) :=
  takeRequest_canonical h fun t k r h => by dsimp only; (repeat' split) <;> simp [h]

@[simp] theorem storeFails_wf (a : Addr) (mask : BitVec 8) (wf : WriteFor) (tag0 : W64) (code : BitVec 8) :
    Memory.wf (storeFails s a mask wf tag0 code).mem = true := by
  cases wf <;> simp [storeFails, h]

@[simp] theorem hostReqFails_wf (f : Flit) (code : BitVec 8) : Memory.wf (hostReqFails s f code).mem = true := by
  rw [hostReqFails]
  split <;> simp [h]

theorem hostIssue_wf {t : State} {f : Flit} {ha : W64} (issued : hostIssue s f ha = some t) :
    Memory.wf t.mem = true := by
  rw [hostIssue] at issued
  split at issued
  · obtain ⟨_, _, rfl⟩ := Option.map_eq_some_iff.mp issued
    exact h
  · obtain ⟨_, _, rfl⟩ := Option.map_eq_some_iff.mp issued
    exact h
  · cases issued
    exact h
  · cases issued
    split <;> simp [h]
  · cases issued
    exact h

@[simp] theorem execHostRequestIssue_canonical : Canonical (execHostRequestIssue s) := by
  rw [execHostRequestIssue]
  split
  · simp [h]
  · split
    · simp
    · dsimp only
      repeat' split
      · simp [h]
      · simp [h]
      · simp [h]
      · exact (canonical_next _).mpr (hostIssue_wf (s := taken s 0 true _) h ‹_›)
      · simp [h]

@[simp] theorem answerTag_wf (u : TagUse) (r : Except (BitVec 8) W64) : Memory.wf (answerTag s u r).mem = true := by
  cases u <;> simp [answerTag, h]

@[simp] theorem execHostCompletion_canonical (tag : BitVec 5) (status : CplStatus) (data : BitVec 64) :
    Canonical (execHostCompletion tag status data s) := by
  refine onLink_canonical h ?_
  repeat' split
  all_goals simp [h]

@[simp] theorem attachFails_wf (r : Req) (status : BitVec 8) : Memory.wf (attachFails s r status).mem = true := by
  simp [attachFails, h]

@[simp] theorem execAttachRing_canonical : Canonical (execAttachRing s) :=
  takeRequest_canonical h fun t k r h' => by (repeat' split) <;> simp [h, h']

@[simp] theorem attachRing_wf (r : Req) (g : Ring) : Memory.wf (attachRing s r g).mem = true := by
  simp [attachRing, h]

@[simp] theorem execRingParamsReadDone_canonical (status : CplStatus) (data : List (BitVec 8)) :
    Canonical (execRingParamsReadDone status data s) := by
  unfold execRingParamsReadDone
  dsimp only
  repeat' split
  all_goals simp [h]

@[simp] theorem execDetachRing_canonical : Canonical (execDetachRing s) :=
  takeRequest_canonical h fun t k r h' => by (repeat' split) <;> simp [h, h']

@[simp] theorem detachNow_wf (r : Req) : Memory.wf (detachNow s r).mem = true := by simp [detachNow, h]

@[simp] theorem execRingPacketStart_canonical : Canonical (execRingPacketStart s) := by
  rw [execRingPacketStart]
  split
  · simp [h]
  · split
    · split
      · simp [h]
      · split
        · simp
        · rename_i next
          have left := (congrArg Memory.wf (nextPacket_mem next)).trans h
          split
          · simp [left]
          · split <;> simp [h]
    · simp

@[simp] theorem execRingPacketComplete_canonical : Canonical (execRingPacketComplete s) := by
  unfold execRingPacketComplete
  dsimp only
  repeat' split
  all_goals simp [h]

@[simp] theorem execConsumedWordRead_canonical (status : CplStatus) (value : BitVec 64) :
    Canonical (execConsumedWordRead status value s) := by
  refine onLink_canonical h ?_
  dsimp only
  repeat' split
  all_goals simp [h]

@[simp] theorem execBusMasterDisable_canonical : Canonical (execBusMasterDisable s) :=
  configRequest_canonical h (by split <;> simp [h])

@[simp] theorem execBusMasterEnable_canonical : Canonical (execBusMasterEnable s) :=
  configRequest_canonical h (by dsimp only; (repeat' split) <;> simp [h])

@[simp] theorem execD3hotEntry_canonical : Canonical (execD3hotEntry s) :=
  configRequest_canonical h (by split <;> simp [h])

@[simp] theorem execD0Return_canonical : Canonical (execD0Return s) :=
  configRequest_canonical h (by dsimp only; (repeat' split) <;> simp [h])

@[simp] theorem abandonReads_wf (us : List (Nat × Option TagUse)) : Memory.wf (abandonReads s us).mem = true := by
  induction us generalizing s with
  | nil => exact h
  | cons u us ih =>
    rcases u with ⟨_, _ | u⟩
    · exact ih h
    · exact ih (answerTag_wf h ..)

@[simp] theorem hostReset_wf (cause : BitVec 2) : Memory.wf (hostReset s cause).mem = true := by
  delta hostReset
  extract_lets s0 s1 s2 s3
  have w0 : Memory.wf s0.mem = true := by simp [s0, h]
  have w1 : Memory.wf s1.mem = true := abandonReads_wf (by exact w0) _
  have w2 : Memory.wf s2.mem = true := by simp only [s2]; split <;> simp [w1]
  have w3 : Memory.wf s3.mem = true := by simp only [s3]; split <;> simp [w2]
  simp [w3]

@[simp] theorem execFunctionLevelReset_canonical : Canonical (execFunctionLevelReset s) :=
  configRequest_canonical h (by simp [h])

@[simp] theorem execHotReset_canonical : Canonical (execHotReset s) :=
  onLink_canonical h (by simp [h])

@[simp] theorem execHostLinkDown_canonical : Canonical (execHostLinkDown s) :=
  onLink_canonical h (by simp [h])

@[simp] theorem execHostLinkTrained_canonical (width gen : BitVec 4) :
    Canonical (execHostLinkTrained width gen s) := by
  rw [execHostLinkTrained]
  split <;> simp [h]

@[simp] theorem execConfigWrite_canonical (offset : BitVec 12) (data : BitVec 32) (enables : BitVec 4) :
    Canonical (execConfigWrite offset data enables s) :=
  configRequest_canonical h (by simp [h])

@[simp] theorem execHostCompletionTimeout_canonical (tag : BitVec 5) :
    Canonical (execHostCompletionTimeout tag s) := by
  unfold execHostCompletionTimeout
  dsimp only
  repeat' split
  all_goals simp [h]

end

end Sys2Proof.Machine
end

/-! # The canonical form of memory: the shuttle and the row links -/

section
namespace Sys2Proof.Machine

open Sys2Proof

section
variable {s : State} (h : Memory.wf s.mem = true)
include h

@[simp] theorem shuttleLost_wf : Memory.wf (shuttleLost s).mem = true := by simp [shuttleLost, h]

@[simp] theorem resendOrLose_wf : Memory.wf (resendOrLose s).mem = true := by
  rw [resendOrLose]
  split <;> simp [h]

@[simp] theorem ackFrame_wf (bs : List Byte) : Memory.wf (ackFrame s bs).mem = true := by simp [ackFrame, h]

@[simp] theorem acceptSequenced_wf (bs : List Byte) : Memory.wf (acceptSequenced s bs).mem = true := by
  simp [acceptSequenced, h]

@[simp] theorem takeTokens_canonical (bs : List Byte) : Canonical (takeTokens s bs) :=
  canonical_ite (canonical_unpredictable ..) (by simp [h])

@[simp] theorem takeRaw_wf (bs : List Byte) : Memory.wf (takeRaw s bs).mem = true := by simp [takeRaw, h]

@[simp] theorem takeSequenced_canonical (bs : List Byte) : Canonical (takeSequenced s bs) := by
  rw [takeSequenced]
  split <;> simp [h]

@[simp] theorem takeInit_wf (bs : List Byte) : Memory.wf (takeInit s bs).mem = true := by
  unfold takeInit
  dsimp only
  repeat' split
  all_goals simp [h]

@[simp] theorem takeFrame_canonical (bs : List Byte) : Canonical (takeFrame s bs) := by
  unfold takeFrame
  dsimp only
  repeat' split
  all_goals simp [h]

@[simp] theorem receiveFrame_canonical (bs : List Byte) : Canonical (receiveFrame s bs) := by simp [receiveFrame, h]

@[simp] theorem execShuttleBadFrame_canonical (bad : ShuttleBad) : Canonical (execShuttleBadFrame bad s) := by
  unfold execShuttleBadFrame
  dsimp only
  split <;> simp [h]

@[simp] theorem execShuttleAlignmentLost_canonical : Canonical (execShuttleAlignmentLost s) := by
  unfold execShuttleAlignmentLost
  dsimp only
  repeat' split
  all_goals simp [h]

@[simp] theorem execShuttleReplayTimeout_canonical : Canonical (execShuttleReplayTimeout s) := by
  rw [execShuttleReplayTimeout]
  repeat' split
  all_goals simp [h]

@[simp] theorem execShuttleLinkFrameDue_canonical : Canonical (execShuttleLinkFrameDue s) := by
  rw [execShuttleLinkFrameDue]
  split <;> simp [h]

@[simp] theorem execShuttleFrameSend_canonical : Canonical (execShuttleFrameSend s) := by
  rw [execShuttleFrameSend]
  split
  · simp [h]
  · split
    · simp
    · split
      · simp [h]
      · split
        · simp [h]
        · split
          · simp [h]
          · split
            · simp
            · rename_i next
              simp [nextFrame_mem next, h]

@[simp] theorem execShuttleRawMove_canonical : Canonical (execShuttleRawMove s) := by
  unfold execShuttleRawMove
  dsimp only
  repeat' split
  all_goals simp [h]

@[simp] theorem linkDownReport_wf (r : RowId) : Memory.wf (linkDownReport s r).mem = true := by
  simp [linkDownReport, h]

@[simp] theorem convertDown_wf (r : RowId) (t : Token) : Memory.wf (convertDown r s t).mem = true := by
  simp [convertDown, h]

@[simp] theorem convertBack_wf (r : RowId) (node : BitVec 12) (t : Token) :
    Memory.wf (convertBack r node s t).mem = true := by simp [convertBack, h]

@[simp] theorem convertFrame_wf (r : RowId) (f : List Byte) : Memory.wf (convertFrame r s f).mem = true :=
  foldl_wf (fun _ _ h => convertBack_wf h ..) _ h

@[simp] theorem treatOwn_wf (r : RowId) (o : RowOwn) : Memory.wf (treatOwn r s o).mem = true := by
  cases o with
  | answer d more ts =>
    have converted : Memory.wf (ts.foldl (convertDown r) s).mem = true := foldl_wf (fun _ _ h => convertDown_wf h ..) ts h
    rw [treatOwn]
    split <;> simp [converted]
  | _ => simp [treatOwn, h]

@[simp] theorem treatWaiting_wf (r : RowId) : Memory.wf (treatWaiting s r).mem = true :=
  foldl_wf (fun _ _ h => treatOwn_wf h ..) _ (by simp [h])

@[simp] theorem setOwn_wf (r : RowId) (own : List RowOwn) : Memory.wf (setOwn s r own).mem = true := by
  simp [setOwn, h]

@[simp] theorem queueOwn_wf (r : RowId) (o : RowOwn) : Memory.wf (queueOwn s r o).mem = true := by simp [queueOwn, h]

@[simp] theorem treatForward_wf (r : RowId) (f : List Byte) : Memory.wf (treatForward r s f).mem = true := by
  simp [treatForward, h]

@[simp] theorem queueForward_wf (r : RowId) (f : List Byte) : Memory.wf (queueForward s r f).mem = true := by
  simp [queueForward, h]

@[simp] theorem takeKept_wf (r : RowId) (words : List Byte) : Memory.wf (takeKept r s words).mem = true := by
  simp [takeKept, h]

@[simp] theorem takeAllKept_wf (r : RowId) : Memory.wf (takeAllKept s r).mem = true :=
  foldl_wf (fun _ _ h => takeKept_wf h ..) _ (by simp [h])

@[simp] theorem takeAddressed_canonical (r : RowId) (bs : List Byte) : Canonical (takeAddressed s r bs) := by
  rw [takeAddressed]
  repeat' split
  all_goals simp [h]

@[simp] theorem forwardFrame_canonical (r : RowId) (bs : List Byte) : Canonical (forwardFrame s r bs) := by
  rw [forwardFrame]
  split <;> simp [h]

@[simp] theorem takeRowFrame_canonical (r : RowId) (bs : List Byte) : Canonical (takeRowFrame s r bs) := by
  rw [takeRowFrame]
  split <;> simp [h]

@[simp] theorem receiveRow_canonical (r : RowId) (bs : List Byte) (fcs : Bool) :
    Canonical (receiveRow s r bs fcs) := by
  rw [receiveRow]
  repeat' split
  all_goals simp [h]

@[simp] theorem afterChunk_wf (r : RowId) (n : Nat) : Memory.wf (afterChunk s r n).mem = true := by
  simp [afterChunk, h]

@[simp] theorem sendOwn_wf (r : RowId) (o : RowOwn) : Memory.wf (sendOwn s r o).mem = true := by
  unfold sendOwn
  dsimp only
  split <;> simp [h]

theorem sendNext_wf {t : State} {r : RowId} (sent : sendNext s r = some t) : Memory.wf t.mem = true := by
  rw [sendNext] at sent
  repeat' split at sent
  all_goals cases sent
  all_goals simp [h]

@[simp] theorem execRowFrameSend_canonical (port : RowId) : Canonical (execRowFrameSend port s) := by
  rw [execRowFrameSend]
  repeat' split
  · simp [h]
  · simp
  · simp [sendNext_wf h ‹_›]
  · simp

@[simp] theorem rowDown_wf (r : RowId) : Memory.wf (rowDown s r).mem = true := by
  rw [rowDown]
  split <;> simp [h]

@[simp] theorem execRowLinkLoss_canonical (port : RowId) : Canonical (execRowLinkLoss port s) := by
  rw [execRowLinkLoss]
  split <;> simp [h]

@[simp] theorem execRowGraceExpired_canonical (port : RowId) : Canonical (execRowGraceExpired port s) := by
  rw [execRowGraceExpired]
  dsimp only
  split
  · simp [h]
  · split
    · simp
    · refine (canonical_next _).mpr ?_
      rw [settleReady_mem]
      refine foldl_wf (fun _ _ h => treatForward_wf h ..) _ (treatWaiting_wf ?_ _)
      split <;> simp [h]

@[simp] theorem remoteToken_wf (home : BitVec 12) (t : Token) : Memory.wf (remoteToken s home t).mem = true := by
  unfold remoteToken
  dsimp only
  repeat' split
  all_goals simp [h]

@[simp] theorem collectAnswer_wf (r : RowId) (dst : BitVec 12) (t : Token) :
    Memory.wf (collectAnswer s r dst t).mem = true := by
  rw [collectAnswer]
  split <;> simp [h]

end

end Sys2Proof.Machine
end

/-! # The canonical form of memory: sinks, keep memory, loading and routers -/

section
namespace Sys2Proof.Machine

open Sys2Proof

section
variable {s : State} (h : Memory.wf s.mem = true)
include h

@[simp] theorem leaveByRow_wf (t : Token) (way : RowLeaving) : Memory.wf (leaveByRow s t way).mem = true := by
  cases way <;> simp [leaveByRow, h]

@[simp] theorem execTokenToRowFace_canonical (net3 : Bool) : Canonical (execTokenToRowFace net3 s) := by
  rw [execTokenToRowFace]
  repeat' split
  all_goals simp [h]

@[simp] theorem keepWrite_wf (a : Addr) (mask : BitVec 8) (v : W64) (wf : WriteFor) (tag0 : W64) :
    Memory.wf (keepWrite s a mask v wf tag0).mem = true := by
  unfold keepWrite
  dsimp only
  repeat' split
  all_goals simp [h, putWord_canonical h, setEcc_canonical h, checkWord_wf h]

@[simp] theorem keepServe_wf (f : Flit) : Memory.wf (keepServe s f).mem = true := by
  unfold keepServe
  dsimp only
  repeat' split
  all_goals simp [h]

@[simp] theorem execKeepAccess_canonical : Canonical (execKeepAccess s) := by
  rw [execKeepAccess]
  repeat' split
  all_goals simp [h]

@[simp] theorem flashCommand_wf (off len : Nat) : Memory.wf (flashCommand s off len).mem = true := by
  simp [flashCommand, h]

@[simp] theorem windowCommand_wf (a : Addr) : Memory.wf (windowCommand s a).mem = true := by simp [windowCommand, h]

@[simp] theorem flashServe_wf (f : Flit) : Memory.wf (flashServe s f).mem = true := by
  rw [flashServe]
  split <;> simp [h]

@[simp] theorem romRead_wf : Memory.wf (romRead s).mem = true := by simp [romRead, h]

@[simp] theorem execFlashWindowRead_canonical : Canonical (execFlashWindowRead s) := by
  unfold execFlashWindowRead
  dsimp only
  repeat' split
  all_goals simp [h]

@[simp] theorem execStreamTakeRequest_canonical (port : BitVec 8) : Canonical (execStreamTakeRequest port s) := by
  unfold execStreamTakeRequest
  dsimp only
  repeat' split
  all_goals simp [h]

theorem rawPutWord_wf {t : State} {r : RowId} {w : W64} (put : rawPutWord s r w = .done t) :
    Memory.wf t.mem = true := by
  rw [rawPutWord] at put
  dsimp only at put
  repeat' split at put
  all_goals cases put
  all_goals simp [h]

theorem putWordAt_wf {t : State} {port : BitVec 8} {v : W64} (put : putWordAt s port v = .done t) :
    Memory.wf t.mem = true := by
  rw [putWordAt] at put
  repeat' split at put
  case h_2.isTrue | h_3.isTrue => exact rawPutWord_wf h put
  all_goals cases put
  all_goals exact h

@[simp] theorem execStreamPutRequest_canonical (port : BitVec 8) : Canonical (execStreamPutRequest port s) := by
  rw [execStreamPutRequest]
  repeat' split
  · simp
  · simp [h]
  · rename_i put
    exact (canonical_next _).mpr (putWordAt_wf (s := taken s (portTile port) true _) h put)
  all_goals simp [h]

/-- A sink keeps memory canonical where the token it takes does. -/
theorem sinkToken_canonical {body : State → Token → Option State}
    (sinks : ∀ t k u, Memory.wf t.mem = true → body t k = some u → Memory.wf u.mem = true) (t : TileId)
    (net3 : Bool) (kind : Flit → Bool) : Canonical (sinkToken s t net3 kind body) := by
  rw [sinkToken]
  split
  · split
    · split
      · exact sinks (taken s t true _) _ _ h ‹_›
      · exact h
    · simp
  · simp

@[simp] theorem execTokenToHostSink_canonical (net3 : Bool) : Canonical (execTokenToHostSink net3 s) := by
  refine canonical_ite h (sinkToken_canonical h (fun t k u h sunk => ?_) ..)
  split at sunk <;> cases sunk
  simp [h]

@[simp] theorem execTokenToShuttleSink_canonical (net3 : Bool) : Canonical (execTokenToShuttleSink net3 s) := by
  refine canonical_ite h (sinkToken_canonical h (fun t k u h sunk => ?_) ..)
  split at sunk <;> cases sunk
  simp [h]

@[simp] theorem execTokenToFieldSink_canonical (net3 : Bool) : Canonical (execTokenToFieldSink net3 s) := by
  refine canonical_ite h (sinkToken_canonical h (fun t k u h sunk => ?_) ..)
  split at sunk <;> cases sunk
  simp [h]

@[simp] theorem execSinkDiscard_canonical (t : TileId) (net3 : Bool) : Canonical (execSinkDiscard t net3 s) :=
  canonical_ite trivial (canonical_ite h (sinkToken_canonical h (fun _ _ _ h sunk => by cases sunk; exact h) ..))

@[simp] theorem tableEntry_wf (c : CellId) (second : Bool) (v : Option (BitVec 32)) :
    Memory.wf (tableEntry s c second v).mem = true := by
  unfold tableEntry
  dsimp only
  repeat' split
  all_goals simp [h]

@[simp] theorem execDataReturn_canonical (t : TileId) (extra : Bool) : Canonical (execDataReturn t extra s) := by
  unfold execDataReturn
  dsimp only
  repeat' split
  all_goals simp [h]

@[simp] theorem arriveAll_wf (old : Nat) (bs : List Byte) (xs : List Section) :
    Memory.wf (xs.foldl (arrive old bs) s).mem = true :=
  foldl_wf (fun _ _ h => arrive_wf h ..) xs h

@[simp] theorem tableArrived_wf (bs : List Byte) :
    Memory.wf (tableArrived s bs).mem = true :=
  arriveAll_wf (foldl_wf (fun _ _ h => fillSection_wf h _) _ h) ..

@[simp] theorem feed_wf (l : Load) (new : List Byte) : Memory.wf (feed s l new).2.mem = true := by
  rw [feed]
  dsimp only
  repeat' split
  all_goals simp [h]

@[simp] theorem takeChunk_wf (l : Load) (t : Token) (r : Req) : Memory.wf (takeChunk s l t r).mem = true := by
  unfold takeChunk
  dsimp only
  repeat' split
  all_goals simp [h, feed_wf h]

@[simp] theorem execLoadChunk_canonical : Canonical (execLoadChunk s) :=
  takeRequest_canonical h fun t k r h => by (repeat' split) <;> simp [h]

@[simp] theorem execLoadTimeout_canonical : Canonical (execLoadTimeout s) := by
  unfold execLoadTimeout
  dsimp only
  repeat' split
  all_goals simp [h]

@[simp] theorem writeSealed_wf (k : Keys) (bs : List Byte) (x : Section) :
    Memory.wf (writeSealed k bs s x).mem = true := by simp [writeSealed, h]

@[simp] theorem acceptImage_wf (l : Load) : Memory.wf (acceptImage s l).mem = true := by
  have stored := foldl_wf (fun _ x h => writeSealed_wf h s.keys (wholeImage l) x) (sectionsOf (wholeImage l)) h
  rw [acceptImage]
  exact stored

@[simp] theorem verifyDone_wf (l : Load) : Memory.wf (verifyDone s l).mem = true := by
  unfold verifyDone
  dsimp only
  repeat' split
  all_goals simp [h]

@[simp] theorem execImageVerifyDone_canonical : Canonical (execImageVerifyDone s) := by
  rw [execImageVerifyDone]
  repeat' split
  all_goals simp [h]

@[simp] theorem beginRead_wf (l : Load) : Memory.wf (beginRead s l).mem = true := by simp [beginRead, h]

@[simp] theorem flashRead_wf (l : Load) : Memory.wf (flashRead s l).mem = true := by
  unfold flashRead
  dsimp only
  repeat' split
  all_goals simp [h]

@[simp] theorem execFlashReadDone_canonical : Canonical (execFlashReadDone s) := by
  rw [execFlashReadDone]
  repeat' split
  all_goals simp [h]

@[simp] theorem injectInit_wf (base : BitVec 48) (ts : List Token) :
    Memory.wf (injectInit s base ts).mem = true := by simp [injectInit, h]

@[simp] theorem startGraph_wf (base : BitVec 48) : Memory.wf (startGraph s base).mem = true := by
  rw [startGraph]
  split <;> simp [h]

@[simp] theorem execStart_canonical : Canonical (execStart s) := by
  rw [execStart]
  refine takeRequest_canonical h fun t k r h => ?_
  repeat' split
  all_goals simp [h]

@[simp] theorem leaveSlot_wf (t : TileId) (n : Nat) : Memory.wf (leaveSlot s t n).mem = true := by simp [leaveSlot, h]

@[simp] theorem retireNotices_wf (ctx : BitVec 14) : Memory.wf (retireNotices s ctx).mem = true := by
  unfold retireNotices
  dsimp only
  repeat' split
  all_goals simp [h, bumpIterBase_canonical h, readDescriptor_wf h]

@[simp] theorem deliver_wf (t : TileId) (extra : Bool) (f : Flit) :
    Memory.wf (deliver s t extra f).mem = true := by
  rw [deliver]
  split <;> simp [h]

@[simp] theorem moveOn_wf (t : TileId) (outPort n : Nat) (f : Flit) (waited : BitVec 5) :
    Memory.wf (moveOn s t outPort n f waited).mem = true := by
  rw [moveOn]
  split <;> simp [h]

@[simp] theorem execFlitForward_canonical (t : TileId) (outPort : BitVec 3) (waited : BitVec 5) :
    Canonical (execFlitForward t outPort waited s) := by
  rw [execFlitForward]
  repeat' split
  all_goals simp [h]

@[simp] theorem execCreditReturn_canonical (t : TileId) (port : BitVec 3) (vn : BitVec 2) (vc : BitVec 1) :
    Canonical (execCreditReturn t port vn vc s) := by
  rw [execCreditReturn]
  split <;> simp [h]

@[simp] theorem execAgeIncrement_canonical (t : TileId) (port : BitVec 3) (vn : BitVec 2) (vc : BitVec 1)
    (second : Bool) :
    Canonical (execAgeIncrement t port vn vc second s) := by
  rw [execAgeIncrement]
  split <;> simp [h]

@[simp] theorem unitNotices_wf (q : BitVec 2) (m : Msg) : Memory.wf (unitNotices s q m).mem = true := by
  simp [unitNotices, h]

@[simp] theorem acquireFor_wf (q pri : BitVec 2) (ctx : BitVec 14) (f : BitVec 12) (tag : W64)
    (dl : BitVec 20) (fl : BitVec 12) :
    Memory.wf (acquireFor s q pri ctx f tag dl fl).mem = true := by
  rw [acquireFor]
  split <;> simp [h]

end

end Sys2Proof.Machine
end

/-! # The canonical form of memory: the tableau, requests and the power sequence -/

section
namespace Sys2Proof.Machine

open Sys2Proof

section
variable {s : State} (h : Memory.wf s.mem = true)
include h

@[simp] theorem acquire_wf (q : BitVec 2) (g : Flit) : Memory.wf (acquire s q g).mem = true := by
  rw [acquire]
  split <;> simp [h]

@[simp] theorem execLockAcquireRequest_canonical (q : BitVec 2) : Canonical (execLockAcquireRequest q s) := by
  rw [execLockAcquireRequest]
  repeat' split
  all_goals simp [h]

@[simp] theorem execLockNotice_canonical (t : TileId) : Canonical (execLockNotice t s) := by
  rw [execLockNotice]
  repeat' split
  all_goals simp [h]

@[simp] theorem execLockNoticeAck_canonical (t : TileId) (q : BitVec 2) : Canonical (execLockNoticeAck t q s) := by
  unfold execLockNoticeAck
  dsimp only
  repeat' split
  all_goals simp [h]

@[simp] theorem countAck_wf (q : BitVec 2) : Memory.wf (countAck s q).mem = true := by
  rw [countAck]
  split <;> simp [h]

@[simp] theorem execLockAckReceive_canonical (q : BitVec 2) : Canonical (execLockAckReceive q s) := by
  rw [execLockAckReceive]
  repeat' split
  all_goals simp [h]

@[simp] theorem release_wf (q : BitVec 2) (m : Msg) : Memory.wf (release s q m).mem = true := by
  unfold release
  dsimp only
  repeat' split
  all_goals simp [h]

@[simp] theorem execLockReleaseRequest_canonical (q : BitVec 2) : Canonical (execLockReleaseRequest q s) := by
  rw [execLockReleaseRequest]
  repeat' split
  all_goals simp [h]

@[simp] theorem execUnlockNotice_canonical (t : TileId) : Canonical (execUnlockNotice t s) := by
  rw [execUnlockNotice]
  repeat' split
  all_goals simp [h]

@[simp] theorem tileBase_wf (t : TileId) (m : Msg) : Memory.wf (tileBase s t m).mem = true := by
  unfold tileBase
  dsimp only
  split <;> simp [h]

@[simp] theorem execIterBaseNotice_canonical (t : TileId) : Canonical (execIterBaseNotice t s) := by
  rw [execIterBaseNotice]
  repeat' split
  all_goals simp [h]

@[simp] theorem answerCounters_wf : Memory.wf (answerCounters s).mem = true :=
  foldl_wf (fun _ _ h => answer_wf h ..) _ h

@[simp] theorem beginDump_wf (sink : BitVec 8) (req : Option Req) :
    Memory.wf (beginDump s sink req).mem = true := by
  rw [beginDump]
  split <;> simp [h]

@[simp] theorem autoDump_wf : Memory.wf (autoDump s).mem = true := by
  rw [autoDump]
  split <;> simp [h]

@[simp] theorem execTableauDump_canonical : Canonical (execTableauDump s) := by
  refine takeRequest_canonical h fun t k r h => ?_
  dsimp only
  repeat' split
  all_goals simp [h]

@[simp] theorem execTableauDumpComplete_canonical : Canonical (execTableauDumpComplete s) := by
  rw [execTableauDumpComplete]
  split
  · simp [h]
  · split
    · dsimp only
      split
      · simp
      · refine (canonical_next _).mpr (foldl_wf (fun _ _ h => answer_wf h ..) _ ?_)
        repeat' split
        all_goals simp [h]
    · simp

@[simp] theorem readParam_wf (a : Addr) : Memory.wf (readParam s a).1.mem = true := by
  unfold readParam
  dsimp only
  repeat' split
  all_goals simp [h]

@[simp] theorem readParams_wf (a : Addr) (n : Nat) : Memory.wf (readParams s a n).1.mem = true := by
  induction n generalizing s a with
  | zero => exact h
  | succ n ih => exact ih (readParam_wf h a) _

@[simp] theorem execDescribe_canonical : Canonical (execDescribe s) :=
  takeRequest_canonical h fun t k r h => by split <;> simp [h]

@[simp] theorem execCounters_canonical : Canonical (execCounters s) :=
  takeRequest_canonical h fun t k r h => by split <;> simp [h]

@[simp] theorem execEnergyQuery_canonical : Canonical (execEnergyQuery s) :=
  takeRequest_canonical h fun t k r h => by split <;> simp [h]

@[simp] theorem execReservedSystemCode_canonical : Canonical (execReservedSystemCode s) :=
  takeRequest_canonical h fun t k r h => by simp [h]

@[simp] theorem execProbeSet_canonical : Canonical (execProbeSet s) := by
  refine takeRequest_canonical h fun t k r h => ?_
  dsimp only
  repeat' split
  all_goals simp [h]

@[simp] theorem execProbeDump_canonical : Canonical (execProbeDump s) := by
  refine takeRequest_canonical h fun t k r h => ?_
  dsimp only
  repeat' split
  all_goals simp [h]

@[simp] theorem execTableauRequest_canonical : Canonical (execTableauRequest s) :=
  takeRequest_canonical h fun t k r h => by split <;> simp [h]

@[simp] theorem execSleep_canonical : Canonical (execSleep s) := by
  refine takeRequest_canonical h fun t k r h => ?_
  dsimp only
  repeat' split
  all_goals simp [h]

@[simp] theorem execAlarmSet_canonical : Canonical (execAlarmSet s) := by
  rw [execAlarmSet]
  refine takeRequest_canonical h fun t k r h => ?_
  dsimp only
  repeat' split
  all_goals simp [h]

@[simp] theorem execResume_canonical : Canonical (execResume s) := by
  refine takeRequest_canonical h fun t k r h => ?_
  dsimp only
  repeat' split
  all_goals simp [h]

@[simp] theorem dropQuads_wf (qs : BitVec 4) (faces : Bool) : Memory.wf (dropQuads qs faces s).mem = true := by
  simp [dropQuads, h]

@[simp] theorem dropPd10_wf : Memory.wf (dropPd10 s).mem = true :=
  wf_of_lists (zeroKeep_wf h) rfl rfl rfl rfl

@[simp] theorem goDark_wf : Memory.wf (goDark s).mem = true := by simp [goDark, h]

end

end Sys2Proof.Machine
end

/-! # The canonical form of memory: boundaries, admission and wakes -/

section
namespace Sys2Proof.Machine

open Sys2Proof

/-- Where an admission leaves memory canonical. -/
def AdmissionWf : Admission → Prop
  | .enters t => Memory.wf t.mem = true
  | _ => True

@[simp] theorem admissionWf_enters (t : State) : AdmissionWf (.enters t) ↔ Memory.wf t.mem = true := Iff.rfl

@[simp] theorem admissionWf_waits : AdmissionWf .waits := trivial


@[simp] theorem admitOwn_wf {x : State × Token} (h : Memory.wf x.1.mem = true) : AdmissionWf (admitOwn x) := by
  rw [admitOwn]
  split <;> simp [h]

section
variable {s : State} (h : Memory.wf s.mem = true)
include h

@[simp] theorem enterReset_wf : Memory.wf (enterReset s).mem = true := by simp [enterReset, h]

@[simp] theorem execVbatPowerOff_canonical : Canonical (execVbatPowerOff s) :=
  canonical_ite trivial rfl

@[simp] theorem execSourceQualified_canonical : Canonical (execSourceQualified s) := by
  unfold execSourceQualified
  dsimp only
  repeat' split
  all_goals simp [h]

@[simp] theorem execStrapSamplingDone_canonical (readings : List (List Nat)) :
    Canonical (execStrapSamplingDone readings s) := by
  unfold execStrapSamplingDone
  dsimp only
  repeat' split
  all_goals simp [h]

@[simp] theorem execQuadrantPowerUp_canonical : Canonical (execQuadrantPowerUp s) := by
  unfold execQuadrantPowerUp
  dsimp only
  repeat' split
  all_goals simp [h]

@[simp] theorem beginBoot_wf : Memory.wf (beginBoot s).mem = true := by simp [beginBoot, h]

@[simp] theorem execFabricUp_canonical : Canonical (execFabricUp s) := by
  rw [execFabricUp]
  split <;> simp [h]

@[simp] theorem execSteadyRise_canonical : Canonical (execSteadyRise s) := by
  rw [execSteadyRise]
  split
  · simp
  · exact takeAllKept_wf (takeAllKept_wf (startGraph_wf (by exact h) _) _) _

@[simp] theorem execSupplyFaultRestart_canonical : Canonical (execSupplyFaultRestart s) := by
  rw [execSupplyFaultRestart]
  split <;> simp [h]

@[simp] theorem execEsenseConversion_canonical (millivolts : Nat) :
    Canonical (execEsenseConversion millivolts s) := by
  rw [execEsenseConversion]
  split <;> simp [h]

@[simp] theorem execLevelChange_canonical : Canonical (execLevelChange s) := by
  unfold execLevelChange
  dsimp only
  repeat' split
  all_goals simp [h]

@[simp] theorem execLimitStep_canonical : Canonical (execLimitStep s) := by
  rw [execLimitStep]
  repeat' split
  · simp
  · simp
  · rename_i stepped
    exact (congrArg Memory.wf (limitStep_mem stepped)).trans h

@[simp] theorem execDescentBegin_canonical : Canonical (execDescentBegin s) := by
  unfold execDescentBegin
  dsimp only
  repeat' split
  all_goals simp [h]

@[simp] theorem execDescentPd9PowerDown_canonical : Canonical (execDescentPd9PowerDown s) := by
  rw [execDescentPd9PowerDown]
  split <;> simp [h]

@[simp] theorem execDescentDomainsOff_canonical : Canonical (execDescentDomainsOff s) := by
  unfold execDescentDomainsOff
  dsimp only
  repeat' split
  all_goals simp [h]

@[simp] theorem execDescentEnCoreOff_canonical : Canonical (execDescentEnCoreOff s) := by
  rw [execDescentEnCoreOff]
  split <;> simp [h]

@[simp] theorem execDescentEnIoOff_canonical : Canonical (execDescentEnIoOff s) := by
  rw [execDescentEnIoOff]
  split <;> simp [h]

@[simp] theorem execWakeTestDone_canonical : Canonical (execWakeTestDone s) := by
  rw [execWakeTestDone]
  split <;> simp [h]

@[simp] theorem execWakeRetest_canonical : Canonical (execWakeRetest s) := by
  unfold execWakeRetest
  dsimp only
  repeat' split
  all_goals simp [h]

@[simp] theorem resetNow_wf : Memory.wf (resetNow s).mem = true := by simp [resetNow, h]

@[simp] theorem execTamperNAssert_canonical : Canonical (execTamperNAssert s) := by
  rw [execTamperNAssert]
  split <;> simp [h]

@[simp] theorem alarmToken_wf (slot : BitVec 3) (p : PendingAlarm) :
    Memory.wf (alarmToken s slot p).1.mem = true := by simp [alarmToken, h]

@[simp] theorem admitAlarm_wf (slot : BitVec 3) (p : PendingAlarm) :
    Memory.wf (admitAlarm s slot p).mem = true := by
  rw [admitAlarm]
  split <;> simp [h]

@[simp] theorem execAlarmPendingAdmit_canonical : Canonical (execAlarmPendingAdmit s) := by
  rw [execAlarmPendingAdmit]
  repeat' split
  all_goals simp [h]

theorem admitToken_wf {pair : State → List Token → State}
    (step : ∀ t ts, Memory.wf t.mem = true → Memory.wf (pair t ts).mem = true) (t : Token) (tile : TileId)
    (o : Origin) (room : Bool) : AdmissionWf (admitToken s t tile o room pair) := by
  rw [admitToken]
  dsimp only
  repeat' split
  · trivial
  · exact step _ _ (by simp [h])
  · trivial
  · exact produceExtra_wf h ..
  · trivial

@[simp] theorem fieldToken_wf (ctx : BitVec 14) (cell : BitVec 8) (iaddr : BitVec 14) (serial : BitVec 16) (v : W64) :
    Memory.wf (fieldToken s ctx cell iaddr serial v).1.mem = true := by simp [fieldToken, h]

@[simp] theorem noticeToken_wf (code : BitVec 12) (v : W64) : Memory.wf (noticeToken s code v).1.mem = true := by
  simp [noticeToken, h]

@[simp] theorem admitKind_wf (e : OutEvent) : AdmissionWf (admitKind s e) := by
  rw [admitKind]
  split
  case h_6 =>
    refine admitToken_wf ?_ (fun _ _ h => ?_) ..
    · exact h
    · exact h
  case h_7 =>
    refine admitToken_wf ?_ (fun _ _ h => ?_) ..
    · exact h
    · simp [h]
  case h_8 => exact admitToken_wf h (fun _ _ h => foldl_wf (fun _ _ h => queueOwn_wf h ..) _ h) ..
  all_goals
    repeat' split
    all_goals simp [h]

@[simp] theorem afterAdmission_canonical (e : OutEvent) : Canonical (afterAdmission s e) := by
  rw [afterAdmission]
  split <;> simp [h]

@[simp] theorem execAdmitEvent_canonical : Canonical (execAdmitEvent s) := by
  rw [execAdmitEvent]
  repeat' split
  · simp
  · simp
  · rename_i e _ _ t entered
    have left : AdmissionWf (admitKind (admitted s e) e) := admitKind_wf (by simp [h]) e
    rw [entered] at left
    exact afterAdmission_canonical left ..
  · simp [h]
  · simp

@[simp] theorem guardVisit_wf (place : GuardPlace) : Memory.wf (guardVisit s place).mem = true := by
  unfold guardVisit
  dsimp only
  split <;> simp [h]

@[simp] theorem sendStale_wf : Memory.wf (sendStale s).mem = true := by
  unfold sendStale
  dsimp only
  repeat' split
  all_goals simp [h]

@[simp] theorem reaskRecord_wf (c : CellId) : Memory.wf (reaskRecord s c).mem = true := by
  rw [reaskRecord]
  split <;> simp [h]

/-- A cell that asks again for its refused tokens takes each as any other. -/
theorem reaskChannels_wf {t : State} {c : CellId} {chs : List Nat} (asked : reaskChannels c chs s = .ok t) :
    Memory.wf t.mem = true := by
  induction chs generalizing s with
  | nil =>
    cases asked
    exact h
  | cons ch chs ih =>
    rw [reaskChannels] at asked
    split at asked
    · exact ih h asked
    · rename_i taking
      exact ih (takeChannel_wf h taking) asked
    · rename_i taking
      exact ih (takeChannel_wf h taking) asked
    · cases asked

theorem reaskCell_wf {t : State} {c : CellId} (asked : reaskCell s c = .ok t) : Memory.wf t.mem = true := by
  rw [reaskCell] at asked
  split at asked
  · exact reaskChannels_wf (reaskRecord_wf h c) asked
  · cases asked
    exact h

theorem reaskAll_wf {t : State} {cs : List CellId} (asked : reaskAll cs s = .ok t) : Memory.wf t.mem = true := by
  induction cs generalizing s with
  | nil =>
    cases asked
    exact h
  | cons c cs ih =>
    rw [reaskAll] at asked
    split at asked
    · exact ih (reaskCell_wf h ‹_›) asked
    · cases asked

@[simp] theorem answerTableau_wf (status : BitVec 8) : Memory.wf (answerTableau s status).mem = true :=
  foldl_wf (fun _ _ h => answer_wf h ..) _ h

@[simp] theorem boundaryWork_canonical : Canonical (boundaryWork s) := by
  rw [boundaryWork]
  split
  · rename_i asked
    exact reaskAll_wf (sendStale_wf (flushAnswers_wf (answerCounters_wf h))) asked
  · simp

@[simp] theorem crossBoundary_wf : Memory.wf (crossBoundary s).mem = true := by
  rw [crossBoundary]
  split <;> simp [h]

@[simp] theorem execBeatBoundary_canonical : Canonical (execBeatBoundary s) := by
  unfold execBeatBoundary
  dsimp only
  repeat' split
  all_goals simp [h]

@[simp] theorem execTableauFreezeEnd_canonical : Canonical (execTableauFreezeEnd s) :=
  canonical_ite h (canonical_ite trivial (boundaryWork_canonical (autoDump_wf (answerTableau_wf (by exact h) _))))

end

end Sys2Proof.Machine
end

/-! # Every command keeps the canonical form of memory -/

section
namespace Sys2Proof.Machine

open Sys2Proof

/-- Whichever command runs, memory stays canonical. The commands named here are unfolded: they are one shared operation
with its arguments, or change no memory. -/
theorem exec_canonical {s : State} (h : Memory.wf s.mem = true) (i : Instr) : Canonical (exec i s) := by
  cases i
  all_goals dsimp only [exec]
  all_goals simp [h,
    execLd, execLdw, execLdh, execLdb, execIload, execSt, execStw, execSth, execStb, execIstore, execIclear,
    execBmov, execGather, execScatter, execTake, execPut, execLbrk, execJr, execBr, execLoop, execLoopi, execSend,
    execSendc, execSends, execSendp, execRetire, execFacq, execFieldOutputWord, execFieldReportWord,
    execFieldNotifyWord, execFieldSafeWord, execFieldQueryWord, execFieldNopWord, execLplusRise,
    execFieldStrapSamplingDone, execLplusFall, execSilenceTimeout, execFieldSelfCheckFail, execInputEdge,
    execWirebreakSet, execWirebreakClear, execOutputCurrentLatch, execOutputThermalLatch, execNop, execMov,
    execAdd, execSub, execAdc, execSbc, execAndOp, execOrOp, execXor, execNotOp, execNeg, execShl, execShr,
    execSar, execRor, execClz, execCtz, execPopc, execShli, execShri, execSari, execRori, execAddi, execAndi,
    execOri, execXori, execMovi32, execMovi, execMul, execMuls, execMulsu, execProductWrite, execDivu, execDivs,
    execCmpeq, execCmplt, execCmpltu, execMin, execMax, execMinu, execMaxu, execSel, execBfx, execBfi, execBfxs,
    execWrsr, execBeat, execFadd, execFsub, execFmul, execFdiv, execFmin, execFmax, execFcmpeq, execFcmplt,
    execFcmple, execFcmpun, execFcvtf, execFcvti, execFcvtiz, execFcvtu, execIcvtf, execUcvtf, execFneg, execFabs,
    execFma, execFms, execFnma, execTli, execTlif, execAspmL1Entry, execFlrComplete, execPerstNAssert,
    execShuttleTokensFrame, execShuttleRawFrame, execShuttleLinkFrame, execShuttleInitFrame, execShuttleAligned,
    execShuttleInitTimer, execRowTokensFrame, execRowAnswerFrame, execRowUndeliverableFrame, execRowSinkFrame,
    execRowLinkFrame, execRowHelloFrame, execRowRawFrame, execRowBadFrame, execRowForwardFrame,
    execRowLinkFrameDue, execRowHelloTimer, execNeighbourTrainingDetected, execRowPhyLinkUp, execExtest,
    execSamplePreload, execIdcode, execBypass, execTableauNAssert, execTableauFreeze, execVbatPowerOn,
    execFirstTickEnIo, execPgIoRise, execPgCoreRise, execPd0Tick, execClkokRise, execPhyRailWaitDone,
    execBankClearDone, execClockLost, execSupplyFault, execExhaustionGraceEnd, execWakeNAssert, execShWakeNAssert,
    execRowEnergyWake, execPerstNRelease, execFaceTokenWake, execResetNAssert, execResetNRelease,
    execTamperNRelease, execGlitchDetect, execAlarmDue, execDeadlineGuardVisit]

end Sys2Proof.Machine

namespace Sys2Proof.CanonSteps

open Sys2Proof Machine

/-- Settles O3: a step runs the command at the front of the queue, and every command keeps memory canonical. -/
theorem everyStepKeepsMemoryCanonical : Obligations.EveryStepKeepsMemoryCanonical := by
  unfold Obligations.EveryStepKeepsMemoryCanonical
  intro s t h stepped
  have kept : Canonical (step s) := by
    rw [step]
    split
    · exact h
    · exact exec_canonical (by exact h) _
  rw [stepped] at kept
  exact kept

end Sys2Proof.CanonSteps
end
